-- ==== Sys2Proof/Word.lean ====
section
/-! DEFINITION. The word types of the GD4 (00 R9 to R11): bytes, words, identities, and the sparse map every
numbered family of units is held in. -/

namespace Sys2Proof

abbrev Byte := BitVec 8
abbrev W16 := BitVec 16
abbrev W32 := BitVec 32
abbrev W64 := BitVec 64
/-- A queue entry's payload: 64 bytes, byte 0 in the low bits (02 R47). -/
abbrev W512 := BitVec 512

/-- Logical Room ID: DIE [9:8], WING [7:4], ROOM [3:0] (01 R22). -/
abbrev RoomId := BitVec 10
/-- Wing number g = 16 × DIE + WING (09 R298). -/
abbrev WingId := BitVec 6
abbrev DieId := BitVec 2
abbrev CtxId := BitVec 6
abbrev SlotId := BitVec 3
abbrev PortId := BitVec 2
/-- Absolute Bolt index, bits [14:13] its die (09 R301). -/
abbrev BoltId := BitVec 15
/-- Stream ID 64 × DW + context number (06 R194). -/
abbrev StreamId := Nat
/-- Node ID (01 R40). -/
abbrev NodeId := BitVec 16
/-- Device virtual address (01 R39). -/
abbrev Dva := BitVec 64

/-- A sparse map from numbers; what an unlisted key holds is the default its reader names. -/
abbrev Map (α : Type) := List (Nat × α)

/-- Sparse bytes in canonical form: keys rising, no entry zero (an unlisted key reads zero). -/
abbrev Memory := List (Nat × Byte)

/-- A vector register: 64 lanes of 32 bits, lane 0 first (04 R129). -/
abbrev VReg := List W32

end Sys2Proof
end

