-- ==== Sys2Proof/Syntax.lean ====
section
/-! DEFINITION. The commands of the GD4: one constructor per row of spec/opcode_table.json, with the operands each
row needs. What else a command uses (the instruction word, the entry, the packet) is state. -/

namespace Sys2Proof

/-- A requester of a register access (12 R389). -/
inductive Who where
  | pf | vf (v : Nat) | study | other
  deriving DecidableEq, Repr

/-- A Letterbox request: the Letterbox (0 management, n + 1 context n) and the 256-byte entry of 13 R419, byte 0 in
the low bits. -/
structure Req where
  lbx : Nat
  entry : BitVec 2048
  deriving DecidableEq, Repr

/-- An error: class, code, source and unit (15 R471, R472), with what its record carries (R478). -/
structure Err where
  cls : Nat
  code : Byte := 0
  src : Nat
  unit : Nat
  ctx : Option CtxId := none
  addr : W64 := 0
  count : W32 := 1
  stamp : W64 := 0
  detail : W64 := 0
  deriving DecidableEq, Repr

/-- Telemetry read by one loop pass: watts and °C, the Pantry, I/O and SRAM powers (13 R415, R435), and the package
energy of the period in mJ; and the VR buses on which a device does not answer: VR0 to VR3, VRN 4, VRS 5 (16 R516). -/
structure Telemetry where
  die : List Nat := []
  tj : List Nat := []
  pantry : Nat := 0
  io : Nat := 0
  sram : Nat := 0
  energy : W64 := 0
  silent : BitVec 6 := 0
  deriving DecidableEq, Repr

/-- A packet: the header fields of 10 R334 and its data. -/
structure Packet where
  dst : NodeId
  src : NodeId
  kind : BitVec 4
  vc : BitVec 2
  dl : Bool := false
  dt : Bool := false
  len : BitVec 4 := 0
  siod : Bool := false
  seq : W16 := 0
  job : W32 := 0
  rtag : BitVec 12 := 0
  code : Byte := 0
  hops : Byte := 0
  arg : W64 := 0
  dpath : BitVec 18 := 0
  dleft : BitVec 3 := 0
  rfseq : BitVec 10 := 0
  rpos : Byte := 0
  rport : BitVec 5 := 0
  replay : Bool := false
  /-- a reserved bit of the header is set (10 R335) -/
  resv : Bool := false
  /-- key of the slot choice, which a response takes from its request (10 R341) -/
  key : W64 := 0
  /-- port on which it came to this device, 31 where it is this device's own (10 R336) -/
  via : BitVec 5 := 31
  data : List Byte := []
  deriving DecidableEq, Repr

/-- A flit as the receiver's two codes give it (10 R327, R328): the symbol errors of the even and of the odd bytes of its codeword,
its 48-bit header, and the bytes of the packet stream that it carries, at most 250. The codes' generator is not stated
(assumption 82). -/
structure RxFlit where
  errors0 : Nat := 0
  errors1 : Nat := 0
  header : BitVec 48
  payload : List Byte := []
  deriving DecidableEq, Repr

/-- What training finds: lanes that lock (bit 8 the spare), the far end's node, port and direction, the round trip,
whether the cable is present (10 R326, R329, R331, 16 R512). -/
structure TrainResult where
  good : BitVec 9
  nbrNode : NodeId
  nbrPort : BitVec 5
  nbrDir : BitVec 3
  rttNs : W16
  cable : Bool
  deriving DecidableEq, Repr

/-- Tree fields of a TREE_SET message (10 R360). -/
structure TreeFields where
  root : Bool
  parent : NodeId
  children : List NodeId
  count : W32
  deriving DecidableEq, Repr

/-- A group entry (10 R355). -/
structure Group where
  job : W32
  group : Byte
  root : Bool
  isLocal : Bool
  parent : NodeId
  children : List NodeId
  deriving DecidableEq, Repr

/-- What a patrol access finds in a unit: nothing, one failing bit of its row, or more than can be corrected. -/
inductive Scrub where
  | clean | corrected (bit : Nat) | uncorrectable
  deriving DecidableEq, Repr

/-- Capacity of a DDR5 MRDIMM (05 R167). -/
inductive DimmGb where
  | gb64 | gb128 | gb256
  deriving DecidableEq, Repr

/-- The modules of a Cellar group (05 R167, R168): channels fitted, their capacity, whether they differ, are of an unsupported
type, all train, and all support 12,800 MT/s. -/
structure Dimms where
  fitted : BitVec 4 := 0
  gb : DimmGb := .gb64
  differ : Bool := false
  unsupported : Bool := false
  trains : Bool := true
  fast : Bool := true
  deriving DecidableEq, Repr

/-- What the boot ROM finds at step 2 of a start (14 R451): HBM stacks that train, the modules of the Cellar groups, Annex ports
trained and their HDM decoders (base, size, dynamic capacity; the first 8 count, 05 R170), Wings without a usable Room, and the
stacks and groups that fail to leave self-refresh at a warm start (14 R469). -/
structure Training where
  hbm : BitVec 8 := 0xFF
  group0 : Dimms := {}
  group1 : Dimms := {}
  group2 : Dimms := {}
  group3 : Dimms := {}
  annex : BitVec 2 := 0
  decoders0 : List (W64 × W64 × Bool) := []
  decoders1 : List (W64 × W64 × Bool) := []
  wingRet : W64 := 0
  lostStacks : BitVec 8 := 0
  lostGroups : BitVec 4 := 0
  hostUp : Bool := true
  /-- the host link trained on fewer modules or at 16 GT/s (11 R363) -/
  hostDegraded : Bool := false
  deriving DecidableEq, Repr

/-- What the Steward's firmware chooses for one device in a placement revision (07 R254 step 4): the model's Wings by node; the
TIER 1 pages reserved for new weights and lists (VPN and stack), the copies of new instances' weights (source, destination,
bytes), the block lists of the changed Wings (stream, address, bytes); and the pages that only the old copy uses (R254 step 8). -/
structure RevPlan where
  wings : List (NodeId × WingId) := []
  pages : List (Nat × Nat) := []
  copies : List (Dva × Dva × Nat) := []
  lists : List (Nat × Dva × List Byte) := []
  olds : List Nat := []
  deriving DecidableEq, Repr

/-- What a PLACE message says of one revision, which it names by its route and version (07 R254; 10 R360 leaves its payload to the
firmware: assumption 8). The Steward asks a worker to
prepare a copy, to arm at a step, to undo its arms, to make the copy valid, to go, or to give the revision up; a worker answers
that it has done so, with the largest STEP of its streams, that an arm was late, or that it has failed. -/
inductive PlaceMsg where
  | prepare (copy : Dva) (plan : RevPlan) (table : List Byte)
  | arm (step : W32)
  | disarm
  | valid
  | go
  | abandon
  | ready (step : W32)
  | late (step : W32)
  | failed
  deriving DecidableEq, Repr

/-- The commands. -/
inductive Instr where
  /-- QUEUE_ENTRY_ARRIVAL (R49). -/
  | queueEntryArrival (r : RoomId) (p : PortId) (src : RoomId) (out : Bool)
  /-- SPILL_MOVE_BACK (R50). -/
  | spillMoveBack (r : RoomId)
  /-- SPILLED_ENTRY_VISIBLE (R50). -/
  | spilledEntryVisible (r : RoomId) (p : PortId)
  /-- OUTPUT_SEND (R52). -/
  | outputSend (r : RoomId) (o : Bool)
  /-- CREDIT_RETURN (R52). -/
  | creditReturn (r : RoomId) (p : PortId) (prod : RoomId) (o : Bool)
  /-- FIRING_CONDITIONS_MET (R54). -/
  | firingConditionsMet (r : RoomId)
  /-- FIRING_ISSUE (R55). -/
  | firingIssue (r : RoomId)
  /-- ROUTE_FORWARD (R59). -/
  | routeForward (r : RoomId) (u : Bool)
  /-- GATE_DISCARD (R59). -/
  | gateDiscard (r : RoomId) (u : Bool)
  /-- STALL_REPORT (R66). -/
  | stallReport (r : RoomId)
  /-- STALL_CLASSIFY (R69). -/
  | stallClassify (c : CtxId)
  /-- HANG_LIMIT_REACHED (R70). -/
  | hangLimitReached (r : RoomId)
  /-- END_TRIGGER (R78). -/
  | endTrigger (r : RoomId)
  /-- SLOT_RETIRE (R78). -/
  | slotRetire (r : RoomId)
  /-- LOAD_WAIT_RESUME (R81). -/
  | loadWaitResume (r : RoomId)
  /-- SWITCH_COMPLETE (R80). -/
  | switchComplete (r : RoomId)
  /-- CFB_CTRL_HALT (R82). -/
  | cfbCtrlHalt (r : RoomId)
  /-- HALT_EFFECT (R82). -/
  | haltEffect (r : RoomId)
  /-- CFB_CTRL_RESUME (R76). -/
  | cfbCtrlResume (r : RoomId)
  /-- CFB_CTRL_START (R81). -/
  | cfbCtrlStart (r : RoomId) (target : SlotId)
  /-- CFB_CTRL_FORCE (R78). -/
  | cfbCtrlForce (r : RoomId)
  /-- CFB_PORTPROF_WRITE (R77). -/
  | cfbPortprofWrite (r : RoomId) (p : PortId) (v : W64)
  /-- SLOT_IMAGE_WRITE (R74). -/
  | slotImageWrite (r : RoomId) (slot : SlotId) (unit : BitVec 10) (data : W512)
  /-- LOAD_REQUEST (R83). -/
  | loadRequest (w : WingId) (loff : BitVec 24) (slot : SlotId) (mask : W16)
  /-- LOADER_TAKE_REQUEST (R83). -/
  | loaderTakeRequest (w : WingId)
  /-- LOAD_COMMIT (R85). -/
  | loadCommit (w : WingId)
  /-- MMA (R108). -/
  | mma (r : RoomId)
  /-- MMA_EXACT (R112). -/
  | mmaExact (r : RoomId)
  /-- MMA_SLICE (R118). -/
  | mmaSlice (r : RoomId)
  /-- ACC_DRAIN (R121). -/
  | accDrain (r : RoomId)
  /-- ACC_LOAD (R121). -/
  | accLoad (r : RoomId)
  /-- ACC_ZERO (R120). -/
  | accZero (r : RoomId)
  /-- TENSOR_BLOCK_START (R106). -/
  | tensorBlockStart (r : RoomId)
  /-- END_FIRE (R135). -/
  | endFire (r : RoomId)
  /-- NOP (R142). -/
  | vnop (r : RoomId)
  /-- LOOP (R142). -/
  | vloop (r : RoomId)
  /-- BR_Z (R142). -/
  | brZ (r : RoomId)
  /-- BR_NZ (R142). -/
  | brNz (r : RoomId)
  /-- FENCE (R151). -/
  | fence (r : RoomId)
  /-- FENCE_SATISFIED (R151). -/
  | fenceSatisfied (r : RoomId)
  /-- VSTAT (R152). -/
  | vstat (r : RoomId)
  /-- SMOV (R142). -/
  | smov (r : RoomId)
  /-- SADD (R142). -/
  | sadd (r : RoomId)
  /-- SSUB (R142). -/
  | ssub (r : RoomId)
  /-- SSHL (R143). -/
  | sshl (r : RoomId)
  /-- SAND (R142). -/
  | sand (r : RoomId)
  /-- SEXT (R142). -/
  | sext (r : RoomId)
  /-- SLD (R142). -/
  | sld (r : RoomId)
  /-- VLD (R140). -/
  | vld (r : RoomId)
  /-- VST (R140). -/
  | vst (r : RoomId)
  /-- VGATHER (R141). -/
  | vgather (r : RoomId)
  /-- VSCATTER (R141). -/
  | vscatter (r : RoomId)
  /-- VLDM (R142). -/
  | vldm (r : RoomId)
  /-- VSTM (R142). -/
  | vstm (r : RoomId)
  /-- MEM_RESPONSE_ARRIVAL (R188). -/
  | memResponseArrival (id : Nat)
  /-- VTOKEN (R135). -/
  | vtoken (r : RoomId)
  /-- VENDM (R135). -/
  | vendm (r : RoomId)
  /-- TROWG (R141). -/
  | trowg (r : RoomId)
  /-- TROWS (R141). -/
  | trows (r : RoomId)
  /-- VADD (R143). -/
  | vadd (r : RoomId)
  /-- VSUB (R143). -/
  | vsub (r : RoomId)
  /-- VMUL (R143). -/
  | vmul (r : RoomId)
  /-- VFMA (R143). -/
  | vfma (r : RoomId)
  /-- VMIN (R143). -/
  | vmin (r : RoomId)
  /-- VMAX (R143). -/
  | vmax (r : RoomId)
  /-- VABS (R142). -/
  | vabs (r : RoomId)
  /-- VNEG (R142). -/
  | vneg (r : RoomId)
  /-- VCMP (R143). -/
  | vcmp (r : RoomId)
  /-- VSEL (R142). -/
  | vsel (r : RoomId)
  /-- VDIV (R145). -/
  | vdiv (r : RoomId)
  /-- VSQRT (R145). -/
  | vsqrt (r : RoomId)
  /-- VSFU0 (R145). -/
  | vsfu0 (r : RoomId)
  /-- VSFU1 (R145). -/
  | vsfu1 (r : RoomId)
  /-- VCVT (R527). -/
  | vcvt (r : RoomId)
  /-- VBCAST (R142). -/
  | vbcast (r : RoomId)
  /-- DADD (R143). -/
  | dadd (r : RoomId)
  /-- DSUB (R143). -/
  | dsub (r : RoomId)
  /-- DMUL (R143). -/
  | dmul (r : RoomId)
  /-- DFMA (R143). -/
  | dfma (r : RoomId)
  /-- DMIN (R143). -/
  | dmin (r : RoomId)
  /-- DMAX (R143). -/
  | dmax (r : RoomId)
  /-- DCMP (R143). -/
  | dcmp (r : RoomId)
  /-- DDIV (R145). -/
  | ddiv (r : RoomId)
  /-- DSQRT (R145). -/
  | dsqrt (r : RoomId)
  /-- DEXP (R145). -/
  | dexp (r : RoomId)
  /-- DLN (R145). -/
  | dln (r : RoomId)
  /-- DCVT (R142). -/
  | dcvt (r : RoomId)
  /-- IADD (R143). -/
  | iadd (r : RoomId)
  /-- ISUB (R143). -/
  | isub (r : RoomId)
  /-- IMUL (R142). -/
  | imul (r : RoomId)
  /-- IADDS (R143). -/
  | iadds (r : RoomId)
  /-- IMIN (R142). -/
  | imin (r : RoomId)
  /-- IMAX (R142). -/
  | imax (r : RoomId)
  /-- AND (R142). -/
  | iand (r : RoomId)
  /-- OR (R142). -/
  | ior (r : RoomId)
  /-- XOR (R142). -/
  | ixor (r : RoomId)
  /-- SHL (R143). -/
  | shl (r : RoomId)
  /-- SHR (R143). -/
  | shr (r : RoomId)
  /-- ICMP (R143). -/
  | icmp (r : RoomId)
  /-- VADD128 (R150). -/
  | vadd128 (r : RoomId)
  /-- VIOTA (R142). -/
  | viota (r : RoomId)
  /-- PMOV (R142). -/
  | pmov (r : RoomId)
  /-- VRED (R144). -/
  | vred (r : RoomId)
  /-- VSCAN (R149). -/
  | vscan (r : RoomId)
  /-- VCOMPRESS (R147). -/
  | vcompress (r : RoomId)
  /-- VEXPAND (R147). -/
  | vexpand (r : RoomId)
  /-- VPERM (R141). -/
  | vperm (r : RoomId)
  /-- TILEOP (R146). -/
  | tileop (r : RoomId)
  /-- TILERED (R146). -/
  | tilered (r : RoomId)
  /-- VTOPK (R148). -/
  | vtopk (r : RoomId)
  /-- VHIST (R149). -/
  | vhist (r : RoomId)
  /-- VPERMIDX (R149). -/
  | vpermidx (r : RoomId)
  /-- VEXPMAX (R150). -/
  | vexpmax (r : RoomId)
  /-- VSLICE (R150). -/
  | vslice (r : RoomId)
  /-- VE_RUNAWAY (R153). -/
  | veRunaway (r : RoomId)
  /-- MEMORY_ACCESS (R33). -/
  | memoryAccess (id : Nat)
  /-- TRANSLATION_LOOKUP (R183). -/
  | translationLookup (id : Nat)
  /-- WALK_READ_RETURN (R184). -/
  | walkReadReturn (d : DieId) (k : Nat)
  /-- MIG_REWALK (R186). -/
  | migRewalk (d : DieId) (k : Nat)
  /-- MIG_TIMEOUT (R186). -/
  | migTimeout (id : Nat)
  /-- PATROL_SCRUB (R174). -/
  | patrolScrub (unit : Nat) (found : Scrub)
  /-- RETRAIN_COMPLETE (R165). -/
  | retrainComplete (stack : BitVec 3) (ch : BitVec 5)
  /-- REPAIR_HOLD_END (R176). -/
  | repairHoldEnd (tier : Nat) (unit : Nat) (row : Nat)
  /-- ANNEX_TIMEOUT (R172). -/
  | annexTimeout (id : Nat)
  /-- ANNEX_LINK_DOWN (R172). -/
  | annexLinkDown (p : Bool)
  /-- ANNEX_LINK_UP (R172). -/
  | annexLinkUp (p : Bool)
  /-- ANNEX_EXTENT_OFFER (R170). -/
  | annexExtentOffer (p : Bool) (base : W64) (len : W64)
  /-- ANNEX_EXTENT_RELEASE (R171). -/
  | annexExtentRelease (p : Bool) (base : W64) (len : W64)
  /-- ENTRY_FETCH (R200). -/
  | entryFetch (sid : StreamId)
  /-- DW_ARBITRATION (R211). -/
  | dwArbitration (dw : BitVec 4)
  /-- DW_READ_DATA (R193). -/
  | dwReadData (sid : StreamId) (k : Nat)
  /-- DW_WRITE_ACK (R199). -/
  | dwWriteAck (sid : StreamId) (k : Nat)
  /-- XFER (R201). -/
  | xferEntry (sid : StreamId)
  /-- CHAIN (R202). -/
  | chainEntry (sid : StreamId)
  /-- LAYER_END (R218). -/
  | layerEnd (sid : StreamId)
  /-- STEP_END (R229). -/
  | stepEnd (sid : StreamId)
  /-- LIST_LOOP (R199). -/
  | listLoop (sid : StreamId)
  /-- GUARD (R203). -/
  | guardEntry (sid : StreamId)
  /-- LIST_BOLT (R199). -/
  | listBolt (sid : StreamId)
  /-- LIST_WAIT (R199). -/
  | listWait (sid : StreamId)
  /-- LIST_NOP (R199). -/
  | listNop (sid : StreamId)
  /-- STOP (R199). -/
  | stopEntry (sid : StreamId)
  /-- CHAIN_HEAD_BLOCK_SEND (R214). -/
  | chainHeadBlockSend (w : WingId)
  /-- CHAIN_BLOCK_DELIVERED (R214). -/
  | chainBlockDelivered (r : RoomId)
  /-- CHAIN_BLOCK_FREE (R216). -/
  | chainBlockFree (r : RoomId)
  /-- FREED_BYTES_ARRIVAL (R216). -/
  | freedBytesArrival (w : WingId)
  /-- CHAIN_BLOCKED_REPORT (R217). -/
  | chainBlockedReport (w : WingId)
  /-- GATE_ARM_WRITE (R229). -/
  | gateArmWrite (sid : StreamId) (step : W32) (pend : Option (Dva × BitVec 24)) (hold : Option (BitVec 15))
  /-- GATE_GO (R229). -/
  | gateGo (sid : StreamId)
  /-- GATE_ABORT (R229). -/
  | gateAbort (sid : StreamId)
  /-- STREAM_CREATE (R197). -/
  | streamCreate (q : Req)
  /-- STREAM_START (R204). -/
  | streamStart (q : Req)
  /-- STREAM_CANCEL (R208). -/
  | streamCancel (q : Req)
  /-- STREAM_SNAPSHOT (R205). -/
  | streamSnapshot (q : Req)
  /-- STREAM_FREE (R444). -/
  | streamFree (q : Req)
  /-- MODEL_LOAD (R224). -/
  | modelLoad (q : Req)
  /-- MODEL_LOAD_COPIES_DONE (R224). -/
  | modelLoadCopiesDone (work : Nat)
  /-- MODEL_REPLACE_IN_PLACE (R230). -/
  | modelReplaceInPlace (q : Req)
  /-- REPLACE_HOLD_REACHED (R230). -/
  | replaceHoldReached (work : Nat)
  /-- REPLACE_GROUP_COPIED (R230). -/
  | replaceGroupCopied (work : Nat)
  /-- MODEL_REPLACE_SHADOW (R231). -/
  | modelReplaceShadow (q : Req)
  /-- SHADOW_GATE_PASSED (R231). -/
  | shadowGatePassed (work : Nat)
  /-- MODEL_UNLOAD (R227). -/
  | modelUnload (q : Req)
  /-- STEWARD_REVISION (R254). -/
  | stewardRevision (c : CtxId) (midx : Byte) (route : Dva) (plan : RevPlan)
  /-- PORCH_OPEN (R262). -/
  | porchOpen (q : Req)
  /-- PORCH_DRAIN (R263). -/
  | porchDrain (q : Req)
  /-- PORCH_CLOSE (R263). -/
  | porchClose (q : Req)
  /-- PORCH_SEQ_READ (R270). -/
  | porchSeqRead (q : Req)
  /-- PORCH_STATS (R445). -/
  | porchStats (q : Req)
  /-- PORCH_BUILD (R274). -/
  | porchBuild (svc : Nat)
  /-- PORCH_POLL (R265). -/
  | porchPoll (svc : Nat)
  /-- PREFIX_WALK (R285). -/
  | prefixWalk (svc : Nat) (k : Nat)
  /-- CHUNK_LIST_FILL_DONE (R286). -/
  | chunkListFillDone (seq : Nat)
  /-- PREFIX_COMPACTION (R289). -/
  | prefixCompaction (svc : Nat)
  /-- HANDOFF_COPY_DONE (R292): the copy stream `sid` of the sequence has ended. -/
  | handoffCopyDone (seq : Nat) (sid : StreamId)
  /-- HANDOFF_TIMEOUT (R293). -/
  | handoffTimeout (seq : Nat)
  /-- CTX_CREATE (R298). -/
  | ctxCreate (q : Req)
  /-- CTX_RELEASE (R300). -/
  | ctxRelease (q : Req)
  /-- CTX_STATUS (R438). -/
  | ctxStatus (q : Req)
  /-- CTX_POINTS (R315). -/
  | ctxPoints (q : Req) (hostOk : Bool)
  /-- CTX_PREEMPT (R319). -/
  | ctxPreempt (q : Req)
  /-- CTX_CHECKPOINT (R321). -/
  | ctxCheckpoint (q : Req)
  /-- CTX_RESTORE (R322). -/
  | ctxRestore (q : Req)
  /-- PREEMPT_POINT_REACHED (R317). -/
  | preemptPointReached (c : CtxId)
  /-- PREEMPT_TIMEOUT (R320). -/
  | preemptTimeout (c : CtxId)
  /-- PREEMPT_SAVE_DONE (R319). -/
  | preemptSaveDone (c : CtxId) (code : Byte)
  /-- RESTORE_COPY_DONE (R322). -/
  | restoreCopyDone (c : CtxId) (code : Byte)
  /-- BOLTOP_WAIT (R304). -/
  | boltopWait (d : DieId)
  /-- BOLTOP_ARRIVE (R302). -/
  | boltopArrive (d : DieId)
  /-- BOLTOP_ARRIVE_WAIT (R304). -/
  | boltopArriveWait (d : DieId)
  /-- BOLTOP_ADD (R302). -/
  | boltopAdd (d : DieId)
  /-- BOLTOP_ACQUIRE (R306). -/
  | boltopAcquire (d : DieId)
  /-- BOLTOP_SET (R302). -/
  | boltopSet (d : DieId)
  /-- BOLTOP_READ (R304). -/
  | boltopRead (d : DieId)
  /-- BOLTOP_READ_PHASE (R304). -/
  | boltopReadPhase (d : DieId)
  /-- BOLTOP_FAULT (R313). -/
  | boltopFault (d : DieId)
  /-- BOLT_RESPONSE_ARRIVAL (R305). -/
  | boltResponseArrival (k : Nat)
  /-- BOLT_TRIGGER_NOTICE (R309). -/
  | boltTriggerNotice (r : RoomId)
  /-- BOLT_WAIT_REPORT (R310). -/
  | boltWaitReport (b : BoltId) (k : Nat)
  /-- BOLT_CONFIG (R443). -/
  | boltConfig (q : Req)
  /-- BOLT_READ (R443). -/
  | boltRead (q : Req)
  /-- BOLT_ABORT (R311). -/
  | boltAbort (q : Req)
  /-- FLIT_RECEIVE (R329). -/
  | flitReceive (p : BitVec 5) (f : RxFlit)
  /-- PORT_TRAINING_DONE (R331). -/
  | portTrainingDone (p : BitVec 5) (t : TrainResult)
  /-- LANE_RETIRE (R331). -/
  | laneRetire (p : BitVec 5) (lane : BitVec 4)
  /-- PORT_DOWN (R332). -/
  | portDown (p : BitVec 5) (reason : Byte)
  /-- PORT_RETRAIN_RETRY (R332). -/
  | portRetrainRetry (p : BitVec 5)
  /-- SLOT_RETURN (R345). -/
  | slotReturn (dir : BitVec 3) (slot : BitVec 6)
  /-- RD_REQ (R189). -/
  | rdReq (p : BitVec 5)
  /-- WR_REQ (R189). -/
  | wrReq (p : BitVec 5)
  /-- RD_RSP (R337). -/
  | rdRsp (p : BitVec 5)
  /-- WR_ACK (R337). -/
  | wrAck (p : BitVec 5)
  /-- BOLT_REQ (R308). -/
  | boltReq (p : BitVec 5)
  /-- BOLT_RSP (R337). -/
  | boltRsp (p : BitVec 5)
  /-- TREE_ARRIVE (R302). -/
  | treeArrive (p : BitVec 5)
  /-- TREE_RELEASE (R302). -/
  | treeRelease (p : BitVec 5)
  /-- TREE_ABORT (R311). -/
  | treeAbort (p : BitVec 5)
  /-- TREE_REFUSED (R308). -/
  | treeRefused (p : BitVec 5)
  /-- GWR_REQ (R356). -/
  | gwrReq (p : BitVec 5)
  /-- GWR_ACK (R356). -/
  | gwrAck (p : BitVec 5)
  /-- TREE_SET (R360). -/
  | treeSet (job : W32) (index : BitVec 15) (t : TreeFields)
  /-- GROUP_SET (R355). -/
  | groupSet (e : Group) (clear : Bool)
  /-- DETOUR_SET (R361). -/
  | detourSet (job : W32) (entries : List (BitVec 24))
  /-- HEARTBEAT (R349). -/
  | heartbeatMsg (job : W32)
  /-- HB_ACK (R349). -/
  | hbAckMsg (job : W32) (node : NodeId)
  /-- SUSPECT (R496). -/
  | suspectMsg (job : W32) (node : NodeId) (sender : NodeId)
  /-- LOST (R349). -/
  | lostMsg (job : W32) (node : NodeId)
  /-- PLACE (R360). -/
  | placeMsg (job : W32) (midx : Byte) (sender : NodeId) (route : Dva) (version : W32) (m : PlaceMsg)
  /-- STATS (R360). -/
  | statsMsg (job : W32) (midx : Byte) (route : Dva) (loads : List W32) (dropped : W32) (invalid : W32)
  /-- PROBE (R347). -/
  | probePkt (p : BitVec 5)
  /-- REPLAY_END (R344). -/
  | replayEnd (p : BitVec 5)
  /-- REPLAY_END_ACK (R344). -/
  | replayEndAck (p : BitVec 5)
  /-- NEIGHBOUR_UNREACHABLE (R348). -/
  | neighbourUnreachable (dir : BitVec 3)
  /-- HEARTBEAT_TICK (R349). -/
  | heartbeatTick (job : W32)
  /-- PROBE_TIMEOUT (R349). -/
  | probeTimeout (job : W32) (node : NodeId)
  /-- MANAGER_LOST (R350). -/
  | managerLost (job : W32)
  /-- REMOTE_TIMEOUT (R351). -/
  | remoteTimeout (south : Bool) (rtag : BitVec 12)
  /-- FAB_CONFIG (R338). -/
  | fabConfig (q : Req)
  /-- FAB_ROLE (R359). -/
  | fabRole (q : Req)
  /-- PORT_STATUS (R333). -/
  | portStatus (q : Req)
  /-- PORT_CTL_DISABLE (R446). -/
  | portCtlDisable (q : Req)
  /-- PORT_CTL_ENABLE (R446). -/
  | portCtlEnable (q : Req)
  /-- HOST_WINDOW_READ (R371). -/
  | hostWindowRead (unit : BitVec 36)
  /-- HOST_WINDOW_WRITE (R371). -/
  | hostWindowWrite (unit : BitVec 36) (data : W512) (bad : Bool)
  /-- HWIN_CREATE (R370). -/
  | hwinCreate (q : Req)
  /-- HWIN_REMOVE (R372). -/
  | hwinRemove (q : Req)
  /-- VF_FUNCTION_LEVEL_RESET (R366). -/
  | vfFunctionLevelReset (c : CtxId)
  /-- PF_FUNCTION_LEVEL_RESET (R366). -/
  | pfFunctionLevelReset (t : Training)
  /-- HOT_RESET (R366). -/
  | hotReset (t : Training)
  /-- HOST_LINK_LOSS (R366). -/
  | hostLinkLoss (t : Training)
  /-- NUMVFS_WRITE (R365). -/
  | numvfsWrite (n : W16)
  /-- MSIX_VECTOR_UNMASK (R368). -/
  | msixVectorUnmask (fn : BitVec 7) (vec : BitVec 3)
  /-- INFLOW_FLIT (R377). -/
  | inflowFlit (p : Bool) (f : RxFlit)
  /-- INFLOW_RECORD_WRITE (R383). -/
  | inflowRecordWrite (p : Bool)
  /-- INFLOW_CONS_READ (R383). -/
  | inflowConsRead (p : Bool)
  /-- INFLOW_ATTACH (R379). -/
  | inflowAttach (q : Req)
  /-- INFLOW_DETACH (R385). -/
  | inflowDetach (q : Req)
  /-- INFLOW_DETACH_EFFECT (R385). -/
  | inflowDetachEffect (p : Bool)
  /-- KEY_SETUP_WRITE (R393). -/
  | keySetupWrite (who : Who) (v : W32)
  /-- KEY_UNLOCK_WRITE (R394). -/
  | keyUnlockWrite (who : Who) (v : W32)
  /-- DEV_RESET_WARM (R403). -/
  | devResetWarm (who : Who) (v : W32) (t : Training)
  /-- DEV_RESET_CLR_FAILS (R462). -/
  | devResetClrFails (who : Who) (v : W32)
  /-- DEV_FW_GO (R460). -/
  | devFwGo (who : Who) (v : W32)
  /-- EVR_UNFREEZE (R480). -/
  | evrUnfreeze (who : Who) (v : W32)
  /-- LBX_CTRL_RESET (R409). -/
  | lbxCtrlReset (who : Who) (v : W32)
  /-- LBX_DOORBELL (R421). -/
  | lbxDoorbell (who : Who) (v : W32)
  /-- LBX_RSP_CONS_WRITE (R421). -/
  | lbxRspConsWrite (who : Who) (v : W32)
  /-- BLT_HOSTOP_ADD (R410). -/
  | bltHostopAdd (c : CtxId) (v : W64)
  /-- BLT_HOSTOP_ARRIVE (R410). -/
  | bltHostopArrive (c : CtxId) (v : W64)
  /-- REG_LOW_WORD_READ (R389). -/
  | regLowWordRead (who : Who) (off : BitVec 24) (size : Nat)
  /-- REG_LOW_WORD_WRITE (R390). -/
  | regLowWordWrite (who : Who) (off : BitVec 24) (v : W32)
  /-- REGISTER_WRITE (R391). -/
  | registerWrite (who : Who) (off : BitVec 24) (size : Nat) (v : W64) (t : Training)
  /-- TV_PATROL (R396). -/
  | tvPatrol
  /-- VIOLATION_QUEUE_DRAIN (R397). -/
  | violationQueueDrain
  /-- LETTERBOX_ENABLE_CHECK (R409). -/
  | letterboxEnableCheck (l : Nat)
  /-- LETTERBOX_REQUEST_TAKE (R422). -/
  | letterboxRequestTake (l : Nat) (hostOk : Bool)
  /-- RESPONSE_RING_WRITE (R424). -/
  | responseRingWrite (l : Nat) (hostOk : Bool)
  /-- VECTOR_HOLDOFF_END (R425). -/
  | vectorHoldoffEnd (l : Nat) (evt : Bool)
  /-- HELLO (R429). -/
  | hello (q : Req)
  /-- PARAM_GET (R433). -/
  | paramGet (q : Req)
  /-- PARAM_SET (R433). -/
  | paramSet (q : Req)
  /-- DIAG_READ (R434). -/
  | diagRead (q : Req)
  /-- POWER_SET (R435). -/
  | powerSet (q : Req)
  /-- POWER_READ (R435). -/
  | powerRead (q : Req)
  /-- REPAIR_LIST_GET (R437). -/
  | repairListGet (q : Req) (hostOk : Bool)
  /-- REPAIR_LIST_PUT (R454). -/
  | repairListPut (q : Req) (hostOk : Bool)
  /-- ATTEST (R467). -/
  | attest (q : Req) (hostOk : Bool)
  /-- START_REPORT (R436). -/
  | startReport (q : Req)
  /-- PAGE_MAP (R439). -/
  | pageMap (q : Req)
  /-- PAGE_UNMAP (R440). -/
  | pageUnmap (q : Req)
  /-- PAGE_PROT (R440). -/
  | pageProt (q : Req)
  /-- PAGE_MOVE (R187). -/
  | pageMove (q : Req)
  /-- TLB_INVAL (R185). -/
  | tlbInval (q : Req)
  /-- SLOT_LOAD (R442). -/
  | slotLoad (q : Req)
  /-- CFB_ACCESS_READ (R442). -/
  | cfbAccessRead (q : Req)
  /-- CFB_ACCESS_WRITE (R442). -/
  | cfbAccessWrite (q : Req)
  /-- DEBUG_READ (R442). -/
  | debugRead (q : Req)
  /-- WATCHDOG_EXPIRY (R413). -/
  | watchdogExpiry (core : BitVec 2)
  /-- POWER_LOOP_PASS (R415). -/
  | powerLoopPass (t : Telemetry)
  /-- HOST_RST_ASSERT (R449). -/
  | hostRstAssert
  /-- HOST_RST_RELEASE (R451). -/
  | hostRstRelease (t : Training)
  /-- FW_VERIFY_DONE (R457). -/
  | fwVerifyDone (failed : Option W64)
  /-- VERIFY_TIMEOUT (R452). -/
  | verifyTimeout
  /-- FW_SERVING (R452). -/
  | fwServing
  /-- FW_INIT_TIMEOUT (R452). -/
  | fwInitTimeout (detail : W64)
  /-- ENABLE_TIMEOUT (R452). -/
  | enableTimeout
  /-- HELLO_TIMEOUT (R429). -/
  | helloTimeout
  /-- START_SUCCESS (R460). -/
  | startSuccess
  /-- START_RECORD_TIMEOUT (R459). -/
  | startRecordTimeout
  /-- BMC_RECORD_WRITE_TIMEOUT (R460). -/
  | bmcRecordWriteTimeout
  /-- ERROR_ARRIVAL (R474). -/
  | errorArrival (e : Err)
  /-- ERROR_EPISODE (R475). -/
  | errorEpisode (took : W64)
  /-- OVERFLOW_SWEEP (R474). -/
  | overflowSweep
  /-- FATAL_LATCH (R477). -/
  | fatalLatch (hostOk : Bool)
  /-- BMC_PUSH_INTERRUPT (R484). -/
  | bmcPushInterrupt
  /-- BMC_ACK_PUSHED (R484). -/
  | bmcAckPushed
  /-- BMC_ACK_SUPPLIED (R484). -/
  | bmcAckSupplied
  /-- BMC_ACK_STORED (R484). -/
  | bmcAckStored
  /-- BMC_COOLANT_WRITE (R485). -/
  | bmcCoolantWrite (v : W32)
  /-- COOLANT_ABSENT (R485). -/
  | coolantAbsent
  /-- I3C_PRIVATE_WRITE (R483). -/
  | i3cPrivateWrite (off : BitVec 24) (data : List Byte)
  /-- ENTDAA (R482). -/
  | entdaa (addr : BitVec 7)
  /-- SETDASA (R482). -/
  | setdasa (static : BitVec 7) (addr : BitVec 7)
  /-- RSTDAA (R482). -/
  | rstdaa
  /-- ENEC (R482). -/
  | enec (events : Byte)
  /-- DISEC (R482). -/
  | disec (events : Byte)
  /-- GETSTATUS (R482). -/
  | getstatus
  /-- GETPID (R482). -/
  | getpid
  /-- GETBCR (R482). -/
  | getbcr
  /-- GETDCR (R482). -/
  | getdcr
  /-- GETMXDS (R482). -/
  | getmxds
  /-- PWR_BRAKE_ASSERT (R489). -/
  | pwrBrakeAssert
  /-- PWR_BRAKE_RELEASE (R491). -/
  | pwrBrakeRelease
  /-- TRAY_LATCH_ASSERT (R495). -/
  | trayLatchAssert
  /-- SIDEBAND_CHATTER (R486). -/
  | sidebandChatter (pin : BitVec 2)
  /-- CHATTER_END (R486). -/
  | chatterEnd (pin : BitVec 2)
  /-- SIDEBAND_HELD_REPORT (R488). -/
  | sidebandHeldReport (pin : BitVec 2)
  /-- THERM_TRIP (R492). -/
  | thermTrip (d : DieId)
  /-- PWR_OK_ASSERT (R517). -/
  | pwrOkAssert (t : Training)
  /-- PWR_OK_DEASSERT (R519). -/
  | pwrOkDeassert
  /-- REFCLK_LOSS (R521). -/
  | refclkLoss (ref : BitVec 5)
  /-- BOLTOP (R304). -/
  | boltop (r : RoomId)
  /-- TRIGGER_REGISTRATION_SERVED (R309). -/
  | triggerRegistrationServed (r : RoomId)
  /-- REFERENCE_CLOCK_RECOVERED (R521). -/
  | referenceClockRecovered (ref : BitVec 5) (t : Training)
  /-- TRAY_LATCH_RELEASE (R487). -/
  | trayLatchRelease
  deriving DecidableEq, Repr

end Sys2Proof
end

