-- ==== Sys2Proof/Config.lean ====
section
/-! DEFINITION. What one part or one implementation fixes, and the free values: constants with no body. -/

namespace Sys2Proof.Config

/-- Fresh free values: an unstated value number n is `freeWord n` (assumption 3). -/
opaque freeWord : Nat → W64

/-- BULK_SLACK of the Study's own COPY streams (06 R194, R196). -/
opaque studySlack : W16

/-- Which of 16 issue slots a capped Dumbwaiter gives up first (13 R417 gives the fraction only; assumption 84). -/
opaque capPhase : Nat

/-- Which of the results within the error bound a special function of 04 R145 gives where no result is stated (assumption
4). Selector, operand. -/
opaque sfu : Nat → W32 → W32
/-- DEXP (0) and DLN (1) of 04 R145 (assumption 4). -/
opaque sfuD : Nat → W64 → W64

/-- Fused identity of the part (12 R402, 14 R456; assumption 5). -/
opaque partStep : Fin 255
opaque partHostNo : Fin 3
opaque partG17 : Bool
/-- STEPPING from 0x01; HOST 0 H0, 1 H1, 2 H2 (00 R1); GRADE 19 for G19, 17 for G17 (00 R3). -/
def partStepping : Byte := BitVec.ofNat 8 (partStep.val + 1)
def partHost : BitVec 2 := BitVec.ofNat 2 partHostNo.val
def partGrade : Byte := if partG17 then 17 else 19
opaque partSerial : W64
opaque partSvn : Nat
/-- KEYH0 to KEYH3 and their revoke bits (14 R456). -/
opaque partKeyHash : Nat → BitVec 384
opaque partRevoked : Nat → Bool
/-- Sustained limit of the grade in W (00 R7; assumption 5). -/
def gradeLimit : Nat := if partG17 then 2400 else 3000

/-- DevID public key, AK public key of a measurement and key hash, DevID and AK signatures (14 R466, R467;
assumption 6): bytes by index. -/
opaque devIdPub : Nat → Byte
opaque akPub : BitVec 384 → BitVec 384 → Nat → Byte
opaque devIdSign : List Byte → Nat → Byte
opaque akSign : BitVec 384 → BitVec 384 → List Byte → Nat → Byte

/-- The bank of a DRAM row and the spare rows its part reports for a bank at training (05 R176, R529: neither is the GD4's
to say): tier, unit, row or bank. -/
opaque bankOf : Nat → Nat → Nat → Nat
opaque bankSpares : Nat → Nat → Nat → Nat

/-- UNIT of a record whose class names a source kind and no unit of it: START, QUEUE_OVF, EVR_RESUMED, THROTTLE, and REPAIR
for the discarded entries of a list (15 R471, R472; assumption 54). -/
opaque unitOf : Nat → Nat

/-- CLASS of the record of a VR bus whose telemetry does not answer (16 R516; 15 R472 names no class for it; assumption 85). -/
opaque busClass : Byte

/-- DETAIL of a record where the firmware writes it (15 R478; assumption 58): class, what the model notes of the cause, SEQ. -/
opaque recordDetail : Nat → W64 → W64 → BitVec 128

/-- Serial numbers of the fitted Cellar modules, by channel (15 R499; assumption 5). -/
opaque moduleSerial : Nat → W64

/-- What the I3C target answers to GETPID (0), GETBCR (1), GETDCR (2) and GETMXDS (3): bytes by index (assumption 57). -/
opaque i3cBytes : Nat → Nat → Byte

/-- CRC-16 of a flit, over header bits [31:0] and the payload: 10 R328 states no polynomial (assumption 82). -/
opaque flitCrc : BitVec 32 → List Byte → BitVec 16

/-- KEY of a response as a device on its way takes it: 10 R341 gives it its request's, and no byte of it holds that (assumption 83). -/
opaque responseKey : List Byte → W64

/-- Route records of a model, by MODEL_ID and VERSION: the spec has the Steward read them and does not say where the Study
learns their addresses (07 R235; assumption 49). -/
opaque routeRecords : W64 → W32 → List W64

end Sys2Proof.Config
end

