-- ==== Sys2Proof/Machine/State.lean ====
section
/-! DEFINITION. The state of the GD4 as plain data: every register, queue, table, counter, mode and pin the spec
gives the block, and the queue of waiting commands. -/

namespace Sys2Proof.Machine

/-! ## Rooms (02, 03, 04) -/

/-- RUNST of CFB_STATE (02 R76). -/
inductive RunSt where
  | idle | run | switch | halt | fault
  deriving DecidableEq, Repr

/-- State of a configuration slot (02 R71). -/
inductive SlotSt where
  | empty | loading | ready | active
  deriving DecidableEq, Repr

/-- A queue entry: its 2-bit kind, its payload, and the output port that sent it (02 R47, R68 PEER). -/
structure Entry where
  kind : BitVec 2
  payload : W512
  src : RoomId
  /-- output port it left by -/
  out : Bool
  deriving DecidableEq, Repr

/-- An entry on chip and not yet visible: moved back from the Shelf (`refill`, `bad` when its unit was poisoned), or
arrived behind such an entry (02 R49, R50). -/
structure Moving where
  entry : Entry
  refill : Bool
  bad : Bool := false
  deriving DecidableEq, Repr

/-- An input port. The payloads of spilled entries lie in the Shelf; the queue block keeps their kinds (02 R47, R48). -/
structure InPort where
  onchip : List Entry := []
  moving : List Moving := []
  spilled : List (BitVec 2 × RoomId × Bool) := []
  /-- entries sent to the port and not yet arrived, oldest first -/
  transit : List Entry := []
  /-- entries freed whose credit is on its way back, by output port (Room × 2 + port) -/
  freed : Map Nat := []
  profile : W16 := 0
  wrPos : Nat := 0
  rdPos : Nat := 0
  hwm : BitVec 11 := 0
  fullSince : Bool := false
  deriving DecidableEq, Repr

/-- An output port: the entries still to leave, oldest first, each with whether it is of an ended firing's parcel
(02 R55) or of a ROUTE forward (R59). The credit counts of R52 are what the destination ports hold. -/
structure OutPort where
  leaving : List (Entry × Bool) := []
  deriving DecidableEq, Repr

/-- A firing in flight (02 R54, R55, 04 R132). -/
structure Firing where
  slot : SlotId
  /-- staging set 0 or 1 -/
  set : Nat
  /-- number of firings issued in the slot before this one (04 R133) -/
  index : W32
  /-- END_FIRE has executed -/
  ended : Bool := false
  /-- tensor instructions issued by it and not completed (03 R101) -/
  tensor : Nat := 0
  /-- entries still to leave of OUT0 and OUT1 -/
  left0 : Nat := 0
  left1 : Nat := 0
  /-- kinds written by VTOKEN and VENDM: output-staging entry index (0 to 31) to kind (04 R135) -/
  outKinds : Map (BitVec 2) := []
  deriving DecidableEq, Repr

/-- A steering unit's state that outlives a token (02 R58, R61): which parcel of a MERGE_TOKEN token comes next,
and whether it has acted on a shared token. -/
structure Steer where
  second : Bool := false
  acted : Bool := false
  deriving DecidableEq, Repr

/-- A switch or START in progress (02 R80, R81). -/
structure SwitchSt where
  target : SlotId
  /-- waiting for a LOADING target -/
  loadWait : Bool := false
  deriving DecidableEq, Repr

/-- What the sequencer waits for (04 R138, R151; 09 R305). -/
inductive SeqWait where
  | none
  | fence (sub : BitVec 3)
  /-- a blocking Bolt operation; the G register its result goes to, if RET = 1 -/
  | bolt (ret : Option (BitVec 4))
  deriving DecidableEq, Repr

/-- Class of an accumulator bank (03 R121). -/
inductive BankClass where
  | none | float | integer | long
  deriving DecidableEq, Repr

/-- A tensor instruction in the engine's queue, with the staging set of its firing (03 R101). -/
structure TItem where
  word : BitVec 128
  set : Nat
  deriving DecidableEq, Repr

/-- A weight block: the stream that delivers it, its Room mask, its length, its bytes and poisoned 64-byte units
(06 R214, R215). -/
structure ChainBlock where
  stream : StreamId
  mask : W16
  len : Nat
  data : Memory
  poison : List Nat := []
  /-- Rooms of the mask in whose buffer it lies or has lain whole, and those that have freed it -/
  arrived : W16 := 0
  freed : W16 := 0
  deriving DecidableEq, Repr

/-- A block in a chain head's ingress buffer: number of its CHAIN entry, bytes asked for, bytes still missing (06 R214). -/
structure Ingress where
  block : ChainBlock
  exec : Nat
  asked : Nat
  missing : Nat
  deriving DecidableEq, Repr

/-- The tensor engine (03 R98, R113, R121). Bank contents, element flags and the σ and τ of a slice tile are
bytes of `State.mem`. -/
structure Tensor where
  queue : List TItem := []
  /-- the MMA with BSRC = 1 that holds the queue head: B blocks already used -/
  blockNo : Nat := 0
  /-- a block start waits for its B block; the block was not there when the wait began (06 R205 UNDERRUN_CNT) -/
  waiting : Bool := false
  late : Bool := false
  cls0 : BankClass := .none
  cls1 : BankClass := .none
  cls2 : BankClass := .none
  cls3 : BankClass := .none
  anchor : Int := 0
  /-- the long tile holds slice products (03 R118) -/
  slice : Bool := false
  products : Nat := 0
  inexact : Bool := false
  klimit : Bool := false
  sat0 : Nat := 0
  sat1 : Nat := 0
  sat2 : Nat := 0
  sat3 : Nat := 0
  deriving DecidableEq, Repr

/-- The vector counters (04 R152). -/
structure VCounters where
  invalid : W32 := 0
  inf : W32 := 0
  sat : W32 := 0
  ignored : W32 := 0
  range : W32 := 0
  deriving DecidableEq, Repr

/-- The vector engine (04 R129): registers, predicates, scalars, counters and the sequencer. -/
structure VecEng where
  v : Map VReg := []
  p : Map W64 := []
  g : Map W32 := []
  cnt : VCounters := {}
  /-- next word index of the running program -/
  pc : Nat := 0
  /-- words issued in this firing (04 R153) -/
  issued : Nat := 0
  wait : SeqWait := .none
  deriving DecidableEq, Repr

/-- The slot trigger registration of TRIGGER BOLT (09 R309). -/
inductive TrigReg where
  | none | sent
  | recorded (phase : W32)
  deriving DecidableEq, Repr

/-- One Room: queue block, configuration block, tensor engine, vector engine (02, 03, 04). -/
structure Room where
  in0 : InPort := {}
  in1 : InPort := {}
  in2 : InPort := {}
  in3 : InPort := {}
  /-- the port each spill rotation served last: moves in, moves back (02 R50) -/
  rotIn : Option PortId := none
  rotOut : Option PortId := none
  out0 : OutPort := {}
  out1 : OutPort := {}
  slots : Map SlotSt := []
  /-- Larder offset of the image last committed into a slot (09 R322 step 4) -/
  loffs : Map Nat := []
  active : SlotId := 0
  runst : RunSt := .idle
  /-- CFB_CTRL.HALT -/
  haltReq : Bool := false
  target : SlotId := 0
  /-- the conditions of R54 held, the issue is pending (02 R55) -/
  firePending : Bool := false
  firings : List Firing := []
  /-- firings issued in the active slot (02 R78, 04 R133) -/
  slotFires : W32 := 0
  /-- a switch trigger has been met (02 R78) -/
  trigMet : Bool := false
  switching : Option SwitchSt := none
  /-- steering state, of the active slot and saved with the other slots: slot × 2 + unit -/
  steer : Map Steer := []
  fires : BitVec 48 := 0
  forwards : W16 := 0
  switches : W32 := 0
  discards : W32 := 0
  /-- CFB_FAULT [6:0] (02 R76) -/
  fault : BitVec 7 := 0
  /-- cause of FAULT as the CODE and class of R528, R472 -/
  cause : Option (Nat × Nat) := none
  /-- CFB_STALL.COUNT as of the last stall window (02 R76; assumption 59) -/
  stallCount : Nat := 0
  /-- consecutive blocked windows reported (02 R68, R70) -/
  windows : W32 := 0
  te : Tensor := {}
  ve : VecEng := {}
  /-- chain buffer, oldest block first (06 R215) -/
  chain : List ChainBlock := []
  /-- blocks at the head of the buffer whose last use has ended -/
  chainUsed : Nat := 0
  trig : TrigReg := .none
  /-- a ROOM_HW error marked the Room failed (15 R494) -/
  hwFailed : Bool := false
  deriving DecidableEq, Repr

/-- A load request of a configuration loader (02 R83). -/
structure LoadReq where
  loff : BitVec 24
  slot : SlotId
  mask : W16
  /-- Letterbox and TAG that SLOT_LOAD answers, none for the Study's own loads -/
  lbx : Option (Nat × W64) := none
  /-- load or replacement the request belongs to, 0 none -/
  work : Nat := 0
  ctx : CtxId := 0
  deriving DecidableEq, Repr

/-- One Wing: its loader, its chain head, its spare position and its stall watch. -/
structure Wing where
  loadQ : List LoadReq := []
  loading : Option LoadReq := none
  /-- physical grid position replaced by the spare, if the spare is in use (01 R23) -/
  spare : Option (BitVec 4) := none
  retired : Bool := false
  /-- owning context (09 R296) -/
  ctx : Option CtxId := none
  /-- context that last held the Wing (09 R322 step 4) -/
  lastCtx : Option CtxId := none
  /-- chain-head ingress: blocks whole or being reassembled, in block-list order (06 R214) -/
  ingress : List Ingress := []
  /-- blocks sent by the head and not yet delivered everywhere or not yet freed -/
  sent : List ChainBlock := []
  deriving DecidableEq, Repr

/-! ## Accesses and translation (05) -/

/-- Who asked for an access, and what completes with it. -/
inductive Requester where
  | vldm (r : RoomId) (vd : BitVec 5)
  | vstm (r : RoomId)
  | dw (sid : StreamId)
  | hostWin (win : Nat)
  /-- a request from another device that waits on MIG = 1: port and packet -/
  | remote (port : Nat) (pk : Packet)
  /-- this device's copy of a pending group write -/
  | group (id : Nat)
  /-- a handoff message of the Porch (08 R290) -/
  | porch (msg : Nat)
  deriving DecidableEq, Repr

inductive AccState where
  | issued
  /-- translated to a leaf entry, or (`sub`) a subpage entry; TIER 0 accesses are in this state from the start -/
  | translated (entry : W64) (sub : Bool)
  /-- waits on MIG = 1 (05 R186) -/
  | mig
  /-- left for another device under this RTAG (10 R337) -/
  | remoteOut (rtag : Nat)
  /-- performed: fault code of R188 (0 none), data and poison mask -/
  | done (code : Byte) (data : List Byte) (poison : List Nat)
  deriving DecidableEq, Repr

/-- An access in flight (01 R33, 05 R188). -/
structure Access where
  id : Nat
  who : Requester
  ctx : CtxId
  job : W32 := 0
  write : Bool
  dva : Dva
  len : Nat
  data : List Byte := []
  /-- 64-byte units of the data written with poison -/
  bad : List Nat := []
  st : AccState := .issued
  deriving DecidableEq, Repr

/-- A translation held by a TPM slice or a translation buffer (05 R182, R183). `sub` = 32 names a whole page. -/
structure TpmEntry where
  ctx : CtxId
  ns : BitVec 2
  vpn : BitVec 24
  sub : Nat
  entry : W64
  deriving DecidableEq, Repr

/-- A walk in a slice: the level about to be read is 0 directory, 1 leaf, 2 subpage (05 R184). -/
structure Walk where
  ctx : CtxId
  ns : BitVec 2
  vpn : BitVec 24
  sub : Nat
  level : Nat
  /-- leaf table and subpage table as read so far: TABLE and SUBTAB of R178, R179 -/
  table : Nat := 0
  subtab : Nat := 0
  waiters : List Nat
  /-- waits on MIG = 1 -/
  mig : Bool := false
  deriving DecidableEq, Repr

/-- A TPM cache slice (05 R182): its entries and directory entries, most recently used first, its walks, and the accesses
whose misses wait for one (R184). -/
structure TpmSlice where
  entries : List TpmEntry := []
  dir : Map W64 := []
  walks : List Walk := []
  waitq : List Nat := []
  deriving DecidableEq, Repr

/-! ## Streams (06) -/

inductive StreamSt where
  | created | run | wait | done | fault | cancelled
  deriving DecidableEq, Repr

/-- Why a stream is in WAIT (06 R204). -/
inductive StreamWait where
  | none | boltEntry | guard | layerBolt | gate | hold
  deriving DecidableEq, Repr

/-- A granted read request of a stream (06 R201, R209): the number and word of its entry, offset within it, length, and
its accesses. `mask` marks a GUARD's read of its mask (R203), which is no grant. -/
structure Grant where
  exec : Nat
  word : BitVec 256
  off : Nat
  len : Nat
  read : Nat
  /-- writes of the data; with `sent`, the acknowledgements are awaited -/
  writes : List Nat := []
  sent : Bool := false
  mask : Bool := false
  deriving DecidableEq, Repr

/-- A stream context: descriptor of R196, status of R205, and what the Dumbwaiter keeps. -/
structure Stream where
  chainKind : Bool
  tclass : Bool
  gateArm : Bool := false
  gateGo : Bool := false
  gateAbort : Bool := false
  pendValid : Bool := false
  holdEn : Bool := false
  wing : WingId := 0
  rate : W16 := 0
  bulkSlack : W16 := 0
  listBase : Dva
  listLen : BitVec 24
  start : BitVec 24
  pendBase : Dva := 0
  pendLen : BitVec 24 := 0
  gateStep : W32 := 0
  layerBolt : BoltId := 0
  holdBolt : BoltId := 0
  step : W32 := 0
  statusAddr : Dva := 0
  ctx : CtxId
  st : StreamSt := .created
  fault : Byte := 0
  /-- index of the next entry to execute -/
  entry : BitVec 24 := 0
  bytes : W64 := 0
  poisonCnt : W32 := 0
  underrun : W32 := 0
  skipped : W32 := 0
  faultDva : Dva := 0
  late : W32 := 0
  layer : W32 := 0
  blocked : W32 := 0
  /-- fetch in flight (R200) -/
  fetching : Option Nat := none
  /-- entries fetched, from the one it stands at or executes on, as (index, 32 bytes), oldest first (06 R200) -/
  fetched : List (Nat × BitVec 256) := []
  /-- the current entry is an XFER or CHAIN that has begun; its number, and its bytes already requested -/
  begun : Bool := false
  exec : Nat := 0
  pos : Nat := 0
  /-- eligible in the last hc of its Dumbwaiter (R210) -/
  elig : Bool := false
  grants : List Grant := []
  occ : Nat := 0
  /-- T_e of R210 -/
  te : W32 := 0
  waiting : StreamWait := .none
  /-- entries still covered by the last GUARD, and its mask (06 R203) -/
  guardLeft : Nat := 0
  guardMask : W64 := 0
  /-- held mask of 07 R246: SRC, MASKALT, BOLT of the GUARD that read it -/
  held : Option (Dva × Bool × BoltId × W64) := none
  cancelReq : Bool := false
  /-- fault that will be entered when reads in flight complete -/
  pendFault : Byte := 0
  /-- number of the POISON_STOP entry that has moved poison: the stream faults once its writes complete (R207) -/
  poisonAt : Option Nat := none
  /-- held at an entry boundary by the Study (09 R319 step 2) -/
  boundaryHold : Bool := false
  /-- created by STREAM_CREATE, and raises the STREAM event (13 R447) -/
  hostMade : Bool := false
  /-- the Study's own, for a move or a model load (06 R194): its list is the Study's, and it writes no status record -/
  study : Bool := false
  /-- model that owns it -/
  model : Option Nat := none
  deriving DecidableEq, Repr

/-- A Dumbwaiter: its counter T and its grant cap k of R417 apply to the whole unit (06 R210). -/
structure Dumbwaiter where
  t : W32 := 0
  deriving DecidableEq, Repr

/-- A loaded model of a context (06 R224, 13 R433). -/
structure Model where
  manifest : Dva
  wmask : W64
  boltBase : BitVec 15
  boltCnt : Nat
  pantryVa : Dva
  pantryBytes : Nat
  wings : Nat
  layers : Nat
  larderBytes : Nat
  modelId : W64
  version : W32
  streams : List StreamId := []
  /-- Larder ranges of its configuration sets: Wing, offset, bytes -/
  larder : List (WingId × Nat × Nat) := []
  /-- the sections that a replacement must match, as loaded: KIND, DSTOFF, LEN, and the bytes compared (06 R228) -/
  image : List (Nat × Nat × Nat × List Byte) := []
  /-- by route record: every load counter as last read, the loads that workers have sent since, and the step of the last
  revision (07 R254) -/
  loads : Map (List W32) := []
  sent : Map (List Nat) := []
  revised : Map Nat := []
  /-- TIER 1 pages that revisions have given it (07 R254 step 8) -/
  revPages : List Nat := []
  reviseSteps : Nat := 1024
  /-- INSTANCE_BUDGET as set, none while it stands at the largest E of the model's routed layers (13 R433) -/
  instanceBudget : Option Nat := none
  minGain : Nat := 10
  deriving DecidableEq, Repr

/-- Where a placement revision stands on a device (07 R254): the inactive copy is still in use (step 3); weights are copied (4); all is
ready; the gates are armed (5); the copy is valid (6); the gates go (7). -/
inductive RevPhase where
  | waiting | copying | ready | arming | writing | going
  deriving DecidableEq, Repr

/-- A placement revision on this device (07 R254): at the Steward, or at a worker of the routing group. One stands for a model. -/
structure Revision where
  ctx : CtxId
  midx : Nat
  route : Dva
  /-- the inactive copy of the table, its VERSION, and FROM_STEP of the active one -/
  copy : Dva
  version : W32
  active : Nat
  manager : Bool
  plan : RevPlan
  table : List Byte
  copies : List StreamId := []
  phase : RevPhase := .waiting
  /-- s of step 5 -/
  step : W32 := 0
  /-- Steward: devices whose answer is awaited, whether one's arm was late, and the largest STEP answered -/
  waits : List NodeId := []
  again : Bool := false
  most : Nat := 0
  deriving DecidableEq, Repr

/-- What a load or replacement still has to do (06 R224, R227, R230, R231): it waits its turn; a load copies, then loads
slots; an in-place replacement arms the gates, waits for the hold, then copies the group from a layer on; a shadow copies, arms
the gates, then waits for every STEP to reach s. -/
inductive ModelPhase where
  | queued
  | copying | loadingSlots
  | holdArm (layer : Nat) | holding (layer : Nat) | groupCopy (layer : Nat)
  | shadowCopy | shadowArm | shadowGate (s : W32)
  deriving DecidableEq, Repr

/-- A load, replacement or unload request that waits or runs. -/
structure ModelWork where
  id : Nat
  ctx : CtxId
  req : Req
  phase : ModelPhase := .queued
  midx : Nat := 0
  /-- the model being loaded, or the new image of a replacement -/
  model : Option Model := none
  /-- stream contexts reserved, with their streams -/
  resv : List (StreamId × Stream) := []
  /-- COPY streams of the Study at work for it -/
  copies : List StreamId := []
  /-- Wings whose slot 0 has been loaded -/
  loaded : List WingId := []
  /-- Wings whose slot load has still to be requested, with its Larder offset, and commits awaited -/
  todo : List (WingId × Nat) := []
  left : Nat := 0
  deriving DecidableEq, Repr

/-- A placement of R439: PTIER, SPREAD, UNIT, and the Wing of a Larder placement. -/
structure Placement where
  ptier : Nat
  spread : Bool
  unit : Nat
  wing : WingId
  deriving DecidableEq, Repr

/-- What pages are moved for: a PAGE_MOVE, a Pantry channel to retire, or the frames of a DRAM row (tier, channel, frames). -/
inductive MoveWhy where
  | command (q : Req)
  | retire (unit : Nat)
  | frames (tier unit : Nat) (fs : List (Nat × Nat))
  deriving DecidableEq, Repr

/-- Pages that the Study moves (05 R187, 13 R440): context, namespace and VPN of those still to move, and the placements tried
for each. While a page moves: the Study's stream that copies it, and its parts, as subpage (32 a whole page), old entry and
new entry. -/
structure PageMove where
  why : MoveWhy
  todo : List (CtxId × Nat × Nat)
  places : List Placement
  /-- pages moved, and whether every page so far has been -/
  moved : Nat := 0
  all : Bool := true
  sid : Option StreamId := none
  parts : List (Nat × W64 × W64) := []
  deriving DecidableEq, Repr

/-! ## Contexts and Bolts (09) -/

inductive CtxSt where
  | free | active | preempting | preempted | failed | restoring
  deriving DecidableEq, Repr

/-- A pre-emption or checkpoint in progress (09 R319, R321), and the copy it writes once its point has been reached. -/
structure Preempt where
  checkpoint : Bool
  bolt : BitVec 15
  phase : W32
  req : Req
  saving : Bool := false
  /-- copy being written, its GEN, its bytes, and the code of the first write that failed -/
  copy : Bool := false
  gen : W32 := 0
  bytes : Nat := 0
  err : Byte := 0
  deriving DecidableEq, Repr

/-- A context (09 R297, R298, 13 R438). -/
structure Ctx where
  st : CtxSt := .free
  first : WingId := 0
  wings : Nat := 0
  boltBase : BoltId := 0
  bolts : Nat := 0
  job : W32 := 0
  saveVa : Dva := 0
  saveBytes : Nat := 0
  preemptMs : Nat := 100
  stallK : Nat := 20
  hangLimit : Nat := 0
  /-- fresh under R324 -/
  fresh : Bool := true
  cause : Nat := 0
  failId : W16 := 0
  failCode : Byte := 0
  swCode : W16 := 0
  gen : W32 := 0
  genValid : Bool := false
  /-- copy holding the newest complete save -/
  genCopy : Bool := false
  points : List (BitVec 15 × W32 × Dva) := []
  pre : Option Preempt := none
  /-- CTX_RESTORE in progress: request, state to return to -/
  restore : Option (Req × CtxSt) := none
  /-- a release waits for Inflow ports and host windows (R300 steps 3 and 4), for the request to answer, if one -/
  releasing : Option (Option Req) := none
  models : Map Model := []
  routeDropped : W64 := 0
  routeInvalid : W64 := 0
  /-- stall reports collected in the present episode (02 R69): 16-byte reports of R68 -/
  reports : List (BitVec 128) := []
  collecting : Bool := false
  deriving DecidableEq, Repr

/-- Who waits on a Bolt (09 R306, R310). -/
inductive Waiter where
  | room (r : RoomId)
  | stream (sid : StreamId)
  | porch (svc : Nat)
  | host (c : CtxId)
  | study
  | trigger (r : RoomId)
  /-- a remote Bolt operation: port it came on and its packet -/
  | remote (port : Nat) (pk : Packet)
  deriving DecidableEq, Repr

/-- A registered wait: who, OP, COND, operand, and the PHASE before an ARRIVE_WAIT's arrival. -/
structure Wait where
  who : Waiter
  op : BitVec 4
  cond : BitVec 3
  operand : W32
  phase0 : W32 := 0
  deriving DecidableEq, Repr

/-- A Bolt record (09 R301) and its registered waiters in registration order (R306). -/
structure Bolt where
  barrier : Bool := false
  ppoint : Bool := false
  remoteOk : Bool := false
  root : Bool := true
  reported : Bool := false
  held : Bool := false
  error : Bool := false
  err : Byte := 0
  value : W32 := 0
  count : W32 := 0
  phase : W32 := 0
  parent : NodeId := 0
  children : List NodeId := []
  waiters : List Wait := []
  deriving DecidableEq, Repr

/-- A Bolt operation on its way to, or waiting in, a Bolt engine (09 R304, R306). `bolt` is the absolute index. -/
structure BoltReq where
  who : Waiter
  ctx : CtxId
  bolt : BoltId
  op : BitVec 4
  cond : BitVec 3
  operand : W32
  ret : Bool := false
  deriving DecidableEq, Repr

/-- The result or wake of a blocking operation on its way to its requester (09 R305). -/
structure BoltRsp where
  who : Waiter
  error : Bool
  result : W32
  deriving DecidableEq, Repr

/-! ## The Porch (08) -/

inductive SvcSt where
  | opened | draining | suspended | fault | closed
  deriving DecidableEq, Repr

/-- A request in the admission wait queue (08 R272, R286). -/
structure WaitReq where
  /-- the 64-byte descriptor of R266 -/
  desc : BitVec 512
  /-- the walker has returned, with the deepest matched node, or the REJECT code it found (0 none) -/
  walked : Bool := false
  node : Option (BitVec 24) := none
  bad : Byte := 0
  /-- the 256-byte stop-string block as the walker read it -/
  stops : List Byte := []
  /-- generation when the walk began -/
  walkGen : W32 := 0
  /-- the Porch has taken the result, and pinned this node -/
  taken : Bool := false
  pin : Option (BitVec 24) := none
  /-- its place in the queue at WAIT_VA, counted from the opening; it has been ended while its walk was in progress -/
  place : Nat := 0
  gone : Bool := false
  /-- ADMIT_WAIT has been written; the head waits because no entry is free -/
  told : Bool := false
  full : Bool := false
  deriving DecidableEq, Repr

/-- A Sequence Table entry (08 R270). -/
structure Seq where
  st : BitVec 3
  pause : BitVec 2 := 0
  hostStop : Bool := false
  pendToken : Bool := false
  pendEnd : Bool := false
  chlPending : Bool := false
  noInsert : Bool := false
  service : Nat
  slot : Nat := 0
  gen : W16 := 0
  tag : W64 := 0
  promptLen : Nat := 0
  pos : Nat := 0
  new : Nat := 0
  maxNew : Nat := 0
  indexed : Nat := 0
  deep : BitVec 24 := 0xFFFFFF
  held : Nat := 0
  resv : Nat := 0
  admitT : W32 := 0
  lastToken : W32 := 0
  lastStep : W32 := 0
  seed : W32 := 0
  peer : NodeId := 0
  pendCode : Byte := 0
  tail : List Byte := []
  promptVa : Dva := 0
  ringVa : Dva := 0
  ringLog2 : Nat := 0
  /-- the request descriptor and the stop-string block (the stop block of R260) -/
  desc : BitVec 512 := 0
  stops : List Byte := []
  /-- flags of a token record held with PEND_TOKEN, and STR and TAIL of a held END -/
  pendFlags : Byte := 0
  pendStr : Byte := 0
  /-- chunk IDs of the chunk list, oldest first -/
  chunks : List Nat := []
  /-- handoff (R292): peer entry asked or copied to, the other device's entry, its chunk list and node; phase 0 none,
  1 offered, 5 granted, its chunk list being read, 2 copying, 3 DONE sent, 4 denied by every peer; peers asked in this round; the
  Study's COPY stream. At a target: HID and HGEN. -/
  hoPeer : Nat := 0
  hoTseq : Nat := 0
  hoChl : Dva := 0
  hoPhase : Nat := 0
  hoAsked : Nat := 0
  hoHid : Nat := 0
  hoHgen : W16 := 0
  hoCopy : Option Nat := none
  /-- END code that the next build writes for it (R279); DONE has come in the present build (R292 step 6) -/
  endDue : Byte := 0
  joined : Bool := false
  deriving DecidableEq, Repr

/-- A step entry kept from the composed step (08 R276). -/
structure StepEntry where
  seq : Nat
  kind : BitVec 2
  pos : Nat
  ntok : Nat
  deriving DecidableEq, Repr

/-- A service (08 R262, R263, 13 R445). -/
structure Service where
  st : SvcSt := .opened
  fcode : Byte := 0
  ctx : CtxId
  /-- the 256-byte descriptor, byte 0 in the low bits -/
  desc : BitVec 2048
  /-- number n of the next step to compose -/
  n : W32 := 0
  /-- entries of the step in progress, if one is -/
  step : Option (List StepEntry) := none
  /-- DONE_BOLT's PHASE recorded when the step began; its wait has returned -/
  donePhase : W32 := 0
  doneSeen : Bool := false
  /-- order of that release among those of all services (R274) -/
  doneNo : Nat := 0
  closing : Bool := false
  /-- state to return to when the context becomes ACTIVE again (09 R322 step 6) -/
  before : SvcSt := .opened
  lbx : Nat := 0
  closeTag : Option W64 := none
  waitq : List WaitReq := []
  /-- requests checked and passed to the walker, still in the ring from CONS on; requests appended to the wait queue so far -/
  reading : List WaitReq := []
  waitNo : Nat := 0
  usedChunks : List Nat := []
  /-- node slots retired and their generation (08 R289) -/
  retired : Map W32 := []
  g : W32 := 0
  dead : Nat := 0
  inUse : Nat := 0
  compacting : Bool := false
  admitNo : W32 := 0
  /-- peer behind the one last granted (R292 step 1) -/
  nextPeer : Nat := 0
  admitted : W64 := 0
  ended : W64 := 0
  rejected : W32 := 0
  lastStep : W32 := 0
  builds : W64 := 0
  tokens : W64 := 0
  shared : W64 := 0
  insertFail : W32 := 0
  evicted : W32 := 0
  handedOut : W32 := 0
  received : W32 := 0
  /-- output records written in the build in progress -/
  records : W32 := 0
  /-- records other than TOKEN and END that wait for ring space (R282), and ENDs of requests that hold no entry -/
  pendOut : List (BitVec 128) := []
  /-- CONS of the inbox partitions as this Porch has advanced them -/
  inCons : Map W32 := []
  /-- code of the ENDs that a close in progress writes -/
  closeCode : Byte := 8
  deriving DecidableEq, Repr

/-- A handoff record on its way to a peer (08 R290): phase 0 reads the source's handoff area (an OFFER that this device
answers), 1 waits its turn, 2 reads the ring header, 3 writes the record, 4 writes PROD; 5 reads the target's chunk list (R292
step 4). -/
structure PorchMsg where
  id : Nat
  svc : Nat
  peer : Nat
  /-- the 64-byte record -/
  record : BitVec 512
  phase : Nat := 1
  /-- outstanding accesses -/
  accs : List Nat := []
  /-- header of the ring as read: PROD and CONS -/
  prod : W32 := 0
  cons : W32 := 0
  deriving DecidableEq, Repr

/-! ## The Corridor (10) -/

inductive PortSt where
  | disabled | training | up | degraded | down
  deriving DecidableEq, Repr

/-- A Corridor port (10 R325 to R333, R341 to R348). -/
structure Port where
  st : PortSt := .disabled
  dir : BitVec 3 := 7
  role : BitVec 2 := 0
  /-- role of a reserved port: 0 unused, 1 storage/host, 2 Inflow -/
  resRole : BitVec 2 := 0
  width : BitVec 4 := 0
  spare : Bool := false
  reason : Byte := 0
  lanesBad : BitVec 9 := 0
  nbrNode : NodeId := 0
  nbrPort : BitVec 5 := 0
  rttNs : W16 := 0
  fecCorr : W64 := 0
  fecUncorr : W32 := 0
  replays : W32 := 0
  downCnt : W32 := 0
  laneRet : W32 := 0
  txFlits : W64 := 0
  creditWait : W64 := 0
  /-- link layer: FSEQ and payload byte at which the next packet will begin, last FSEQ acknowledged, next expected -/
  txSeq : BitVec 10 := 0
  txPos : Nat := 0
  acked : BitVec 10 := 0x3FF
  rxNext : BitVec 10 := 0
  /-- retry buffer: packets sent and not acknowledged, with the FSEQ and byte at which each began (R329) -/
  retry : List (Packet × BitVec 10 × Nat) := []
  nakOpen : Bool := false
  naks : Nat := 0
  /-- packets queued for sending -/
  txq : List Packet := []
  /-- by virtual channel: the input after the one served last -/
  rot : Map Nat := []
  /-- credits held: shared units, reserved units of the nine queues -/
  shared : Nat := 0
  reserved : Map Nat := []
  /-- units of this receive buffer in use, by queue; credits returned to the far end, by queue × 2 + pool (1 shared) -/
  rxUsed : Map Nat := []
  given : Map Nat := []
  /-- bytes of a packet not yet received whole, and the FSEQ and byte at which it began -/
  rxPart : List Byte := []
  rxStart : BitVec 10 × Nat := (0, 0)
  /-- position at which the last packet received whole began (R344) -/
  rxPos : Option (BitVec 10 × Nat) := none
  /-- the same, kept for a failed link until REPLAY_END arrives; this end waits for REPLAY_END_ACK -/
  linkRec : Option (BitVec 10 × Nat) := none
  replayWait : Bool := false
  replayEndSeen : Bool := true
  /-- packets discarded and counted (10 R335, R337, R342, 11 R375) -/
  discards : W32 := 0
  hostDown : Bool := false
  deriving DecidableEq, Repr

/-- A job's block entry (10 R339) and the Steward's or worker's state about it. -/
structure Job where
  tag : W32
  origin : List Nat
  size : List Nat
  manager : NodeId
  isManager : Bool
  detours : List (BitVec 24)
  /-- manager: consecutive heartbeats each worker has missed, by node -/
  missed : Map Nat := []
  /-- worker: heartbeats of the manager missed -/
  mgrMissed : Nat := 0
  probing : List NodeId := []
  lost : List NodeId := []
  mgrLost : Bool := false
  deriving DecidableEq, Repr

/-- A pending group write (10 R356). -/
structure GroupWrite where
  id : Nat
  job : W32
  group : Byte
  /-- I/O die that handles it: the root's North, a member's that of the arrival -/
  south : Bool
  /-- the request to answer, at a member -/
  parent : Option Packet
  access : Option Nat
  ownCode : Option Byte
  /-- children in ascending order with their answers -/
  kids : List (NodeId × Option Byte)
  deriving DecidableEq, Repr

/-- A remote request outstanding at a source I/O die (10 R337). -/
structure Remote where
  rtag : BitVec 12
  seq : W16
  south : Bool
  node : NodeId
  job : W32
  /-- 0 access `what`, 1 posted Bolt operation of Room `what`, 2 copy of group write `what`, 3 Bolt operation that Room
  `what` waits for -/
  kind : Nat
  what : Nat
  ret : Option (BitVec 4) := none
  deriving DecidableEq, Repr

/-! ## Host port and Inflow (11) -/

/-- A host window (11 R370) with its fault counts. -/
structure HostWin where
  aperture : Nat
  length : Nat
  ctx : CtxId
  ns : BitVec 2
  vaBase : Nat
  write : Bool
  faults : W64 := 0
  /-- fault counts by code of R188 -/
  byCode : Map Nat := []
  born : W64 := 0
  /-- last 1 ms interval of the window's life in which a failure was recorded -/
  lastRec : Option Nat := none
  /-- the HWIN_REMOVE to answer, or none for a context's release -/
  removing : Option (Option Req) := none
  deriving DecidableEq, Repr

/-- An Inflow record waiting in staging (11 R378, R382). -/
structure InRec where
  len : Nat
  rseq : W32
  chan : W32
  stamp : W64
  arrival : W64
  payload : List Byte
  deriving DecidableEq, Repr

/-- The record being received: header bytes and payload so far, and bytes still to come. -/
structure InPartial where
  bytes : List Byte
  /-- total bytes once the header is known -/
  need : Option Nat
  /-- header refused a place in staging: reason code, 0 if accepted -/
  refused : Nat := 0
  deriving DecidableEq, Repr

/-- An Inflow writer and its port's attachment (11 R376 to R385). -/
structure Inflow where
  /-- the 64-byte attach descriptor of R379, when attached -/
  desc : Option (BitVec 512) := none
  /-- physical pages of header and data resolved at attach -/
  pages : List Nat := []
  /-- a detach waits for the record boundary, for the request to answer or for a context's release -/
  detaching : Option (Option Req) := none
  lastFseq : Option (BitVec 10) := none
  /-- the receiver has a position in the stream -/
  synced : Bool := false
  part : Option InPartial := none
  staged : List InRec := []
  prod : W32 := 0
  cons : W32 := 0
  entries : W64 := 0
  /-- drops by reason RING, LINK, CRC, FORMAT, BUFFER, WRITE since attach, and since the last gap entry -/
  drops : Map W32 := []
  gap : Map W32 := []
  unseen : W32 := 0
  expect : Option W32 := none
  firstNext : Bool := true
  ringBad : Bool := false
  noAttach : W32 := 0
  /-- drops since the last INFLOW event; counts of DEV_HC_COUNT at that event and at the last ring vector -/
  evDrops : W32 := 0
  evAt : Option W64 := none
  irqAt : Option W64 := none
  deriving DecidableEq, Repr

/-! ## Registers and Letterboxes (12, 13) -/

/-- A triplicated value (12 R396). -/
structure Tv where
  a : W64 := 0
  b : W64 := 0
  c : W64 := 0
  deriving DecidableEq, Repr

/-- The key lock (12 R393 to R395). -/
structure KeyLock where
  key : W32 := 0
  set : Bool := false
  armed : Bool := false
  lockout : Bool := false
  fails : Nat := 0
  deriving DecidableEq, Repr

/-- The identity registers (12 R402), ID_NODE apart. -/
structure Ident where
  part : W32 := 0
  variant : Tv := {}
  serial : W64 := 0
  wingret : W64 := 0
  active : W32 := 0
  mem : W32 := 0
  cellar : W32 := 0
  fwver : W32 := 0
  deriving DecidableEq, Repr

/-- A captured violation (12 R397). -/
structure Violation where
  who : Who
  offset : Nat
  write : Bool
  code : Nat
  deriving DecidableEq, Repr

/-- A response or event owed by a Letterbox: the fields of R420, and the result as (byte, width in bytes, value). -/
structure Response where
  opcode : W16
  ctx : CtxId := 0
  fin : Bool := true
  event : Bool := false
  status : Byte := 0
  detail : Byte := 0
  tag : W64 := 0
  result : List (Nat × Nat × Nat) := []
  deriving DecidableEq, Repr

/-- A Letterbox: its page of R408 and what the Study keeps for it (12 R409, 13 R421 to R426). -/
structure Lbx where
  enable : Bool := false
  rspIrq : Bool := false
  evtIrq : Bool := false
  ready : Bool := false
  resetting : Bool := false
  fault : Bool := false
  fcode : Byte := 0
  reqBase : Tv := {}
  rspBase : Tv := {}
  size : W32 := 0
  reqProd : W32 := 0
  reqCons : W32 := 0
  rspProd : W32 := 0
  rspCons : W32 := 0
  hello : Bool := false
  /-- driver build of the last HELLO (13 R431) -/
  dbuild : W16 := 0
  /-- a command has started and not written its first response (13 R423); its opcode -/
  busy : Bool := false
  busyOp : W16 := 0
  /-- requests taken and not started -/
  taken : List Req := []
  /-- TAGs of long commands that have answered ACCEPTED -/
  long : List W64 := []
  /-- long commands whose responses are abandoned by a RESET (13 R426) -/
  mute : List W64 := []
  outq : List Response := []
  events : Nat := 0
  lost : W32 := 0
  evSeq : W64 := 0
  /-- a vector was raised and its 10 µs interval has not ended; one is held back -/
  rspHold : Bool := false
  rspHeld : Bool := false
  evtHold : Bool := false
  evtHeld : Bool := false
  deriving DecidableEq, Repr

/-- Counts of the diagnostics record (13 R434). -/
structure Diag where
  viol : Map W32 := []
  byReq : Map W32 := []
  overflow : W32 := 0
  tvCorr : W32 := 0
  lbxFault : W32 := 0
  evtLost : W32 := 0
  deriving DecidableEq, Repr

/-- Power and thermal state (13 R415 to R418, 15 R489 to R492). -/
structure Power where
  limit : Nat
  steps : Map Nat := []
  /-- by die, newest first: DEV_HC_COUNT at which a clock step began, tc until then in 1,536ths, and the step (13 R416) -/
  clocks : Map (List (Nat × Nat × Nat)) := []
  k : Nat := 16
  last : Telemetry := {}
  stage : Nat := 0
  /-- buses with a telemetry device that does not answer, as recorded: VR0 to VR3, VRN 4, VRS 5 (16 R516) -/
  silent : List Nat := []
  /-- consecutive passes with every entry condition of the stage false -/
  calm : Nat := 0
  /-- consecutive passes with Tj ≥ 100 °C on some die -/
  hot : Nat := 0
  /-- package energy since reset, mJ (13 R435) -/
  energy : W64 := 0
  deriving DecidableEq, Repr

/-! ## Start, errors, I3C and sideband (14, 15, 16) -/

inductive DevSt where
  | rom | awaitFw | verify | handshake | running | minimal | fatal
  deriving DecidableEq, Repr

/-- An entry of START_REPORT (13 R436). -/
structure StartEntry where
  reason : Byte := 0
  warm : Bool := false
  stage : W16 := 0
  hc : W64 := 0
  detail : W64 := 0
  deriving DecidableEq, Repr

/-- The start record (14 R459). -/
structure StartRec where
  fails : Nat := 0
  opened : Bool := false
  serial : W64 := 0
  e0 : StartEntry := {}
  e1 : StartEntry := {}
  e2 : StartEntry := {}
  pending : StartEntry := {}
  deriving DecidableEq, Repr

/-- What the boot ROM waits for. -/
inductive RomWait where
  /-- held in reset, or power not good -/
  | reset
  /-- a reference clock is lost -/
  | clock
  /-- the start record from the BMC -/
  | record
  /-- the BMC write of the opening of an attempt (then VERIFY) -/
  | opening
  | none
  deriving DecidableEq, Repr

/-- The verified image (14 R455, R457). -/
structure Firmware where
  keyIndex : BitVec 2 := 0
  svnCommit : Bool := false
  svn : Nat := 0
  minor : Byte := 0
  major : Byte := 0
  build : W16 := 0
  measure : BitVec 384 := 0
  keyHash : BitVec 384 := 0
  deriving DecidableEq, Repr

/-- An Event Recorder record (15 R478). -/
structure Record where
  seq : W64
  hc : W64
  cls : Nat
  code : Byte
  base : Nat
  sev : Nat
  esc : Bool
  absorbed : Bool
  src : Nat
  unit : Nat
  ctx : Option CtxId
  addr : W64
  count : W32
  episode : W64
  detail : W64
  deriving DecidableEq, Repr

/-- The Event Recorder: EVR_CTRL and EVR_STAT, EVR_NEXT, EVR_HOSTBUF, the window with record s at s mod 4,096, the records
not written while frozen, and the assertions of TRAY_LATCH in FATAL whose record waits for UNFREEZE (12 R404 to R407; 15
R480, R501). -/
structure Evr where
  pushHost : Bool := true
  frozen : Bool := false
  hostDone : Bool := false
  bmcDone : Bool := false
  hostFail : Bool := false
  next : W64 := 0
  hostbuf : Tv := {}
  window : Map Record := []
  unwritten : W32 := 0
  departOwed : Nat := 0
  deriving DecidableEq, Repr

/-- A handling episode: class, unit, the stamps it covers and the SEQ of its record (15 R475). -/
structure Episode where
  cls : Nat
  unit : Nat
  start : W64
  stop : W64
  seq : W64
  deriving DecidableEq, Repr

/-- The I3C target (15 R482, R483). -/
structure I3c where
  addr : Option (BitVec 7) := none
  hotJoin : Bool := true
  /-- in-band interrupt and Hot-Join events enabled (ENEC, DISEC) -/
  intEn : Bool := true
  hjEn : Bool := true
  offset : BitVec 24 := 0
  pushReady : Bool := false
  recReq : Bool := false
  recUpd : Bool := false
  ack : BitVec 3 := 0
  coolant : W32 := 0
  coolantSeen : Bool := false
  record : List Byte := []
  /-- data of the last private read or CCC read, and the in-band interrupt bytes raised -/
  reply : List Byte := []
  ibis : List Byte := []
  deriving DecidableEq, Repr

/-- A filtered sideband input (15 R486, R488). -/
structure Pin where
  level : Bool := false
  chatter : Bool := false
  asserts : W32 := 0
  episodes : W32 := 0
  /-- seconds held that the last SIDEBAND record of R488 gave -/
  held : Nat := 0
  deriving DecidableEq, Repr

/-- Repair and retirement of memory (05 R165, R174 to R176, R529). -/
structure Repair where
  /-- DRAM rows with corrected errors: tier, channel unit, row, and each distinct address with its time -/
  ceRows : List (Nat × Nat × Nat × List (Nat × Nat)) := []
  /-- SRAM rows and columns with corrected errors: 1 Shelf 2 Larder, unit, index as in `sram`, words with their pass -/
  sramRows : List (Nat × Nat × Nat × List (Nat × Nat)) := []
  /-- repaired or retired rows: tier, channel unit, row, 1 repaired 2 retired, 3 from the list of an earlier run -/
  rows : List (Nat × Nat × Nat × Nat) := []
  /-- SRAM rows and columns recorded for repair at the next start: (1 Shelf 2 Larder, unit, row number, or 2^20 + 8,192 ×
  subarray + bit position) -/
  sram : List (Nat × Nat × Nat) := []
  /-- retired frames: physical tier, or 5 for a spread frame, and frame -/
  retiredFrames : List (Nat × Nat) := []
  /-- spare rows taken, by tier, unit and bank as one key -/
  spares : Map Nat := []
  /-- banks held by a soft repair -/
  held : List (Nat × Nat × Nat) := []
  /-- stacks (1) and Cellar groups (2) whose frames a warm start has lost (14 R469) -/
  lost : List (Nat × Nat) := []
  /-- rows with an uncorrectable error and their times, by Pantry channel -/
  ueRows : Map (List (Nat × Nat)) := []
  deriving DecidableEq, Repr

/-- An error stop of the step. The block itself never stops on a command, so the model raises none today. -/
inductive Fault where
  /-- An access names a physical byte of a memory the device does not have. Raised by no command whose operands
  name fitted memory; safe (the run stops). -/
  | noSuchMemory
  deriving DecidableEq, Repr

/-- A refusal of the model. -/
inductive Refusal where
  /-- The command has no meaning in the model yet. Raised by an arm of `exec` only; safe. -/
  | notModelled (mnemonic : String)
  deriving DecidableEq, Repr

/-- The whole machine. -/
structure State where
  /-- commands waiting, first in, first out -/
  pending : List Instr := []
  /-- all bytes: Shelf, Larder, operand caches, staging, accumulators, slot images, Pantry, Cellar, Annex and host memory -/
  mem : Memory := []
  /-- poisoned 64-byte units, by physical key ÷ 64, rising -/
  poison : List Nat := []
  /-- next index of the free values of Config -/
  fresh : Nat := 0
  rooms : Map Room := []
  wings : Map Wing := []
  accesses : List Access := []
  nextAcc : Nat := 0
  slices : Map TpmSlice := []
  /-- translation buffers: Wing g at g, Dumbwaiter DW at 64 + DW, host windows 74, Corridor arrivals 75 North 76 South -/
  tbufs : Map (List TpmEntry) := []
  /-- page-map tables (05 R177 to R180): directory table of each namespace, the entries by 8-byte word of the reserved frames,
  and the leaf tables (32 KiB) and subpage tables (256 bytes) in use, by index -/
  roots : Map Nat := []
  tables : Map W64 := []
  leafTabs : List Nat := []
  subTabs : List Nat := []
  /-- frames in use, by tier × 2^32 + frame, rising; Larder subframes as tier 0 -/
  used : List Nat := []
  /-- Pantry groups in use for spread frames, and for stack-local frames -/
  spreadGroups : List Nat := []
  localGroups : List Nat := []
  /-- channels in service of each stack (0 = stack not used), and frames each Cellar group holds -/
  stackCh : Map Nat := []
  groupFrames : Map Nat := []
  /-- retired channels of each stack (05 R165) -/
  chanLost : Map (List Nat) := []
  annexUp : Map Bool := []
  /-- HDM decoders: port, base and size in the port's host physical addresses, and whether dynamic capacity lies behind it
  (05 R170, R171) -/
  decoders : List (Nat × Nat × Nat × Bool) := []
  /-- decoded and accepted Annex extents: (port, first frame index, frames) -/
  extents : List (Nat × Nat × Nat) := []
  dws : Map Dumbwaiter := []
  streams : Map Stream := []
  modelWork : List ModelWork := []
  revs : List Revision := []
  moves : List PageMove := []
  nextWork : Nat := 0
  ctxs : Map Ctx := []
  bolts : Map Bolt := []
  /-- operations at each die's Bolt engine, in order of arrival -/
  boltQ : Map (List BoltReq) := []
  boltRsp : List BoltRsp := []
  services : Map Service := []
  seqs : Map Seq := []
  seqGen : Map W16 := []
  heldRot : Nat := 0
  nextDone : Nat := 0
  porchOut : List PorchMsg := []
  nextMsg : Nat := 0
  handoffT : Nat := 100
  ports : Map Port := []
  /-- slot tables by direction: 64 ports -/
  slotTab : Map (List Nat) := []
  /-- slots held back until an interim port's flits are acknowledged: direction × 64 + slot to port -/
  slotBack : Map Nat := []
  /-- packets that wait for such a slot, with its direction × 64 + slot (10 R345) -/
  slotWait : List (Nat × Packet) := []
  fabric : Option (BitVec 512) := none
  unreachable : List Nat := []
  jobs : List Job := []
  groups : List Group := []
  gwrites : List GroupWrite := []
  nextGw : Nat := 0
  remotes : List Remote := []
  e2e : Map W16 := []
  remoteTimeoutMs : Nat := 50
  /-- remote requests that met REMOTE_TIMEOUT (10 R351) -/
  remoteTimeouts : W64 := 0
  /-- packets received for this device and not yet served, by port, oldest first -/
  arrived : List (BitVec 5 × Packet) := []
  numVfs : Nat := 0
  hostUp : Bool := false
  windows : Map HostWin := []
  /-- completions of CXL.mem requests: data, poison -/
  cxlOut : List (List Byte × Bool) := []
  /-- MSI-X: vectors unmasked, pending bits, and the vectors raised, oldest first, as function × 16 + vector -/
  msixOpen : List Nat := []
  msixPend : List Nat := []
  irqs : List Nat := []
  inflow0 : Inflow := {}
  inflow1 : Inflow := {}
  lock : KeyLock := {}
  ident : Ident := {}
  evr : Evr := {}
  idNode : W16 := 0xFFFF
  devSt : DevSt := .rom
  devReason : Byte := 0
  devWarm : Bool := false
  devIstat : BitVec 5 := 0
  hc : W64 := 0
  fwAddr : Tv := {}
  fwLen : BitVec 27 := 0
  /-- read and write shadows: requester and offset key to the 32 bits held -/
  rdShadow : Map W32 := []
  wrShadow : Map W32 := []
  violQ : List Violation := []
  /-- value answered by the last register read, Letterbox access or host read, for its requester -/
  readData : W64 := 0
  lbxs : Map Lbx := []
  diag : Diag := {}
  scrubPantry : Nat := 24
  scrubCellar : Nat := 24
  annexMs : Map Nat := []
  tjTarget : Nat := 95
  power : Power
  createdCtx : Bool := false
  romWait : RomWait := .reset
  startRec : StartRec := {}
  startCause : Nat := 1
  fw : Firmware := {}
  fuseSvn : Nat
  serving : Bool := false
  /-- 10 s in RUNNING have not passed -/
  early : Bool := false
  errQ : List Err := []
  errOvf : Map W32 := []
  /-- an entry may be swept (15 R474) -/
  sweepDue : Bool := false
  episodes : List Episode := []
  fatalLatch : Bool := false
  fatalErr : Option Err := none
  /-- lasting states already reported, as class × 2^16 + unit -/
  reported : List Nat := []
  i3c : I3c := {}
  coolantAbsent : Bool := true
  brake : Pin := {}
  latch : Pin := {}
  rst : Pin := { level := true }
  pwrOk : Bool := false
  thermTrip : Bool := false
  clockLost : List Nat := []
  repair : Repair := {}
  deriving DecidableEq, Repr

/-- The machine under its first cold reset: power off, HOST_RST# held, every register at its Reset column. -/
def State.reset : State :=
  { power := { limit := Config.gradeLimit }, fuseSvn := Config.partSvn }

end Sys2Proof.Machine
end

