-- ==== Sys2Proof/Machine/Ops.lean ====
section
/-! DEFINITION. The named operations over state that every family shares: sparse maps, memory and poison, bytes and
bit fields, physical keys, the parts of the state by number, free values, interrupts, events, responses and errors. -/

namespace Sys2Proof.Machine

/-! ## Sparse maps -/

/-- The value at a key, the first entry that names it. -/
def mapFind {α : Type} : Map α → Nat → Option α
  | [], _ => none
  | (k, v) :: m, i => if k = i then some v else mapFind m i

def mapGet {α : Type} (d : α) (m : Map α) (i : Nat) : α := (mapFind m i).getD d

/-- Put a value at a key, keys kept rising. -/
def mapSet {α : Type} : Map α → Nat → α → Map α
  | [], i, v => [(i, v)]
  | (k, w) :: m, i, v =>
    if k = i then (i, v) :: m
    else if i < k then (i, v) :: (k, w) :: m
    else (k, w) :: mapSet m i v

def mapDel {α : Type} (m : Map α) (i : Nat) : Map α := m.filter fun e => e.1 != i

/-- Add to a counter of a map of counters. -/
def mapAdd (m : Map Nat) (i n : Nat) : Map Nat := mapSet m i (mapGet 0 m i + n)

/-! ## Endpoints (01 R34) -/

/-- The units that issue requests. Of events of one hc the commands' order says which comes first (assumption 87). -/
inductive Endpoint where
  | room (r : RoomId)
  | loader (g : WingId)
  | chainHead (g : WingId)
  | tpm (die : BitVec 2)
  | boltEngine (die : BitVec 2)
  | dumbwaiter (n : Nat)
  | port (p : Nat)
  | inflow (south : Bool)
  | hostPort
  | porch
  | study
  deriving DecidableEq, Repr

/-- The source endpoint number of a unit. -/
def endpointNo : Endpoint → Nat
  | .room r => r.toNat
  | .loader g => 0x400 + g.toNat
  | .chainHead g => 0x440 + g.toNat
  | .tpm d => 0x480 + d.toNat
  | .boltEngine d => 0x484 + d.toNat
  | .dumbwaiter n => 0x490 + n
  | .port p => 0x4A0 + p
  | .inflow south => if south then 0x4C1 else 0x4C0
  | .hostPort => 0x4C8
  | .porch => 0x4D0
  | .study => 0x4FF

/-! ## Memory: bytes and poison (05 R33, R175) -/

/-- One byte; an unlisted key reads zero (assumption 2). -/
def memRead : Memory → Nat → Byte
  | [], _ => 0
  | (k, b) :: m, a => if k = a then b else memRead m a

/-- Write one byte, keeping the canonical form. -/
def memWrite : Memory → Nat → Byte → Memory
  | [], a, b => if b = 0 then [] else [(a, b)]
  | (k, w) :: m, a, b =>
    if k = a then (if b = 0 then m else (a, b) :: m)
    else if a < k then (if b = 0 then (k, w) :: m else (a, b) :: (k, w) :: m)
    else (k, w) :: memWrite m a b

/-- Keys rising and no zero byte listed. -/
def memWf : Memory → Bool
  | [] => true
  | (a, b) :: m => b != 0 && m.all (fun e => decide (a < e.1)) && memWf m

def memReads (m : Memory) (a n : Nat) : List Byte := (List.range n).map fun i => memRead m (a + i)

def memWrites : Memory → Nat → List Byte → Memory
  | m, _, [] => m
  | m, a, b :: bs => memWrites (memWrite m a b) (a + 1) bs

/-- Zero `n` bytes from `a`. -/
def memClear (m : Memory) (a n : Nat) : Memory := m.filter fun e => !(decide (a ≤ e.1) && decide (e.1 < a + n))

/-- The listed bytes of a range, at offsets from its start. -/
def memTake (m : Memory) (a n : Nat) : Memory :=
  (m.filter fun e => decide (a ≤ e.1) && decide (e.1 < a + n)).map fun e => (e.1 - a, e.2)

/-- Write listed bytes at their offsets from `a`. -/
def memPut (m : Memory) (a : Nat) (bs : Memory) : Memory := bs.foldl (fun m e => memWrite m (a + e.1) e.2) m

/-- Copy `n` bytes; the destination range ends equal to the source range as it stood. -/
def memCopy (m : Memory) (src dst n : Nat) : Memory := memPut (memClear m dst n) dst (memTake m src n)

/-- Insert into, and remove from, a rising list of unit keys. -/
def unitAdd : List Nat → Nat → List Nat
  | [], u => [u]
  | v :: l, u => if u = v then v :: l else if u < v then u :: v :: l else v :: unitAdd l u

/-! ## Bytes and fields (00 R11) -/

/-- Little-endian value of bytes. -/
def leNat : List Byte → Nat
  | [] => 0
  | b :: bs => b.toNat + 256 * leNat bs

/-- The low `n` bytes of a number, least significant first. -/
def natLe : Nat → Nat → List Byte
  | 0, _ => []
  | n + 1, v => BitVec.ofNat 8 v :: natLe n (v / 256)

/-- Bits [lo + w − 1 : lo] of a number. -/
def bitsOf (v lo w : Nat) : Nat := v / 2 ^ lo % 2 ^ w

def bitOf (v i : Nat) : Bool := v / 2 ^ i % 2 == 1

/-- Two's complement value of the low `w` bits. -/
def signedOf (v w : Nat) : Int :=
  let u := v % 2 ^ w
  if u < 2 ^ (w - 1) then u else (u : Int) - 2 ^ w

/-- Low `w` bits of an integer. -/
def wrapInt (i : Int) (w : Nat) : Nat := (i % (2 ^ w : Nat)).toNat

def boolNat (b : Bool) : Nat := if b then 1 else 0

/-- Bytes of a 64-byte unit, byte 0 first, and back. -/
def unitBytes (v : W512) : List Byte := natLe 64 v.toNat
def bytesUnit (bs : List Byte) : W512 := BitVec.ofNat 512 (leNat bs)

/-- `bs` with the bytes from `off` replaced by `xs` (within its length). -/
def patchBytes (bs : List Byte) (off : Nat) (xs : List Byte) : List Byte :=
  bs.take off ++ xs.take (bs.length - off) ++ bs.drop (off + xs.length)

/-- `n` bytes of zeros with the little-endian fields (byte, width, value) set. -/
def layout (n : Nat) (fields : List (Nat × Nat × Nat)) : List Byte :=
  fields.foldl (fun bs f => patchBytes bs f.1 (natLe f.2.1 f.2.2)) (List.replicate n 0)

/-- Indices from `lo` (0 ≤ i < n) that a predicate picks. -/
def pick (n : Nat) (p : Nat → Bool) : List Nat := (List.range n).filter p

/-- Saturating addition at 2^w − 1. -/
def satAdd (w : Nat) (a : BitVec w) (n : Nat) : BitVec w :=
  if a.toNat + n < 2 ^ w then BitVec.ofNat w (a.toNat + n) else BitVec.allOnes w

/-! ## Physical keys: one number per byte of the device and of host memory -/

def keySpace : Nat := 2 ^ 72
def shelfKey (r a : Nat) : Nat := keySpace + r * 2 ^ 20 + a
def larderKey (g a : Nat) : Nat := 2 * keySpace + g * 2 ^ 24 + a
/-- Operand cache of a Room (03 R98). -/
def cacheKey (r a : Nat) : Nat := 3 * keySpace + r * 2 ^ 16 + a
/-- Input staging set 0 or 1 of a Room: 8 KiB each (04 R134, R135). -/
def stageInKey (r set a : Nat) : Nat := 4 * keySpace + (r * 2 + set) * 2 ^ 13 + a
/-- Output staging set 0 or 1 of a Room. -/
def stageOutKey (r set a : Nat) : Nat := 5 * keySpace + (r * 2 + set) * 2 ^ 13 + a
/-- Accumulator bytes: bank × 16 KiB + element × 4 (03 R98). -/
def accKey (r a : Nat) : Nat := 6 * keySpace + r * 2 ^ 16 + a
/-- Element flags of the long tile, one byte each (03 R113). -/
def accFlagKey (r a : Nat) : Nat := 7 * keySpace + r * 2 ^ 12 + a
/-- Scales σ and τ of the slice tile, 512 bytes each Room (03 R118). -/
def sliceKey (r a : Nat) : Nat := 8 * keySpace + r * 2 ^ 12 + a
/-- Slot image store: byte 0x0000 to 0x3FFF of slot windows (02 R72). -/
def slotKey (r slot a : Nat) : Nat := 9 * keySpace + (r * 8 + slot) * 2 ^ 14 + a
/-- Address space of a Pantry stack, a Cellar group, an Annex port (05 R163, R169, R171). -/
def pantryKey (stack a : Nat) : Nat := 10 * keySpace + stack * 2 ^ 40 + a
def cellarKey (group a : Nat) : Nat := 11 * keySpace + group * 2 ^ 44 + a
def annexKey (port a : Nat) : Nat := 12 * keySpace + port * 2 ^ 44 + a
/-- Host physical memory, reached by CXL.io (11 R369). -/
def hostKey (a : Nat) : Nat := 13 * keySpace + a

/-! ## Memory of the state -/

def State.read (s : State) (a n : Nat) : List Byte := memReads s.mem a n
def State.readNat (s : State) (a n : Nat) : Nat := leNat (memReads s.mem a n)

/-- A unit of 64 bytes from key `a` to `a + n` that is poisoned. -/
def State.poisoned (s : State) (a n : Nat) : Bool :=
  s.poison.any fun u => decide (a / 64 ≤ u) && decide (u * 64 < a + n)

/-- Write bytes. A write of a whole unit replaces its poison, a partial write leaves it (05 R175). -/
def State.write (s : State) (a : Nat) (bs : List Byte) : State :=
  { s with mem := memWrites s.mem a bs
           poison := s.poison.filter fun u => !(decide (a ≤ u * 64) && decide (u * 64 + 64 ≤ a + bs.length)) }

def State.markPoison (s : State) (unit : Nat) : State := { s with poison := unitAdd s.poison unit }

/-- Zero a range and its poison. -/
def State.clear (s : State) (a n : Nat) : State :=
  { s with mem := memClear s.mem a n
           poison := s.poison.filter fun u => !(decide (a ≤ u * 64) && decide (u * 64 + 64 ≤ a + n)) }

/-- Copy a range with its poison (05 R187: poisoned units are copied as poisoned). Both ends are unit-aligned. -/
def State.copy (s : State) (src dst n : Nat) : State :=
  let bad := (s.poison.filter fun u => decide (src ≤ u * 64) && decide (u * 64 + 64 ≤ src + n)).map
    fun u => u - src / 64 + dst / 64
  let s := { s.clear dst n with mem := memCopy s.mem src dst n }
  bad.foldl (fun s u => s.markPoison u) s

/-! ## Parts of the state by number -/

def State.room (s : State) (r : RoomId) : Room := mapGet {} s.rooms r.toNat
def State.setRoom (s : State) (r : RoomId) (x : Room) : State := { s with rooms := mapSet s.rooms r.toNat x }
def State.updRoom (s : State) (r : RoomId) (f : Room → Room) : State := s.setRoom r (f (s.room r))

def State.wing (s : State) (g : WingId) : Wing := mapGet {} s.wings g.toNat
def State.updWing (s : State) (g : WingId) (f : Wing → Wing) : State :=
  { s with wings := mapSet s.wings g.toNat (f (s.wing g)) }

def State.ctx (s : State) (c : CtxId) : Ctx := mapGet {} s.ctxs c.toNat
def State.updCtx (s : State) (c : CtxId) (f : Ctx → Ctx) : State :=
  { s with ctxs := mapSet s.ctxs c.toNat (f (s.ctx c)) }

def State.bolt (s : State) (b : BoltId) : Bolt := mapGet {} s.bolts b.toNat
def State.setBolt (s : State) (b : BoltId) (x : Bolt) : State := { s with bolts := mapSet s.bolts b.toNat x }

/-- Ports 11 and 23. -/
def isReserved (p : Nat) : Bool := p == 11 || p == 23
def isFlex (p : Nat) : Bool := p == 9 || p == 10 || p == 21 || p == 22

/-- A port at reset: its role, and a torus port's direction (10 R325). -/
def portReset (p : Nat) : Port :=
  { role := if isReserved p then 2 else if isFlex p then 1 else 0
    dir := BitVec.ofNat 3 (if isReserved p || isFlex p || 24 ≤ p then 7 else if p < 12 then p / 3 else p / 3 - 1) }
def State.port (s : State) (p : Nat) : Port := mapGet (portReset p) s.ports p
def State.updPort (s : State) (p : Nat) (f : Port → Port) : State :=
  { s with ports := mapSet s.ports p (f (s.port p)) }

def State.lbx (s : State) (l : Nat) : Lbx := mapGet {} s.lbxs l
def State.updLbx (s : State) (l : Nat) (f : Lbx → Lbx) : State := { s with lbxs := mapSet s.lbxs l (f (s.lbx l)) }

def State.stream (s : State) (i : StreamId) : Option Stream := mapFind s.streams i
def State.setStream (s : State) (i : StreamId) (x : Stream) : State := { s with streams := mapSet s.streams i x }
def State.updStream (s : State) (i : StreamId) (f : Stream → Stream) : State :=
  match s.stream i with
  | some x => s.setStream i (f x)
  | none => s

def State.service (s : State) (i : Nat) : Option Service := mapFind s.services i
def State.updService (s : State) (i : Nat) (f : Service → Service) : State :=
  match s.service i with
  | some x => { s with services := mapSet s.services i (f x) }
  | none => s

def State.seq (s : State) (i : Nat) : Option Seq := mapFind s.seqs i
def State.updSeq (s : State) (i : Nat) (f : Seq → Seq) : State :=
  match s.seq i with
  | some x => { s with seqs := mapSet s.seqs i (f x) }
  | none => s

def State.access (s : State) (id : Nat) : Option Access := s.accesses.find? fun a => a.id == id
def State.updAccess (s : State) (id : Nat) (f : Access → Access) : State :=
  { s with accesses := s.accesses.map fun a => if a.id = id then f a else a }

def State.updEvr (s : State) (f : Evr → Evr) : State := { s with evr := f s.evr }
def State.updIdent (s : State) (f : Ident → Ident) : State := { s with ident := f s.ident }
def State.updLock (s : State) (f : KeyLock → KeyLock) : State := { s with lock := f s.lock }
def State.updI3c (s : State) (f : I3c → I3c) : State := { s with i3c := f s.i3c }

/-- Wing g of a Room, g = 16 × DIE + WING (01 R22, 09 R298); its die. -/
def wingOf (r : RoomId) : WingId := r.extractLsb' 4 6
def dieOf (r : RoomId) : DieId := r.extractLsb' 8 2
def wingDie (g : WingId) : DieId := g.extractLsb' 4 2
def boltDie (b : BoltId) : DieId := b.extractLsb' 13 2
/-- Rooms of a Wing. -/
def wingRooms (g : WingId) : List RoomId := (List.range 16).map fun i => BitVec.ofNat 10 (g.toNat * 16 + i)

/-- The context that owns a Room's Wing. -/
def State.roomCtx (s : State) (r : RoomId) : Option CtxId := (s.wing (wingOf r)).ctx

/-- Wings of a context, ascending, and its Rooms (09 R296). -/
def ctxWings (x : Ctx) : List WingId := (List.range x.wings).map fun i => BitVec.ofNat 6 (x.first.toNat + i)
def ctxRooms (x : Ctx) : List RoomId := (ctxWings x).flatMap wingRooms
/-- Wings and Rooms that a context holds now: none while it is pre-empted (09 R319). -/
def State.ownWings (s : State) (c : CtxId) : List WingId := (ctxWings (s.ctx c)).filter fun g => (s.wing g).ctx == some c
def State.ownRooms (s : State) (c : CtxId) : List RoomId := (s.ownWings c).flatMap wingRooms

/-- A Bolt operation reaches the engine of the Bolt's die (09 R306; assumption 22). -/
def State.boltAsk (s : State) (q : BoltReq) : State :=
  let d := (boltDie q.bolt).toNat
  { s with boltQ := mapSet s.boltQ d (mapGet [] s.boltQ d ++ [q]) }

/-- Units run: the device is out of reset, and no fatal latch has stopped them (15 R477 step 1). -/
def State.live (s : State) : Bool := s.devSt == .running && !s.fatalLatch

/-- One hc of North: DEV_HC_COUNT advances unless the device is held in reset (12 R403). -/
def State.tick (s : State) : State := if s.romWait = .reset then s else { s with hc := s.hc + 1 }

/-- 1,536ths of a tc in one hc at a clock step: 1.9 or 1.7 GHz × (64 − 3 × step) ÷ 64 against 2.4 GHz (00 R13, 13 R416). -/
def tcRate (step : Nat) : Nat := (if Config.partG17 then 17 else 19) * (64 - 3 * step)

/-- Tensor clock of a die since reset at a value of DEV_HC_COUNT, in 1,536ths of a tc. -/
def State.tc1536 (s : State) (die hc : Nat) : Nat :=
  match ((s.power.clocks.find? fun e => e.1 == die).map (·.2)).bind fun l => l.find? fun r => decide (r.1 ≤ hc) with
  | some (h, t, step) => t + (hc - h) * tcRate step
  | none => hc * tcRate 0

/-- Fields of a slot image header (02 R73), and of any image word. -/
def State.hdr (s : State) (r : RoomId) (slot : SlotId) (off n : Nat) : Nat :=
  s.readNat (slotKey r.toNat slot.toNat off) n

/-! ## Free values (assumption 3) -/

/-- The next free value. -/
def State.freeVal (s : State) : W64 := Config.freeWord s.fresh
def State.bumpFree (s : State) : State := { s with fresh := s.fresh + 1 }

/-! ## Interrupts (11 R368) -/

/-- Raise a vector of function `fn` (0 the PF, n VF n): a masked vector stays pending (assumption 42: every vector is masked
after reset). PF vectors 2 to 6 set their DEV_ISTAT bit (12 R403). -/
def State.raiseVec (s : State) (fn vec : Nat) : State :=
  let k := fn * 16 + vec
  let s := if fn = 0 && decide (2 ≤ vec) then { s with devIstat := s.devIstat ||| BitVec.ofNat 5 (2 ^ (vec - 2)) } else s
  if s.msixOpen.contains k then { s with irqs := s.irqs ++ [k] } else { s with msixPend := unitAdd s.msixPend k }

/-! ## Letterbox output (13 R420, R424, R447) -/

/-- A response to the request with a TAG, the last one or an ACCEPTED (R423): the first one lets the next command start. A
command whose Letterbox has been reset since it started writes none (R426). -/
def State.answer (s : State) (l : Nat) (tag : W64) (op : Nat) (c : CtxId) (fin : Bool) (status : Nat) (detail : Nat := 0)
    (result : List (Nat × Nat × Nat) := []) : State :=
  if (s.lbx l).mute.contains tag then
    if fin then s.updLbx l fun b => { b with mute := b.mute.erase tag } else s
  else
    s.updLbx l fun b =>
      { b with busy := b.busy && fin && b.long.contains tag
               long := if fin then b.long.erase tag else b.long ++ [tag]
               outq := b.outq ++ [{ opcode := BitVec.ofNat 16 op, ctx := c, fin, status := BitVec.ofNat 8 status
                                    detail := BitVec.ofNat 8 detail, tag, result }] }

/-- An event: dropped and counted when 256 wait. Its TAG is the Letterbox's event sequence number. -/
def State.event (s : State) (l : Nat) (code : Nat) (c : CtxId) (payload : List (Nat × Nat × Nat)) : State :=
  let b := s.lbx l
  if b.events < 256 then
    s.updLbx l fun b =>
      { b with events := b.events + 1, evSeq := b.evSeq + 1
               outq := b.outq ++ [{ opcode := BitVec.ofNat 16 code, ctx := c, fin := false, event := true
                                    tag := b.evSeq, result := payload }] }
  else { s.updLbx l (fun b => { b with lost := satAdd 32 b.lost 1 }) with
      diag := { s.diag with evtLost := satAdd 32 s.diag.evtLost 1 } }

/-- A context event goes to the context's Letterbox, a device event to the management Letterbox (R447). -/
def State.ctxEvent (s : State) (c : CtxId) (code : Nat) (payload : List (Nat × Nat × Nat)) : State :=
  s.event (c.toNat + 1) code c payload
def State.devEvent (s : State) (code : Nat) (payload : List (Nat × Nat × Nat)) : State := s.event 0 code 0 payload

/-! ## Errors (15 R470 to R474) -/

/-- Base severity of a class (R472). -/
def severity (cls : Nat) : Nat :=
  if [0x01, 0x02, 0x03, 0x04, 0x05, 0x06, 0x07, 0x08, 0x09, 0x0B, 0x0E, 0x2C].contains cls then 3
  else if [0x39, 0x3A, 0x3B, 0x3D, 0x42, 0x44].contains cls then 4
  else if [0x18, 0x1A, 0x1E, 0x31, 0x38, 0x3C].contains cls then 1
  else if [0x19, 0x1B, 0x1C, 0x1D, 0x1F, 0x21, 0x29, 0x2A, 0x2B, 0x35].contains cls then 2
  else 0

/-- An error arrives at the error queue (R474): merged into the tail entry, queued, or counted as an overflow; a FATAL
error sets the latch. -/
def State.raise (s : State) (e : Err) : State :=
  let e := { e with stamp := s.hc }
  let s := if severity e.cls = 4 then
      { s with fatalLatch := true, fatalErr := if s.fatalLatch then s.fatalErr else some e } else s
  let merges := match s.errQ.getLast? with
    | some t => severity e.cls ≤ 1 && t.cls == e.cls && t.unit == e.unit && t.code == e.code && t.addr == e.addr
    | none => false
  if merges then
    { s with errQ := s.errQ.dropLast ++ (s.errQ.getLast?.toList.map fun t => { t with count := t.count + e.count }) }
  else if s.errQ.length < 16 then { s with errQ := s.errQ ++ [e] }
  else
    { s with errOvf := mapSet s.errOvf e.cls (mapGet 0 s.errOvf e.cls + 1)
             reported := s.reported.filter fun k => k != e.cls * 2 ^ 16 + e.unit }

/-- An error of a Room with its context (R471). -/
def State.roomError (s : State) (r : RoomId) (cls code : Nat) (addr : W64 := 0) : State :=
  s.raise { cls, code := BitVec.ofNat 8 code, src := 0, unit := r.toNat, ctx := s.roomCtx r, addr }

/-- A Room faults: RUNST FAULT, its CFB_FAULT bit if it has one, and the error reported (02 R77, 04 R153, 05 R188). -/
def State.faultRoom (s : State) (r : RoomId) (cls code : Nat) (bit : Option Nat := none) (addr : W64 := 0) : State :=
  let s := s.updRoom r fun x =>
    { x with runst := .fault, cause := some (cls, code), firePending := false, switching := none
             fault := match bit with
               | some i => x.fault ||| BitVec.ofNat 7 (2 ^ i)
               | none => x.fault }
  s.roomError r cls code addr

/-! ## Triplicated values (12 R396) -/

/-- Majority of a triplicated value (12 R396). -/
def vote (t : Tv) : W64 := (t.a &&& t.b) ||| (t.a &&& t.c) ||| (t.b &&& t.c)

/-- Read a triplicated value through its place in the state: the majority, written back and counted when a copy differs. -/
def State.readTv (s : State) (t : Tv) (put : Tv → State → State) : State × W64 :=
  let v := vote t
  if t.a = v && t.b = v && t.c = v then (s, v)
  else
    let s := put { a := v, b := v, c := v } s
    (({ s with diag := { s.diag with tvCorr := satAdd 32 s.diag.tvCorr 1 } }).raise { cls := 0x31, src := 10, unit := 0 }, v)

end Sys2Proof.Machine
end

