-- ==== Sys2Proof/Machine/Flags.lean ====
section
/-! DEFINITION. Numbers: exact values, the formats of 03 R90, conversions and their flags (R92 to R97), IEEE
operations (04 R143), reductions (R144), special functions (R145) and the vector counters (R152). -/

namespace Sys2Proof.Machine

/-! ## Exact values -/

/-- A value: NaN, an infinity, or ± m × 2^e (m = 0 a signed zero). -/
inductive Val where
  | nan
  | inf (neg : Bool)
  | fin (neg : Bool) (m : Nat) (e : Int)
  deriving DecidableEq, Repr

/-- m × 2^e in units of 2^q, rounded to nearest even or (`rtz`) toward zero. -/
def roundUnits (m : Nat) (e q : Int) (rtz : Bool) : Nat :=
  if q ≤ e then m * 2 ^ (e - q).toNat
  else
    let d := (q - e).toNat
    let f := m / 2 ^ d
    let r := m % 2 ^ d
    if rtz || 2 * r < 2 ^ d || (2 * r == 2 ^ d && f % 2 == 0) then f else f + 1

/-- ± m × 2^e with the sign of an integer. -/
def valOfInt (i : Int) (e : Int) : Val := .fin (decide (i < 0)) i.natAbs e

def valNeg : Val → Val
  | .nan => .nan
  | .inf n => .inf (!n)
  | .fin n m e => .fin (!n) m e

def valAbs : Val → Val
  | .nan => .nan
  | .inf _ => .inf false
  | .fin _ m e => .fin false m e

def valMul : Val → Val → Val
  | .nan, _ => .nan
  | _, .nan => .nan
  | .inf a, .inf b => .inf (a != b)
  | .inf a, .fin b m _ => if m = 0 then .nan else .inf (a != b)
  | .fin a m _, .inf b => if m = 0 then .nan else .inf (a != b)
  | .fin a m e, .fin b n f => .fin (a != b) (m * n) (e + f)

/-- Signed mantissa in units of 2^q, q at most its exponent. -/
def valInt (q : Int) : Val → Int
  | .fin n m e => (if n then -1 else 1) * ((m * 2 ^ (e - q).toNat : Nat) : Int)
  | _ => 0

def valIsNan (v : Val) : Bool := v == .nan
def valIsInf : Val → Bool
  | .inf _ => true
  | _ => false
def valIsFin : Val → Bool
  | .fin _ _ _ => true
  | _ => false
def valIsZero : Val → Bool
  | .fin _ m _ => m == 0
  | _ => false
def valIsNeg : Val → Bool
  | .inf n => n
  | .fin n _ _ => n
  | .nan => false

/-- Exact sum (03 R108, R109, 04 R144): NaN with a NaN or with infinities of both signs; a zero sum is −0 when every
term is −0 (or there is none), +0 otherwise. -/
def valSum (l : List Val) : Val :=
  if l.any valIsNan || (l.contains (.inf false) && l.contains (.inf true)) then .nan
  else if l.contains (.inf false) then .inf false
  else if l.contains (.inf true) then .inf true
  else
    let q := l.foldl (fun q v => match v with
      | .fin _ m e => if m = 0 then q else min q e
      | _ => q) 0
    let t := l.foldl (fun t v => t + (if valIsZero v then 0 else valInt q v)) (0 : Int)
    if t = 0 then .fin (l.all fun v => valIsZero v && valIsNeg v) 0 0 else valOfInt t q

/-- Order of two finite or infinite values: a < b. −0 and +0 are equal. -/
def valLt (a b : Val) : Bool :=
  match a, b with
  | .nan, _ => false
  | _, .nan => false
  | .inf n, .inf n' => n && !n'
  | .inf n, .fin _ _ _ => n
  | .fin _ _ _, .inf n => !n
  | .fin _ m e, .fin _ m' e' =>
    let q := min (if m = 0 then e' else e) (if m' = 0 then e else e')
    decide ((if m = 0 then 0 else valInt q a) < (if m' = 0 then 0 else valInt q b))

def valEq (a b : Val) : Bool := !valIsNan a && !valIsNan b && !valLt a b && !valLt b a

/-! ## Formats (03 R90) -/

def fmtBits : Nat → Nat
  | 0x00 | 0x04 => 4
  | 0x05 | 0x06 => 6
  | 0x01 | 0x02 | 0x03 | 0x07 | 0x08 | 0x09 => 8
  | 0x0A | 0x0B => 16
  | 0x0C | 0x0E => 32
  | 0x0D => 64
  | _ => 0

def fmtIsMx (f : Nat) : Bool := decide (0x04 ≤ f) && decide (f ≤ 0x09)
def fmtIsInt (f : Nat) : Bool := f == 0x00 || f == 0x01 || f == 0x0E
/-- Mantissa bits and exponent bias of a floating format (element formats for MX). -/
def fmtMant : Nat → Nat
  | 0x02 | 0x07 => 3
  | 0x03 | 0x08 => 2
  | 0x04 => 1
  | 0x05 => 3
  | 0x06 => 2
  | 0x0A => 7
  | 0x0B => 10
  | 0x0C => 23
  | _ => 52
def fmtExp : Nat → Nat
  | 0x02 | 0x07 => 4
  | 0x03 | 0x08 => 5
  | 0x04 => 2
  | 0x05 => 2
  | 0x06 => 3
  | 0x0A => 8
  | 0x0B => 5
  | 0x0C => 8
  | _ => 11
def fmtBias : Nat → Int
  | 0x02 | 0x07 => 7
  | 0x03 | 0x08 => 15
  | 0x04 => 1
  | 0x05 => 1
  | 0x06 => 3
  | 0x0A => 127
  | 0x0B => 15
  | 0x0C => 127
  | _ => 1023
/-- Formats with infinities (IEEE shape), E4M3, and the 4- and 6-bit MX elements, which have neither Inf nor NaN. -/
def fmtIeee (f : Nat) : Bool := [0x03, 0x08, 0x0A, 0x0B, 0x0C, 0x0D].contains f
def fmtE4m3 (f : Nat) : Bool := f == 0x02 || f == 0x07
/-- Magnitude bits of the largest finite value. -/
def fmtMax (f : Nat) : Nat :=
  let all := 2 ^ (fmtExp f + fmtMant f) - 1
  if fmtIeee f then all - 2 ^ fmtMant f else if fmtE4m3 f then all - 1 else all
/-- Magnitude bits of Inf; the default NaN of R96. -/
def fmtInf (f : Nat) : Nat := (2 ^ fmtExp f - 1) * 2 ^ fmtMant f
def fmtNan (f : Nat) : Nat :=
  if fmtE4m3 f then 0x7F else fmtInf f + 2 ^ (fmtMant f - 1)
def fmtSign (f : Nat) : Nat := 2 ^ (fmtExp f + fmtMant f)

/-- Value of an element: floating formats by their fields, INT formats as integers, MXINT8 as integer × 2⁻⁶. -/
def decodeFmt (f bits : Nat) : Val :=
  if fmtIsInt f then valOfInt (signedOf bits (fmtBits f)) 0
  else if f = 0x09 then valOfInt (signedOf bits 8) (-6)
  else
    let n := bitOf bits (fmtExp f + fmtMant f)
    let mag := bits % fmtSign f
    let ex := mag / 2 ^ fmtMant f
    let ma := mag % 2 ^ fmtMant f
    if fmtIeee f && mag == fmtInf f then .inf n
    else if fmtIeee f && decide (fmtInf f < mag) then .nan
    else if fmtE4m3 f && mag == 0x7F then .nan
    else if ex = 0 then .fin n ma (1 - fmtBias f - fmtMant f)
    else .fin n (2 ^ fmtMant f + ma) ((ex : Int) - fmtBias f - fmtMant f)

/-- What a conversion did: result NaN, result Inf, saturated, NaN made 0. -/
structure CvtFlags where
  nan : Bool := false
  inf : Bool := false
  sat : Bool := false
  nan0 : Bool := false
  deriving DecidableEq, Repr

/-- Magnitude bits of ± m × 2^e rounded to a floating format as if its exponent were unbounded above. -/
def roundMag (f m : Nat) (e : Int) (rtz : Bool) : Nat :=
  if m = 0 then 0
  else
    let top : Int := Nat.log2 m + e
    let q := max top (1 - fmtBias f) - fmtMant f
    let r := roundUnits m e q rtz
    ((q + fmtMant f + fmtBias f).toNat - 1) * 2 ^ fmtMant f + r

/-- Conversion to a floating format under R95. -/
def toFloat (f : Nat) (rtz sat : Bool) (v : Val) : Nat × CvtFlags :=
  let sg (n : Bool) := if n then fmtSign f else 0
  match v with
  | .nan => (fmtNan f, { nan := true })
  | .inf n =>
    if sat || !fmtIeee f then (sg n + fmtMax f, { sat := true }) else (sg n + fmtInf f, { inf := true })
  | .fin n m e =>
    let mag := roundMag f m e rtz
    if mag ≤ fmtMax f then (sg n + mag, {})
    else if sat || rtz || !fmtIeee f then (sg n + fmtMax f, { sat := true })
    else (sg n + fmtInf f, { inf := true })

/-- Conversion to an integer format of `w` bits under R95, as two's complement bits. -/
def toInt (w : Nat) (rtz : Bool) (v : Val) : Nat × CvtFlags :=
  let hi : Int := 2 ^ (w - 1) - 1
  let lo : Int := -2 ^ (w - 1)
  match v with
  | .nan => (0, { nan0 := true })
  | .inf n => (wrapInt (if n then lo else hi) w, { sat := true })
  | .fin n m e =>
    let a : Int := roundUnits m e 0 rtz
    let i := if n then -a else a
    if i < lo then (wrapInt lo w, { sat := true })
    else if hi < i then (wrapInt hi w, { sat := true })
    else (wrapInt i w, {})

/-- Conversion of one value to a non-MX format. -/
def toFmt (f : Nat) (rtz sat : Bool) (v : Val) : Nat × CvtFlags :=
  if fmtIsInt f then toInt (fmtBits f) rtz v else toFloat f rtz sat v

/-- emax of R97 step 2. -/
def mxEmax : Nat → Int
  | 0x04 | 0x05 => 2
  | 0x06 => 4
  | 0x07 => 8
  | 0x08 => 15
  | _ => 0

/-- floor(log₂ |v|) of a finite nonzero value. -/
def valLog2 : Val → Int
  | .fin _ m e => Nat.log2 m + e
  | _ => 0

/-- An element of an MX block with shared exponent X (R97 step 4): bits and whether it saturated. -/
def mxElem (f : Nat) (x : Int) (rtz : Bool) : Val → Nat × Bool
  | .fin n m e =>
    if f = 0x09 then
      let (b, fl) := toInt 8 rtz (.fin n m (e - (x - 6)))
      (b, fl.sat)
    else
      let mag := roundMag f m (e - x) rtz
      if mag ≤ fmtMax f then ((if n then fmtSign f else 0) + mag, false)
      else ((if n then fmtSign f else 0) + fmtMax f, true)
  | _ => (0, false)

/-- A block into an MX format (R97): scale byte, elements, whether the block is NaN, saturated elements. -/
def mxBlock (f : Nat) (rtz : Bool) (vs : List Val) : Nat × List Nat × Bool × Nat :=
  if vs.any (fun v => !valIsFin v) then (0xFF, vs.map fun _ => 0, true, 0)
  else
    let x := (vs.filter fun v => !valIsZero v).foldl (fun x v =>
      match x with
      | none => some (valLog2 v)
      | some y => some (max y (valLog2 v))) (none : Option Int)
    let x : Int := match x with
      | none => -127
      | some l => max (-127) (min 127 (l - mxEmax f))
    let es := vs.map (mxElem f x rtz)
    ((x + 127).toNat, es.map (·.1), false, (es.filter (·.2)).length)

/-- Value of a block scale byte (R92), and of an element with its scale. -/
def mxScaled (scale : Nat) (v : Val) : Val :=
  if scale = 0xFF then .nan
  else match v with
    | .fin n m e => .fin n m (e + (scale : Int) - 127)
    | v => v

/-! ## IEEE operations on bits of a floating format (04 R143) -/

def fpRound (f : Nat) (v : Val) : Nat := (toFloat f false false v).1

def fpAdd (f a b : Nat) : Nat := fpRound f (valSum [decodeFmt f a, decodeFmt f b])
def fpSub (f a b : Nat) : Nat := fpRound f (valSum [decodeFmt f a, valNeg (decodeFmt f b)])
def fpMul (f a b : Nat) : Nat := fpRound f (valMul (decodeFmt f a) (decodeFmt f b))
def fpFma (f a b c : Nat) : Nat := fpRound f (valSum [valMul (decodeFmt f a) (decodeFmt f b), decodeFmt f c])

/-- −0 orders below +0; a NaN operand gives the default NaN. -/
def fpLess (a b : Val) : Bool := valLt a b || (valIsZero a && valIsZero b && valIsNeg a && !valIsNeg b)
def fpMin (f a b : Nat) : Nat :=
  let x := decodeFmt f a
  let y := decodeFmt f b
  if valIsNan x || valIsNan y then fmtNan f else if fpLess y x then b else a
def fpMax (f a b : Nat) : Nat :=
  let x := decodeFmt f a
  let y := decodeFmt f b
  if valIsNan x || valIsNan y then fmtNan f else if fpLess x y then b else a

/-- Quotient with a sticky bit below at least 80 exact bits: rounds as the exact quotient does. -/
def valDiv : Val → Val → Val
  | .nan, _ => .nan
  | _, .nan => .nan
  | .inf _, .inf _ => .nan
  | .inf a, .fin b _ _ => .inf (a != b)
  | .fin a _ _, .inf b => .fin (a != b) 0 0
  | .fin a m e, .fin b n f =>
    if n = 0 then (if m = 0 then .nan else .inf (a != b))
    else
      let t := m * 2 ^ 140
      .fin (a != b) (if m = 0 then 0 else 2 * (t / n) + (if t % n = 0 then 0 else 1)) (e - f - 141)
def fpDiv (f a b : Nat) : Nat := fpRound f (valDiv (decodeFmt f a) (decodeFmt f b))

/-- Largest r with r² ≤ n, by bits from `k` down. -/
def isqrtBits (n : Nat) : Nat → Nat → Nat
  | 0, r => r
  | k + 1, r =>
    let r' := r + 2 ^ k
    isqrtBits n k (if r' * r' ≤ n then r' else r)

/-- Square root with a sticky bit (of a value whose mantissa is below 2^56). -/
def valSqrt : Val → Val
  | .nan => .nan
  | .inf n => if n then .nan else .inf false
  | .fin n m e =>
    if m = 0 then .fin n 0 0
    else if n then .nan
    else
      let odd := e % 2 ≠ 0
      let m' := (if odd then 2 * m else m) * 2 ^ 140
      let e' := (if odd then e - 1 else e) - 140
      let r := isqrtBits m' 100 0
      .fin false (2 * r + (if r * r = m' then 0 else 1)) (e' / 2 - 1)
def fpSqrt (f a : Nat) : Nat := fpRound f (valSqrt (decodeFmt f a))

/-- Compare of R143: SUB 0 EQ, 1 LT, 2 LE, 3 UNORD. -/
def fpCmp (f sub a b : Nat) : Bool :=
  let x := decodeFmt f a
  let y := decodeFmt f b
  match sub with
  | 0 => valEq x y
  | 1 => valLt x y
  | 2 => valLt x y || valEq x y
  | _ => valIsNan x || valIsNan y

/-- The default NaN for any NaN (R96). -/
def fpCanon (f a : Nat) : Nat := if valIsNan (decodeFmt f a) then fmtNan f else a

/-- Sign-only operations keep every bit but the sign; a NaN gives the default NaN (R96). -/
def fpAbs (f a : Nat) : Nat := fpCanon f (a % fmtSign f)
def fpNeg (f a : Nat) : Nat := fpCanon f (if bitOf a (fmtExp f + fmtMant f) then a % fmtSign f else a + fmtSign f)

/-! ## Special functions (R145): the stated special values and exact results; the rest is free (assumption 4) -/

def fp32One : Nat := 0x3F800000
def fp32Inf : Nat := 0x7F800000
def fp32Nan : Nat := 0x7FC00000
def fp32NegInf : Nat := 0xFF800000

/-- m = 2^k. -/
def isPow2 (m : Nat) : Bool := m != 0 && 2 ^ Nat.log2 m == m

/-- Integer value of an exact value, when it is one of at most 2^10 in size. -/
def valAsInt : Val → Option Int
  | .fin n m e =>
    if m = 0 then some 0
    else if 0 ≤ e then (if e ≤ 10 && m < 2 ^ 11 then some ((if n then -1 else 1) * ((m * 2 ^ e.toNat : Nat) : Int)) else none)
    else
      let d := (-e).toNat
      if m % 2 ^ d = 0 then some ((if n then -1 else 1) * ((m / 2 ^ d : Nat) : Int)) else none
  | _ => none

/-- The stated result of special function `sel` (0 to 7 VSFU0 SUB, 8 to 10 VSFU1 SUB), if the rule states one. -/
def sfuStated (sel x : Nat) : Option Nat :=
  match sel, decodeFmt 0x0C x with
  | _, .nan => some fp32Nan
  | 0, .inf n => some (if n then 0x80000000 else 0)
  | 0, .fin n m e =>
    let sg := if n then 0x80000000 else 0
    if m = 0 then some (sg + fp32Inf)
    else if isPow2 m then some (fpRound 0x0C (.fin n 1 (-(Nat.log2 m + e))))
    else if Nat.log2 m + e < -128 then some (sg + fp32Inf)
    else none
  | 1, .inf n => some (if n then fp32Nan else 0)
  | 1, .fin n m e =>
    if m = 0 then some (if n then fp32NegInf else fp32Inf)
    else if n then some fp32Nan
    else if isPow2 m && (Nat.log2 m + e) % 2 == 0 then some (fpRound 0x0C (.fin false 1 (-((Nat.log2 m + e) / 2))))
    else none
  | 2, .inf n => some (if n then 0 else fp32Inf)
  | 2, .fin n m e =>
    if !valLt (.fin n m e) (.fin false 128 0) then some fp32Inf
    else match valAsInt (.fin n m e) with
      | some i => if 0 ≤ i then some (fpRound 0x0C (.fin false 1 i)) else none
      | none => none
  | 3, .inf n => some (if n then fp32Nan else fp32Inf)
  | 3, .fin n m e =>
    if m = 0 then some fp32NegInf
    else if n then some fp32Nan
    else if isPow2 m then some (fpRound 0x0C (valOfInt (Nat.log2 m + e) 0))
    else none
  | 4, .inf n => some (if n then 0 else fp32Inf)
  | 4, .fin n m _ => if m = 0 then some fp32One else if !n && 0x42B17218 ≤ x then some fp32Inf else none
  | 5, .inf n => some (if n then fp32Nan else fp32Inf)
  | 5, .fin n m _ =>
    if m = 0 then some fp32NegInf else if n then some fp32Nan else if x = fp32One then some 0 else none
  | 6, .inf n => some (if n then 0xBF800000 else fp32One)
  | 7, .inf n => some (if n then 0 else fp32One)
  | 8, .inf n => some (if n then 0xBF800000 else fp32One)
  | 9, .inf _ => some fp32Nan
  | 10, .inf _ => some fp32Nan
  | _, _ => none

/-! Exact results to far more than the bounds of R145, in units of 2^−512. -/

def fixOne : Int := 2 ^ 512

/-- Σ p/(2i + 1) over p, p/d, p/d², … with alternating signs when `alt` (the series of atan and atanh). -/
def oddSeries (alt : Bool) (d : Int) : Nat → Nat → Int → Int
  | 0, _, _ => 0
  | n + 1, i, p => p / (2 * i + 1) + oddSeries alt d n (i + 1) (if alt then -(p / d) else p / d)

/-- ln 2 = 2 atanh(1/3); π = 16 atan(1/5) − 4 atan(1/239). -/
def fixLn2 : Int := 2 * oddSeries false 9 170 0 (fixOne / 3)
def fixPi : Int := 16 * oddSeries true 25 120 0 (fixOne / 5) - 4 * oddSeries true 57121 40 0 (fixOne / 239)

/-- A finite value in units of 2^−512. -/
def fixOf : Val → Int
  | .fin n m e =>
    let a : Int := if 0 ≤ e + 512 then m * 2 ^ (e + 512).toNat else m / 2 ^ (-(e + 512)).toNat
    if n then -a else a
  | _ => 0

def fixMul (a b : Int) : Int := a * b / fixOne
def fixDiv (a b : Int) : Int := a * fixOne / b

/-- Σ t, t·r/(i + 1), … (the series of the exponential). -/
def expSeries (r : Int) : Nat → Nat → Int → Int
  | 0, _, _ => 0
  | n + 1, i, t => t + expSeries r n (i + 1) (fixMul t r / (i + 1))

/-- Σ t, −t·q/((i + 1)(i + 2)), … (the series of sine and cosine, q the square). -/
def trigSeries (q : Int) : Nat → Nat → Int → Int
  | 0, _, _ => 0
  | n + 1, i, t => t + trigSeries q n (i + 2) (-(fixMul t q / ((i + 1) * (i + 2))))

/-- Σ t, t·z/(2i + 3), … (the series of erf). -/
def erfSeries (z : Int) : Nat → Nat → Int → Int
  | 0, _, _ => 0
  | n + 1, i, t => t + erfSeries z n (i + 1) (fixMul t z / (2 * i + 3))

/-- Σ p/(2i + 1) over p, p·q, p·q², … (the series of atanh). -/
def atanhSeries (q : Int) : Nat → Nat → Int → Int
  | 0, _, _ => 0
  | n + 1, i, p => p / (2 * i + 1) + atanhSeries q n (i + 1) (fixMul p q)

/-- e^t as a value; e^−|t| in units. -/
def expVal (t : Int) : Val :=
  if t < -(5000 * fixOne) then .fin false 0 0
  else
    let k := t / fixLn2
    valOfInt (expSeries (t - k * fixLn2) 120 0 fixOne) (k - 512)
def expNeg (t : Int) : Int := fixOf (expVal (-(t.natAbs : Int)))

/-- ln of a positive finite value, in units. -/
def fixLn : Val → Int
  | .fin _ m e =>
    let l := Nat.log2 m
    let f := fixOf (.fin false m (-(l : Int)))
    let z := fixDiv (f - fixOne) (f + fixOne)
    (l + e) * fixLn2 + 2 * atanhSeries (fixMul z z) 170 0 z
  | _ => 0

/-- Sine (`c` false) or cosine of a fixed-point angle. -/
def fixTrig (c : Bool) (t : Int) : Int :=
  let h := fixPi / 2
  let k := (t + h / 2) / h
  let r := t - k * h
  let q := fixMul r r
  let i := (k + boolNat c) % 4
  let v := if i % 2 = 0 then trigSeries q 80 1 r else trigSeries q 80 0 fixOne
  if 2 ≤ i then -v else v

def fixErf (t : Int) : Int :=
  let a : Int := t.natAbs
  let v := if 8 * fixOne ≤ a then fixOne
    else
      let q := fixMul a a
      let root : Int := isqrtBits (fixPi * fixOne).toNat 514 0
      fixDiv (2 * fixMul (expNeg q) (erfSeries (2 * q) 500 0 a)) root
  if t < 0 then -v else v

/-- The exact result of special function `sel` on a finite operand for which no result is stated, to 2^−60 and better. -/
def sfuExact (sel : Nat) (v : Val) : Val :=
  let t := fixOf v
  let a : Int := t.natAbs
  let fix (i : Int) : Val := valOfInt i (-512)
  match sel with
  | 0 => valDiv (.fin false 1 0) v
  | 1 => valDiv (.fin false (2 ^ 200) (-200)) (valSqrt v)
  | 2 => expVal (fixMul t fixLn2)
  | 3 => fix (fixDiv (fixLn v) fixLn2)
  | 4 => expVal t
  | 5 => fix (fixLn v)
  | 6 =>
    let e := expNeg (2 * a)
    let y := fixDiv (fixOne - e) (fixOne + e)
    fix (if t < 0 then -y else y)
  | 7 =>
    let e := expNeg a
    fix (fixDiv (if t < 0 then e else fixOne) (fixOne + e))
  | 8 => fix (fixErf t)
  | 9 => fix (fixTrig false t)
  | _ => fix (fixTrig true t)

/-- The bound of R145 in ulp. -/
def sfuUlps (sel : Nat) : Nat := if sel ≤ 3 then 1 else 2

/-- ± a magnitude of a floating format, the one past the largest finite taken as the next power of 2. -/
def magVal (f bits : Nat) : Val :=
  let n := bitOf bits (fmtExp f + fmtMant f)
  let mag := bits % fmtSign f
  let ex := mag / 2 ^ fmtMant f
  let ma := mag % 2 ^ fmtMant f
  if ex = 0 then .fin n ma (1 - fmtBias f - fmtMant f) else .fin n (2 ^ fmtMant f + ma) ((ex : Int) - fmtBias f - fmtMant f)

/-- A result lies within `n` units in the last place of an exact value, up to 2^−40 of one. -/
def withinUlp (f n : Nat) (a : Val) (bits : Nat) : Bool :=
  let u := max (if valIsZero a then 1 - fmtBias f else valLog2 a) (1 - fmtBias f) - fmtMant f
  !valLt (.fin false (n * 2 ^ 40 + 1) (u - 40)) (valAbs (valSum [magVal f bits, valNeg a]))

/-- Every result within `n` units in the last place of an exact value; past the largest finite it is Inf (R145). -/
def ulpChoices (f n : Nat) (a : Val) : List Nat :=
  let y := fpRound f a
  let s : Int := if bitOf y (fmtExp f + fmtMant f) then -((y % fmtSign f : Nat) : Int) else (y : Int)
  ((List.range (2 * n + 1)).flatMap fun (k : Nat) =>
    let t : Int := s + (k : Int) - (n : Int)
    if fmtInf f < t.natAbs then []
    else if t = 0 then [0, fmtSign f]
    else [if t < 0 then fmtSign f + t.natAbs else t.natAbs]).filter (withinUlp f n a)

/-- The result of a free choice `c` among those the bound leaves (assumption 4). -/
def ulpPick (f n : Nat) (a : Val) (c : Nat) : Nat :=
  let l := ulpChoices f n a
  l.getD (c % l.length) (fpRound f a)

def sfuResult (sel x : Nat) : Nat :=
  match sfuStated sel x with
  | some y => y
  | none => ulpPick 0x0C (sfuUlps sel) (sfuExact sel (decodeFmt 0x0C x)) (Config.sfu sel (BitVec.ofNat 32 x)).toNat

/-- DEXP (0) and DLN (1). -/
def sfuDStated (sel x : Nat) : Option Nat :=
  match sel, decodeFmt 0x0D x with
  | _, .nan => some (fmtNan 0x0D)
  | 0, .inf n => some (if n then 0 else fmtInf 0x0D)
  | 0, .fin n m _ =>
    if m = 0 then some 0x3FF0000000000000 else if !n && 0x40862E42FEFA39F0 ≤ x then some (fmtInf 0x0D) else none
  | _, .inf n => some (if n then fmtNan 0x0D else fmtInf 0x0D)
  | _, .fin n m _ =>
    if m = 0 then some (fmtSign 0x0D + fmtInf 0x0D) else if n then some (fmtNan 0x0D)
    else if x = 0x3FF0000000000000 then some 0 else none

def sfuDResult (sel x : Nat) : Nat :=
  match sfuDStated sel x with
  | some y => y
  | none => ulpPick 0x0D 1 (sfuExact (4 + sel) (decodeFmt 0x0D x)) (Config.sfuD sel (BitVec.ofNat 64 x)).toNat

/-! ## Counters (R152) -/

def addCnt (c : VCounters) (invalid inf sat ignored range : Nat) : VCounters :=
  { invalid := satAdd 32 c.invalid invalid, inf := satAdd 32 c.inf inf, sat := satAdd 32 c.sat sat
    ignored := satAdd 32 c.ignored ignored, range := satAdd 32 c.range range }

/-- Lanes of an operation that made the default NaN from inputs that are not NaN, and ±Inf from finite inputs. -/
def opNan (f : Nat) (ins : List Nat) (out : Nat) : Bool :=
  valIsNan (decodeFmt f out) && ins.all fun x => !valIsNan (decodeFmt f x)
def opInf (f : Nat) (ins : List Nat) (out : Nat) : Bool :=
  valIsInf (decodeFmt f out) && ins.all fun x => valIsFin (decodeFmt f x)

/-! ## Reductions (R144) -/

/-- One level of the pairwise tree. -/
def pairUp {α : Type} (g : α → α → α) : List α → List α
  | a :: b :: l => g a b :: pairUp g l
  | l => l

/-- Pairwise tree of 2^k values. -/
def treeFold {α : Type} (g : α → α → α) : Nat → List α → List α
  | 0, l => l
  | k + 1, l => treeFold g k (pairUp g l)

/-! ## CRC-32C (02 R73, 15 R478) -/

def crcBit : Nat → Nat → Nat
  | 0, c => c
  | k + 1, c => crcBit k (if c % 2 = 1 then (c / 2) ^^^ 0x82F63B78 else c / 2)

def crc32c (bs : List Byte) : Nat := bs.foldl (fun c b => crcBit 8 (c ^^^ b.toNat)) 0xFFFFFFFF ^^^ 0xFFFFFFFF

end Sys2Proof.Machine
end

