-- ==== Sys2Proof/Machine/Operands.lean ====
section
/-! DEFINITION. Operand forms: the fields of instruction words (03 R103, R120, 04 R136), of slot headers (02 R73), of
device virtual addresses (01 R39 to R45) and of Letterbox requests (13 R419), and packed elements (03 R91). -/

namespace Sys2Proof.Machine

/-! ## Vector words (04 R136, R142) -/

def wOp (w : Nat) : Nat := bitsOf w 0 8
def wVD (w : Nat) : Nat := bitsOf w 8 5
def wVA (w : Nat) : Nat := bitsOf w 13 5
def wVB (w : Nat) : Nat := bitsOf w 18 5
def wVC (w : Nat) : Nat := bitsOf w 23 5
def wPM (w : Nat) : Nat := bitsOf w 28 3
def wFmt (w : Nat) : Nat := bitsOf w 32 5
def wSub (w : Nat) : Nat := bitsOf w 37 3
def wGA (w : Nat) : Nat := bitsOf w 40 4
def wGB (w : Nat) : Nat := bitsOf w 44 4
def wRtz (w : Nat) : Bool := bitOf w 48
def wSat (w : Nat) : Bool := bitOf w 49
def wSpace (w : Nat) : Nat := bitsOf w 50 2
def wPD (w : Nat) : Nat := bitsOf w 52 3
def wImm (w : Nat) : Nat := bitsOf w 64 32
def wImm2 (w : Nat) : Nat := bitsOf w 96 32

/-- Fields of the shape word in IMM2 (R136). -/
def shRows (w : Nat) : Nat := bitsOf w 96 6 + 1
def shC (w : Nat) : Nat := bitsOf w 102 4 + 1
def shMode (w : Nat) : Bool := bitOf w 106
def shStride (w : Nat) : Nat := bitsOf w 107 10
def shDspace (w : Nat) : Nat := bitsOf w 117 2
def shDfmt (w : Nat) : Nat := bitsOf w 119 5

/-- Fields of a word that an instruction may use. -/
inductive VField where
  | vd | va | vb | vc | pm | fmt | sub | ga | gb | rm | sat | space | pd | imm | imm2
  deriving DecidableEq, Repr

/-- Value of a field, for the check that an unused one is zero. -/
def fieldOf (w : Nat) : VField → Nat
  | .vd => wVD w | .va => wVA w | .vb => wVB w | .vc => wVC w | .pm => wPM w | .fmt => wFmt w | .sub => wSub w
  | .ga => wGA w | .gb => wGB w | .rm => bitsOf w 48 1 | .sat => bitsOf w 49 1 | .space => wSpace w | .pd => wPD w
  | .imm => wImm w | .imm2 => wImm2 w

def allFields : List VField :=
  [.vd, .va, .vb, .vc, .pm, .fmt, .sub, .ga, .gb, .rm, .sat, .space, .pd, .imm, .imm2]

/-- The fields an opcode uses and its largest SUB; none for a reserved opcode (R142). A field used in one form of an
instruction is taken as used in all of them (assumption 12). -/
def vecSpec (op : Nat) : Option (List VField × Nat) :=
  if op = 0x10 || op = 0x11 then some ([], 0)
  else if op = 0x12 || op = 0x13 || op = 0x14 then some ([.ga, .imm], 0)
  else if op = 0x15 then some ([.sub], 7)
  else if op = 0x16 then some ([.ga, .gb, .imm, .imm2], 0)
  else if op = 0x17 then some ([.ga, .imm], 0)
  else if op = 0x18 then some ([.ga, .imm], 0)
  else if 0x19 ≤ op ∧ op ≤ 0x1C then some ([.sub, .ga, .gb, .imm], 1)
  else if op = 0x1D then some ([.ga, .va, .imm], 0)
  else if op = 0x1E then some ([.ga, .gb, .space, .imm], 0)
  else if op = 0x20 then some ([.vd, .pm, .fmt, .sub, .ga, .gb, .rm, .space, .imm, .imm2], 1)
  else if op = 0x21 then some ([.va, .pm, .fmt, .sub, .ga, .gb, .rm, .sat, .space, .imm, .imm2], 1)
  else if op = 0x22 then some ([.vd, .vb, .pm, .ga, .space], 0)
  else if op = 0x23 then some ([.va, .vb, .pm, .ga, .space], 0)
  else if op = 0x24 then some ([.vd, .ga], 0)
  else if op = 0x25 then some ([.va, .ga], 0)
  else if op = 0x26 then some ([.va, .ga, .gb, .imm], 0)
  else if op = 0x27 then some ([.gb, .imm], 0)
  else if op = 0x28 || op = 0x29 then some ([.va, .pm, .ga, .gb, .space, .imm, .imm2], 0)
  else if [0x30, 0x31, 0x32, 0x34, 0x35, 0x39, 0x3A].contains op then some ([.vd, .va, .vb, .pm], 0)
  else if op = 0x33 then some ([.vd, .va, .vb, .vc, .pm], 0)
  else if op = 0x36 || op = 0x37 || op = 0x3B then some ([.vd, .va, .pm], 0)
  else if op = 0x38 then some ([.va, .vb, .pm, .sub, .pd], 3)
  else if op = 0x3C then some ([.vd, .va, .pm, .sub], 7)
  else if op = 0x3D then some ([.vd, .va, .pm, .sub], 2)
  else if op = 0x3E then some ([.vd, .va, .pm, .fmt, .sub, .rm, .sat], 2)
  else if op = 0x3F then some ([.vd, .va, .pm, .sub, .ga, .imm], 2)
  else if [0x40, 0x41, 0x42, 0x44, 0x45, 0x47].contains op then some ([.vd, .va, .vb, .pm], 0)
  else if op = 0x43 then some ([.vd, .va, .vb, .vc, .pm], 0)
  else if op = 0x46 then some ([.va, .vb, .pm, .sub, .pd], 3)
  else if op = 0x48 || op = 0x49 || op = 0x4A then some ([.vd, .va, .pm], 0)
  else if op = 0x4B then some ([.vd, .va, .pm, .sub, .rm, .sat], 1)
  else if 0x50 ≤ op ∧ op ≤ 0x59 then some ([.vd, .va, .vb, .pm], 0)
  else if op = 0x5A then some ([.vd, .va, .vb, .pm, .sub], 1)
  else if op = 0x5B then some ([.va, .vb, .pm, .sub, .pd], 4)
  else if op = 0x5C then some ([.vd, .va, .vb], 0)
  else if op = 0x5D then some ([.vd, .ga, .pm], 0)
  else if op = 0x5E then some ([.va, .vb, .sub, .pd, .ga, .gb], 7)
  else if op = 0x60 then some ([.vd, .va, .pm, .sub, .ga], 5)
  else if op = 0x61 then some ([.vd, .va, .ga, .gb], 0)
  else if op = 0x62 then some ([.vd, .va, .pm, .sub, .ga, .gb, .space], 1)
  else if op = 0x63 then some ([.vd, .va, .pm], 0)
  else if op = 0x64 then some ([.vd, .va, .vb, .pm], 0)
  else if op = 0x65 then some ([.vb, .vc, .fmt, .sub, .ga, .gb, .rm, .sat, .space, .imm, .imm2], 6)
  else if op = 0x66 then some ([.vd, .fmt, .sub, .ga, .space, .imm, .imm2], 3)
  else if op = 0x68 then some ([.vd, .vc, .fmt, .sub, .ga, .space, .imm, .imm2], 1)
  else if op = 0x69 then some ([.vd, .va, .pm, .sub, .imm2], 1)
  else if op = 0x6A then some ([.vd, .va, .vb, .pm, .imm2], 0)
  else if op = 0x6C then some ([.va, .pm, .fmt, .sub, .ga, .gb], 1)
  else if op = 0x6D then some ([.va, .ga, .gb, .imm], 0)
  else none

/-- Registers that hold FP64 pairs must be even (R137, R153). -/
def pairOdd (w : Nat) : Bool :=
  let op := wOp w
  let odd (n : Nat) := n % 2 == 1
  if [0x40, 0x41, 0x42, 0x43, 0x44, 0x45, 0x47, 0x48, 0x49, 0x4A].contains op then
    odd (wVD w) || odd (wVA w) || odd (wVB w) || odd (wVC w)
  else if op = 0x46 then odd (wVA w) || odd (wVB w)
  else if op = 0x4B then (if wSub w = 0 then odd (wVD w) else odd (wVA w))
  else if op = 0x20 then wFmt w == 0x0D && odd (wVD w)
  else if op = 0x21 then wFmt w == 0x0D && odd (wVA w)
  else if op = 0x60 then wSub w == 5 && (odd (wVD w) || odd (wVA w))
  else if op = 0x6C then wFmt w == 0x0D && odd (wVA w)
  else if op = 0x6D then odd (wVA w)
  else false

/-- Formats an instruction allows (R140, R527, R146, R148, R150). -/
def fmtAllowed (w : Nat) : Bool :=
  let op := wOp w
  let f := wFmt w
  if op = 0x20 || op = 0x21 then decide (f ≤ 0x0E)
  else if op = 0x3E then decide (f ≤ if wSub w = 2 then 0x0B else 0x0E)
  else if op = 0x65 then [0x0A, 0x0B, 0x0C].contains f && [0x0A, 0x0B, 0x0C].contains (shDfmt w)
  else if op = 0x66 then [0x0A, 0x0B, 0x0C].contains f
  else if op = 0x68 then [0x0A, 0x0C].contains f
  else if op = 0x6C then [0x0A, 0x0C, 0x0D].contains f
  else true

/-- Register ranges past V31, and shape words out of their limits (R136, R137, R146, R148, R149). -/
def shapeBad (w : Nat) : Bool :=
  let op := wOp w
  let c := shC w
  let past (n k : Nat) := decide (32 < n + k)
  let shape := bitsOf w 124 4 != 0 || shStride w == 0
  let noDst := shDspace w != 0 || shDfmt w != 0
  if op = 0x28 || op = 0x29 then shape || shMode w || shDfmt w != 0
  else if op = 0x65 then
    shape || (if shMode w then false else past (wVB w) c || (wSub w == 5 && past (wVC w) c))
  else if op = 0x66 then shape || noDst || (shMode w && past (wVD w) c)
  else if op = 0x68 then shape || noDst || shMode w || decide (8 < c) || past (wVD w) (wSub w + 1) || past (wVC w) (wSub w + 1)
  else if op = 0x69 then bitsOf w 96 6 != 0 || bitsOf w 106 22 != 0 || decide (8 < c) || past (wVD w) c
  else if op = 0x6A then bitsOf w 96 6 != 0 || bitsOf w 106 22 != 0 || decide (8 < c) || past (wVB w) c
  else if op = 0x24 || op = 0x25 then wGA w == 15
  else false

/-- VE_ENCODING of R153, as far as the word alone shows it. -/
def vecBad (w : Nat) : Bool :=
  match vecSpec (wOp w) with
  | none => true
  | some (used, subMax) =>
    bitOf w 31 || bitsOf w 55 9 != 0 || allFields.any (fun f => !used.contains f && fieldOf w f != 0) ||
      decide (subMax < wSub w) || pairOdd w || !fmtAllowed w || shapeBad w

/-- Vector registers a word reads or writes (R138). -/
def vecRegs (w : Nat) : List Nat :=
  let op := wOp w
  let c := shC w
  let dbl := [0x40, 0x41, 0x42, 0x43, 0x44, 0x45, 0x46, 0x47, 0x48, 0x49, 0x4A].contains op
  let f64 := wFmt w == 0x0D
  let nD := if dbl || (op == 0x20 && f64) || (op == 0x4B && wSub w == 0) || (op == 0x60 && wSub w == 5) then 2
    else if op == 0x66 then (if shMode w then c else 1) else if op == 0x68 then wSub w + 1 else if op == 0x69 then c else 1
  let nA := if dbl || (op == 0x21 && f64) || (op == 0x4B && wSub w == 1) || (op == 0x60 && wSub w == 5) ||
    (op == 0x6C && f64) || op == 0x6D then 2 else 1
  let nB := if dbl then 2 else if (op == 0x65 && !shMode w) || op == 0x6A then c else 1
  let nC := if dbl then 2 else if op == 0x65 then (if wSub w = 5 then (if shMode w then 1 else c) else 0)
    else if op == 0x68 then wSub w + 1 else 1
  match vecSpec op with
  | none => []
  | some (used, _) =>
    let range (f : VField) (n k : Nat) := if used.contains f && op != 0x5E then (List.range k).map (n + ·) else []
    range .vd (wVD w) nD ++ range .va (wVA w) nA ++ range .vb (wVB w) nB ++ range .vc (wVC w) nC

/-! ## Tensor words (03 R103, R120) -/

def tAfmt (w : Nat) : Nat := bitsOf w 8 5
def tBfmt (w : Nat) : Nat := bitsOf w 13 5
def tAccb (w : Nat) : Nat := bitsOf w 18 2
def tMT (w : Nat) : Nat := bitsOf w 20 2
def tNT (w : Nat) : Nat := bitsOf w 22 2
def tKT (w : Nat) : Nat := bitsOf w 24 10
def tInit (w : Nat) : Bool := bitOf w 34
def tTransb (w : Nat) : Bool := bitOf w 35
def tAsrc (w : Nat) : Bool := bitOf w 36
def tBsrc (w : Nat) : Bool := bitOf w 38
def tAaddr (w : Nat) : Nat := bitsOf w 40 14
def tAstride (w : Nat) : Nat := bitsOf w 54 10
def tBaddr (w : Nat) : Nat := bitsOf w 64 14
def tBstride (w : Nat) : Nat := bitsOf w 78 10
def tAscl (w : Nat) : Nat := bitsOf w 88 14
def tBscl (w : Nat) : Nat := bitsOf w 102 14
def tAnchor (w : Nat) : Int := signedOf (bitsOf w 116 10) 10

def dFmt (w : Nat) : Nat := bitsOf w 8 5
def dRaw (w : Nat) : Bool := bitOf w 24
def dRtz (w : Nat) : Bool := bitOf w 25
def dSat (w : Nat) : Bool := bitOf w 26
def dDest (w : Nat) : Bool := bitOf w 27
def dStat (w : Nat) : Bool := bitOf w 28
def dKeep (w : Nat) : Bool := bitOf w 29
def dAddr (w : Nat) : Nat := bitsOf w 40 14
def dStride (w : Nat) : Nat := bitsOf w 54 10
def dSaddr (w : Nat) : Nat := bitsOf w 64 14
def dScl (w : Nat) : Nat := bitsOf w 88 14

/-! ## Packed elements (03 R91) -/

/-- Element i of `bits` bits in packed bytes. -/
def elemOf (bs : List Byte) (bits i : Nat) : Nat := bitsOf (leNat bs) (bits * i) bits

/-- Elements packed, lowest index in the lowest bits. -/
def packElems (bits : Nat) (xs : List Nat) : List Byte :=
  natLe (bits * xs.length / 8) (xs.foldr (fun x acc => x % 2 ^ bits + 2 ^ bits * acc) 0)

/-! ## Slot headers (02 R73) -/

structure Steering where
  op : Nat
  ctrl : Nat
  a : Nat
  b : Nat
  plen : Nat
  fwd : Nat
  deriving DecidableEq, Repr

def steeringOf (v : Nat) : Steering :=
  { op := bitsOf v 0 3, ctrl := bitsOf v 3 2, a := bitsOf v 5 2, b := bitsOf v 7 2, plen := bitsOf v 9 4 + 1
    fwd := bitsOf v 13 1 }

/-- A slot image header, read from its 64 bytes. -/
structure Header where
  bytes : List Byte
  deriving DecidableEq, Repr

def hNat (h : Header) (off n : Nat) : Nat := leNat ((h.bytes.drop off).take n)
def hLength (h : Header) : Nat := hNat h 4 2
def hShare (h : Header) : Bool := bitOf (hNat h 7 1) 0
def hStop (h : Header) : Bool := bitOf (hNat h 7 1) 1
def hQuota (h : Header) : Nat := hNat h 12 4
def hNext (h : Header) : SlotId := BitVec.ofNat 3 (hNat h 16 1)
def hTrigger (h : Header) : Nat := bitsOf (hNat h 16 1) 4 3
def hMaskIn (h : Header) (p : Nat) : Bool := bitOf (hNat h 17 1) p
def hMaskSt (h : Header) (u : Nat) : Bool := bitOf (hNat h 17 1) (4 + u)
def hOutEn (h : Header) (o : Nat) : Bool := bitOf (hNat h 17 1) (6 + o)
def hPlenIn (h : Header) (p : Nat) : Nat := bitsOf (hNat h 18 2) (4 * p) 4 + 1
def hPlenOut (h : Header) (o : Nat) : Nat := bitsOf (hNat h 20 1) (4 * o) 4 + 1
def hEndMask (h : Header) (p : Nat) : Bool := bitOf (hNat h 21 1) p
def hBolt (h : Header) : Nat := bitsOf (hNat h 22 2) 0 15
def hSteer (h : Header) (u : Nat) : Steering := steeringOf (hNat h (24 + 4 * u) 4)
/-- VALID destinations of an output: (room, input port). -/
def hDests (h : Header) (o : Nat) : List (RoomId × PortId) :=
  (List.range 4).filterMap fun i =>
    let v := hNat h (32 + 16 * o + 2 * i) 2
    if bitOf v 12 then some (BitVec.ofNat 10 v, BitVec.ofNat 2 (bitsOf v 10 2)) else none

def State.header (s : State) (r : RoomId) (slot : SlotId) : Header := { bytes := s.read (slotKey r.toNat slot.toNat 0) 64 }

/-- Word `i` of the program of a slot; the number of its words (04 R131). -/
def State.word (s : State) (r : RoomId) (slot : SlotId) (i : Nat) : Nat :=
  s.readNat (slotKey r.toNat slot.toNat (64 + 16 * i)) 16
def hWords (h : Header) : Nat := (hLength h - 64) / 16

/-! ## Device virtual addresses (01 R39 to R45) -/

def dvaNode (d : Dva) : NodeId := d.extractLsb' 48 16
def dvaTier (d : Dva) : Nat := bitsOf d.toNat 45 3
def dvaOff (d : Dva) : Nat := bitsOf d.toNat 0 45
/-- A DVA of this device by TIER and OFFSET, NODE 0xFFFF. -/
def dvaOf (tier off : Nat) : Dva := BitVec.ofNat 64 (0xFFFF * 2 ^ 48 + tier * 2 ^ 45 + off)

/-- NODE 0xFFFF, or the assigned node ID, is this device (R40). -/
def State.isLocal (s : State) (d : Dva) : Bool :=
  dvaNode d == 0xFFFF || (s.idNode != 0xFFFF && dvaNode d == s.idNode)

/-! ## Letterbox requests (13 R419) -/

def reqNat (q : Req) (off n : Nat) : Nat := bitsOf q.entry.toNat (8 * off) (8 * n)
def reqBits (q : Req) (off lo w : Nat) : Nat := bitsOf q.entry.toNat (8 * off + lo) w
def reqBit (q : Req) (off i : Nat) : Bool := bitOf q.entry.toNat (8 * off + i)
def reqOp (q : Req) : Nat := reqNat q 0 2
def reqCtx (q : Req) : CtxId := BitVec.ofNat 6 (reqNat q 2 1)
def reqPlen (q : Req) : Nat := reqNat q 4 1
def reqTag (q : Req) : W64 := BitVec.ofNat 64 (reqNat q 8 8)

end Sys2Proof.Machine
end

