-- ==== Sys2Proof/Machine/Fabric.lean ====
section
/-! DEFINITION. The Corridor below its commands (10): nodes and routes, slots and detours, the link layer of a port,
sending and forwarding packets, and remote requests. -/

namespace Sys2Proof

/-! ## The fields of a flit (R327, R328) -/

/-- Each code corrects up to 6 symbols. -/
def RxFlit.decodes (f : RxFlit) : Bool := decide (f.errors0 ≤ 6) && decide (f.errors1 ≤ 6)
def RxFlit.corrected (f : RxFlit) : Nat := if f.decodes then f.errors0 + f.errors1 else 0
def RxFlit.fseq (f : RxFlit) : BitVec 10 := f.header.extractLsb' 0 10
def RxFlit.aseq (f : RxFlit) : BitVec 10 := f.header.extractLsb' 10 10
def RxFlit.ack (f : RxFlit) : Bool := f.header.getLsbD 20
def RxFlit.nak (f : RxFlit) : Bool := f.header.getLsbD 21
def RxFlit.crq (f : RxFlit) : BitVec 4 := f.header.extractLsb' 22 4
def RxFlit.crp (f : RxFlit) : Bool := f.header.getLsbD 26
def RxFlit.crcnt (f : RxFlit) : BitVec 4 := f.header.extractLsb' 27 4
def RxFlit.idle (f : RxFlit) : Bool := f.header.getLsbD 31
def RxFlit.crcOk (f : RxFlit) : Bool := f.header.extractLsb' 32 16 == Config.flitCrc (f.header.extractLsb' 0 32) f.payload

/-! An Inflow port reads FSEQ, IDLE and the CRC at the same bits, and FIRST (11 R377). -/

def RxFlit.first (f : RxFlit) : Nat := (f.header.extractLsb' 10 10).toNat
/-- The 250 bytes of the payload. -/
def RxFlit.stream (f : RxFlit) : List Byte := (f.payload ++ List.replicate 250 0).take 250

end Sys2Proof

namespace Sys2Proof.Machine

/-! ## Nodes (R338 to R340, 01 R40) -/

/-- Coordinate of a node on axis 0 X, 1 Y, 2 Z. -/
def coord (n : NodeId) (axis : Nat) : Nat :=
  if axis = 0 then bitsOf n.toNat 0 5 else if axis = 1 then bitsOf n.toNat 5 5 else bitsOf n.toNat 10 6

def nodeAt (x y z : Nat) : NodeId := BitVec.ofNat 16 (x + 32 * y + 1024 * z)

/-- Extent of an axis in the configuration record. -/
def State.extent (s : State) (axis : Nat) : Nat :=
  match s.fabric with
  | some f => bitsOf f.toNat (8 * (2 + axis)) 5 + 1
  | none => 1

/-- A group address (R355). -/
def isGroup (n : NodeId) : Bool := decide (0x8000 ≤ n.toNat) && decide (n.toNat ≤ 0x80FF)

/-- A node ID that names a device of the torus. -/
def State.nodeOk (s : State) (n : NodeId) : Bool :=
  s.fabric.isSome && !bitOf n.toNat 15 && (List.range 3).all fun a => decide (coord n a < s.extent a)

def State.job? (s : State) (tag : W32) : Option Job := s.jobs.find? fun j => j.tag == tag
def State.updJob (s : State) (tag : W32) (f : Job → Job) : State :=
  { s with jobs := s.jobs.map fun j => if j.tag = tag then f j else j }

/-- The neighbour one step along a direction. -/
def State.neighbour (s : State) (d : BitVec 3) : NodeId :=
  let axis := d.toNat / 2
  let e := s.extent axis
  let move (a : Nat) := if a = axis then (coord s.idNode a + (if d.toNat % 2 = 0 then 1 else e - 1)) % e else coord s.idNode a
  nodeAt (move 0) (move 1) (move 2)

/-- The way a packet of a job takes along an axis from coordinate `a` to `b` (R340). -/
def State.plusWay (s : State) (j : Option Job) (axis a b : Nat) : Bool :=
  let e := s.extent axis
  let up := (b + e - a) % e
  let short := decide (up ≤ e - up)
  match j with
  | some j =>
    if j.size.getD axis 1 = e then short
    else
      let o := j.origin.getD axis 0
      decide ((a + e - o) % e ≤ (b + e - o) % e)
  | none => short

/-- Dimension order: the direction of the next step toward a node, none at the node itself. -/
def State.nextDir (s : State) (job : W32) (dst : NodeId) : Option (BitVec 3) :=
  ((List.range 3).find? fun a => coord s.idNode a != coord dst a).map fun a =>
    BitVec.ofNat 3 (2 * a + if s.plusWay (s.job? job) a (coord s.idNode a) (coord dst a) then 0 else 1)

/-- The step from this device along a direction crosses between coordinate extent − 1 and 0. -/
def State.crossesDateline (s : State) (d : BitVec 3) : Bool :=
  let a := d.toNat / 2
  if d.toNat % 2 = 0 then coord s.idNode a + 1 == s.extent a else coord s.idNode a == 0

/-! ## Ports and slots (R325, R341, R345, R347) -/

def portLive (p : Port) : Bool := p.st == .up || p.st == .degraded

/-- A flit's corrections, or its failure, count at its port (R348). -/
def State.fecCount (s : State) (p : Nat) (f : RxFlit) : State :=
  s.updPort p fun x =>
    { x with fecCorr := x.fecCorr + BitVec.ofNat 64 f.corrected, fecUncorr := if f.decodes then x.fecUncorr else x.fecUncorr + 1 }

/-- The set of a direction. -/
def State.dirPorts (s : State) (d : BitVec 3) : List Nat :=
  (List.range 24).filter fun p => !isReserved p && (s.port p).dir == d && d.toNat < 6

/-- Every port of the set is DOWN or DISABLED. -/
def State.dirUnusable (s : State) (d : BitVec 3) : Bool :=
  (s.dirPorts d).all fun p => (s.port p).st == .down || (s.port p).st == .disabled

/-- Slot of a packet: CRC-32C of DST and KEY, taken as 2 and 8 bytes (assumption 16). -/
def slotOf (pk : Packet) : Nat := crc32c (natLe 2 pk.dst.toNat ++ natLe 8 pk.key.toNat) % 64

/-- Slots dealt round-robin over the ports in service, a ×4 port taking one turn in two (R341). -/
def dealSlots (ps : List (Nat × Bool)) : List Nat :=
  let round := ps.map (·.1) ++ (ps.filter (·.2)).map (·.1)
  if round.isEmpty then [] else (List.range 64).map fun i => round.getD (i % round.length) 0

/-! ## The link layer (R327 to R330, R336) -/

def packetBytes (pk : Packet) : Nat := 32 + pk.data.length
def packetUnits (pk : Packet) : Nat := (packetBytes pk + 63) / 64
/-- Queue of a packet: three classes of three virtual channels. -/
def queueOf (pk : Packet) : Nat := 3 * pk.vc.toNat + if pk.dt then 2 else if pk.dl then 1 else 0

def creditOk (p : Port) (pk : Packet) : Bool :=
  decide (packetUnits pk ≤ p.shared) || decide (packetUnits pk ≤ mapGet 0 p.reserved (queueOf pk))

/-- Data flits sent and not acknowledged, the one being filled included. -/
def flitsHeld (p : Port) : Nat := (p.txSeq.toNat + 2047 - p.acked.toNat) % 1024 + boolNat (decide (0 < p.txPos))

/-- Send a packet: credits from the shared pool if it covers the packet, else reserved; bytes follow on with no gap
(assumption 17). -/
def sendPacket (p : Port) (pk : Packet) : Port :=
  let u := packetUnits pk
  let total := p.txPos + packetBytes pk
  let q := queueOf pk
  let p := if u ≤ p.shared then { p with shared := p.shared - u }
    else { p with reserved := mapSet p.reserved q (mapGet 0 p.reserved q - u) }
  { p with retry := p.retry ++ [(pk, p.txSeq, p.txPos)], rot := mapSet p.rot pk.vc.toNat (pk.via.toNat + 1), txSeq := p.txSeq + BitVec.ofNat 10 (total / 250)
           txPos := total % 250
           txFlits := p.txFlits + BitVec.ofNat 64 ((total + 249) / 250 - (p.txPos + 249) / 250) }

/-- The next queued packet that may go: CTL before RSP before REQ; within one, by rotation over the inputs, the oldest that heads its
queue and has credit and room in the retry buffer (R336; its limit of 4,096 hc is timing). -/
def nextPacket (p : Port) : Option Nat :=
  [2, 1, 0].findSome? fun vc =>
    ((List.range 32).map fun k => (mapGet 0 p.rot vc + k) % 32).findSome? fun input =>
      (List.range p.txq.length).find? fun i =>
        match p.txq[i]? with
        | some pk =>
          pk.vc.toNat == vc && pk.via.toNat == input && creditOk p pk &&
            decide (flitsHeld p + (packetBytes pk + 499) / 250 ≤ 512) &&
            !((p.txq.take i).any fun y => y.via == pk.via && queueOf y == queueOf pk)
        | none => false

/-- Send what can be sent. -/
def pumpGo : Nat → Port → Port
  | 0, p => p
  | k + 1, p =>
    if !portLive p then p
    else match nextPacket p with
      | some i =>
        match p.txq[i]? with
        | some pk => pumpGo k (sendPacket { p with txq := p.txq.eraseIdx i } pk)
        | none => p
      | none => p

def pump (p : Port) : Port := pumpGo p.txq.length p

def State.enqueue (s : State) (p : Nat) (pk : Packet) : State :=
  s.updPort p fun x => pump { x with txq := x.txq ++ [pk] }

/-- The far end has received data flits up to `a`. -/
def ackTo (p : Port) (a : BitVec 10) : Port :=
  let covered (f : BitVec 10) := decide ((a - f).toNat < 512)
  let last (e : Packet × BitVec 10 × Nat) := e.2.1 + BitVec.ofNat 10 ((e.2.2 + packetBytes e.1 - 1) / 250)
  let p := { p with acked := a, naks := if p.acked = a then p.naks else 0, retry := p.retry.filter fun e => !covered (last e) }
  if 0 < p.txPos && a == p.txSeq then { p with txSeq := p.txSeq + 1, txPos := 0 } else p

/-- Units of a received packet leave the receive buffer: shared credits while the queue holds more than its reservation
of 128, reserved ones otherwise (R330). -/
def freeUnits (p : Port) (pk : Packet) : Port :=
  let q := queueOf pk
  let u := packetUnits pk
  let held := mapGet 0 p.rxUsed q
  let sh := min u (held - 128)
  { p with rxUsed := mapSet p.rxUsed q (held - u), given := mapAdd (mapAdd p.given (2 * q + 1) sh) (2 * q) (u - sh) }

/-! ## Sending and forwarding (R341 to R348) -/

/-- Put a packet on the port of its slot in a direction, in class DL1 once it crosses the dateline. -/
def State.sendDirect (s : State) (d : BitVec 3) (pk : Packet) : State :=
  let pk := if s.crossesDateline d && !pk.dt then { pk with dl := true } else pk
  let k := slotOf pk
  if (mapFind s.slotBack (d.toNat * 64 + k)).isSome then { s with slotWait := s.slotWait ++ [(d.toNat * 64 + k, pk)] }
  else
    match (mapGet [] s.slotTab d.toNat)[k]? with
    | some p => s.enqueue p pk
    | none =>
      match (s.dirPorts d).head? with
      | some p => s.enqueue p pk
      | none => s

/-- Detour entry i of a packet's job, or the device's default (R346). -/
def State.detourEntry (s : State) (job : W32) (i : Nat) : Nat :=
  match s.job? job, s.fabric with
  | some j, _ => (j.detours.getD i 0).toNat
  | none, some f => bitsOf f.toNat (8 * (16 + 3 * i)) 24
  | none, none => 0

/-- Take the next step of a detour. -/
def State.detourStep (s : State) (pk : Packet) : State :=
  s.sendDirect (pk.dpath.extractLsb' 0 3) { pk with dpath := pk.dpath >>> 3, dleft := pk.dleft - 1 }

/-- Enter a detour; an entry of length 0 leaves the packet queued on the direction. -/
def State.enterDetour (s : State) (i : Nat) (d : BitVec 3) (pk : Packet) : State :=
  let e := s.detourEntry pk.job i
  if bitsOf e 0 3 = 0 then s.sendDirect d pk
  else s.detourStep { pk with dt := true, dpath := BitVec.ofNat 18 (bitsOf e 3 18), dleft := BitVec.ofNat 3 (bitsOf e 0 3) }

def isRequest (pk : Packet) : Bool := [1, 2, 5, 8].contains pk.kind.toNat

/-- The response kind of a request kind. -/
def rspKind (k : BitVec 4) : BitVec 4 := if k = 1 then 3 else if k = 2 then 4 else if k = 5 then 6 else 9

/-- A response that echoes its request. -/
def responseTo (s : State) (pk : Packet) (code : Nat) (arg : Nat := 0) (data : List Byte := []) : Packet :=
  { dst := pk.src, src := s.idNode, kind := rspKind pk.kind, vc := 1, len := if data.isEmpty then 0 else pk.len
    siod := pk.siod, seq := pk.seq, job := pk.job, rtag := pk.rtag, code := BitVec.ofNat 8 code
    arg := BitVec.ofNat 64 arg, key := pk.key, data }

/-- Leave along a direction that may be unusable; a packet for a neighbour declared unreachable goes no further. -/
def State.sendDirQuiet (s : State) (d : BitVec 3) (pk : Packet) : State :=
  if s.unreachable.contains d.toNat then
    if s.neighbour d = pk.dst || isGroup pk.dst then s else s.enterDetour (6 + d.toNat) d pk
  else if s.dirUnusable d then s.enterDetour d.toNat d pk
  else s.sendDirect d pk

def State.sendQuiet (s : State) (pk : Packet) : State :=
  match s.nextDir pk.job pk.dst with
  | some d => s.sendDirQuiet d pk
  | none => { s with arrived := s.arrived ++ [(0, pk)] }

/-- Leave along a direction; a request addressed to an unreachable neighbour is answered with REMOTE_LOST (R348). -/
def State.sendDir (s : State) (d : BitVec 3) (pk : Packet) : State :=
  if s.unreachable.contains d.toNat && (s.neighbour d == pk.dst || isGroup pk.dst) && isRequest pk then
    let rsp := { responseTo s pk 0x0C with src := pk.dst }
    if pk.src = s.idNode then { s with arrived := s.arrived ++ [(BitVec.ofNat 5 ((s.dirPorts d).headD 0), rsp)] }
    else s.sendQuiet rsp
  else s.sendDirQuiet d pk

/-- Send a packet of this device to its destination. -/
def State.send (s : State) (pk : Packet) : State :=
  match s.nextDir pk.job pk.dst with
  | some d => s.sendDir d pk
  | none => { s with arrived := s.arrived ++ [(0, pk)] }

/-- A response leaves toward its requester; on a reserved port, on the port its request came on (11 R375). -/
def State.respond (s : State) (port : Nat) (rsp : Packet) : State := if isReserved port then s.enqueue port rsp else s.send rsp

/-- A discarded packet is counted and recorded (R335, R337, R342). -/
def State.discardPacket (s : State) (p : Nat) : State :=
  (s.updPort p fun x => { x with discards := x.discards + 1 }).raise { cls := 0x2D, src := 7, unit := p }

/-- Forward a packet that arrived on port p in class terms of R340. -/
def State.forward (s : State) (p : Nat) (pk : Packet) : State :=
  if pk.hops = 64 then s.discardPacket p
  else
    let pk := { pk with hops := pk.hops + 1, via := BitVec.ofNat 5 p }
    if pk.dt && pk.dleft ≠ 0 then s.detourStep pk
    else
      let back := pk.dt
      let pk := if pk.dt then { pk with dt := false, dl := false } else pk
      match s.nextDir pk.job pk.dst with
      | some d =>
        let same := !back && (s.port p).dir.toNat / 2 == d.toNat / 2
        s.sendDir d (if same then pk else { pk with dl := false })
      | none => s

/-! ## Remote requests (R337) -/

/-- Send a packet of this device toward a node (the child, for a group write). -/
def State.sendToward (s : State) (node : NodeId) (pk : Packet) : State :=
  match s.nextDir pk.job node with
  | some d => s.sendDir d pk
  | none => { s with arrived := s.arrived ++ [(0, pk)] }

/-- The port a packet of this device would take; its I/O die holds the tag. -/
def State.portFor (s : State) (node : NodeId) (pk : Packet) : Nat :=
  match s.nextDir pk.job node with
  | some d => ((mapGet [] s.slotTab d.toNat)[slotOf pk]?).getD ((s.dirPorts d).headD 0)
  | none => 0

/-- Send a request with a free RTAG and the next E2E_SEQ of its I/O die; none when all 4,096 tags are in use. -/
def State.sendRequest (s : State) (node : NodeId) (pk : Packet) (kind what : Nat) (ret : Option (BitVec 4) := none) :
    Option (State × Nat) :=
  let south := decide (12 ≤ s.portFor node pk)
  let used := (s.remotes.filter fun m => m.south == south).map (·.rtag.toNat)
  match (List.range 4096).find? fun t => !used.contains t with
  | none => none
  | some t =>
    let q := mapGet 0 s.e2e (boolNat south)
    let pk := { pk with rtag := BitVec.ofNat 12 t, seq := q, siod := south, src := s.idNode }
    let m : Remote := { rtag := BitVec.ofNat 12 t, seq := q, south, node, job := pk.job, kind, what, ret }
    some (({ s with remotes := s.remotes ++ [m], e2e := mapSet s.e2e (boolNat south) (q + 1) }).sendToward node pk, t)

/-- Every I/O die has tags for a group write's copies. -/
def State.tagsForGroup (s : State) : Bool :=
  [false, true].all fun d => decide ((s.remotes.filter fun m => m.south == d).length + 6 ≤ 4096)

/-- The outstanding request a response answers, by SIOD, RTAG and E2E_SEQ. -/
def State.remoteOf (s : State) (pk : Packet) : Option Remote :=
  s.remotes.find? fun m => m.south == pk.siod && m.rtag == pk.rtag && m.seq == pk.seq

def State.dropRemote (s : State) (m : Remote) : State := { s with remotes := s.remotes.filter fun x => x != m }

/-- The oldest packet of a kind received on a port for this device, and the state without it, its units freed; of reads and
writes of one source under one KEY, none before the oldest (05 R190). -/
def State.takeArrived (s : State) (p : BitVec 5) (kind : Nat) (sub : Option Nat := none) : Option (Packet × State) :=
  let ok (e : BitVec 5 × Packet) := e.1 == p && e.2.kind.toNat == kind &&
    match sub with
    | some v => bitsOf e.2.arg.toNat (if kind = 7 then 16 else 0) 8 == v
    | none => true
  let older (e : BitVec 5 × Packet) : Bool :=
    (s.arrived.takeWhile fun x => x != e).any fun x =>
      x.1 == p && [1, 2].contains x.2.kind.toNat && x.2.src == e.2.src && x.2.key == e.2.key
  match s.arrived.find? ok with
  | some e => if [1, 2].contains kind && older e then none else some (e.2, ({ s with arrived := s.arrived.erase e }).updPort p.toNat fun x => freeUnits x e.2)
  | none => none

/-! ## Blocks and STEW packets (R339, R360) -/

/-- Devices of a job's block. -/
def State.blockNodes (s : State) (j : Job) : List NodeId :=
  let at_ (a i : Nat) := (j.origin.getD a 0 + i) % s.extent a
  (List.range (j.size.getD 2 1)).flatMap fun z => (List.range (j.size.getD 1 1)).flatMap fun y =>
    (List.range (j.size.getD 0 1)).map fun x => nodeAt (at_ 0 x) (at_ 1 y) (at_ 2 z)

def State.inBlock (s : State) (j : Job) (n : NodeId) : Bool := (s.blockNodes j).contains n

/-- The other devices of the block that have not been declared lost. -/
def State.peers (s : State) (j : Job) : List NodeId := (s.blockNodes j).filter fun n => n != s.idNode && !j.lost.contains n

/-- A STEW packet of a message type of R360: 1 TREE_SET, 2 GROUP_SET, 3 DETOUR_SET, 4 HEARTBEAT, 5 HB_ACK, 6 LOST, 7 SUSPECT, 8 PLACE,
9 STATS (assumption 8: its payload is private). -/
def State.stew (s : State) (job : W32) (node : NodeId) (ty : Nat) : State :=
  s.send { dst := node, src := s.idNode, kind := 0xA, vc := 2, job, arg := BitVec.ofNat 64 ty }

/-- The Steward sends new detour entries to every device of the block (R361); their content reaches a device with its
DETOUR_SET. -/
def State.recompute (s : State) (job : W32) : State :=
  match s.job? job with
  | some j => if j.isManager then (s.peers j).foldl (fun s n => s.stew job n 3) s else s
  | none => s

/-- The Steward of each job of this device does so after a DOWN, a declaration or a return of a port (R361). -/
def State.recomputeAll (s : State) : State :=
  if s.live then s.jobs.foldl (fun s j => s.recompute j.tag) s else s

end Sys2Proof.Machine
end

