-- ==== Sys2Proof/Machine/PageMap.lean ====
section
/-! DEFINITION. The page map and translation (05 R177 to R187), physical places (R163 to R172, 01 R43), rows (R529), and
reads and writes at a home controller (01 R33, R175). -/

namespace Sys2Proof.Machine

/-! ## Tables (R177 to R180) -/

/-- Number of a namespace, and of a directory index in it (the tag of the directory cache). -/
def nsKey (c : CtxId) (ns : Nat) : Nat := c.toNat * 3 + (ns - 1)
def dirKey (c : CtxId) (ns vpn : Nat) : Nat := nsKey c ns * 4096 + vpn / 4096

def offVpn (off : Nat) : Nat := bitsOf off 21 24
def offSub (off : Nat) : Nat := bitsOf off 16 5

def eValid (e : W64) : Bool := bitOf e.toNat 0
def eWrite (e : W64) : Bool := bitOf e.toNat 1
def eRemRd (e : W64) : Bool := bitOf e.toNat 2
/-- REM_WR counts as 0 when WRITE = 0. -/
def eRemWr (e : W64) : Bool := bitOf e.toNat 3 && eWrite e
def eSub (e : W64) : Bool := bitOf e.toNat 4
def eMig (e : W64) : Bool := bitOf e.toNat 5
def eSpread (e : W64) : Bool := bitOf e.toNat 6
def ePtier (e : W64) : Nat := bitsOf e.toNat 8 2
def ePpn (e : W64) : Nat := bitsOf e.toNat 16 24
def eSfn (e : W64) : Nat := bitsOf e.toNat 16 29
/-- TABLE of a directory entry, SUBTAB of a leaf entry with SUB = 1. -/
def eTable (e : W64) : Nat := bitsOf e.toNat 16 16
def eSubtab (e : W64) : Nat := bitsOf e.toNat 16 23

/-- Words of the reserved frames that hold an entry: directory entry and leaf of table `t`, at reserved byte t × 32 KiB; subpage
`j` of table `t`, at reserved byte t × 256. -/
def dirWord (t vpn : Nat) : Nat := t * 4096 + vpn / 4096 % 4096
def leafWord (t vpn : Nat) : Nat := t * 4096 + vpn % 4096
def subWord (t j : Nat) : Nat := t * 32 + j

def State.tableWord (s : State) (k : Nat) : W64 := mapGet 0 s.tables k

/-- The directory entry of a page, zero where the namespace has no root. -/
def State.dirEntry (s : State) (c : CtxId) (ns vpn : Nat) : W64 :=
  match mapFind s.roots (nsKey c ns) with
  | some t => s.tableWord (dirWord t vpn)
  | none => 0

/-- Word of a page's leaf entry, if its leaf table exists; and the entry. -/
def State.leafAt (s : State) (c : CtxId) (ns vpn : Nat) : Option Nat :=
  let d := s.dirEntry c ns vpn
  if eValid d then some (leafWord (eTable d) vpn) else none
def State.leaf (s : State) (c : CtxId) (ns vpn : Nat) : W64 :=
  match s.leafAt c ns vpn with
  | some k => s.tableWord k
  | none => 0

/-- Word of a subpage entry, if the page is mapped in subpages; and the entry. -/
def State.subAt (s : State) (c : CtxId) (ns vpn j : Nat) : Option Nat :=
  let e := s.leaf c ns vpn
  if eValid e && eSub e then some (subWord (eSubtab e) j) else none
def State.sub (s : State) (c : CtxId) (ns vpn j : Nat) : W64 :=
  match s.subAt c ns vpn j with
  | some k => s.tableWord k
  | none => 0

/-- Leaf entries of a namespace that are not zero, by VPN. -/
def State.leaves (s : State) (c : CtxId) (ns : Nat) : List (Nat × W64) :=
  match mapFind s.roots (nsKey c ns) with
  | none => []
  | some r =>
    (s.tables.filter fun d => d.1 / 4096 == r && eValid d.2).flatMap fun d =>
      (s.tables.filter fun e => e.1 / 4096 == eTable d.2).map fun e => (d.1 % 4096 * 4096 + e.1 % 4096, e.2)

/-- Every leaf entry that is not zero, with its context, namespace and VPN. -/
def State.allLeaves (s : State) : List ((CtxId × Nat × Nat) × W64) :=
  s.roots.flatMap fun r =>
    let c : CtxId := BitVec.ofNat 6 (r.1 / 3)
    let ns := r.1 % 3 + 1
    (s.leaves c ns).map fun e => ((c, ns, e.1), e.2)

/-- Subpage entries of a leaf entry with SUB = 1 that are not zero, by index. -/
def State.subEntries (s : State) (e : W64) : List (Nat × W64) :=
  (s.tables.filter fun t => t.1 / 32 == eSubtab e).map fun t => (t.1 % 32, t.2)

/-! ## Frames (R163 to R171) -/

/-- Frames of a stack with its channels in service: a stack below 28 channels is retired whole (R165, R166). -/
def State.stackFrames (s : State) (stack : Nat) : Nat :=
  let c := mapGet 0 s.stackCh stack
  if c < 28 then 0 else 22888 * c / 32

/-- Bytes of an Annex port's window: 8 TB (R171, 00 R9). -/
def annexWindow : Nat := 8 * 10 ^ 12

/-- Lowest decoder base of an Annex port: where its window begins. -/
def State.annexBase (s : State) (p : Nat) : Nat :=
  ((s.decoders.filter fun d => d.1 == p).map fun d => d.2.1).foldl min (2 ^ 64)

/-- Decoded capacity lies behind an Annex frame: that of an attached device, or dynamic capacity in an accepted extent. -/
def State.annexDecoded (s : State) (p i : Nat) : Bool :=
  let lo := s.annexBase p + i * 2 ^ 21
  decide ((i + 1) * 2 ^ 21 ≤ annexWindow) && s.decoders.any fun d =>
    d.1 == p && decide (d.2.1 ≤ lo) && decide (lo + 2 ^ 21 ≤ d.2.1 + d.2.2.1) &&
      (!d.2.2.2 || s.extents.any fun e => e.1 == p && decide (e.2.1 ≤ i) && decide (i < e.2.1 + e.2.2))

/-- Frame indices of a port that may be given out: those of attached devices, and of accepted extents of dynamic capacity. -/
def State.annexRanges (s : State) (p : Nat) : List (Nat × Nat) :=
  let lo := s.annexBase p
  let ds := (s.decoders.filter fun d => d.1 == p).map fun d => ((d.2.1 - lo + 2 ^ 21 - 1) / 2 ^ 21, min (d.2.1 + d.2.2.1 - lo) annexWindow / 2 ^ 21, d.2.2.2)
  ds.flatMap fun d =>
    if !d.2.2 then [(d.1, d.2.1)]
    else (s.extents.filter fun e => e.1 == p).map fun e => (max d.1 e.2.1, min d.2.1 (e.2.1 + e.2.2))

/-- A frame is present: fitted, in service, decoded and accepted. -/
def State.framePresent (s : State) (ptier : Nat) (spread : Bool) (f : Nat) : Bool :=
  match ptier with
  | 1 => if spread then (List.range 8).all fun k => decide (f / 8 < s.stackFrames k)
    else decide (f / 8 < s.stackFrames (f % 8))
  | 2 => decide (f / 4 < mapGet 0 s.groupFrames (f % 4))
  | _ =>
    let p := f / 2 ^ 23
    !bitOf f 22 && mapGet false s.annexUp p && s.annexDecoded p (f % 2 ^ 22)

/-- A Pantry frame reserved to the Study (R164). -/
def frameReserved (ptier f : Nat) : Bool := ptier == 1 && decide (f < 1024)

/-! ## Checks of a walk (R181); codes of R188 -/

/-- Code of a directory entry. Every TABLE and every SUBTAB lies in the 2 GiB of the reserved frames. -/
def dirCode (e : W64) : Nat :=
  if !eValid e then 0x01 else if bitsOf e.toNat 1 15 != 0 || bitsOf e.toNat 32 32 != 0 then 0x04 else 0

/-- Code of a leaf entry that maps a page, 0 when it is good. -/
def State.leafCode (s : State) (e : W64) : Nat :=
  let v := e.toNat
  if !eValid e then 0x01
  else if bitOf v 7 || bitsOf v 10 6 != 0 || bitsOf v 40 24 != 0 || ePtier e == 0 || frameReserved (ePtier e) (ePpn e) ||
    (eSpread e && ePtier e != 1) then 0x04
  else if !s.framePresent (ePtier e) (eSpread e) (ePpn e) then 0x03
  else 0

/-- Code of a leaf entry with SUB = 1, and of a subpage entry. -/
def leafSubCode (e : W64) : Nat :=
  let v := e.toNat
  if !eValid e then 0x01
  else if bitsOf v 1 3 != 0 || bitsOf v 6 10 != 0 || bitsOf v 39 25 != 0 then 0x04
  else 0
def State.subCode (s : State) (c : CtxId) (e : W64) : Nat :=
  let v := e.toNat
  let f := eSfn e / 32
  if !eValid e then 0x01
  else if bitOf v 4 || bitsOf v 6 2 != 0 || bitsOf v 10 6 != 0 || bitsOf v 45 19 != 0 ||
    frameReserved (ePtier e) f || (ePtier e == 0 && decide (2 ^ 14 ≤ eSfn e)) then 0x04
  else if ePtier e = 0 then
    (if (s.wing (BitVec.ofNat 6 (eSfn e / 256))).ctx = some c then 0 else 0x06)
  else if !s.framePresent (ePtier e) false f then 0x03
  else 0

/-- Outcome of a translation. -/
inductive Tr where
  | ok (entry : W64) (sub : Bool)
  | mig
  | bad (code : Nat)
  /-- the slice has 32 walks in flight, or older misses wait there -/
  | wait
  deriving DecidableEq, Repr

/-- A walk of the tables as they stand. -/
def State.walkNow (s : State) (c : CtxId) (ns off : Nat) : Tr :=
  let vpn := offVpn off
  if dirCode (s.dirEntry c ns vpn) ≠ 0 then .bad (dirCode (s.dirEntry c ns vpn))
  else
    let e := s.leaf c ns vpn
    if eValid e && eMig e then .mig
    else if eSub e then
      if leafSubCode e ≠ 0 then .bad (leafSubCode e)
      else
        let t := s.sub c ns vpn (offSub off)
        if eValid t && eMig t then .mig else if s.subCode c t ≠ 0 then .bad (s.subCode c t) else .ok t true
    else if s.leafCode e ≠ 0 then .bad (s.leafCode e)
    else .ok e false

/-! ## Caches (R182, R183) -/

/-- An entry that serves an offset. -/
def tpmHits (c : CtxId) (ns off : Nat) (t : TpmEntry) : Bool :=
  t.ctx == c && t.ns.toNat == ns && t.vpn.toNat == offVpn off && (t.sub == 32 || t.sub == offSub off)

def sliceOf (off : Nat) : Nat := offVpn off % 4
/-- Set of a slice: the VPN bits above the slice number (assumption 18). -/
def setOf (t : TpmEntry) : Nat := t.vpn.toNat / 4 % 1024

/-- Most recently used first, at most `n` of the entries that `same` picks. -/
def keepNewest (n : Nat) (same : TpmEntry → Bool) : List TpmEntry → List TpmEntry
  | [] => []
  | t :: l => if same t then (match n with
      | 0 => keepNewest 0 same l
      | k + 1 => t :: keepNewest k same l) else t :: keepNewest n same l

def State.bufSize (b : Nat) : Nat := if b < 64 then 64 else 256

/-- A translation is installed in a buffer, or used there, and likewise in its slice: it becomes the most recently used one,
and a full buffer or set drops the least recently used (R182, R183). -/
def State.installBuf (s : State) (b : Nat) (t : TpmEntry) : State :=
  { s with tbufs := mapSet s.tbufs b (((t :: (mapGet [] s.tbufs b).erase t)).take (State.bufSize b)) }
def State.installSlice (s : State) (t : TpmEntry) : State :=
  let d := t.vpn.toNat % 4
  let x := mapGet {} s.slices d
  { s with slices := mapSet s.slices d
             { x with entries := keepNewest 16 (fun u => setOf u == setOf t) (t :: x.entries.erase t) } }

def State.bufHit (s : State) (b : Nat) (c : CtxId) (ns off : Nat) : Option TpmEntry :=
  (mapGet [] s.tbufs b).find? (tpmHits c ns off)
def State.sliceHit (s : State) (c : CtxId) (ns off : Nat) : Option TpmEntry :=
  (mapGet {} s.slices (sliceOf off)).entries.find? (tpmHits c ns off)

def entryTag (c : CtxId) (ns off : Nat) (e : W64) (sub : Bool) : TpmEntry :=
  { ctx := c, ns := BitVec.ofNat 2 ns, vpn := BitVec.ofNat 24 (offVpn off), sub := if sub then offSub off else 32, entry := e }

/-- A slice takes no further walk: 32 are in flight, or older misses wait (R184). -/
def sliceBusy (x : TpmSlice) : Bool := decide (32 ≤ x.walks.length) || !x.waitq.isEmpty

/-- Translate through a buffer: the buffer, the slice, or a walk that ends at once and installs what it finds. -/
def State.translateNow (s : State) (b : Nat) (c : CtxId) (ns off : Nat) : State × Tr :=
  match s.bufHit b c ns off with
  | some t => (s.installBuf b t, .ok t.entry (t.sub != 32))
  | none =>
    match s.sliceHit c ns off with
    | some t => ((s.installSlice t).installBuf b t, .ok t.entry (t.sub != 32))
    | none =>
      if sliceBusy (mapGet {} s.slices (sliceOf off)) then (s, .wait)
      else match s.walkNow c ns off with
      | .ok e sub => ((s.installSlice (entryTag c ns off e sub)).installBuf b (entryTag c ns off e sub), .ok e sub)
      | r => (s, r)

/-! ## Physical places -/

/-- Key of a byte of a frame of a physical tier (R163, R169, R171). -/
def frameKey (ptier : Nat) (spread : Bool) (f b : Nat) : Nat :=
  match ptier with
  | 1 => if spread then pantryKey (b / 4096 % 8) (f / 8 * 2 ^ 21 + f % 8 * 2 ^ 18 + b / 32768 * 4096 + b % 4096)
    else pantryKey (f % 8) (f / 8 * 2 ^ 21 + b)
  | 2 => cellarKey (f % 4) (f / 4 * 2 ^ 21 + b)
  | _ => annexKey (f / 2 ^ 23) (f % 2 ^ 22 * 2 ^ 21 + b)

/-- Key of the byte at an offset under an entry. -/
def entryKey (e : W64) (sub : Bool) (off : Nat) : Nat :=
  if sub then
    if ePtier e = 0 then larderKey (eSfn e / 256) (eSfn e % 256 * 65536 + off % 65536)
    else frameKey (ePtier e) false (eSfn e / 32) (eSfn e % 32 * 65536 + off % 65536)
  else frameKey (ePtier e) (eSpread e) (ePpn e) (off % 2 ^ 21)

/-- Key of a TIER 0 OFFSET (01 R43). -/
def tier0Key (off : Nat) : Nat :=
  if bitOf off 30 then shelfKey (bitsOf off 20 10) (bitsOf off 0 20) else larderKey (bitsOf off 24 6) (bitsOf off 0 24)

/-- Annex port of a translated access. -/
def annexPort (e : W64) (sub : Bool) : Option Nat :=
  if ePtier e = 3 then some (if sub then eSfn e / 32 / 2 ^ 23 else ePpn e / 2 ^ 23) else none

/-! ## Rows and holds (R529, R176, R165) -/

/-- Memory of a key: 1 Shelf, 2 Larder, 10 Pantry, 11 Cellar, 12 Annex; its unit and the byte in it. -/
def keyKind (k : Nat) : Nat := k / keySpace
def keyUnit (k : Nat) : Nat :=
  let v := k % keySpace
  match keyKind k with
  | 1 => v / 2 ^ 20
  | 2 => v / 2 ^ 24
  | 10 => v / 2 ^ 40
  | _ => v / 2 ^ 44
def keyByte (k : Nat) : Nat :=
  let v := k % keySpace
  match keyKind k with
  | 1 => v % 2 ^ 20
  | 2 => v % 2 ^ 24
  | 10 => v % 2 ^ 40
  | _ => v % 2 ^ 44

/-- Active pseudo-channels of a stack. -/
def State.pseudo (s : State) (stack : Nat) : Nat := 2 * mapGet 32 s.stackCh stack

/-- Row number of R529. -/
def State.rowOf (s : State) (k : Nat) : Nat :=
  let a := keyByte k
  match keyKind k with
  | 1 => 512 * (a / 256 % 16) + 2 * (a / 4096) + a / 128 % 2
  | 2 => 1024 * (a / 512 % 32) + a / 16384
  | 10 =>
    let p := s.pseudo (keyUnit k)
    p * (a / 256 / p / 4) + a / 256 % p
  | _ => 4 * (a / 256 / 4 / 32) + a / 256 % 4

/-- Channel of a stack in service that carries pseudo-channel `p` of its rotation (R163, R165). -/
def State.channelOf (s : State) (stack p : Nat) : Nat :=
  let lost := mapGet [] s.chanLost stack
  ((List.range 32).filter fun ch => !lost.contains ch).getD (p / 2) 0

/-- Error unit of a key: Room, Wing, Pantry channel, Cellar channel (15 R471). -/
def State.errUnit (s : State) (k : Nat) : Nat :=
  let a := keyByte k
  match keyKind k with
  | 10 => keyUnit k * 256 + s.channelOf (keyUnit k) (a / 256 % s.pseudo (keyUnit k))
  | 11 => 4 * keyUnit k + a / 256 % 4
  | _ => keyUnit k
def errSrc (k : Nat) : Nat :=
  match keyKind k with
  | 1 => 0
  | 2 => 1
  | 10 => 4
  | _ => 5
/-- ADDR of a memory record (15 R478). -/
def errAddr (k : Nat) : W64 :=
  match keyKind k with
  | 1 => dvaOf 0 (2 ^ 30 + keyUnit k * 2 ^ 20 + keyByte k)
  | 2 => dvaOf 0 (keyUnit k * 2 ^ 24 + keyByte k)
  | _ => BitVec.ofNat 64 (keyByte k)

/-- Channel unit of a row of a stack (tier 1) or of a Cellar group (tier 2), as errors name it. -/
def State.rowUnit (s : State) (tier unit row : Nat) : Nat :=
  if tier = 1 then unit * 256 + s.channelOf unit (row % s.pseudo unit) else 4 * unit + row % 4

/-- The traffic of the place is held: its bank by a soft repair of one of the bank's rows (R176), or its channel by
retraining. -/
def State.keyHeld (s : State) (k : Nat) : Bool :=
  let kind := keyKind k
  let tier := kind - 9
  let ch := s.errUnit k
  (kind == 10 || kind == 11) && s.repair.held.any fun h =>
    (h.1 == tier && h.2.1 == keyUnit k && s.rowUnit tier (keyUnit k) h.2.2 == ch &&
        (h.2.2 == s.rowOf k || Config.bankOf tier ch h.2.2 == Config.bankOf tier ch (s.rowOf k))) ||
      (h.1 == 3 && kind == 10 && h.2.1 == keyUnit k * 32 + ch % 256)

/-! ## Reads and writes at a home controller -/

/-- Poisoned 64-byte units of a range, counted from its first unit. -/
def State.badUnits (s : State) (k n : Nat) : List Nat :=
  (s.poison.filter fun u => decide (k / 64 ≤ u) && decide (u * 64 < k + n)).map fun u => u - k / 64

/-- Write bytes; the units in `bad` end poisoned. -/
def State.writeBadUnits (s : State) (k : Nat) (bs : List Byte) (bad : List Nat) : State :=
  bad.foldl (fun s u => s.markPoison (k / 64 + u)) (s.write k bs)

/-! ## Accesses of the Study and the Porch by DVA -/

/-- The part of a page in migration that holds an offset. -/
def State.migPart (s : State) (c : CtxId) (ns off : Nat) : Option (Nat × W64 × W64) :=
  (s.moves.find? fun m => m.sid.isSome && m.todo.head? == some (c, ns, offVpn off)).bind fun m =>
    m.parts.find? fun p => p.1 == 32 || p.1 == offSub off

/-- Keys of a local DVA in a context's namespaces, or the code of R188. A page in migration is read in its old frame, and
written in both frames: what an access finds that is held until the move is over (assumption 68). -/
def State.dvaKeys (s : State) (c : CtxId) (write : Bool) (d : Dva) : List Nat ⊕ Nat :=
  let off := dvaOff d
  if !s.isLocal d then .inr 0x07
  else match dvaTier d with
    | 0 => if bitsOf off 31 14 != 0 then .inr 0x07 else .inl [tier0Key off]
    | 1 | 2 | 3 =>
      match s.walkNow c (dvaTier d) off with
      | .ok e sub => if write && !eWrite e then .inr 0x02 else .inl [entryKey e sub off]
      | .bad n => .inr n
      | _ =>
        match s.migPart c (dvaTier d) off with
        | some (j, old, new) =>
          if write && !eWrite old then .inr 0x02 else .inl [entryKey old (j != 32) off, entryKey new (j != 32) off]
        | none => .inr 0x05
    | _ => .inr 0x07

/-- Key at which a local DVA is read. -/
def State.dvaKey (s : State) (c : CtxId) (write : Bool) (d : Dva) : Nat ⊕ Nat :=
  match s.dvaKeys c write d with
  | .inl (k :: _) => .inl k
  | .inl [] => .inr 0x05
  | .inr n => .inr n

/-- Read `n` bytes at a DVA, 64-byte unit by unit: bytes and whether a unit is poisoned, or a code. -/
def State.dvaReadGo (s : State) (c : CtxId) (d : Dva) : Nat → (List Byte × Bool) ⊕ Nat
  | 0 => .inl ([], false)
  | k + 1 =>
    match s.dvaReadGo c d k, s.dvaKey c false (d + BitVec.ofNat 64 k) with
    | .inl (bs, p), .inl key => .inl (bs ++ [memRead s.mem key], p || s.poison.contains (key / 64))
    | .inr n, _ => .inr n
    | _, .inr n => .inr n

def State.dvaRead (s : State) (c : CtxId) (d : Dva) (n : Nat) : List Byte ⊕ Nat :=
  match s.dvaReadGo c d n with
  | .inl (bs, p) => if p then .inr 0x08 else .inl bs
  | .inr e => .inr e

/-- A little-endian field at a DVA. -/
def State.dvaNat (s : State) (c : CtxId) (d : Dva) (n : Nat) : Nat ⊕ Nat :=
  match s.dvaRead c d n with
  | .inl bs => .inl (leNat bs)
  | .inr e => .inr e

/-- The bytes written to one unit, then the rest: runs of at most 64 bytes that do not cross a 64-byte boundary. -/
def chunks64 (d : Nat) : Nat → List Byte → List (Nat × List Byte)
  | 0, _ => []
  | f + 1, bs =>
    if bs.isEmpty then []
    else
      let n := 64 - d % 64
      (d, bs.take n) :: chunks64 (d + n) f (bs.drop n)

/-- Write bytes at a DVA; at the first unit that cannot be written the write stops with its code. -/
def State.dvaWrite (s : State) (c : CtxId) (d : Dva) (bs : List Byte) : State × Nat :=
  (chunks64 d.toNat (bs.length / 64 + 2) bs).foldl (fun (r : State × Nat) e =>
    if r.2 ≠ 0 then r
    else match r.1.dvaKeys c true (BitVec.ofNat 64 e.1) with
      | .inl keys => (keys.foldl (fun s key => s.write key e.2) r.1, 0)
      | .inr n => (r.1, n)) (s, 0)

end Sys2Proof.Machine
end

