-- ==== Sys2Proof/Machine/Seq.lean ====
section
/-! DEFINITION. The sequencer of a Room (04 R131 to R138, R153) and the tensor queue it feeds (03 R101): starting a
firing program, placing tensor words, moving to the next word, and the running of one vector word. -/

namespace Sys2Proof.Machine

/-- The firing whose program runs: the oldest in flight that has not ended (R132). -/
def Room.running (x : Room) : Option Firing := x.firings.find? fun f => !f.ended

def setFiring (fs : List Firing) (set : Nat) (g : Firing → Firing) : List Firing :=
  fs.map fun f => if f.set = set then g f else f

/-- Words of the active slot's program. -/
def State.nWords (s : State) (r : RoomId) : Nat := hWords (s.header r (s.room r).active)

/-- A tensor opcode of R142 (0x01 to 0x0A), and those R102 defines. -/
def isTensorOp (op : Nat) : Bool := decide (1 ≤ op) && decide (op ≤ 0x0A)
def tensorDefined (op : Nat) : Bool := [0x01, 0x02, 0x03, 0x08, 0x09, 0x0A].contains op

/-- The Room faults with TE_ENCODING when an undefined tensor opcode reaches the head of the queue (03 R123). -/
def State.checkTensorHead (s : State) (r : RoomId) : State :=
  match (s.room r).te.queue with
  | i :: _ => if (s.room r).runst != .fault && !tensorDefined (i.word.toNat % 256) then s.faultRoom r 0x03 0x11 else s
  | [] => s

/-- Place tensor words from the program counter on while the queue has room, and fault at a word that is past the
program (VE_BOUNDS) or has a reserved opcode (VE_ENCODING). -/
def settleGo (r : RoomId) : Nat → State → State
  | 0, s => s
  | k + 1, s =>
    let x := s.room r
    match x.running with
    | none => s
    | some f =>
      if x.runst = .fault || x.ve.wait ≠ .none || 2 ^ 24 ≤ x.ve.issued then s
      else if s.nWords r ≤ x.ve.pc then s.faultRoom r 0x04 0x22
      else
        let w := s.word r x.active x.ve.pc
        if isTensorOp (wOp w) then
          if x.te.queue.length < 8 then
            settleGo r k (s.updRoom r fun x =>
              { x with te := { x.te with queue := x.te.queue ++ [{ word := BitVec.ofNat 128 w, set := f.set }] }
                       ve := { x.ve with pc := x.ve.pc + 1, issued := x.ve.issued + 1 }
                       firings := setFiring x.firings f.set fun f => { f with tensor := f.tensor + 1 } })
          else s
        else if (vecSpec (wOp w)).isNone then s.faultRoom r 0x04 0x21
        else s

def State.settle (s : State) (r : RoomId) : State := (settleGo r 9 s).checkTensorHead r

/-- Start the program of the running firing at word 0, with G15 the firings issued in the slot before it (R131, R133). -/
def State.startProgram (s : State) (r : RoomId) : State :=
  match (s.room r).running with
  | none => s
  | some f =>
    (s.updRoom r fun x =>
      { x with ve := { x.ve with pc := 0, issued := 0, wait := .none, g := mapSet x.ve.g 15 f.index } }).settle r

/-- A firing in flight completes when it has ended, its tensor instructions are done and its entries have left. -/
def firingDone (f : Firing) : Bool := f.ended && f.tensor == 0 && f.left0 == 0 && f.left1 == 0

def State.dropDone (s : State) (r : RoomId) : State :=
  s.updRoom r fun x => { x with firings := x.firings.filter fun f => !firingDone f }

/-- The word at the program counter, when a firing program runs and the sequencer is free (R138). -/
def State.seqWord (s : State) (r : RoomId) : Option (Nat × Firing) :=
  let x := s.room r
  match x.running with
  | none => none
  | some f =>
    if s.live && x.runst == .run && x.ve.wait == .none && decide (x.ve.issued < 2 ^ 24) && decide (x.ve.pc < s.nWords r) then
      some (s.word r x.active x.ve.pc, f)
    else none

/-- Vector registers that a VLDM in flight will write. -/
def State.pendingRegs (s : State) (r : RoomId) : List Nat :=
  s.accesses.filterMap fun a => match a.who with
    | .vldm r' vd => if r' = r then some vd.toNat else none
    | _ => none

/-- What a vector word does: the next word follows, another word follows, the word waits where it is with the state it
leaves, or the Room faults and the word has no effect. -/
inductive VOut where
  | ok (s : State)
  | jump (s : State) (target : Nat)
  | hold (s : State)
  | encoding
  | bounds
  | mem (code : Nat) (dva : W64)
  | bolt

/-- The word has issued; the sequencer goes on at `pc`. -/
def State.goTo (s : State) (r : RoomId) (pc : Nat) : State :=
  (s.updRoom r fun x => { x with ve := { x.ve with pc, issued := x.ve.issued + 1 } }).settle r

/-- Execute the vector word with opcode `op` if it is the next word and its registers are ready: encoding first, then
its effect, then the next word. -/
def State.vecStep (s : State) (r : RoomId) (op : Nat) (f : Nat → Firing → State → VOut) : State :=
  match s.seqWord r with
  | none => s
  | some (w, fi) =>
    if wOp w ≠ op || (vecRegs w).any (fun n => (s.pendingRegs r).contains n) then s
    else if vecBad w then s.faultRoom r 0x04 0x21
    else match f w fi s with
      | .ok t => t.goTo r ((s.room r).ve.pc + 1)
      | .jump t p => if p < s.nWords r then t.goTo r p else s.faultRoom r 0x04 0x22
      | .hold t => t
      | .encoding => s.faultRoom r 0x04 0x21
      | .bounds => s.faultRoom r 0x04 0x22
      | .mem c d => s.faultRoom r 0x05 c none d
      | .bolt => s.faultRoom r 0x06 0x31

/-! ## Registers of the vector engine (R129) -/

def Room.gReg (x : Room) (n : Nat) : Nat := if n = 0 then 0 else (mapGet 0 x.ve.g n).toNat
def Room.setG (x : Room) (n v : Nat) : Room :=
  if n = 0 then x else { x with ve := { x.ve with g := mapSet x.ve.g n (BitVec.ofNat 32 v) } }
def Room.pReg (x : Room) (n : Nat) : Nat := if n = 0 then 2 ^ 64 - 1 else (mapGet 0 x.ve.p n).toNat
def Room.setP (x : Room) (n v : Nat) : Room :=
  if n = 0 then x else { x with ve := { x.ve with p := mapSet x.ve.p n (BitVec.ofNat 64 v) } }
/-- Lane i of Vn. -/
def Room.lane (x : Room) (n i : Nat) : Nat := (((mapGet [] x.ve.v n).getD i 0 : W32)).toNat
def Room.lanes (x : Room) (n : Nat) : List Nat := (List.range 64).map (x.lane n)
def Room.setV (x : Room) (n : Nat) (ls : List Nat) : Room :=
  { x with ve := { x.ve with v := mapSet x.ve.v n ((List.range 64).map fun i => BitVec.ofNat 32 (ls.getD i 0)) } }
/-- FP64 pairs: Vn low word, Vn+1 high word (R137). -/
def Room.lanes64 (x : Room) (n : Nat) : List Nat := (List.range 64).map fun i => x.lane n i + 2 ^ 32 * x.lane (n + 1) i
def Room.setV64 (x : Room) (n : Nat) (ls : List Nat) : Room :=
  (x.setV n (ls.map (· % 2 ^ 32))).setV (n + 1) (ls.map (· / 2 ^ 32))
/-- Lane i is active under PM of the word. -/
def Room.active? (x : Room) (w i : Nat) : Bool := bitOf (x.pReg (wPM w)) i
def Room.count (x : Room) (invalid inf sat ignored range : Nat) : Room :=
  { x with ve := { x.ve with cnt := addCnt x.ve.cnt invalid inf sat ignored range } }

/-! ## Spaces (R134 to R140) -/

def spaceSize : Nat → Nat
  | 0 => 2 ^ 20
  | 1 => 2 ^ 16
  | 2 => 6272
  | _ => 2048

def spaceKey (r : RoomId) (set : Nat) (space a : Nat) : Nat :=
  match space with
  | 0 => shelfKey r.toNat a
  | 1 => cacheKey r.toNat a
  | 2 => stageInKey r.toNat set a
  | _ => stageOutKey r.toNat set a

/-- A range lies in its space. -/
def inSpace (space a n : Nat) : Bool := decide (a + n ≤ spaceSize space)

/-- A range of output staging belongs to entries of enabled outputs inside their parcels (R135). -/
def outRangeOk (h : Header) (a n : Nat) : Bool :=
  (List.range ((a + n + 63) / 64 - a / 64)).all fun k =>
    let e := a / 64 + k
    hOutEn h (e / 16) && decide (e % 16 < hPlenOut h (e / 16))

/-- A write to a range is refused: input staging is read-only (VE_ENCODING), and bounds. -/
def writeBad (h : Header) (space a n : Nat) : Option VOut :=
  if space = 2 then some .encoding
  else if !inSpace space a n then some .bounds
  else if space = 3 && !outRangeOk h a n then some .bounds
  else none

/-- Read bytes of a space: bounds, then poison of Shelf units (05 R175). -/
def State.spaceBad (s : State) (r : RoomId) (space a n : Nat) : Option VOut :=
  if !inSpace space a n then some .bounds
  else if space = 0 && s.poisoned (shelfKey r.toNat a) n then
    some (.mem 0x08 (dvaOf 0 (2 ^ 30 + r.toNat * 2 ^ 20 + a)))
  else none

/-- Mark entries of output staging with a kind (R135: VST writes DATA). -/
def markKinds (f : Firing) (a n kind : Nat) : Firing :=
  let mark (m : Map (BitVec 2)) (k : Nat) := mapSet m (a / 64 + k) (BitVec.ofNat 2 kind)
  { f with outKinds := (List.range ((a + n + 63) / 64 - a / 64)).foldl mark f.outKinds }

/-- Write bytes of a space that `writeBad` allows. R135 names VST, VTOKEN and VENDM as what writes entries and forbids output
staging to no other writer: VSCATTER, VCOMPRESS, TROWG, TROWS and TILEOP write it here too and mark the entries DATA (DESIGN
CHOICE, assumption 81). -/
def State.spaceWrite (s : State) (r : RoomId) (set space a : Nat) (bs : List Byte) : State :=
  let t := s.write (spaceKey r set space a) bs
  if space = 3 && !bs.isEmpty then
    t.updRoom r fun x => { x with firings := setFiring x.firings set fun f => markKinds f a bs.length 0 }
  else t

end Sys2Proof.Machine
end

