-- ==== Sys2Proof/Machine/Memory.lean ====
section
/-! DEFINITION. Accesses from their source to their home controller and back (01 R33, R40 to R45, 05 R158, R172 to R191),
remote accesses and group writes (10 R337, R355, R356), host-window completions (11 R371, R372), memory faults and repair
events (05 R165, R170 to R176), and VLDM, VSTM. -/

namespace Sys2Proof.Machine

/-! ## Register violations (12 R397) -/

/-- A violation enters the 8-entry capture queue, or counts as an overflow. -/
def State.violation (s : State) (who : Who) (offset : Nat) (write : Bool) (code : Nat) : State :=
  if s.violQ.length < 8 then { s with violQ := s.violQ ++ [{ who, offset, write, code }] }
  else { s with diag := { s.diag with overflow := satAdd 32 s.diag.overflow 1 } }

/-! ## Sources (R42, R158, R74, R386, R355) -/

/-- What the source makes of a DVA. -/
inductive Place where
  | here (tier : Nat)
  | away
  | group
  /-- refused at the source with a code of R188 -/
  | bad (code : Nat)
  /-- a store to TIER 4 -/
  | config
  /-- register space -/
  | register
  deriving DecidableEq, Repr

/-- Wing that a TIER 0 OFFSET names. -/
def tier0Wing (off : Nat) : WingId := BitVec.ofNat 6 (bitsOf off 24 6)

/-- R42: a TIER 4 OFFSET has bits [44:30] zero, and SLOT zero in the control space (R44); a TIER 5 OFFSET bits [44:24]
(R45). -/
def State.place (s : State) (c : CtxId) (write : Bool) (d : Dva) : Place :=
  let off := dvaOff d
  let t := dvaTier d
  if 6 ≤ t then .bad 0x07
  else if s.isLocal d then
    if t = 0 then
      if bitsOf off 31 14 != 0 then .bad 0x07
      else if (s.wing (tier0Wing off)).ctx = some c then .here 0 else .bad 0x06
    else if t = 4 then
      (if bitsOf off 30 15 != 0 || (bitOf off 19 && bitsOf off 16 3 != 0) || !write then .bad 0x07 else .config)
    else if t = 5 then (if bitsOf off 24 21 != 0 then .bad 0x07 else .register)
    else .here t
  else if t = 0 || t = 4 || t = 5 then .bad 0x07
  else if isGroup (dvaNode d) && s.fabric.isSome then (if write then .group else .bad 0x07)
  else if s.nodeOk (dvaNode d) then .away
  else .bad 0x07

/-- Source endpoint number of a requester (R34): a Room, a Dumbwaiter, the host port, a Corridor port, the Porch. A group copy
is the arrival's port, and at the root port 0. -/
def sourceOf : Requester → Nat
  | .vldm r _ => endpointNo (.room r)
  | .vstm r => endpointNo (.room r)
  | .dw sid => endpointNo (.dumbwaiter (sid / 64))
  | .hostWin _ => endpointNo .hostPort
  | .remote p _ => endpointNo (.port p)
  | .group _ => endpointNo (.port 0)
  | .porch _ => endpointNo .porch

/-- Translation buffer of a requester (R183). -/
def bufOf : Requester → Nat
  | .vldm r _ => (wingOf r).toNat
  | .vstm r => (wingOf r).toNat
  | .dw sid => 64 + sid / 64
  | .hostWin _ => 74
  | .remote p _ => if p < 12 then 75 else 76
  | .group _ => 75
  | .porch _ => 75

/-! ## Completion -/

/-- The result of an access waits for its requester. -/
def State.setDone (s : State) (id code : Nat) (data : List Byte) (poison : List Nat) : State :=
  s.updAccess id fun a => { a with st := .done (BitVec.ofNat 8 code) data poison }

/-- CODE of a finished group write: its own, then its children's in ascending order (10 R356). -/
def groupCode (g : GroupWrite) : Byte :=
  (g.ownCode.toList ++ g.kids.filterMap (·.2)).find? (fun c => c != 0) |>.getD 0

/-- A group write that has every answer completes at its source, or is acknowledged to its parent. -/
def State.groupCheck (s : State) (id : Nat) : State :=
  match s.gwrites.find? (fun g : GroupWrite => g.id == id) with
  | some g =>
    if g.ownCode.isSome && g.kids.all (fun k => k.2.isSome) then
      let s := { s with gwrites := s.gwrites.filter fun x : GroupWrite => x.id != id }
      match g.parent, g.access with
      | some pk, _ => s.send (responseTo s pk (groupCode g).toNat)
      | none, some a => s.setDone a (groupCode g).toNat [] []
      | none, none => s
    else s
  | none => s

def State.updGroup (s : State) (id : Nat) (f : GroupWrite → GroupWrite) : State :=
  ({ s with gwrites := s.gwrites.map fun g : GroupWrite => if g.id = id then f g else g }).groupCheck id

/-- A failed host-window request: counted, and recorded and signalled once in each 1 ms of the window's life (11 R372);
1 ms of DEV_HC_COUNT is 2,400,000 (assumption 19). -/
def State.hostFault (s : State) (win : Nat) (code : Nat) (aperture : Nat) : State :=
  match mapFind s.windows win with
  | none => s
  | some w =>
    let slot := (s.hc - w.born).toNat / 2400000
    let first := w.lastRec != some slot
    let w := { w with faults := w.faults + 1, byCode := mapAdd w.byCode code 1, lastRec := if first then some slot else w.lastRec }
    let s := { s with windows := mapSet s.windows win w }
    if first then
      (s.raise { cls := 0x33, code := BitVec.ofNat 8 code, src := 14, unit := win, addr := BitVec.ofNat 64 aperture }).raiseVec 0 3
    else s

/-- A window that is being removed goes once no request decoded through it is left. -/
def State.windowDone (s : State) (win : Nat) : State :=
  match mapFind s.windows win with
  | some w =>
    match w.removing with
    | some req =>
      if s.accesses.any fun a => a.who == .hostWin win then s
      else
        let s := { s with windows := mapDel s.windows win }
        match req with
        | some q => s.answer q.lbx (reqTag q) 0x0207 (reqCtx q) true 0
        | none => s
    | none => s
  | none => s

/-- Completion of a host request: reads return data, with CXL poison on a failure or a poisoned unit; writes return
normally. -/
def State.hostComplete (s : State) (win : Nat) (write : Bool) (aperture : Nat) (code : Nat) (data : List Byte)
    (poison : List Nat) : State :=
  let s := if code ≠ 0 then s.hostFault win code aperture else s
  if write then { s with cxlOut := s.cxlOut ++ [([], false)] }
  else { s with cxlOut := s.cxlOut ++ [(if code = 0 then data else List.replicate 64 0, code != 0 || !poison.isEmpty)] }

/-- Poison mask of a response. -/
def poisonMask (us : List Nat) : Nat := (us.map fun u => 2 ^ u).sum

/-- An access has its outcome: it goes to its requester. -/
def State.finish (s : State) (a : Access) (code : Nat) (data : List Byte) (poison : List Nat) : State :=
  let drop := { s with accesses := s.accesses.filter fun x => x.id != a.id }
  match a.who with
  | .vldm _ _ | .vstm _ | .dw _ | .porch _ => s.setDone a.id code data poison
  | .hostWin win =>
    let ap := match mapFind s.windows win with
      | some w => w.aperture + (dvaOff a.dva - w.vaBase)
      | none => 0
    (drop.hostComplete win a.write ap code data poison).windowDone win
  | .remote p pk =>
    drop.respond p (responseTo s pk code (if a.write then 0 else poisonMask poison) (if a.write || code != 0 then [] else data))
  | .group id => drop.updGroup id fun g => { g with ownCode := some (BitVec.ofNat 8 code) }

/-! ## Performing (R33, R175, R179, R189) -/

/-- The entry permits the access: WRITE locally, REM_RD and REM_WR for a request of another device or a group copy, the
window's and the host tiers for a host request (11 R371). -/
def accessCode (a : Access) (s : State) (e : W64) (sub : Bool) : Nat :=
  match a.who with
  | .hostWin win =>
    let w := match mapFind s.windows win with
      | some w => w.write
      | none => false
    if ePtier e == 3 || (sub && ePtier e == 0) then 0x03 else if a.write && !(w && eWrite e) then 0x02 else 0
  | .remote _ _ | .group _ => if (if a.write then eRemWr e else eRemRd e) then 0 else 0x0A
  | _ => if a.write && !eWrite e then 0x02 else 0

/-- Perform an access at its home controller under an entry (none for TIER 0), unless the place is held; an access that is
waited for is performed when the hold is over (`wait`). -/
def State.performAt (s : State) (a : Access) (e : Option (W64 × Bool)) (wait : Bool := false) : State :=
  let key := match e with
    | some (w, sub) => entryKey w sub (dvaOff a.dva)
    | none => tier0Key (dvaOff a.dva)
  let code := match e with
    | some (w, sub) =>
      if accessCode a s w sub ≠ 0 then accessCode a s w sub
      else match annexPort w sub with
        | some p => if mapGet false s.annexUp p then 0 else 0x03
        | none => 0
    | none => 0
  if !wait && s.keyHeld key then s
  else if code ≠ 0 then s.finish a code [] []
  else if a.write then (s.writeBadUnits key a.data a.bad).finish a 0 [] []
  else s.finish a 0 (s.read key a.len) (s.badUnits key a.len)

/-- An access has its translation: it leaves its source, behind what has left it before (R28). -/
def State.translated (s : State) (id : Nat) (e : W64) (sub : Bool) : State :=
  { s with accesses := (s.accesses.filter fun x => x.id != id) ++
      (s.accesses.filter fun x => x.id == id).map fun a => { a with st := .translated e sub } }

/-- 64-byte units of two accesses meet. -/
def unitsMeet (x y : Access) : Bool :=
  let units (a : Access) : Nat × Nat := (a.dva.toNat / 64, (a.dva.toNat + a.len - 1) / 64)
  decide ((units x).1 ≤ (units y).2) && decide ((units y).1 ≤ (units x).2)

/-- An older access of the same source to the same 64-byte unit of another device has not left yet (R190). -/
def State.behindRemote (s : State) (a : Access) : Bool :=
  s.accesses.any fun x =>
    decide (x.id < a.id) && sourceOf x.who == sourceOf a.who && x.st == .issued && !s.isLocal x.dva &&
      !isGroup (dvaNode x.dva) && unitsMeet x a

/-- An older request of the same device to the same 64-byte unit has not been performed yet (R190). -/
def State.behindRequest (s : State) (a : Access) : Bool :=
  match a.who with
  | .remote _ pk => s.accesses.any fun x =>
      match x.who with
      | .remote _ pk' => decide (x.id < a.id) && pk'.src == pk.src && unitsMeet x a
      | _ => false
  | _ => false

/-- Translate and perform (host windows, requests of other devices, group copies): at once where no slice and no older request
holds the access up. -/
def State.serve (s : State) (a : Access) : State :=
  if s.behindRequest a then s.updAccess a.id fun a => { a with st := .issued }
  else
  let (s, r) := s.translateNow (bufOf a.who) a.ctx (dvaTier a.dva) (dvaOff a.dva)
  match r with
  | .ok e sub => s.performAt a (some (e, sub))
  | .mig => s.updAccess a.id fun a => { a with st := .mig }
  | .bad code => s.finish a code [] []
  | .wait => s.updAccess a.id fun a => { a with st := .issued }

/-- Put an access in flight. -/
def State.addAccess (s : State) (a : Access) : State × Access :=
  let a := { a with id := s.nextAcc }
  ({ s with accesses := s.accesses ++ [a], nextAcc := s.nextAcc + 1 }, a)

/-! ## Group writes (10 R355, R356) -/

def State.groupOf (s : State) (job : W32) (g : Byte) : Option Group :=
  s.groups.find? fun e => e.job == job && e.group == g

/-- The context of a job tag on this device. -/
def State.jobCtx (s : State) (job : W32) : Option CtxId :=
  ((List.range 64).find? fun c => (s.ctx (BitVec.ofNat 6 c)).st != .free && (s.ctx (BitVec.ofNat 6 c)).job == job).map (BitVec.ofNat 6)

/-- KEY of a request: DVA bits [47:9] (10 R341). -/
def dvaSlotKey (d : Dva) : W64 := BitVec.ofNat 64 (bitsOf d.toNat 9 39)

/-- This device's own copy: an access under R189, or its refusal. -/
def State.groupOwn (s : State) (id : Nat) (job : W32) (dva : Dva) (data : List Byte) : State :=
  match s.jobCtx job with
  | none => s.updGroup id fun g => { g with ownCode := some 0x0B }
  | some c =>
    let (s, a) := s.addAccess { id := 0, who := .group id, ctx := c, job, write := true, dva, len := data.length, data }
    s.serve a

/-- Start a group write at the root or a member: one GWR_REQ to each child, and the local copy. -/
def State.startGroup (s : State) (e : Group) (dva : Dva) (data : List Byte) (south : Bool) (parent : Option Packet)
    (access : Option Nat) : State :=
  let id := s.nextGw
  let g : GroupWrite := { id, job := e.job, group := e.group, south, parent, access
                          ownCode := if e.isLocal then none else some 0, kids := e.children.map fun c => (c, none) }
  let s := { s with gwrites := s.gwrites ++ [g], nextGw := id + 1 }
  let pk : Packet := { dst := BitVec.ofNat 16 (0x8000 + e.group.toNat), src := s.idNode, kind := 8, vc := 0
                       len := BitVec.ofNat 4 (data.length / 64), job := e.job, arg := BitVec.ofNat 64 (dva.toNat % 2 ^ 48)
                       key := dvaSlotKey dva, data }
  let s := e.children.foldl (fun s c =>
    match s.sendRequest c pk 2 id with
    | some (s, _) => s
    | none => s) s
  let s := if e.isLocal then s.groupOwn id e.job dva data else s
  s.groupCheck id

/-! ## Issue -/

/-- Send a remote access on its way; it stays issued while no RTAG is free. -/
def State.sendRemote (s : State) (a : Access) : State :=
  let pk : Packet := { dst := dvaNode a.dva, src := s.idNode, kind := if a.write then 2 else 1, vc := 0
                       len := BitVec.ofNat 4 (a.len / 64), job := a.job, arg := BitVec.ofNat 64 (a.dva.toNat % 2 ^ 48)
                       key := dvaSlotKey a.dva, data := if a.write then a.data else [] }
  match s.sendRequest pk.dst pk 0 a.id with
  | some (s, t) => s.updAccess a.id fun a => { a with st := .remoteOut t }
  | none => s

/-- An I/O die takes a further group write: fewer than 1,024 pend there, and tags are free (10 R337, R356). -/
def State.groupReady (s : State) (south : Bool) : Bool :=
  s.tagsForGroup && decide ((s.gwrites.filter fun g : GroupWrite => g.south == south).length < 1024)

/-- Start an issued access to a group address at the root, on North; it stays issued while North takes none. -/
def State.sendGroup (s : State) (a : Access) : State :=
  match s.groupOf a.job (BitVec.ofNat 8 (dvaNode a.dva).toNat) with
  | some e => if s.groupReady false then (s.updAccess a.id fun a => { a with st := .remoteOut 4096 }).startGroup e a.dva a.data false none (some a.id) else s
  | none => s.setDone a.id 0x0A [] []

/-- Issue an access whose place the source has accepted: a buffer hit is translated at once. -/
def State.issue (s : State) (a : Access) (pl : Place) : State :=
  let (s, a) := s.addAccess a
  match pl with
  | .here 0 => s.translated a.id 0 false
  | .here t =>
    match s.bufHit (bufOf a.who) a.ctx t (dvaOff a.dva) with
    | some e => (s.installBuf (bufOf a.who) e).translated a.id e.entry (e.sub != 32)
    | none => s
  | .away => if s.behindRemote a then s else s.sendRemote a
  | .group => s.sendGroup a
  | _ => s

/-- A store to TIER 4: the slot window of an ACTIVE slot sets ACTIVE_WRITE, and the context faults (02 R74). -/
def State.configStore (s : State) (from' : RoomId) (c : CtxId) (d : Dva) : State :=
  let off := dvaOff d
  let r : RoomId := BitVec.ofNat 10 (bitsOf off 20 10)
  let x := s.room r
  let s := if !bitOf off 19 && (mapGet SlotSt.empty x.slots (bitsOf off 16 3)) == .active then
      s.updRoom r fun x => { x with fault := x.fault ||| 64 } else s
  s.raise { cls := 0x09, src := 3, unit := c.toNat, ctx := some c, detail := BitVec.ofNat 64 from'.toNat }

/-! ## VLDM and VSTM (04 R142) -/

/-- Accesses of a Room in flight. -/
def State.outstanding (s : State) (r : RoomId) : Nat :=
  (s.accesses.filter fun a => match a.who with
    | .vldm r' _ => r' == r
    | .vstm r' => r' == r
    | _ => false).length

/-- The 256-byte access of a word: refused at its source, or in flight. -/
def roomAccess (r : RoomId) (w : Nat) (who : Requester) (write : Bool) (data : List Byte) (s : State) : VOut :=
  let x := s.room r
  let d : Dva := BitVec.ofNat 64 (x.gReg (wGA w) + 2 ^ 32 * x.gReg (wGA w + 1))
  if 32 ≤ s.outstanding r then .hold s
  else if d.toNat % 256 ≠ 0 then .bounds
  else
    match s.roomCtx r with
    | none => .mem 0x06 d
    | some c =>
      let a : Access := { id := 0, who, ctx := c, job := (s.ctx c).job, write, dva := d, len := 256, data }
      match s.place c write d with
      | .bad code => .mem code d
      | .config => .ok (s.configStore r c d)
      | .register =>
        let (s, a) := (s.violation .other (bitsOf (dvaOff d) 0 24) write 0x07).addAccess a
        .ok (s.setDone a.id 0 (List.replicate 256 0) [])
      | pl => .ok (s.issue a pl)

/-- VLDM: 256 bytes from the DVA in G[GA], G[GA + 1] to VD. -/
def execVldm (r : RoomId) (s : State) : Host.Outcome State Fault Refusal :=
  .next <| s.vecStep r 0x24 fun w _ s => roomAccess r w (.vldm r (BitVec.ofNat 5 (wVD w))) false [] s

/-- VSTM: VA to the DVA. -/
def execVstm (r : RoomId) (s : State) : Host.Outcome State Fault Refusal :=
  .next <| s.vecStep r 0x25 fun w _ s =>
    roomAccess r w (.vstm r) true (((s.room r).lanes (wVA w)).flatMap (natLe 4)) s

/-- MEM_RESPONSE_ARRIVAL: the response of a Room's access; a failure or poison faults the Room, a load writes VD. -/
def execMemResponseArrival (id : Nat) (s : State) : Host.Outcome State Fault Refusal :=
  .next <|
    match s.access id with
    | none => s
    | some a =>
      let t := { s with accesses := s.accesses.filter fun x => x.id != id }
      match a.st, a.who with
      | .done code data poison, .vldm r vd =>
        if (s.room r).runst = .fault then t
        else if code ≠ 0 then t.faultRoom r 0x05 code.toNat none a.dva
        else if !poison.isEmpty then t.faultRoom r 0x05 0x08 none a.dva
        else t.updRoom r fun x => x.setV vd.toNat ((List.range 64).map fun i => leNat ((data.drop (4 * i)).take 4))
      | .done code _ _, .vstm r =>
        if code ≠ 0 && (s.room r).runst != .fault then t.faultRoom r 0x05 code.toNat none a.dva else t
      | _, _ => s

/-! ## At the home controller -/

/-- Home controller of an access that has left its source: the Room, the Wing, a stack's home die, the Cellar channel or the
Annex port (R33). -/
def State.homeOf (s : State) (a : Access) : Option (Nat × Nat) :=
  match a.st with
  | .translated e sub =>
    let k := if dvaTier a.dva = 0 then tier0Key (dvaOff a.dva) else entryKey e sub (dvaOff a.dva)
    some (keyKind k, if keyKind k = 10 then keyUnit k / 2 else if keyKind k = 11 then s.errUnit k else keyUnit k)
  | _ => none

/-- An older access of the same source is on its way to the same home controller (R28, R31). -/
def State.behindOlder (s : State) (a : Access) : Bool :=
  (s.accesses.takeWhile fun x => x.id != a.id).any fun x =>
    sourceOf x.who == sourceOf a.who && (s.homeOf x).isSome && s.homeOf x == s.homeOf a

/-- MEMORY_ACCESS: a translated access is performed, behind the older ones of its source at its home controller; a remote one
that waits for an RTAG, and one that waits on MIG = 1 outside a walker, is tried again. -/
def State.memoryAccess (s : State) (id : Nat) : State :=
    match s.access id with
    | none => s
    | some a =>
      match a.st, a.who with
      | .translated e sub, _ =>
        if s.behindOlder a || s.behindRequest a then s else s.performAt a (if dvaTier a.dva = 0 then none else some (e, sub))
      | .issued, _ =>
        if s.isLocal a.dva then s
        else if isGroup (dvaNode a.dva) then s.sendGroup a
        else if s.behindRemote a then s else s.sendRemote a
      | .mig, .hostWin _ | .mig, .remote _ _ | .mig, .group _ => s.serve a
      | _, _ => s

/-! ## Slices and walks (R182 to R186) -/

def State.updSlice (s : State) (d : Nat) (f : TpmSlice → TpmSlice) : State :=
  { s with slices := mapSet s.slices d (f (mapGet {} s.slices d)) }

/-- A directory entry is cached, or used in the cache of 4,096 (R182). -/
def keepDir (x : TpmSlice) (k : Nat) (e : W64) : TpmSlice := { x with dir := ((k, e) :: mapDel x.dir k).take 4096 }

/-- A new walk of a page: from the leaf where its directory entry is cached. -/
def newWalk (x : TpmSlice) (c : CtxId) (ns vpn sub : Nat) (waiters : List Nat) : TpmSlice × Walk :=
  let w : Walk := { ctx := c, ns := BitVec.ofNat 2 ns, vpn := BitVec.ofNat 24 vpn, sub, level := 0, waiters }
  match mapFind x.dir (dirKey c ns vpn) with
  | some e => (keepDir x (dirKey c ns vpn) e, { w with level := 1, table := eTable e })
  | none => (x, w)

/-- Accesses that still wait in a slice for a walk, oldest first (R184). -/
def State.waitingIn (s : State) (x : TpmSlice) : List Nat :=
  x.waitq.filter fun id => match s.access id with
    | some a => a.st == .issued
    | none => false

/-- TRANSLATION_LOOKUP: a slice hit installs in the buffer; a miss joins a walk of the same tag, or starts one while fewer
than 32 are in flight and no older miss waits; up to 256 misses wait in order, and what comes then waits at its source. -/
def execTranslationLookup (id : Nat) (s : State) : Host.Outcome State Fault Refusal :=
  .next <|
    match s.access id with
    | none => s
    | some a =>
      let ns := dvaTier a.dva
      let off := dvaOff a.dva
      let d := sliceOf off
      let x := mapGet {} s.slices d
      if a.st ≠ .issued || !s.isLocal a.dva || x.walks.any (fun w => w.waiters.contains id) then s
      else match s.sliceHit a.ctx ns off with
        | some t => ((s.installSlice t).installBuf (bufOf a.who) t).translated id t.entry (t.sub != 32)
        | none =>
          let q := s.waitingIn x
          let same (w : Walk) := w.ctx == a.ctx && w.ns.toNat == ns && w.vpn.toNat == offVpn off && w.sub == offSub off
          if x.walks.any same then
            s.updSlice d fun x =>
              { x with walks := x.walks.map fun w => if same w then { w with waiters := w.waiters ++ [id] } else w }
          else if x.walks.length < 32 && (q.isEmpty || q.head? == some id) then
            s.updSlice d fun x =>
              let (x, w) := newWalk x a.ctx ns (offVpn off) (offSub off) [id]
              { x with walks := x.walks ++ [w], waitq := q.filter fun i => i != id }
          else if !q.contains id && decide (q.length < 256) then s.updSlice d fun x => { x with waitq := q ++ [id] }
          else s

/-- Replace walk `k`. -/
def setWalk (x : TpmSlice) (k : Nat) (w : Walk) : TpmSlice := { x with walks := x.walks.set k w }

/-- A walk faults: every waiter completes with the code and nothing is installed. -/
def State.walkFault (s : State) (d k : Nat) (w : Walk) (code : Nat) : State :=
  let s := s.updSlice d fun x => { x with walks := x.walks.eraseIdx k }
  w.waiters.foldl (fun s id =>
    match s.access id with
    | some a => s.finish a code [] []
    | none => s) s

/-- A walk ends with an entry: it is installed and every waiter is translated. -/
def State.walkDone (s : State) (d k : Nat) (w : Walk) (t : TpmEntry) : State :=
  let s := (s.updSlice d fun x => { x with walks := x.walks.eraseIdx k }).installSlice t
  w.waiters.foldl (fun s id =>
    match s.access id with
    | some a => (s.installBuf (bufOf a.who) t).translated id t.entry (t.sub != 32)
    | none => s) s

/-- WALK_READ_RETURN: the entry of the walk's level is checked; the walk continues, waits on MIG = 1, installs or
faults. -/
def State.walkReadReturn (s : State) (d : DieId) (k : Nat) : State :=
    let n := d.toNat
    match (mapGet {} s.slices n).walks[k]? with
    | none => s
    | some w =>
      let ns := w.ns.toNat
      let vpn := w.vpn.toNat
      let tag (sub : Nat) (e : W64) : TpmEntry := { ctx := w.ctx, ns := w.ns, vpn := w.vpn, sub, entry := e }
      if w.mig then s
      else match w.level with
        | 0 =>
          let e := s.dirEntry w.ctx ns vpn
          if dirCode e = 0 then
            s.updSlice n fun x => keepDir (setWalk x k { w with level := 1, table := eTable e }) (dirKey w.ctx ns vpn) e
          else s.walkFault n k w (dirCode e)
        | 1 =>
          let e := s.tableWord (leafWord w.table vpn)
          if eValid e && eMig e then s.updSlice n fun x => setWalk x k { w with mig := true }
          else if eSub e then
            if leafSubCode e ≠ 0 then s.walkFault n k w (leafSubCode e)
            else s.updSlice n fun x => setWalk x k { w with level := 2, subtab := eSubtab e }
          else if s.leafCode e ≠ 0 then s.walkFault n k w (s.leafCode e)
          else s.walkDone n k w (tag 32 e)
        | _ =>
          let e := s.tableWord (subWord w.subtab w.sub)
          if eValid e && eMig e then s.updSlice n fun x => setWalk x k { w with mig := true }
          else if s.subCode w.ctx e ≠ 0 then s.walkFault n k w (s.subCode w.ctx e)
          else s.walkDone n k w (tag w.sub e)

/-- MIG_REWALK: a walk that waits on MIG = 1 walks again. -/
def execMigRewalk (d : DieId) (k : Nat) (s : State) : Host.Outcome State Fault Refusal :=
  .next <|
    let x := mapGet {} s.slices d.toNat
    match x.walks[k]? with
    | some w =>
      if w.mig then
        s.updSlice d.toNat fun x =>
          let (x, v) := newWalk x w.ctx w.ns.toNat w.vpn.toNat w.sub w.waiters
          setWalk x k v
      else s
    | none => s

/-- MIG_TIMEOUT: an access that waits on MIG = 1 completes with code MIG_TIMEOUT. -/
def State.migTimeout (s : State) (id : Nat) : State :=
    match s.access id with
    | none => s
    | some a =>
      let d := sliceOf (dvaOff a.dva)
      let waits := (mapGet {} s.slices d).walks.any fun w => w.mig && w.waiters.contains id
      if waits || a.st == .mig then
        let drop (w : Walk) := if w.waiters.contains id then { w with waiters := w.waiters.erase id } else w
        (s.updSlice d fun x => { x with walks := (x.walks.map drop).filter fun w => !w.waiters.isEmpty }).finish a 0x05 [] []
      else s

/-! ## Invalidation (R185) -/

/-- A walk that has read a matching leaf entry with SUB = 1 reads its subpage entry and delivers it to the accesses that wait,
and installs nothing. One that finds MIG = 1 walks again. -/
def State.deliverWalk (s : State) (w : Walk) : State :=
  let e := s.tableWord (subWord w.subtab w.sub)
  if eValid e && eMig e then s
  else w.waiters.foldl (fun s id =>
    match s.access id with
    | some a => if s.subCode w.ctx e ≠ 0 then s.finish a (s.subCode w.ctx e) [] [] else s.translated id e true
    | none => s) s

/-- Invalidate the translations that `m` matches: walks that have read a matching entry deliver it, accesses translated with
one are performed, after the holds they wait for (one behind an older request of its unit is translated again), and no cache
keeps a matching entry. Walks that have not come to it read it later. -/
def State.invalidate (s : State) (m : CtxId → Nat → Nat → Bool) : State :=
  let hit (t : TpmEntry) := m t.ctx t.ns.toNat t.vpn.toNat
  let read (w : Walk) : Bool := m w.ctx w.ns.toNat w.vpn.toNat && !w.mig && w.level == 2
  let s := (s.slices.flatMap fun e => e.2.walks.filter read).foldl (fun s w => s.deliverWalk w) s
  let ready := s.accesses.filter fun a =>
    dvaTier a.dva != 0 && m a.ctx (dvaTier a.dva) (offVpn (dvaOff a.dva)) &&
      match a.st with
      | .translated _ _ => true
      | _ => false
  let s := ready.foldl (fun s a =>
    match a.st with
    | .translated e sub =>
      if s.behindRequest a then s.updAccess a.id fun a => { a with st := .issued } else s.performAt a (some (e, sub)) true
    | _ => s) s
  let going (w : Walk) : Bool := w.waiters.any fun id => (s.access id).any fun a => a.st == .issued
  let clean (x : TpmSlice) : TpmSlice :=
    { entries := x.entries.filter fun t => !hit t, dir := x.dir.filter fun _ => false
      walks := (x.walks.filter fun w => !read w || going w).map fun w =>
        if m w.ctx w.ns.toNat w.vpn.toNat && !w.mig then { w with level := 0 } else w
      waitq := x.waitq }
  { s with tbufs := s.tbufs.map (fun e => (e.1, e.2.filter fun t => !hit t)), slices := s.slices.map fun e => (e.1, clean e.2) }

/-! ## Annex (R170 to R172) -/

/-- A timed-out Annex access: a read completes with poisoned data, a write may or may not have been performed
(assumption 3). -/
def State.annexFail (s : State) (a : Access) (e : W64) (sub : Bool) : State :=
  if a.write then
    let done := s.freeVal.getLsbD 0
    let s := s.bumpFree
    (if done then s.writeBadUnits (entryKey e sub (dvaOff a.dva)) a.data a.bad else s).finish a 0x09 [] []
  else s.finish a 0x09 (List.replicate a.len 0) (List.range (a.len / 64))

/-- ANNEX_TIMEOUT: an outstanding request of an Annex port reaches its completion timeout. -/
def execAnnexTimeout (id : Nat) (s : State) : Host.Outcome State Fault Refusal :=
  .next <|
    match s.access id with
    | some a =>
      match a.st with
      | .translated e sub =>
        match (if dvaTier a.dva = 0 then none else annexPort e sub) with
        | some p =>
          let off := BitVec.ofNat 64 (keyByte (entryKey e sub (dvaOff a.dva)))
          ((s.annexFail a e sub).raise { cls := 0x20, code := 0x09, src := 6, unit := p, ctx := some a.ctx, addr := off }).devEvent
            0x800D [(20, 1, p), (21, 1, 1), (24, 8, off.toNat)]
        | none => s
      | _ => s
    | none => s

/-- ANNEX_LINK_DOWN: every outstanding request of the port completes at once, and its frames are absent. -/
def execAnnexLinkDown (p : Bool) (s : State) : Host.Outcome State Fault Refusal :=
  .next <|
    let n := boolNat p
    let s := s.accesses.foldl (fun s a =>
      match a.st with
      | .translated e sub => if dvaTier a.dva ≠ 0 && annexPort e sub == some n then s.annexFail a e sub else s
      | _ => s) s
    (({ s with annexUp := mapSet s.annexUp n false }).raise { cls := 0x21, src := 6, unit := n }).devEvent 0x800D
      [(20, 1, n), (21, 1, 2)]

/-- ANNEX_LINK_UP: the link has retrained. -/
def execAnnexLinkUp (p : Bool) (s : State) : Host.Outcome State Fault Refusal :=
  .next { s with annexUp := mapSet s.annexUp (boolNat p) true }

/-- ANNEX_EXTENT_OFFER: accepted when base and length are multiples of 2 MiB within the port's window of 8 TB, else refused
and reported. -/
def execAnnexExtentOffer (p : Bool) (base len : W64) (s : State) : Host.Outcome State Fault Refusal :=
  .next <|
    let n := boolNat p
    if base.toNat % 2 ^ 21 = 0 && len.toNat % 2 ^ 21 = 0 && 0 < len.toNat && base.toNat + len.toNat ≤ annexWindow then
      { s with extents := s.extents ++ [(n, base.toNat / 2 ^ 21, len.toNat / 2 ^ 21)] }
    else
      (s.raise { cls := 0x21, src := 6, unit := n, addr := base }).devEvent 0x800D [(20, 1, n), (21, 1, 3), (24, 8, base.toNat)]

/-- A context entry names a frame of an extent. -/
def State.extentNamed (s : State) (port first n : Nat) : Bool :=
  let inExt (f : Nat) := f / 2 ^ 23 == port && decide (first ≤ f % 2 ^ 22) && decide (f % 2 ^ 22 < first + n)
  s.allLeaves.any fun l => eValid l.2 &&
    if eSub l.2 then (s.subEntries l.2).any fun e => eValid e.2 && ePtier e.2 == 3 && inExt (eSfn e.2 / 32)
    else ePtier l.2 == 3 && inExt (ePpn l.2)

/-- ANNEX_EXTENT_RELEASE: done only when base and length are those of an extent and no context entry names a frame in it; any
other request is refused. -/
def execAnnexExtentRelease (p : Bool) (base len : W64) (s : State) : Host.Outcome State Fault Refusal :=
  .next <|
    let e := (boolNat p, base.toNat / 2 ^ 21, len.toNat / 2 ^ 21)
    if base.toNat % 2 ^ 21 = 0 && len.toNat % 2 ^ 21 = 0 && s.extents.contains e && !s.extentNamed e.1 e.2.1 e.2.2 then { s with extents := s.extents.erase e } else s

/-! ## Scrub and repair (R165, R174 to R176) -/

/-- PATROL_SCRUB: what the pass finds in a 64-byte unit (named by its key ÷ 64): a corrected error is counted, an
uncorrectable one poisons the unit. In an Annex unit, which the GD4 does not scrub, it is the device's own error, and its poison
is honoured (R170, R174; assumption 75). DETAIL holds the row and, for SRAM, the failing bit (15 R478). -/
def execPatrolScrub (unit : Nat) (found : Scrub) (s : State) : Host.Outcome State Fault Refusal :=
  .next <|
    let k := unit * 64
    let sram := keyKind k == 1 || keyKind k == 2
    let cls := if sram then 0x18 else if keyKind k = 10 then 0x1A else 0x1E
    let ctx := if keyKind k = 1 then s.roomCtx (BitVec.ofNat 10 (keyUnit k))
      else if keyKind k = 2 then (s.wing (BitVec.ofNat 6 (keyUnit k))).ctx else none
    let err (c bit : Nat) : Err :=
      { cls := c, src := errSrc k, unit := s.errUnit k, ctx, addr := errAddr k
        detail := BitVec.ofNat 64 (s.rowOf k + if sram then 2 ^ 32 * bit else 0) }
    if keyKind k = 12 then (if found = .uncorrectable then s.markPoison unit else s)
    else if !([1, 2, 10, 11].contains (keyKind k)) then s
    else match found with
      | .clean => s
      | .corrected bit => s.raise (err cls bit)
      | .uncorrectable => (s.markPoison unit).raise (err (cls + 1) 0xFFFF)

/-- RETRAIN_COMPLETE: a Pantry channel has been retrained, and its traffic goes on. -/
def execRetrainComplete (stack : BitVec 3) (ch : BitVec 5) (s : State) : Host.Outcome State Fault Refusal :=
  .next { s with repair := { s.repair with held := s.repair.held.filter fun h => h != (3, stack.toNat * 32 + ch.toNat, 0) } }

/-- REPAIR_HOLD_END: a soft repair is complete, and the bank's traffic goes on. -/
def execRepairHoldEnd (tier unit row : Nat) (s : State) : Host.Outcome State Fault Refusal :=
  .next { s with repair := { s.repair with held := s.repair.held.filter fun h => h != (tier, unit, row) } }

end Sys2Proof.Machine
end

