-- ==== Sys2Proof/Machine/Command.lean ====
section
/-! DEFINITION. The frame of every Letterbox command (13 R419, R423, R427 to R431): when it starts, the checks all
commands share, and its responses. -/

namespace Sys2Proof.Machine

/-- The opcodes of R432. -/
def knownOp (op : Nat) : Bool :=
  (decide (1 ≤ op) && decide (op ≤ 0x0A)) || (decide (0x0101 ≤ op) && decide (op ≤ 0x0107)) ||
    (decide (0x0201 ≤ op) && decide (op ≤ 0x0207)) || (decide (0x0301 ≤ op) && decide (op ≤ 0x0306)) ||
    (decide (0x0401 ≤ op) && decide (op ≤ 0x0405)) || (decide (0x0411 ≤ op) && decide (op ≤ 0x0413)) ||
    (decide (0x0501 ≤ op) && decide (op ≤ 0x0505)) || (decide (0x0601 ≤ op) && decide (op ≤ 0x0604)) ||
    op == 0x0611 || op == 0x0612

/-- Commands of the management Letterbox only. -/
def mgmtOnly (op : Nat) : Bool :=
  [0x04, 0x05, 0x06, 0x07, 0x08, 0x09, 0x0A, 0x0101, 0x0206, 0x0207, 0x0303].contains op || decide (0x0601 ≤ op)

/-- Commands that act in the context CTX names. -/
def ctxCommand (op : Nat) : Bool :=
  decide (0x0102 ≤ op) && decide (op < 0x0600) && !([0x0206, 0x0207, 0x0303].contains op)

/-- Long commands. -/
def longOp (op : Nat) : Bool :=
  [0x0102, 0x0105, 0x0106, 0x0107, 0x0204, 0x0411, 0x0412, 0x0413, 0x0503, 0x0612].contains op

/-- The final response to a request, and the ACCEPTED of a long command. -/
def State.reply (s : State) (q : Req) (status : Nat) (detail : Nat := 0) (result : List (Nat × Nat × Nat) := []) : State :=
  s.answer q.lbx (reqTag q) (reqOp q) (reqCtx q) true status detail result
def State.accept (s : State) (q : Req) : State := s.answer q.lbx (reqTag q) (reqOp q) (reqCtx q) false 0x10

/-- BAD_REQUEST with the byte offset of the first offending field. -/
def State.badReq (s : State) (q : Req) (off : Nat) : State := s.reply q 0x12 off

/-- First offending byte of the entry's own fields: reserved bits of bytes 2 to 7, PLEN, and bytes beyond the payload. -/
def entryBad (q : Req) : Option Nat :=
  if reqBits q 2 6 2 != 0 then some 2
  else if reqNat q 3 1 != 0 then some 3
  else if 240 < reqPlen q then some 4
  else match [5, 6, 7].find? fun i => reqNat q i 1 != 0 with
    | some i => some i
    | none => ((List.range 256).drop (16 + reqPlen q)).find? fun i => reqNat q i 1 != 0

/-- First offending payload byte: a bit outside the command's fields (byte, low bit, width), or a listed field that is out
of range. -/
def payloadBad (q : Req) (fields : List (Nat × Nat × Nat)) (bad : List (Nat × Bool)) : Option Nat :=
  let mask := fields.foldl (fun m f => m ||| ((2 ^ f.2.2 - 1) * 2 ^ (8 * f.1 + f.2.1))) 0
  let stray := (List.range 256).find? fun i =>
    decide (16 ≤ i) && (reqNat q i 1 &&& (255 - bitsOf mask (8 * i) 8)) != 0
  let wrong := ((bad.filter (·.2)).map (·.1)).foldl (fun (m : Option Nat) o =>
    match m with
    | none => some o
    | some x => some (min x o)) none
  match stray, wrong with
  | some a, some b => some (min a b)
  | some a, none => some a
  | none, b => b

/-- Checks before a command of a known opcode: minimal mode, HELLO, the entry, the Letterbox, the context (assumption 20
gives their order). None when the command may go on. -/
def State.frameRefusal (s : State) (q : Req) (op : Nat) : Option (Nat × Nat) :=
  let b := s.lbx q.lbx
  let low := s.devSt == .minimal || s.devSt == .fatal
  if low then (if op = 0x04 || op = 0x0A then (entryBad q).map fun o => (0x12, o) else some (0x25, 0))
  else if !b.hello && op ≠ 1 then some (0x24, 0)
  else if !knownOp op then some (0x11, 0)
  else match entryBad q with
    | some o => some (0x12, o)
    | none =>
      if q.lbx ≠ 0 && mgmtOnly op then some (0x13, 0)
      else if q.lbx ≠ 0 && (reqCtx q).toNat + 1 ≠ q.lbx then some (0x13, 0)
      else if ctxCommand op && (s.ctx (reqCtx q)).st == .free then some (0x14, 0)
      else none

/-- Requests at the head of a Letterbox whose opcode is reserved are answered (BAD_OPCODE, or the refusal before it). -/
def lbxSettleGo (l : Nat) : Nat → State → State
  | 0, s => s
  | k + 1, s =>
    let b := s.lbx l
    match b.taken with
    | q :: rest =>
      if b.busy || knownOp (reqOp q) then s
      else
        let r := (s.frameRefusal q (reqOp q)).getD (0x11, 0)
        lbxSettleGo l k ((s.updLbx l fun b => { b with taken := rest }).reply q r.1 r.2)
    | [] => s

def State.lbxSettle (s : State) (l : Nat) : State := lbxSettleGo l (s.lbx l).taken.length s

/-- The Study, or the boot ROM, serves Letterboxes. -/
def State.serves (s : State) : Bool :=
  s.devSt == .handshake || s.devSt == .running || s.devSt == .minimal || s.devSt == .fatal

/-- Start request `q` with opcode `op`, if it is the next of its Letterbox: the shared checks, then the command's own
work `f`, which answers. -/
def State.command (s : State) (q : Req) (op : Nat) (f : State → State) : State :=
  let s0 := s.lbxSettle q.lbx
  let b := s0.lbx q.lbx
  if b.taken.head? == some q && !b.busy && reqOp q == op && s0.serves then
    let t := s0.updLbx q.lbx fun b => { b with taken := b.taken.tail, busy := true, busyOp := BitVec.ofNat 16 op }
    match t.frameRefusal q op with
    | some r => t.reply q r.1 r.2
    | none => f t
  else s0

/-- The same, with the command's payload fields and range checks. -/
def State.commandWith (s : State) (q : Req) (op : Nat) (fields : List (Nat × Nat × Nat)) (bad : List (Nat × Bool))
    (f : State → State) : State :=
  s.command q op fun s =>
    match payloadBad q fields bad with
    | some o => s.badReq q o
    | none => f s

/-! ## Numbers of states, for DETAIL of STATE (assumption 21) -/

def ctxStNum : CtxSt → Nat
  | .free => 0
  | .active => 1
  | .preempting => 2
  | .preempted => 3
  | .failed => 4
  | .restoring => 5

end Sys2Proof.Machine
end

