-- ==== Sys2Proof/Machine/HostPort.lean ====
section
/-! DEFINITION. The host port (11 R364 to R373): host windows and the requests that go through them, NumVFs, and the MSI-X
mask. The resets of R366 stand with the families they belong to. -/

namespace Sys2Proof.Machine

/-- A window through which an aperture offset decodes; one that is being removed takes no further request (R372). -/
def State.windowAt (s : State) (a : Nat) : Option (Nat × HostWin) :=
  s.windows.find? fun e => e.2.removing.isNone && decide (e.2.aperture ≤ a) && decide (a < e.2.aperture + e.2.length)

/-- A host request of one unit: decoded through a window, or failing with DECODE. -/
def State.hostRequest (s : State) (unit : BitVec 36) (write : Bool) (data : W512) (bad : Bool) : State :=
  let a := unit.toNat * 64
  if !s.hostUp then s
  else match s.windowAt a with
    | some (i, w) =>
      let acc : Access :=
        { id := 0, who := .hostWin i, ctx := w.ctx, job := (s.ctx w.ctx).job, write
          dva := dvaOf w.ns.toNat ((w.vaBase + (a - w.aperture)) % 2 ^ 45), len := 64, data := if write then unitBytes data else []
          bad := if write && bad then [0] else [] }
      s.issue acc (.here w.ns.toNat)
    | none => { s with cxlOut := s.cxlOut ++ [if write then ([], false) else (List.replicate 64 0, true)] }

/-- HOST_WINDOW_READ: a CXL.mem read of a unit of the aperture (R371). -/
def execHostWindowRead (unit : BitVec 36) (s : State) : Host.Outcome State Fault Refusal := .next (s.hostRequest unit false 0 false)

/-- HOST_WINDOW_WRITE: a CXL.mem write, perhaps with poison (R371, R372). -/
def execHostWindowWrite (unit : BitVec 36) (data : W512) (bad : Bool) (s : State) : Host.Outcome State Fault Refusal :=
  .next (s.hostRequest unit true data bad)

/-- HWIN_CREATE (R370; 13 R441). -/
def execHwinCreate (q : Req) (s : State) : Host.Outcome State Fault Refusal :=
  .next <|
    let a := reqNat q 16 8
    let n := reqNat q 24 8
    let c : CtxId := BitVec.ofNat 6 (reqNat q 32 1)
    let ns := reqBits q 33 0 2
    let va := reqNat q 40 8
    s.commandWith q 0x0206 [(16, 0, 42), (24, 0, 43), (32, 0, 6), (33, 0, 3), (40, 0, 45)]
      [(16, a % 2 ^ 21 != 0), (24, n % 2 ^ 21 != 0 || n == 0 || decide (2 ^ 42 < a + n)), (33, ns == 0 || ns == 3),
       (40, va % 2 ^ 21 != 0)] fun s =>
      if (s.ctx c).st = .free then s.reply q 0x14
      else if s.windows.any fun e => decide (a < e.2.aperture + e.2.length) && decide (e.2.aperture < a + n) then s.badReq q 16
      else match (List.range 256).find? fun i => (mapFind s.windows i).isNone with
        | none => s.reply q 0x27
        | some i =>
          let w : HostWin :=
            { aperture := a, length := n, ctx := c, ns := BitVec.ofNat 2 ns, vaBase := va, write := reqBit q 33 2, born := s.hc }
          { s with windows := mapSet s.windows i w }.reply q 0 0 [(16, 1, i)]

/-- HWIN_REMOVE: it answers once every request decoded through the window has completed (R372). -/
def execHwinRemove (q : Req) (s : State) : Host.Outcome State Fault Refusal :=
  .next <|
    s.commandWith q 0x0207 [(16, 0, 8)] [] fun s =>
      let i := reqNat q 16 1
      match mapFind s.windows i with
      | none => s.reply q 0x14
      | some w =>
        if w.removing.isSome then s.reply q 0x14
        else { s with windows := mapSet s.windows i { w with removing := some (some q) } }.windowDone i

/-- NUMVFS_WRITE: a value above 64, or one that a context which is not FREE forbids, is refused (R365). -/
def execNumvfsWrite (n : W16) (s : State) : Host.Outcome State Fault Refusal :=
  .next <|
    let busy := (List.range 64).any fun c => (s.ctx (BitVec.ofNat 6 c)).st != .free && decide (n.toNat < c)
    if 64 < n.toNat || (decide (n.toNat < s.numVfs) && busy) then s else { s with numVfs := n.toNat }

/-- MSIX_VECTOR_UNMASK: a pending vector is raised (R368). -/
def execMsixVectorUnmask (fn : BitVec 7) (vec : BitVec 3) (s : State) : Host.Outcome State Fault Refusal :=
  .next <|
    let k := fn.toNat * 16 + vec.toNat
    let s := { s with msixOpen := unitAdd s.msixOpen k }
    if s.msixPend.contains k then { s with msixPend := s.msixPend.erase k, irqs := s.irqs ++ [k] } else s

end Sys2Proof.Machine
end

