-- ==== Sys2Proof/Machine/Queue.lean ====
section
/-! DEFINITION. The queue block of a Room: arrivals, spill, credits, the firing rule, steering, forwards and discards
(02 R46 to R64), and the stall watch (R65 to R70). -/

namespace Sys2Proof.Machine

/-! ## Ports -/

def Room.inPort (x : Room) (p : PortId) : InPort :=
  match p.toNat with
  | 0 => x.in0
  | 1 => x.in1
  | 2 => x.in2
  | _ => x.in3

def Room.setIn (x : Room) (p : PortId) (i : InPort) : Room :=
  match p.toNat with
  | 0 => { x with in0 := i }
  | 1 => { x with in1 := i }
  | 2 => { x with in2 := i }
  | _ => { x with in3 := i }

def Room.outPort (x : Room) (o : Bool) : OutPort := if o then x.out1 else x.out0
def Room.setOut (x : Room) (o : Bool) (y : OutPort) : Room := if o then { x with out1 := y } else { x with out0 := y }

def State.updPortIn (s : State) (r : RoomId) (p : PortId) (f : InPort → InPort) : State :=
  s.updRoom r fun x => x.setIn p (f (x.inPort p))

/-- SPILL_LIMIT in force (R76: 0 with SPILL_EN = 1 is disabled), capacity, entries held, and the full port (R48). -/
def profLimit (prof : Nat) : Nat := if bitOf prof 0 then bitsOf prof 5 11 else 0
def spillLimit (i : InPort) : Nat := profLimit i.profile.toNat
def spillBase (i : InPort) : Nat := bitsOf i.profile.toNat 1 4 * 65536
def portCap (i : InPort) : Nat := 16 + spillLimit i
def onChipHeld (i : InPort) : Nat := i.onchip.length + i.moving.length
def portHeld (i : InPort) : Nat := onChipHeld i + i.spilled.length
def portFull (i : InPort) : Bool := decide (portCap i ≤ portHeld i)
def creditsBack (i : InPort) : Nat := (i.freed.map (·.2)).sum

/-- Credit count for a destination (R52): its capacity less what it holds and what is in flight, credits included. -/
def portCredit (i : InPort) : Nat := portCap i - (portHeld i + i.transit.length + creditsBack i)
def State.credit (s : State) (d : RoomId × PortId) : Nat := portCredit ((s.room d.1).inPort d.2)

/-- Entries of a Room's firings and forwards that have still to leave an output: credits for them are held (R55, R59). -/
def State.reserved (s : State) (r : RoomId) (o : Bool) : Nat :=
  let x := s.room r
  let h := s.header r x.active
  let n := boolNat o
  (x.firings.map fun f => if !f.ended && hOutEn h n then hPlenOut h n else 0).sum + (x.outPort o).leaving.length

/-- Credits of a destination held for the parcels of every output of the package that sends to it (R55). -/
def State.reservedTo (s : State) (d : RoomId × PortId) : Nat :=
  (s.rooms.map fun e =>
    let q : RoomId := BitVec.ofNat 10 e.1
    let h := s.header q (s.room q).active
    ([false, true].map fun o => s.reserved q o * (hDests h (boolNat o)).count d).sum).sum

/-- Credits for `n o` more entries of each output of the active slot at every destination, beside those held (R54, R59). -/
def State.creditsForBoth (s : State) (r : RoomId) (n : Bool → Nat) : Bool :=
  let h := s.header r (s.room r).active
  let ds (o : Bool) := if n o = 0 then [] else hDests h (boolNat o)
  (ds false ++ ds true).all fun d =>
    decide (s.reservedTo d + n false * (ds false).count d + n true * (ds true).count d ≤ s.credit d)

/-- Credits for `n` more entries at every destination of one output. -/
def State.creditsFor (s : State) (r : RoomId) (o : Bool) (n : Nat) : Bool :=
  s.creditsForBoth r fun k => if k = o then n else 0

/-- An entry leaves its port: its credit is on its way back, and the port no longer stands at its capacity. -/
def freeEntry (i : InPort) (e : Entry) : InPort :=
  { i with freed := mapAdd i.freed (e.src.toNat * 2 + boolNat e.out) 1, fullSince := false }

/-- The blocked count restarts (R65). -/
def restartStall (x : Room) : Room :=
  let p (i : InPort) := { i with fullSince := portFull i }
  { x with windows := 0, stallCount := 0, in0 := p x.in0, in1 := p x.in1, in2 := p x.in2, in3 := p x.in3 }

/-! ## Kinds and heads (R47, R60, R62) -/

def isData (e : Entry) : Bool := e.kind == 0
def isToken (e : Entry) : Bool := e.kind == 1
def isEnd (e : Entry) : Bool := e.kind == 2
def tokenValue (e : Entry) : Nat := bitsOf e.payload.toNat 0 1
def tokenBad (e : Entry) : Bool := bitsOf e.payload.toNat 1 7 != 0

def steerOn (h : Header) (u : Nat) : Bool := (hSteer h u).op != 0
def isCtrl (h : Header) (p : Nat) : Bool := (List.range 2).any fun u => steerOn h u && (hSteer h u).ctrl == p
/-- Data port of a steering unit: A, and B of SELECT and MERGE_TOKEN. -/
def isSteered (h : Header) (p : Nat) : Bool :=
  (List.range 2).any fun u =>
    let d := hSteer h u
    d.op != 0 && (d.a == p || ((d.op == 1 || d.op == 4) && d.b == p))

/-- The CFB_FAULT bit of a head that faults the Room, if some port has one: 0 QUEUE_KIND, 1 PARCEL_SHORT,
2 STEER_INVALID. -/
def headFault (x : Room) (h : Header) : Option Nat :=
  let port (p : Nat) : Option Nat :=
    let i := x.inPort (BitVec.ofNat 2 p)
    match i.onchip with
    | [] => none
    | e :: _ =>
      if e.kind == 3 then some 0
      else if isData e && isCtrl h p then some 0
      else if isToken e && hMaskIn h p then some 0
      else if isEnd e && !hEndMask h p then some 0
      else if isToken e && isCtrl h p && tokenBad e then some 2
      else if hMaskIn h p || isSteered h p then
        let parcel := i.onchip.take (hPlenIn h p)
        if isToken e || (isData e && parcel.any fun y => !isData y) then some 1 else none
      else none
  (List.range 4).findSome? port

/-- Fault the Room in RUN when a head does (R62): at every change of its heads, when it comes to RUN, and before a firing is
evaluated. A Room in HALT faults at RESUME (assumption 61). A received entry of the reserved kind faults it in any state
(R47). -/
def State.checkHeads (s : State) (r : RoomId) : State :=
  let x := s.room r
  if x.runst = .run then
    match headFault x (s.header r x.active) with
    | some b => s.faultRoom r 0x01 (b + 1) (some b)
    | none => s
  else s

/-! ## Arrival and spill (R48 to R51) -/

/-- An entry arrives at its port (R49). -/
def State.arriveAt (s : State) (r : RoomId) (p : PortId) (e : Entry) : State :=
  let i := (s.room r).inPort p
  let s :=
    if decide (16 ≤ onChipHeld i) || !i.spilled.isEmpty then
      (s.write (shelfKey r.toNat (spillBase i + 64 * i.wrPos)) (unitBytes e.payload)).updRoom r fun x =>
        { x.setIn p { i with spilled := i.spilled ++ [(e.kind, e.src, e.out)], wrPos := (i.wrPos + 1) % spillLimit i
                             hwm := BitVec.ofNat 11 (max i.hwm.toNat (i.spilled.length + 1)) } with rotIn := some p }
    else if i.moving.isEmpty then s.updPortIn r p fun i => { i with onchip := i.onchip ++ [e] }
    else s.updPortIn r p fun i => { i with moving := i.moving ++ [{ entry := e, refill := false }] }
  if e.kind == 3 && (s.room r).runst != .fault then s.faultRoom r 0x01 0x01 (some 0) else s.checkHeads r

/-- A port whose oldest spilled entry can move back. -/
def canRefill (i : InPort) : Bool := !i.spilled.isEmpty && decide (onChipHeld i < 16)

/-- The rotation of R50: the first waiting port after the one served last. -/
def nextInRotation (last : Option PortId) (waits : PortId → Bool) : Option PortId :=
  let first := match last with
    | some p => p.toNat + 1
    | none => 0
  ((List.range 4).map fun k => BitVec.ofNat 2 (first + k)).find? waits

/-- SPILL_MOVE_BACK: the rotation's port reads its oldest spilled entry from the Shelf. -/
def execSpillMoveBack (r : RoomId) (s : State) : Host.Outcome State Fault Refusal :=
  .next <|
    let x := s.room r
    match nextInRotation x.rotOut (fun p => canRefill (x.inPort p)) with
    | some p =>
      let i := x.inPort p
      match i.spilled with
      | (k, src, out) :: rest =>
        if s.live then
          let a := shelfKey r.toNat (spillBase i + 64 * i.rdPos)
          let e : Entry := { kind := k, payload := bytesUnit (s.read a 64), src, out }
          s.updRoom r fun x =>
            { x.setIn p { i with spilled := rest, rdPos := (i.rdPos + 1) % spillLimit i
                                 moving := i.moving ++ [{ entry := e, refill := true, bad := s.poisoned a 64 }] } with
              rotOut := some p }
        else s
      | [] => s
    | none => s

/-- SPILLED_ENTRY_VISIBLE: the oldest refilled entry of a port, and the arrivals behind it, become visible; one read
from a poisoned unit faults the Room with SPILL_ECC (R51). -/
def execSpilledEntryVisible (r : RoomId) (p : PortId) (s : State) : Host.Outcome State Fault Refusal :=
  .next <|
    match ((s.room r).inPort p).moving with
    | m :: rest =>
      if !s.live || (s.room r).runst == .fault then s
      else if m.bad then s.faultRoom r 0x02 0x05 (some 4)
      else
        let shown := m.entry :: (rest.takeWhile fun y => !y.refill).map (·.entry)
        (s.updPortIn r p fun i =>
          { i with moving := rest.dropWhile fun y => !y.refill, onchip := i.onchip ++ shown }).checkHeads r
    | [] => s

/-! ## Output and credits (R52, R55) -/

/-- The first ended firing with entries still to leave an output has sent one. -/
def sentOne (o : Bool) : List Firing → List Firing
  | [] => []
  | f :: fs =>
    if f.ended && decide (0 < (if o then f.left1 else f.left0)) then
      (if o then { f with left1 := f.left1 - 1 } else { f with left0 := f.left0 - 1 }) :: fs
    else f :: sentOne o fs

/-- The firing whose entry is next at an output may send it: every firing issued before it has sent its last (R55). -/
def maySend (o : Bool) : List Firing → Bool
  | [] => true
  | f :: fs =>
    if f.ended && decide (0 < (if o then f.left1 else f.left0)) then true
    else f.ended && f.left0 == 0 && f.left1 == 0 && maySend o fs

/-- OUTPUT_SEND: the oldest entry of an output goes to all its destinations in one tc, when each has a credit. -/
def execOutputSend (r : RoomId) (o : Bool) (s : State) : Host.Outcome State Fault Refusal :=
  .next <|
    let x := s.room r
    let ds := hDests (s.header r x.active) (boolNat o)
    match (x.outPort o).leaving with
    | (e, own) :: rest =>
      if s.live && x.runst != .fault && (!own || maySend o x.firings) && ds.all (fun d => decide (ds.count d ≤ s.credit d)) then
        let s := s.updRoom r fun x =>
          let x := x.setOut o { leaving := rest }
          if own then { x with firings := sentOne o x.firings } else x
        let s := ds.foldl (fun s d => s.updPortIn d.1 d.2 fun i => { i with transit := i.transit ++ [e] }) s
        s.dropDone r
      else s
    | [] => s

/-- CREDIT_RETURN: a credit of port `p` of Room `r` reaches output `o` of Room `prod`. -/
def execCreditReturn (r : RoomId) (p : PortId) (prod : RoomId) (o : Bool) (s : State) : Host.Outcome State Fault Refusal :=
  let k := prod.toNat * 2 + boolNat o
  let n := mapGet 0 ((s.room r).inPort p).freed k
  if 0 < n then .next (s.updPortIn r p fun i => { i with freed := mapSet i.freed k (n - 1) }) else .next s

/-! ## Steering (R58 to R61) -/

/-- Both units are on and name one control port (R61). -/
def oneCtrl (h : Header) : Bool := steerOn h 0 && steerOn h 1 && (hSteer h 0).ctrl == (hSteer h 1).ctrl

/-- A token shared by both units (R61): TOKEN_SHARE, both on with one control port, and not one of them alone in the firing
mask. -/
def tokenShared (h : Header) : Bool := hShare h && oneCtrl h && hMaskSt h 0 == hMaskSt h 1

/-- The other unit alone has the tokens of the control port, being the only one in the firing mask (R61). -/
def otherAlone (h : Header) (u : Nat) : Bool := hShare h && oneCtrl h && !hMaskSt h u && hMaskSt h (1 - u)

def Room.steering (x : Room) (u : Nat) : Steer := mapGet {} x.steer (x.active.toNat * 2 + u)
def Room.setSteering (x : Room) (u : Nat) (y : Steer) : Room :=
  { x with steer := mapSet x.steer (x.active.toNat * 2 + u) y }

/-- The token a unit has before it, unless it has acted on a shared one. -/
def unitToken (x : Room) (h : Header) (u : Nat) : Option Entry :=
  if !steerOn h u || otherAlone h u || (tokenShared h && (x.steering u).acted) then none
  else match (x.inPort (BitVec.ofNat 2 (hSteer h u).ctrl)).onchip with
    | e :: _ => if isToken e && !tokenBad e then some e else none
    | [] => none

/-- What a token asks: deliver from a port to Sn, forward from A, or discard from A. -/
inductive SteerAct where
  | deliver (p : Nat)
  | forward (p : Nat)
  | discard (p : Nat)
  deriving DecidableEq, Repr

def steerAct (d : Steering) (second : Bool) (t : Nat) : SteerAct :=
  match d.op with
  | 1 => .deliver (if t = 0 then d.a else d.b)
  | 2 => if t = 0 then .deliver d.a else .forward d.a
  | 3 => if t = 0 then .discard d.a else .deliver d.a
  | _ => .deliver (if (t == 1) != second then d.b else d.a)

def unitAct (x : Room) (h : Header) (u : Nat) : Option SteerAct :=
  (unitToken x h u).map fun e => steerAct (hSteer h u) (x.steering u).second (tokenValue e)

/-- A complete parcel of DATA entries on chip. -/
def parcelReady (i : InPort) (n : Nat) : Bool := decide (n ≤ i.onchip.length) && (i.onchip.take n).all isData

def State.unitDelivers (s : State) (r : RoomId) (h : Header) (u : Nat) : Option Nat :=
  let x := s.room r
  match unitAct x h u with
  | some (.deliver p) => if parcelReady (x.inPort (BitVec.ofNat 2 p)) (hSteer h u).plen then some p else none
  | _ => none

/-- Take the first `n` entries of a port. -/
def State.takeEntries (s : State) (r : RoomId) (p n : Nat) : List Entry × State :=
  let q : PortId := BitVec.ofNat 2 p
  let es := ((s.room r).inPort q).onchip.take n
  (es, s.updPortIn r q fun i => es.foldl freeEntry { i with onchip := i.onchip.drop n })

/-- A unit has acted on its token: MERGE_TOKEN keeps it for a second parcel; a shared token waits for both. -/
def State.tokenActed (s : State) (r : RoomId) (h : Header) (u : Nat) : State :=
  let x := s.room r
  let d := hSteer h u
  if d.op = 4 && !(x.steering u).second then s.updRoom r fun x => x.setSteering u { x.steering u with second := true }
  else
    let s := s.updRoom r fun x => x.setSteering u { second := false, acted := tokenShared h }
    if tokenShared h && !(x.steering (1 - u)).acted then s
    else
      let s := (s.takeEntries r d.ctrl 1).2
      s.updRoom r fun x =>
        (x.setSteering 0 { x.steering 0 with acted := false }).setSteering 1 { x.steering 1 with acted := false }

/-- ROUTE_FORWARD: a parcel and its token are consumed and the parcel leaves by FWD_OUT, once every destination has
credits for all of it (R59). DESIGN CHOICE (assumption 62): whether FWD_OUT is enabled is not asked; the parcel goes to the
VALID destinations it names, and to none if there is none. -/
def execRouteForward (r : RoomId) (u : Bool) (s : State) : Host.Outcome State Fault Refusal :=
  .next <|
    let x := s.room r
    let h := s.header r x.active
    let d := hSteer h (boolNat u)
    let o := d.fwd == 1
    match unitAct x h (boolNat u) with
    | some (.forward p) =>
      if s.live && x.runst == .run && !x.trigMet && parcelReady (x.inPort (BitVec.ofNat 2 p)) d.plen && s.creditsFor r o d.plen then
        let (es, s) := s.takeEntries r p d.plen
        let s := s.tokenActed r h (boolNat u)
        let s := s.updRoom r fun x =>
          let y := x.outPort o
          restartStall { x.setOut o { leaving := y.leaving ++ es.map fun e => ({ e with src := r, out := o }, false) } with
            forwards := x.forwards + 1 }
        s.checkHeads r
      else s
    | _ => s

/-- GATE_DISCARD: a parcel and its token are consumed (R59). -/
def execGateDiscard (r : RoomId) (u : Bool) (s : State) : Host.Outcome State Fault Refusal :=
  .next <|
    let x := s.room r
    let h := s.header r x.active
    let d := hSteer h (boolNat u)
    match unitAct x h (boolNat u) with
    | some (.discard p) =>
      if s.live && x.runst == .run && !x.trigMet && parcelReady (x.inPort (BitVec.ofNat 2 p)) d.plen then
        let (_, s) := s.takeEntries r p d.plen
        let s := s.tokenActed r h (boolNat u)
        (s.updRoom r fun x => restartStall { x with discards := x.discards + 1 }).checkHeads r
      else s
    | _ => s

/-! ## The firing rule (R54 to R57) -/

/-- The five conditions of R54. -/
def State.canFire (s : State) (r : RoomId) : Bool :=
  let x := s.room r
  let h := s.header r x.active
  s.live && x.runst == .run && !x.trigMet &&
    (hQuota h == 0 || decide (x.slotFires.toNat < hQuota h)) &&
    (List.range 4).all (fun p => !hMaskIn h p || parcelReady (x.inPort (BitVec.ofNat 2 p)) (hPlenIn h p)) &&
    (List.range 2).all (fun u => !hMaskSt h u || (s.unitDelivers r h u).isSome) &&
    s.creditsForBoth r (fun o => if hOutEn h (boolNat o) then hPlenOut h (boolNat o) else 0) &&
    decide (x.firings.length < 2)

/-- FIRING_CONDITIONS_MET: the Room is evaluated: a head that faults it comes first (R62, R82), else an issue is due while
the conditions hold. -/
def execFiringConditionsMet (r : RoomId) (s : State) : Host.Outcome State Fault Refusal :=
  let t := if s.live then s.checkHeads r else s
  if t.canFire r then .next (t.updRoom r fun x => { x with firePending := true }) else .next t

/-- Write consumed entries to the input staging of a set from byte `a` (04 R134). -/
def State.stageEntries (s : State) (r : RoomId) (set a : Nat) (es : List Entry) : State :=
  es.zipIdx.foldl (fun s e => s.write (stageInKey r.toNat set (a + 64 * e.2)) (unitBytes e.1.payload)) s

/-- Consume the parcels of the firing mask into a staging set. -/
def State.consumeParcels (s : State) (r : RoomId) (set : Nat) : State :=
  let h := s.header r (s.room r).active
  let s := (List.range 4).foldl (fun s p =>
    if hMaskIn h p then
      let (es, s) := s.takeEntries r p (hPlenIn h p)
      s.stageEntries r set (1024 * p) es
    else s) s
  (List.range 2).foldl (fun s u =>
    if hMaskSt h u then
      match unitToken (s.room r) h u, s.unitDelivers r h u with
      | some t, some p =>
        let (es, s) := s.takeEntries r p (hSteer h u).plen
        ((s.stageEntries r set (4096 + 1024 * u) es).stageEntries r set (6144 + 64 * u) [t]).tokenActed r h u
      | _, _ => s
    else s) s

/-- FIRING_ISSUE: parcels go to a free staging set, the firing counts, and its program starts if none runs (R55,
04 R131 to R135); the FIRE_QUOTA-th firing meets the QUOTA trigger (R78). -/
def execFiringIssue (r : RoomId) (s : State) : Host.Outcome State Fault Refusal :=
  .next <|
    let x := s.room r
    if x.firePending && s.canFire r then
      let set := if x.firings.any (fun f => f.set == 0) then 1 else 0
      let h := s.header r x.active
      let first := x.running.isNone
      let s := (s.clear (stageInKey r.toNat set 0) 6272).clear (stageOutKey r.toNat set 0) 2048
      let s := s.consumeParcels r set
      let s := s.updRoom r fun x =>
        restartStall
          { x with firePending := false, firings := x.firings ++ [{ slot := x.active, set, index := x.slotFires }]
                   slotFires := x.slotFires + 1, fires := x.fires + 1
                   trigMet := (hTrigger h == 0 || hTrigger h == 2) && x.slotFires.toNat + 1 == hQuota h }
      let s := if first then s.startProgram r else s
      s.checkHeads r
    else s

/-! ## Stall watch (R65 to R70) -/

/-- TRIGGER END, or QUOTA or END (R73). -/
def endTriggered (h : Header) : Bool := hTrigger h == 1 || hTrigger h == 2

/-- Ports the active slot needs: the firing mask, and END_MASK under an END trigger (assumption 63). -/
def neededPort (h : Header) (p : Nat) : Bool := hMaskIn h p || (endTriggered h && hEndMask h p)

/-- A port holds a token. -/
def holdsToken (i : InPort) : Bool :=
  i.onchip.any isToken || i.moving.any (fun m => isToken m.entry) || i.spilled.any fun e => e.1 == 1

/-- A Room in RUN with nothing before it, or waiting on a BOLT trigger (R65; assumption 63: a slot with that trigger which
does not fire). -/
def roomIdle (x : Room) (h : Header) : Bool :=
  hTrigger h == 3 ||
    !((List.range 4).any fun p =>
      let i := x.inPort (BitVec.ofNat 2 p)
      (neededPort h p && decide (0 < portHeld i)) || (isSteered h p && parcelReady i (hPlenIn h p)) ||
        (isCtrl h p && holdsToken i))

/-- Blocked: in RUN, not idle, nothing in flight and unable to fire, forward or discard; or waiting for a load. -/
def State.blocked (s : State) (r : RoomId) : Bool :=
  let x := s.room r
  let h := s.header r x.active
  match x.switching with
  | some w => x.runst == .switch && w.loadWait
  | none => x.runst == .run && x.firings.isEmpty && !x.firePending && !s.canFire r && !roomIdle x h && !x.trigMet

/-- Rooms whose READY or ACTIVE slot names a port among its VALID destinations; the lowest (R68). -/
def State.lowestProducer (s : State) (r : RoomId) (p : PortId) : RoomId :=
  let names (q : RoomId) := (List.range 8).any fun k =>
    let st := mapGet .empty (s.room q).slots k
    let h := s.header q (BitVec.ofNat 3 k)
    (st == .ready || st == .active) && (List.range 2).any fun o => hOutEn h o && (hDests h o).contains (r, p)
  match (s.rooms.map fun e => (BitVec.ofNat 10 e.1 : RoomId)).find? names with
  | some q => q
  | none => 0

def State.producerOf (s : State) (r : RoomId) (p : PortId) : RoomId :=
  let i := (s.room r).inPort p
  match i.onchip, i.moving, i.spilled with
  | e :: _, _, _ => e.src
  | [], m :: _, _ => m.entry.src
  | [], [], (_, q, _) :: _ => q
  | [], [], [] => s.lowestProducer r p

/-- QUEUE_ENTRY_ARRIVAL: the oldest entry in flight from output `out` of Room `src` reaches port `p` of Room `r`. A port
that fills while its Room is not blocked stands at its capacity when the next window begins. -/
def execQueueEntryArrival (r : RoomId) (p : PortId) (src : RoomId) (out : Bool) (s : State) : Host.Outcome State Fault Refusal :=
  .next <|
    let i := (s.room r).inPort p
    match i.transit.find? fun e => e.src == src && e.out == out with
    | some e =>
      if s.live && !portFull i then
        let t := (s.updPortIn r p fun i => { i with transit := i.transit.erase e }).arriveAt r p e
        if s.blocked r then t else t.updPortIn r p fun i => { i with fullSince := portFull i }
      else s
    | none => s

/-- Reason, port and peer of a blocked Room, the lowest code that applies (R67); of an OUTPUT_CREDIT the output's number.
DESIGN CHOICE (assumption 63): a Room that is blocked while none of the table applies, such as one whose only needed port
holds part of a parcel, reports code 0. -/
def State.stallReasonOf (s : State) (r : RoomId) : Nat × Option Nat × RoomId :=
  let x := s.room r
  let h := s.header r x.active
  let port (p : Nat) := x.inPort (BitVec.ofNat 2 p)
  let peer (p : Nat) := s.producerOf r (BitVec.ofNat 2 p)
  let waits := x.switching.isSome
  let full := pick 4 fun p => portFull (port p) && (port p).fullSince
  let lacking := pick 4 fun p => hMaskIn h p && !parcelReady (port p) (hPlenIn h p)
  let holding := pick 4 fun p => (hMaskIn h p || isSteered h p) && decide (0 < portHeld (port p))
  let partials := lacking.filter fun p => holding.any fun q => q != p
  let tokData := (List.range 2).filterMap fun u =>
    match unitAct x h u with
    | some (.deliver p) | some (.forward p) | some (.discard p) =>
      if parcelReady (port p) (hSteer h u).plen then none else some p
    | none => none
  let dataTok := (List.range 2).filterMap fun u =>
    let d := hSteer h u
    if d.op != 0 && portHeld (port d.ctrl) == 0 &&
        (parcelReady (port d.a) d.plen || ((d.op == 1 || d.op == 4) && parcelReady (port d.b) d.plen)) then some d.ctrl
    else none
  let ready := lacking.isEmpty && (List.range 2).all fun u => !hMaskSt h u || (s.unitDelivers r h u).isSome
  let wanting (o n : Nat) : Option (Nat × RoomId) :=
    ((hDests h o).find? fun d => decide (s.credit d < s.reservedTo d + n)).map fun d => (o, d.1)
  let fwds := (List.range 2).filterMap fun u =>
    match unitAct x h u with
    | some (.forward p) =>
      let d := hSteer h u
      if parcelReady (port p) d.plen && !s.creditsFor r (d.fwd == 1) d.plen then wanting d.fwd d.plen else none
    | _ => none
  let short := fwds ++ (List.range 2).filterMap fun o => if ready && hOutEn h o then wanting o (hPlenOut h o) else none
  let ends := pick 4 fun p => endTriggered h && hEndMask h p && (port p).onchip.head?.any isEnd
  let notEnd := if ends.isEmpty then [] else pick 4 fun p => hEndMask h p && !((port p).onchip.head?.any isEnd)
  match full, partials, tokData, dataTok, short, notEnd with
  | p :: _, _, _, _, _, _ => (1, some p, peer p)
  | [], p :: _, _, _, _, _ => if waits then (6, none, 0) else (2, some p, peer p)
  | [], [], p :: _, _, _, _ => if waits then (6, none, 0) else (3, some p, peer p)
  | [], [], [], p :: _, _, _ => if waits then (6, none, 0) else (4, some p, peer p)
  | [], [], [], [], (o, d) :: _, _ => if waits then (6, none, 0) else (5, some o, d)
  | [], [], [], [], [], p :: _ => if waits then (6, none, 0) else (7, some p, peer p)
  | [], [], [], [], [], [] => if waits then (6, none, 0) else (0, none, 0)

/-- The 16-byte report of R68: PORT is an input port, or of an OUTPUT_CREDIT the output port in bit [3]. -/
def stallReport (r : RoomId) (slot : SlotId) (port : Option Nat) (reason : Nat) (peer : RoomId) (occ : Nat) (windows : W32) :
    BitVec 128 :=
  let b2 := slot.toNat + (match port with
    | some p => p * 8 + 32
    | none => 0)
  BitVec.ofNat 128 (r.toNat + b2 * 2 ^ 16 + reason * 2 ^ 24 + peer.toNat * 2 ^ 32 + occ * 2 ^ 48 + windows.toNat * 2 ^ 64)

/-- STALL_REPORT: a Room's blocked count reaches a whole window (R66). -/
def execStallReport (r : RoomId) (s : State) : Host.Outcome State Fault Refusal :=
  .next <|
    if s.live && s.blocked r then
      let x := s.room r
      let (reason, port, peer) := s.stallReasonOf r
      let slot := match x.switching with
        | some w => if reason = 6 then w.target else x.active
        | none => x.active
      let occ := match port with
        | some p => if reason = 5 then 0 else portHeld (x.inPort (BitVec.ofNat 2 p))
        | none => 0
      let n := satAdd 32 x.windows 1
      let rep := stallReport r slot port reason peer occ n
      let k := match s.roomCtx r with
        | some c => (s.ctx c).stallK
        | none => 20
      let s := s.updRoom r fun x =>
        { restartStall x with windows := n, stallCount := min (2 ^ 24 - 1) (n.toNat * 2 ^ k / 256) }
      match s.roomCtx r with
      | some c => s.updCtx c fun y => { y with reports := y.reports ++ [rep], collecting := true }
      | none => s
    else s

/-- CFB_CTRL.HALT in every Room of a context (R69, 09 R314). -/
def State.haltRooms (s : State) (c : CtxId) : State :=
  (s.ownRooms c).foldl (fun s r => s.updRoom r fun x => { x with haltReq := true }) s

def repRoom (v : BitVec 128) : RoomId := v.extractLsb' 0 10
def repReason (v : BitVec 128) : Nat := bitsOf v.toNat 24 8
def repPeer (v : BitVec 128) : RoomId := v.extractLsb' 32 10
def repEdge (v : BitVec 128) : Bool := bitOf v.toNat 21

/-- The Room a reporting Room waits for, by its latest report. -/
def waitsFor (reps : List (BitVec 128)) (r : RoomId) : Option RoomId :=
  ((reps.filter fun v => repRoom v == r).getLast?).bind fun v => if repEdge v then some (repPeer v) else none

/-- Follow edges from `r`; the Rooms passed if they lead back to `start`. -/
def cycleFrom (reps : List (BitVec 128)) (start : RoomId) : Nat → RoomId → Option (List RoomId)
  | 0, _ => none
  | k + 1, r =>
    match waitsFor reps r with
    | some q => if q = start then some [r] else (cycleFrom reps start k q).map (r :: ·)
    | none => none

def cycleOf (reps : List (BitVec 128)) : List RoomId :=
  match ((reps.map repRoom).eraseDups).findSome? fun r => cycleFrom reps r reps.length r with
  | some l => l
  | none => []

/-- STALL event (13 R447): class, reports of the episode with those of the cycle's Rooms first. -/
def State.stallEvent (s : State) (c : CtxId) (cls : Nat) (reps first : List (BitVec 128)) : State :=
  let l := first ++ reps.filter fun v => !first.contains v
  let shown := l.take 14
  s.ctxEvent c 0x8001 ([(20, 1, cls), (21, 1, shown.length), (22, 2, reps.length)] ++
    shown.zipIdx.map fun e => (24 + 16 * e.2, 16, e.1.toNat))

/-- STALL_CLASSIFY: the collection period ends and the episode is classified (R69). -/
def execStallClassify (c : CtxId) (s : State) : Host.Outcome State Fault Refusal :=
  .next <|
    let reps := (s.ctx c).reports
    if (s.ctx c).collecting then
      let cyc := cycleOf reps
      let s := s.updCtx c fun y => { y with reports := [], collecting := false }
      if cyc.isEmpty then
        let cls := if reps.any (fun v => repReason v == 1) then 1 else 0
        let wings := (reps.map fun v => wingOf (repRoom v)).eraseDups
        let s := wings.foldl (fun s g => s.raise { cls := 0x0A, src := 1, unit := g.toNat, ctx := some c }) s
        s.stallEvent c cls reps []
      else
        let s := s.haltRooms c
        let s := cyc.foldl (fun s r =>
          s.raise { cls := 0x0B, src := 3, unit := c.toNat, ctx := some c, detail := BitVec.ofNat 64 r.toNat }) s
        s.stallEvent c 2 reps (cyc.flatMap fun r => reps.filter fun v => repRoom v == r)
    else s

/-- HANG_LIMIT_REACHED: HANG_LIMIT consecutive windows of blocking are treated as DEADLOCK (R70). -/
def execHangLimitReached (r : RoomId) (s : State) : Host.Outcome State Fault Refusal :=
  .next <|
    match s.roomCtx r with
    | some c =>
      if s.live && s.blocked r && !(s.room r).haltReq && decide (0 < (s.ctx c).hangLimit) && decide ((s.ctx c).hangLimit ≤ (s.room r).windows.toNat) then
        let reps := (s.ctx c).reports.filter fun v => repRoom v == r
        let s := (s.haltRooms c).raise
          { cls := 0x0B, src := 3, unit := c.toNat, ctx := some c, detail := BitVec.ofNat 64 r.toNat }
        s.stallEvent c 3 reps []
      else s
    | none => s

end Sys2Proof.Machine
end

