-- ==== Sys2Proof/Machine/Slot.lean ====
section
/-! DEFINITION. Configuration slots: triggers, switching, the control space, slot images and the configuration loader
(02 R71 to R89), and the registration of a BOLT trigger (09 R309). -/

namespace Sys2Proof.Machine

def Room.slotSt (x : Room) (k : SlotId) : SlotSt := mapGet .empty x.slots k.toNat
def Room.setSlot (x : Room) (k : SlotId) (st : SlotSt) : Room := { x with slots := mapSet x.slots k.toNat st }

/-- END_TRIGGER: every port of END_MASK holds END at its head; the END entries are consumed together (R78). An empty
END_MASK never meets it. -/
def execEndTrigger (r : RoomId) (s : State) : Host.Outcome State Fault Refusal :=
  .next <|
    let x := s.room r
    let h := s.header r x.active
    let ps := pick 4 (hEndMask h)
    if s.live && x.runst == .run && !x.trigMet && (hTrigger h == 1 || hTrigger h == 2) && !ps.isEmpty &&
        ps.all (fun p => (x.inPort (BitVec.ofNat 2 p)).onchip.head?.any isEnd) then
      let s := ps.foldl (fun s p => (s.takeEntries r p 1).2) s
      (s.updRoom r fun x => { x with trigMet := true }).checkHeads r
    else s

/-- The target check of R81, at tc 0 of a switch or START. -/
def State.checkTarget (s : State) (r : RoomId) (target : SlotId) : State :=
  let st := (s.room r).slotSt target
  let s := match s.roomCtx r with
    | some c => s.updCtx c fun x => { x with fresh := false }
    | none => s
  if st = .empty then s.faultRoom r 0x01 0x04 (some 3)
  else s.updRoom r fun x =>
    { x with runst := .switch, switching := some { target, loadWait := decide (st = .loading) } }

/-- SLOT_RETIRE: the trigger is met and no firing is in flight; the slot goes to READY and, with STOP = 0, the switch
begins with its target check. A forward that has begun leaves first, by the destinations of the slot it began in. A pending
HALT comes first (R78 to R82). -/
def execSlotRetire (r : RoomId) (s : State) : Host.Outcome State Fault Refusal :=
  .next <|
    let x := s.room r
    let h := s.header r x.active
    if s.live && x.runst == .run && x.trigMet && x.firings.isEmpty && x.out0.leaving.isEmpty && x.out1.leaving.isEmpty &&
        !x.haltReq then
      let s := s.updRoom r fun x =>
        { x.setSlot x.active .ready with slotFires := 0, trigMet := false, trig := .none, firePending := false }
      if hStop h then s.updRoom r fun x => { x with runst := .idle } else s.checkTarget r (hNext h)
    else s

/-- LOAD_WAIT_RESUME: the slot waited for has become READY, or EMPTY by a failed load (R81). -/
def execLoadWaitResume (r : RoomId) (s : State) : Host.Outcome State Fault Refusal :=
  .next <|
    let x := s.room r
    match x.switching with
    | some w =>
      if s.live && x.runst == .switch && w.loadWait then
        match x.slotSt w.target with
        | .ready => s.updRoom r fun x => restartStall { x with switching := some { w with loadWait := false } }
        | .empty => s.faultRoom r 0x01 0x04 (some 3)
        | _ => s
      else s
    | none => s

/-- OP of a slot-trigger registration (09 R310). -/
def opTrigger : BitVec 4 := 0xF

/-- The registration of a slot with TRIGGER BOLT (09 R309): BOLT_ACCESS at or above the context's BOLTS. -/
def State.registerTrigger (s : State) (r : RoomId) : State :=
  let h := s.header r (s.room r).active
  if hTrigger h = 3 then
    match s.roomCtx r with
    | some c =>
      let x := s.ctx c
      if hBolt h < x.bolts then
        (s.updRoom r fun x => { x with trig := .sent }).boltAsk
          { who := .trigger r, ctx := c, bolt := x.boltBase + BitVec.ofNat 15 (hBolt h), op := opTrigger, cond := 0, operand := 0 }
      else s.faultRoom r 0x06 0x31
    | none => s.faultRoom r 0x06 0x31
  else s

/-- SWITCH_COMPLETE: tc 256 of a switch or START: the incoming slot is ACTIVE (R80); a pending HALT takes effect (R82). -/
def execSwitchComplete (r : RoomId) (s : State) : Host.Outcome State Fault Refusal :=
  .next <|
    let x := s.room r
    match x.switching with
    | some w =>
      if s.live && x.runst == .switch && !w.loadWait then
        let s := s.updRoom r fun x =>
          restartStall
            { x.setSlot w.target .active with active := w.target, switching := none, switches := x.switches + 1
                                              slotFires := 0, trigMet := false, firePending := false
                                              runst := if x.haltReq then .halt else .run }
        let s := s.registerTrigger r
        s.checkHeads r
      else s
    | none => s

/-! ## Control space (R75 to R77, R82) -/

/-- RESUME: HALT clears, and a Room in HALT returns to RUN, where its heads are checked (R62, R76). -/
def State.resume (s : State) (r : RoomId) : State :=
  let t := s.updRoom r fun x => { x with haltReq := false, runst := if x.runst = .halt then .run else x.runst }
  if (s.room r).runst = .halt then t.checkHeads r else t

/-- A write of CFB_CTRL: HALT with RESUME performs HALT only; START only in IDLE; FORCE meets the STUDY trigger. -/
def State.ctrlWrite (s : State) (r : RoomId) (v : Nat) : State :=
  let one (n : Nat) : Bool := bitOf v (n + 16) && bitOf v n
  let zero (n : Nat) : Bool := bitOf v (n + 16) && !bitOf v n
  let s := if one 0 then s.updRoom r fun x => { x with haltReq := true }
    else if one 1 then s.resume r
    else if zero 0 then s.updRoom r fun x => { x with haltReq := false }
    else s
  let s := s.updRoom r fun x =>
    { x with target := BitVec.ofNat 3 ((List.range 3).map fun k =>
        2 ^ k * boolNat (if bitOf v (20 + k) then bitOf v (4 + k) else x.target.getLsbD k)).sum }
  let s := if one 2 && (s.room r).runst == .idle then s.checkTarget r (s.room r).target else s
  if one 3 then
    let x := s.room r
    if (x.runst == .run || x.runst == .halt) && hTrigger (s.header r x.active) == 4 && !x.trigMet then
      s.updRoom r fun x => { x with trigMet := true, firePending := false }
    else s
  else s

/-- CFB_CTRL_HALT: a halt is requested. -/
def execCfbCtrlHalt (r : RoomId) (s : State) : Host.Outcome State Fault Refusal :=
  .next (s.updRoom r fun x => { x with haltReq := true })

/-- HALT_EFFECT: no firing is in flight and no switch in progress (R82). The Room is no longer blocked, so its count ends
(R65). DESIGN CHOICE (assumption 64): a HALT requested on an IDLE Room leaves it IDLE with the request pending, and takes
effect at the end of its START. -/
def execHaltEffect (r : RoomId) (s : State) : Host.Outcome State Fault Refusal :=
  let x := s.room r
  if s.live && x.haltReq && x.runst == .run && x.firings.isEmpty then
    .next (s.updRoom r fun x => restartStall { x with runst := .halt, firePending := false })
  else .next s

/-- CFB_CTRL_RESUME: HALT clears, and a Room in HALT runs (R76). -/
def execCfbCtrlResume (r : RoomId) (s : State) : Host.Outcome State Fault Refusal :=
  .next (s.resume r)

/-- CFB_CTRL_START: START with TARGET, ignored unless the Room is IDLE (R76, R81). -/
def execCfbCtrlStart (r : RoomId) (target : SlotId) (s : State) : Host.Outcome State Fault Refusal :=
  .next (s.ctrlWrite r (0x740004 + 16 * target.toNat))

/-- CFB_CTRL_FORCE: the STUDY trigger of the active slot is met, unless a trigger is met already (R78, R82). -/
def execCfbCtrlForce (r : RoomId) (s : State) : Host.Outcome State Fault Refusal :=
  let x := s.room r
  if (x.runst == .run || x.runst == .halt) && hTrigger (s.header r x.active) == 4 && !x.trigMet then
    .next (s.updRoom r fun x => { x with trigMet := true, firePending := false })
  else .next s

/-- A Room in RUN or SWITCH whose READY or ACTIVE slot names the port among its VALID destinations. -/
def State.producerRuns (s : State) (r : RoomId) (p : PortId) : Bool :=
  s.rooms.any fun e =>
    let q : RoomId := BitVec.ofNat 10 e.1
    (e.2.runst == .run || e.2.runst == .switch) &&
      (List.range 8).any fun k =>
        let h := s.header q (BitVec.ofNat 3 k)
        (mapGet .empty e.2.slots k == .ready || mapGet .empty e.2.slots k == .active) &&
          (List.range 2).any fun o => (hDests h o).contains (r, p)

/-- Spill region of a profile: SPILL_LIMIT × 64 bytes from SPILL_BASE × 64 KiB. -/
def profOverlap (a b : Nat) : Bool :=
  let la := profLimit a * 64
  let lb := profLimit b * 64
  decide (0 < la) && decide (0 < lb) &&
    decide (bitsOf a 1 4 * 65536 < bitsOf b 1 4 * 65536 + lb) && decide (bitsOf b 1 4 * 65536 < bitsOf a 1 4 * 65536 + la)

/-- The cases of R77 in which a CFB_PORTPROF write is ignored. -/
def State.profRefused (s : State) (r : RoomId) (p : PortId) (v : Nat) : Bool :=
  let x := s.room r
  let i := x.inPort p
  let others := (List.range 4).filter fun q => q != p.toNat
  decide (0 < portHeld i) || decide (1024 < bitsOf v 5 11) ||
    others.any (fun q => profOverlap v ((x.inPort (BitVec.ofNat 2 q)).profile.toNat)) ||
    decide (2 ^ 20 < bitsOf v 1 4 * 65536 + profLimit v * 64) ||
    (profLimit v != spillLimit i && (!i.transit.isEmpty || s.producerRuns r p))

/-- CFB_PORTPROF_WRITE: accepted, both ring positions go to slot 0 and every output's credit count is that of the new
capacity; otherwise CFB_FAULT.PROFILE (R48, R77). -/
def execCfbPortprofWrite (r : RoomId) (p : PortId) (v : W64) (s : State) : Host.Outcome State Fault Refusal :=
  if s.profRefused r p v.toNat then .next (s.updRoom r fun x => { x with fault := x.fault ||| 32 })
  else .next (s.updPortIn r p fun i =>
    { i with profile := BitVec.ofNat 16 v.toNat, wrPos := 0, rdPos := 0
             freed := if profLimit v.toNat = spillLimit i then i.freed else [] })

/-! ## Slot images and loads (R72 to R74, R83 to R85) -/

/-- A write of one 64-byte unit of a slot window: ignored on an ACTIVE slot with CFB_FAULT.ACTIVE_WRITE; a READY slot
becomes LOADING; bytes from 0x4000 on ignore writes (R72, R74). DESIGN CHOICE (assumption 65): a write from 0x4000 on makes a
READY slot LOADING too. -/
def State.slotUnitWrite (s : State) (r : RoomId) (slot : SlotId) (a : Nat) (bs : List Byte) : State :=
  match (s.room r).slotSt slot with
  | .active => s.updRoom r fun x => { x with fault := x.fault ||| 64 }
  | st =>
    let s := if st = .ready then s.updRoom r fun x => x.setSlot slot .loading else s
    s.write (slotKey r.toNat slot.toNat a) (bs.take (0x4000 - a))

/-- SLOT_IMAGE_WRITE: the loader or the Study writes unit `unit` of a slot window. -/
def execSlotImageWrite (r : RoomId) (slot : SlotId) (unit : BitVec 10) (data : W512) (s : State) :
    Host.Outcome State Fault Refusal :=
  .next (s.slotUnitWrite r slot (64 * unit.toNat) (unitBytes data))

/-- A load request joins the Wing's queue; a ninth waiting one is refused with LOADER_BUSY (R83). -/
def State.requestLoad (s : State) (g : WingId) (q : LoadReq) : State :=
  if (s.wing g).loadQ.length < 8 then s.updWing g fun w => { w with loadQ := w.loadQ ++ [q] }
  else match q.lbx with
    | some (l, tag) => s.answer l tag 0x0301 q.ctx true 0x1D
    | none => s

/-- LOAD_REQUEST: a request of the Study's own. -/
def execLoadRequest (w : WingId) (loff : BitVec 24) (slot : SlotId) (mask : W16) (s : State) :
    Host.Outcome State Fault Refusal :=
  .next (s.requestLoad w { loff, slot, mask })

/-- Rooms of a mask in a Wing. -/
def maskRooms (g : WingId) (mask : W16) : List RoomId :=
  (pick 16 fun i => bitOf mask.toNat i).map fun i => BitVec.ofNat 10 (g.toNat * 16 + i)

/-- The slot counts as ACTIVE: ACTIVE, or the target of a switch past its target check (R83). DESIGN CHOICE (assumption 66):
a Room in LOAD_WAIT is not past it, so a further load may take the slot it waits for. -/
def State.slotBusy (s : State) (r : RoomId) (slot : SlotId) : Bool :=
  let x := s.room r
  x.slotSt slot == .active ||
    (match x.switching with
     | some w => w.target == slot && !w.loadWait
     | none => false)

/-- The loader takes its next request: refused whole with SLOT_ACTIVE, or the slot becomes LOADING in every masked Room
(R83). Answers whether the request was refused, and the request. -/
def State.loaderTake (s : State) (w : WingId) : Option (Bool × LoadReq × State) :=
  match (s.wing w).loading, (s.wing w).loadQ with
  | none, q :: rest =>
    if !s.live then none
    else
      let s := s.updWing w fun x => { x with loadQ := rest }
      if (maskRooms w q.mask).any fun r => s.slotBusy r q.slot then some (true, q, s)
      else
        let s := (maskRooms w q.mask).foldl (fun s r => s.updRoom r fun x => x.setSlot q.slot .loading) s
        some (false, q, s.updWing w fun x => { x with loading := some q })
  | _, _ => none

/-- The constraints of R73 on a header, and that of R61 on one control port for both units. Reserved bits are ignored (00
R12), but for bits [15:13] of a destination entry, which R73 has zero. -/
def headerOk (h : Header) : Bool :=
  let us := [0, 1]
  let on (u : Nat) := steerOn h u
  let ins (u : Nat) : List Nat :=
    let d := hSteer h u
    if d.op = 0 then [] else if d.op = 1 || d.op = 4 then [d.a, d.b] else [d.a]
  hNat h 0 4 == 0x53474643 && decide (64 ≤ hLength h) && decide (hLength h ≤ 16384) && hLength h % 64 == 0 &&
    hNat h 6 1 == 1 && decide (hTrigger h ≤ 4) && us.all (fun u => decide ((hSteer h u).op ≤ 4)) &&
    (!oneCtrl h || hShare h) &&
    [0, 1].all (fun o =>
      (List.range 4).all (fun i => bitsOf (hNat h (32 + 16 * o + 2 * i) 2) 13 3 == 0) &&
        (!hOutEn h o || !(hDests h o).isEmpty)) &&
    us.all (fun u => !on u ||
      (let c := (hSteer h u).ctrl
       !hMaskIn h c && us.all fun v => !(ins v).contains c)) &&
    us.all (fun u => (ins u).all fun p => !hMaskIn h p && hPlenIn h p == (hSteer h u).plen) &&
    (ins 0).all (fun p => !(ins 1).contains p)

/-- Commit of one Room's image at Larder offset `a`: 0 READY, else the status of R85. DESIGN CHOICE (assumption 67): the
steering state saved with the slot (R80) stays for the new image. -/
def State.commitRoom (s : State) (g : WingId) (r : RoomId) (slot : SlotId) (a : Nat) : Nat × State :=
  let h : Header := { bytes := s.read (larderKey g.toNat a) 64 }
  if 2 ^ 24 < a + 64 || !headerOk h || 2 ^ 24 < a + hLength h then
    (0x1F, s.updRoom r fun x => x.setSlot slot .empty)
  else
    let img := s.read (larderKey g.toNat a) (hLength h)
    let s := s.write (slotKey r.toNat slot.toNat 0) img
    if s.poisoned (larderKey g.toNat a) (hLength h) || crc32c (img.drop 12) != hNat h 8 4 then
      (0x20, s.updRoom r fun x => x.setSlot slot .empty)
    else (0, s.updRoom r fun x => { x.setSlot slot .ready with loffs := mapSet x.loffs slot.toNat a })

/-- Commit of the load in progress: every masked Room's image (Room i at LOFF + 16 KiB × i, assumption 14) is checked; its
slot becomes READY or EMPTY, and failures are reported. Answers the request and the status of each Room (R85). -/
def State.loaderCommit (s : State) (w : WingId) : Option (LoadReq × List (Nat × Nat) × State) :=
  match (s.wing w).loading with
  | some q =>
    if !s.live then none
    else
      let step (acc : List (Nat × Nat) × State) (r : RoomId) : List (Nat × Nat) × State :=
        let (st, t) := acc.2.commitRoom w r q.slot (q.loff.toNat + 16384 * (r.toNat % 16))
        let t := if st = 0 then t else
          t.raise { cls := 0x10, code := BitVec.ofNat 8 st, src := 1, unit := w.toNat, ctx := (s.wing w).ctx }
        (acc.1 ++ [(r.toNat % 16, st)], t)
      let (res, s) := (maskRooms w q.mask).foldl step ([], s)
      some (q, res, s.updWing w fun x => { x with loading := none })
  | none => none

end Sys2Proof.Machine
end

