-- ==== Sys2Proof/Machine/Page.lean ====
section
/-! DEFINITION. Frames and the entries of the page map (05 R161 to R181). -/

namespace Sys2Proof.Machine

/-! ## Free frames (R161, R163, R164, R168, R171, R176) -/

def frameTag (ptier f : Nat) : Nat := ptier * 2 ^ 32 + f

/-- Tier of a frame in the list of retired frames: a spread frame is listed as 5. -/
def retireTier (ptier : Nat) (spread : Bool) : Nat := if ptier = 1 && spread then 5 else ptier

/-- A Pantry frame of a stack whose frames are being evacuated. -/
def State.leavingStack (s : State) (ptier : Nat) (spread : Bool) (f : Nat) : Bool :=
  ptier == 1 && s.moves.any fun m => match m.why with
    | .retire unit => spread || unit / 256 == f % 8
    | _ => false

/-- A frame can be given out: unused, not retired, not about to leave, and its Pantry group not in the other use. -/
def State.frameFree (s : State) (ptier : Nat) (spread : Bool) (f : Nat) : Bool :=
  !s.leavingStack ptier spread f && !s.used.contains (frameTag ptier f) && !s.repair.retiredFrames.contains (retireTier ptier spread, f) && s.framePresent ptier spread f &&
    !(ptier == 1 && (if spread then s.localGroups else s.spreadGroups).contains (f / 8))

/-- The lowest number from `i` on, below `limit`, that a predicate picks. -/
def firstFrom (ok : Nat → Bool) (limit : Nat) : Nat → Nat → Option Nat
  | 0, _ => none
  | k + 1, i => if limit ≤ i then none else if ok i then some i else firstFrom ok limit k (i + 1)

/-- A bound on the frames of a unit that cannot be given out, where any can. -/
def State.frameFuel (s : State) : Nat :=
  s.used.length + s.repair.retiredFrames.length + 8 * (s.spreadGroups.length + s.localGroups.length) + 8

/-- The lowest free frame of a unit and placement. -/
def State.frameOf (s : State) (ptier : Nat) (spread : Bool) (unit : Nat) : Option Nat :=
  let k := s.frameFuel
  match ptier with
  | 1 =>
    if spread then
      firstFrom (s.frameFree 1 true) (8 * ((List.range 8).map s.stackFrames).foldl min 22888) k 1024
    else (firstFrom (fun i => s.frameFree 1 false (8 * i + unit)) (s.stackFrames unit) k 128).map fun i => 8 * i + unit
  | 2 => (firstFrom (fun i => s.frameFree 2 false (4 * i + unit)) (mapGet 0 s.groupFrames unit) k 0).map fun i => 4 * i + unit
  | _ =>
    let found := (s.annexRanges unit).filterMap fun e =>
      firstFrom (fun i => s.frameFree 3 false (unit * 2 ^ 23 + i)) e.2 k e.1
    (found.foldl (fun (m : Option Nat) i => match m with
      | some x => some (min x i)
      | none => some i) none).map fun i => unit * 2 ^ 23 + i

/-- Units a placement names: UNIT 15 any, lowest first; spread frames have none. -/
def unitsOf (ptier : Nat) (spread : Bool) (unit : Nat) : List Nat :=
  if spread then [0]
  else if unit ≠ 15 then [unit]
  else match ptier with
    | 1 => List.range 8
    | 2 => List.range 4
    | _ => List.range 2

def State.pickFrame (s : State) (ptier : Nat) (spread : Bool) (unit : Nat) : Option Nat :=
  (unitsOf ptier spread unit).findSome? fun u => s.frameOf ptier spread u

/-- Take a frame; a Pantry frame commits its group to its use. -/
def State.takeFrame (s : State) (ptier : Nat) (spread : Bool) (f : Nat) : State :=
  let s := { s with used := unitAdd s.used (frameTag ptier f) }
  if ptier ≠ 1 then s
  else if spread then { s with spreadGroups := unitAdd s.spreadGroups (f / 8) }
  else { s with localGroups := unitAdd s.localGroups (f / 8) }

/-- Return a frame; a Pantry group with none left in use is free for either use. -/
def State.freeFrame (s : State) (ptier f : Nat) : State :=
  let s := { s with used := s.used.filter fun u => u != frameTag ptier f }
  if ptier = 1 && (List.range 8).all fun k => !s.used.contains (frameTag 1 (f / 8 * 8 + k)) then
    { s with spreadGroups := s.spreadGroups.filter fun g => g != f / 8, localGroups := s.localGroups.filter fun g => g != f / 8 }
  else s

/-- Models of a context, loaded or with their resources reserved by a load. -/
def State.modelsOf (s : State) (c : CtxId) : List Model :=
  (s.ctx c).models.map (·.2) ++ s.modelWork.filterMap fun w => if w.ctx = c then w.model else none

/-- Larder ranges of a Wing that models hold (R161). -/
def State.larderHeld (s : State) (g : WingId) : List (Nat × Nat) :=
  match (s.wing g).ctx with
  | some c => ((s.modelsOf c).flatMap fun m => m.larder).filterMap fun l => if l.1 = g then some l.2 else none
  | none => []

def State.larderFree (s : State) (g : WingId) (off n : Nat) : Bool :=
  ((s.larderHeld g).all fun r => decide (off + n ≤ r.1) || decide (r.1 + r.2 ≤ off)) &&
    s.used.all fun u => decide (2 ^ 14 ≤ u) || u / 256 != g.toNat || decide (off + n ≤ u % 256 * 65536) ||
      decide (u % 256 * 65536 + 65536 ≤ off)

/-- The lowest free slots of a Wing's Larder. -/
def State.larderSlots (s : State) (g : WingId) (n : Nat) : Option (List Nat) :=
  let l := (pick 256 fun k => s.larderFree g (k * 65536) 65536).take n
  if l.length = n then some l else none

/-- Take slots of a Wing's Larder. -/
def State.takeSlots (s : State) (g : WingId) (l : List Nat) : State :=
  l.foldl (fun s k => { s with used := unitAdd s.used (frameTag 0 (g.toNat * 256 + k)) }) s

/-! ## Entries -/

/-- Permission bits of an entry: WRITE, REM_RD, REM_WR in bits 1 to 3. -/
def leafOf (perm ptier : Nat) (spread : Bool) (f : Nat) : W64 :=
  BitVec.ofNat 64 (1 + 2 * perm + 64 * boolNat spread + 256 * ptier + 2 ^ 16 * f)
def subOf (perm ptier sfn : Nat) : W64 := BitVec.ofNat 64 (1 + 2 * perm + 256 * ptier + 2 ^ 16 * sfn)
def leafSubEntry (subtab : Nat) : W64 := BitVec.ofNat 64 (0x11 + 2 ^ 16 * subtab)

/-- Permission bits of an entry. -/
def permOf (e : W64) : Nat := bitsOf e.toNat 1 3
def withPerm (e : W64) (perm : Nat) : W64 := BitVec.ofNat 64 (e.toNat - 2 * permOf e + 2 * perm)

/-! ### Tables (R178 to R180; assumption 28)

The root of each namespace has the index nsKey; leaf tables and subpage tables lie in the reserved frames behind the roots. -/

/-- Indices of leaf tables begin behind the 192 roots. -/
def firstTab : Nat := 192

/-- Write an entry; a table word that is zero is not listed. -/
def State.putWord (s : State) (k : Nat) (e : W64) : State :=
  { s with tables := if e = 0 then mapDel s.tables k else mapSet s.tables k e }

/-- The lowest free index of a leaf table, and of a subpage table. -/
def State.freeLeafTab (s : State) : Option Nat :=
  firstFrom (fun i => !s.leafTabs.contains i && s.subTabs.all fun t => t / 128 != i) (2 ^ 16) (s.leafTabs.length + s.subTabs.length + 1) firstTab
def State.freeSubTab (s : State) : Option Nat :=
  firstFrom (fun t => !s.subTabs.contains t && !s.leafTabs.contains (t / 128)) (2 ^ 23) (128 * s.leafTabs.length + s.subTabs.length + 1)
    (128 * firstTab)

/-- The leaf table of a page exists from here on; none where the namespace has no root or the reserved frames are full. -/
def State.openLeaf (s : State) (c : CtxId) (ns vpn : Nat) : Option State :=
  if (s.leafAt c ns vpn).isSome then some s
  else match mapFind s.roots (nsKey c ns), s.freeLeafTab with
    | some r, some t => some ({ s with leafTabs := unitAdd s.leafTabs t }.putWord (dirWord r vpn) (BitVec.ofNat 64 (1 + 2 ^ 16 * t)))
    | _, _ => none

/-- Write a leaf entry that names no subpage table (openSub writes those), and a subpage entry, in a table that exists. -/
def State.putLeaf (s : State) (c : CtxId) (ns vpn : Nat) (e : W64) : State :=
  match s.leafAt c ns vpn with
  | some k => if eSub e then s else s.putWord k e
  | none => s
def State.putSub (s : State) (c : CtxId) (ns vpn j : Nat) (e : W64) : State :=
  match s.subAt c ns vpn j with
  | some k => if j < 32 then s.putWord k e else s
  | none => s

/-- Map a page in subpages: its leaf entry names a new subpage table. -/
def State.openSub (s : State) (c : CtxId) (ns vpn : Nat) : Option State :=
  (s.openLeaf c ns vpn).bind fun s => (s.leafAt c ns vpn).bind fun k => s.freeSubTab.map fun t =>
    { s with subTabs := unitAdd s.subTabs t }.putWord k (leafSubEntry t)

/-- Clear a page's entry; its subpage table goes. -/
def State.clearPage (s : State) (c : CtxId) (ns vpn : Nat) : State :=
  let e := s.leaf c ns vpn
  let s := s.putLeaf c ns vpn 0
  if eValid e && eSub e then
    { s with subTabs := s.subTabs.filter (fun t => t != eSubtab e), tables := s.tables.filter fun w => w.1 / 32 != eSubtab e }
  else s

/-- The directory tables of a context's namespaces, when it is created (R177). -/
def State.makeRoots (s : State) (c : CtxId) : State :=
  (List.range 3).foldl (fun s k => { s with roots := mapSet s.roots (nsKey c (k + 1)) (nsKey c (k + 1)) }) s

/-- The tables of a context are gone, when it is released. -/
def State.dropTables (s : State) (c : CtxId) : State :=
  let rs := (List.range 3).filterMap fun k => mapFind s.roots (nsKey c (k + 1))
  let ts := ((s.tables.filter fun w => rs.contains (w.1 / 4096)).map fun w => s.tableWord w.1).filterMap fun e =>
    if eValid e then some (eTable e) else none
  { s with roots := s.roots.filter (fun r => r.1 / 3 != c.toNat), leafTabs := s.leafTabs.filter (fun t => !ts.contains t)
           tables := s.tables.filter fun w => !(rs.contains (w.1 / 4096) || ts.contains (w.1 / 4096)) }

/-- Map one page with 32 subpages: a whole stack-local, Cellar or Annex frame, or 32 Larder slots (assumption 29). -/
def State.mapSubs (s : State) (c : CtxId) (ns vpn perm : Nat) (p : Placement) : Option State :=
  (s.openSub c ns vpn).bind fun s =>
    let put (s : State) (sfns : List Nat) : State :=
      sfns.zipIdx.foldl (fun s e => s.putSub c ns vpn e.2 (subOf perm p.ptier e.1)) s
    if p.ptier = 0 then (s.larderSlots p.wing 32).map fun l => put (s.takeSlots p.wing l) (l.map fun k => p.wing.toNat * 256 + k)
    else (s.pickFrame p.ptier false p.unit).map fun f => put (s.takeFrame p.ptier false f) ((List.range 32).map fun j => 32 * f + j)

/-- Map one page. -/
def State.mapPage (s : State) (c : CtxId) (ns vpn perm : Nat) (sub : Bool) (p : Placement) : Option State :=
  if sub then s.mapSubs c ns vpn perm p
  else (s.openLeaf c ns vpn).bind fun s => (s.pickFrame p.ptier p.spread p.unit).map fun f =>
    (s.takeFrame p.ptier p.spread f).putLeaf c ns vpn (leafOf perm p.ptier p.spread f)

/-- Map pages in ascending order, or none. -/
def State.mapPages (s : State) (c : CtxId) (ns perm : Nat) (sub : Bool) (p : Placement) : Nat → Nat → Option State
  | _, 0 => some s
  | vpn, k + 1 =>
    match s.mapPage c ns vpn perm sub p with
    | some t => State.mapPages t c ns perm sub p (vpn + 1) k
    | none => none

/-- Subpage entries of a page, with their indices. -/
def State.subsOf (s : State) (c : CtxId) (ns vpn : Nat) : List (Nat × W64) :=
  (List.range 32).filterMap fun j => if eValid (s.sub c ns vpn j) then some (j, s.sub c ns vpn j) else none

/-- Return the frame or the Larder slot of an entry. -/
def State.returnEntry (s : State) (e : W64) (sub : Bool) : State :=
  if !sub then s.freeFrame (ePtier e) (ePpn e)
  else if ePtier e = 0 then { s with used := s.used.filter fun u => u != frameTag 0 (eSfn e) }
  else s.freeFrame (ePtier e) (eSfn e / 32)

/-- Return what a page holds, and clear its entries. -/
def State.unmapPage (s : State) (c : CtxId) (ns vpn : Nat) : State :=
  let e := s.leaf c ns vpn
  if !eValid e then s
  else
    (if eSub e then (s.subsOf c ns vpn).foldl (fun s j => s.returnEntry j.2 true) s else s.returnEntry e false).clearPage c ns vpn

/-- Mapped pages of a range. -/
def State.mappedIn (s : State) (c : CtxId) (ns vpn n : Nat) : List Nat :=
  ((s.leaves c ns).filter fun e => eValid e.2 && decide (vpn ≤ e.1) && decide (e.1 < vpn + n)).map (·.1)

end Sys2Proof.Machine
end

