-- ==== Sys2Proof/Machine/Ring.lean ====
section
/-! DEFINITION. The ring of an attached Inflow port (11 R379, R380): its descriptor, its page list, the header that the device
writes, and a page of it that the Study moves (R384). -/

namespace Sys2Proof.Machine

/-! ## Ports and descriptors (R374, R379) -/

def State.inflow (s : State) (p : Bool) : Inflow := if p then s.inflow1 else s.inflow0
def State.updInflow (s : State) (p : Bool) (f : Inflow → Inflow) : State :=
  if p then { s with inflow1 := f s.inflow1 } else { s with inflow0 := f s.inflow0 }
def inflowPort (p : Bool) : Nat := if p then 23 else 11

/-- The port is in the Inflow role and in service. -/
def State.inflowLive (s : State) (p : Bool) : Bool := (s.port (inflowPort p)).resRole == 2 && portLive (s.port (inflowPort p))

def adBits (d : BitVec 512) (byte lo w : Nat) : Nat := bitsOf d.toNat (8 * byte + lo) w
def adCtx (d : BitVec 512) : CtxId := BitVec.ofNat 6 (adBits d 1 0 6)
def adBoltEn (d : BitVec 512) : Bool := bitOf d.toNat 14
def adBolt (d : BitVec 512) : Nat := adBits d 2 0 15
def adMax (d : BitVec 512) : Nat := adBits d 4 0 32
def adHdr (d : BitVec 512) : Dva := BitVec.ofNat 64 (adBits d 8 0 64)
def adData (d : BitVec 512) : Dva := BitVec.ofNat 64 (adBits d 16 0 64)
def adLog (d : BitVec 512) : Nat := adBits d 24 0 6
/-- Units of the data area. -/
def adUnits (d : BitVec 512) : Nat := 2 ^ (adLog d - 6)

/-! ## A page that moves (R384) -/

/-- Tag of a whole page's entry in a page list. -/
def ringTag (e : W64) : Nat := frameTag (ePtier e) (ePpn e) + boolNat (eSpread e) * 2 ^ 31

/-- A page that moves is one of an attached ring: parts as subpage (32 a whole page), old entry, new entry. -/
def inRing (parts : List (Nat × W64 × W64)) (x : Inflow) : Bool :=
  x.desc.isSome && parts.any fun q => q.1 == 32 && x.pages.contains (ringTag q.2.1)

/-- The page list follows it. -/
def inflowMoved (parts : List (Nat × W64 × W64)) (x : Inflow) : Inflow :=
  { x with pages := x.pages.map fun p => match parts.find? fun q => q.1 == 32 && ringTag q.2.1 == p with
      | some q => ringTag q.2.2
      | none => p }

/-- The writer is suspended: a page of its ring is being copied. -/
def State.inflowHeld (s : State) (p : Bool) : Bool := s.moves.any fun m => m.sid.isSome && inRing m.parts (s.inflow p)

/-! ## The ring through its page list (R379, R380) -/

/-- Physical key of byte `off` of the page with a tag of the list; none where the frame is not in service. -/
def State.ringKey (s : State) (tag off : Nat) : Option Nat :=
  let t := tag / 2 ^ 32
  let sp := bitOf tag 31
  let f := tag % 2 ^ 31
  if s.framePresent t sp f then some (frameKey t sp f off) else none

/-- Key of the header byte `off`, and of unit `u` of the data area. -/
def State.hdrKey (s : State) (x : Inflow) (d : BitVec 512) (off : Nat) : Option Nat :=
  s.ringKey (x.pages.headD 0) ((adHdr d).toNat % 2 ^ 21 + off)
def State.unitKey (s : State) (x : Inflow) (d : BitVec 512) (u : Nat) : Option Nat :=
  let b := u % adUnits d * 64
  s.ringKey ((x.pages.drop 1).getD (b / 2 ^ 21) 0) (b % 2 ^ 21)

/-- Unit 0 of the ring header. -/
def ringHeader (x : Inflow) : List Byte :=
  let drop (r : Nat) := (mapGet 0 x.drops r).toNat
  layout 64 [(0, 4, x.prod.toNat), (8, 8, x.entries.toNat), (16, 4, drop 1), (20, 4, drop 2), (24, 4, drop 3), (28, 4, drop 4),
    (32, 4, drop 5), (36, 4, drop 6), (40, 4, x.unseen.toNat)]

/-- The device writes unit 0 whole; a suspended writer writes it when it resumes. -/
def State.putHeader (s : State) (p : Bool) : State :=
  let x := s.inflow p
  match if s.inflowHeld p then none else x.desc with
  | some d =>
    match s.hdrKey x d 0 with
    | some k => s.write k (ringHeader x)
    | none => s
  | none => s

end Sys2Proof.Machine
end

