-- ==== Sys2Proof/Machine/Move.lean ====
section
/-! DEFINITION. Pages that move (05 R165, R176, R187; 06 R194; 11 R384), the Study's own streams, and the page-map commands
(13 R439, R440). -/

namespace Sys2Proof.Machine

/-! ## The Study's streams (06 R194) -/

/-- Streams that exist and those a load has reserved (06 R224 step 3). -/
def State.heldStreams (s : State) : List (StreamId × Stream) := s.streams ++ s.modelWork.flatMap fun w => w.resv

/-- The lowest free context of a Dumbwaiter. -/
def freeStream (all : List (StreamId × Stream)) (dw : Nat) : Option StreamId :=
  ((List.range 64).map (64 * dw + ·)).find? fun sid => all.all fun e => e.1 != sid

/-- A stream context for a copy of the Study: of DW 8 or 9, whichever has one first. -/
def State.studyStream (s : State) : Option StreamId := [8, 9].findSome? fun dw => freeStream s.heldStreams dw

/-- The words of XFER entries that copy a range, at most 16 MiB each; `stop` sets POISON_STOP. -/
def xferWords (stop : Bool) (src dst : Dva) : Nat → Nat → List (BitVec 256)
  | 0, _ => []
  | f + 1, n =>
    if n = 0 then []
    else
      let k := min n (2 ^ 24)
      let step := BitVec.ofNat 64 k
      BitVec.ofNat 256 (1 + 32 * boolNat stop + k * 2 ^ 32 + src.toNat * 2 ^ 64 + dst.toNat * 2 ^ 128) ::
        xferWords stop (src + step) (dst + step) f (n - k)

/-- A COPY stream of the Study over ranges (source, destination, bytes), with the list it runs; the last 64-byte unit of a range
is copied whole (assumption 71). -/
def copyStream (c : CtxId) (stop : Bool) (l : List (Dva × Dva × Nat)) : Stream :=
  let ws := (l.flatMap fun x => xferWords stop x.1 x.2.1 (x.2.2 / 2 ^ 24 + 2) ((x.2.2 + 63) / 64 * 64)) ++ [0xF]
  { chainKind := false, tclass := false, bulkSlack := Config.studySlack, listBase := 0, listLen := BitVec.ofNat 24 ws.length
    start := 0, ctx := c, st := .run, study := true, fetched := ws.zipIdx.map fun w => (w.2, w.1) }

/-- Start the Study's copies of a load: ranges in turn on DW 8 and 9 (06 R224 step 4). None without stream contexts. -/
def State.startCopies (s : State) (c : CtxId) (l : List (Dva × Dva × Nat)) (resv : List (StreamId × Stream)) :
    Option (State × List StreamId) :=
  let part (k : Nat) := (l.zipIdx.filter fun x => x.2 % 2 == k).map (·.1)
  let start (o : Option (State × List StreamId)) (x : Nat × List (Dva × Dva × Nat)) : Option (State × List StreamId) :=
    o.bind fun (s, ids) =>
      if x.2.isEmpty then some (s, ids)
      else ([x.1, 17 - x.1].findSome? fun dw => freeStream (s.heldStreams ++ resv) dw).map fun sid =>
        (s.setStream sid (copyStream c true x.2), ids ++ [sid])
  [(8, part 0), (9, part 1)].foldl start (some (s, []))

/-- The Study's copies: the code and address of one that has failed; all done; or still at work (none). -/
def State.copiesEnd (s : State) (ids : List StreamId) : Option (Option (Nat × Dva)) :=
  let ts := ids.filterMap s.stream
  match ts.find? fun t => t.st == .fault with
  | some t => some (some (t.fault.toNat, t.faultDva))
  | none => if ts.all fun t => t.st == .done then some none else none

/-- A stream of the Study is gone, with its accesses. -/
def State.dropCopy (s : State) (sid : StreamId) : State :=
  { s with streams := mapDel s.streams sid, accesses := s.accesses.filter fun a => a.who != .dw sid }

/-! ## One page (R187) -/

/-- The MEMORY event: tier, kind, number, address or frame, row, spare rows left. -/
def State.memoryEvent (s : State) (tier kind unit : Nat) (addr row spares : Nat := 0) : State :=
  s.devEvent 0x800A [(20, 1, tier), (21, 1, kind), (22, 2, unit), (24, 8, addr), (32, 4, row), (36, 2, spares)]

/-- Frames for a page that moves, and its parts: subpage (32 a whole page), old entry, new entry. None without a free frame. -/
def State.moveParts (s : State) (c : CtxId) (ns vpn : Nat) (p : Placement) : Option (State × List (Nat × W64 × W64)) :=
  let e := s.leaf c ns vpn
  if eSub e then
    let subs := s.subsOf c ns vpn
    let part (j : Nat × W64) (sfn : Nat) : Nat × W64 × W64 := (j.1, j.2, subOf (permOf j.2) p.ptier sfn)
    if p.ptier = 0 then
      (s.larderSlots p.wing subs.length).map fun l =>
        (s.takeSlots p.wing l, (subs.zip l).map fun x => part x.1 (p.wing.toNat * 256 + x.2))
    else (s.pickFrame p.ptier false p.unit).map fun f => (s.takeFrame p.ptier false f, subs.map fun j => part j (32 * f + j.1))
  else if p.ptier = 0 then none
  else (s.pickFrame p.ptier p.spread p.unit).map fun f =>
    (s.takeFrame p.ptier p.spread f, [(32, e, leafOf (permOf e) p.ptier p.spread f)])

/-- Write an entry for each part of a page. -/
def State.putParts (s : State) (c : CtxId) (ns vpn : Nat) (parts : List (Nat × W64 × W64)) (f : W64 × W64 → W64) : State :=
  parts.foldl (fun s p => if p.1 = 32 then s.putLeaf c ns vpn (f p.2) else s.putSub c ns vpn p.1 (f p.2)) s

/-- Return the frames of one side of the parts. -/
def State.freeParts (s : State) (parts : List (Nat × W64 × W64)) (f : W64 × W64 → W64) : State :=
  parts.foldl (fun s p => s.returnEntry (f p.2) (p.1 != 32)) s

/-- Range of one part, as the copy's stream names it. -/
def partRange (ns vpn : Nat) (p : Nat × W64 × W64) : Dva × Dva × Nat :=
  let d := dvaOf ns (vpn * 2 ^ 21 + if p.1 = 32 then 0 else p.1 * 65536)
  (d, d, if p.1 = 32 then 2 ^ 21 else 65536)

/-- Pages of a range, as a predicate for invalidation. -/
def inRange (c : CtxId) (ns vpn n : Nat) (c' : CtxId) (ns' vpn' : Nat) : Bool :=
  c' == c && ns' == ns && decide (vpn ≤ vpn') && decide (vpn' < vpn + n)

/-- The parts are of a page of an attached Inflow ring: no MIG is set in it, and its writer is suspended (11 R384). -/
def State.ringPart (s : State) (parts : List (Nat × W64 × W64)) : Bool := inRing parts s.inflow0 || inRing parts s.inflow1

/-- Steps 1 to 3 begin: MIG is set, the page invalidated, and a stream copies the old frame to the new one. -/
def State.beginMove (s : State) (c : CtxId) (ns vpn : Nat) (parts : List (Nat × W64 × W64)) (sid : StreamId) : State :=
  let s := if s.ringPart parts then s else (s.putParts c ns vpn parts fun e => e.1 ||| 0x20).invalidate (inRange c ns vpn 1)
  s.setStream sid (copyStream c false (parts.map (partRange ns vpn)))

/-- The writers of the rings that a page belongs to resume, with the headers of what they dropped meanwhile. -/
def State.resumeRings (s : State) (parts : List (Nat × W64 × W64)) : State :=
  [false, true].foldl (fun s p => if inRing parts (s.inflow p) then s.putHeader p else s) s

/-- Steps 4 and 5: the entry with the new frame, and the old frame returns; the page list of a ring follows, and no
translation to the frame it leaves stays. -/
def State.endMove (s : State) (c : CtxId) (ns vpn : Nat) (parts : List (Nat × W64 × W64)) : State :=
  let ring := s.ringPart parts
  let s := s.putParts c ns vpn parts fun e => e.2
  let s := if ring then s.invalidate (inRange c ns vpn 1) else s
  let s := s.freeParts parts fun e => e.1
  { s with inflow0 := inflowMoved parts s.inflow0, inflow1 := inflowMoved parts s.inflow1 }.resumeRings
    (parts.map fun p : Nat × W64 × W64 => (p.1, p.2.2, p.2.2))

/-- The move of a page is given up: its old entry, and the new frame returns. -/
def State.undoMove (s : State) (c : CtxId) (ns vpn : Nat) (parts : List (Nat × W64 × W64)) : State :=
  ((s.putParts c ns vpn parts fun e => e.1).freeParts parts fun e => e.2).resumeRings parts

/-! ## Channel retirement (R165) -/

/-- A channel is retired once every frame of its stack has been evacuated (assumption 69): the stack rotates over the channels
left; below 28 it is retired whole. -/
def State.retireDone (s : State) (unit : Nat) (all : Bool) : State :=
  if !all then s
  else
    let stack := unit / 256
    let c := mapGet 0 s.stackCh stack - 1
    let s := { s with stackCh := mapSet s.stackCh stack c
                      chanLost := mapSet s.chanLost stack (unitAdd (mapGet [] s.chanLost stack) (unit % 256)) }
    if c < 28 then
      (s.updIdent fun x => { x with mem := x.mem ||| BitVec.ofNat 32 (2 ^ stack) }).memoryEvent 1 4 stack
    else s.memoryEvent 1 3 unit

/-! ## Moves in order -/

/-- The moves of one purpose are over: a PAGE_MOVE answers, a channel is retired, retired frames are reported. -/
def State.moveOver (s : State) (m : PageMove) (status detail : Nat) : State :=
  match m.why with
  | .command q => s.reply q status detail [(16, 4, m.moved)]
  | .retire unit => s.retireDone unit m.all
  | .frames tier unit fs => fs.foldl (fun s f => s.memoryEvent tier 2 (if tier = 1 then unit / 256 else unit / 4) f.2) s

/-- A page cannot be moved: a PAGE_MOVE stops with a status, an evacuation leaves the page where it is. -/
def State.moveStuck (s : State) (m : PageMove) (rest : List PageMove) (status detail : Nat) : State :=
  match m.why with
  | .command _ => { s with moves := rest }.moveOver m status detail
  | _ => { s with moves := { m with todo := m.todo.tail, all := false } :: rest }

/-- Go on with the first move until a page of it is being copied: the Study moves one page at a time. Pages that are mapped no
more are passed. -/
def State.moveNext : Nat → State → State
  | 0, s => s
  | k + 1, s =>
    match s.moves with
    | [] => s
    | m :: rest =>
      match m.sid, m.todo with
      | some _, _ => s
      | none, [] => State.moveNext k ({ s with moves := rest }.moveOver m 0 0)
      | none, (c, ns, vpn) :: todo =>
        if !eValid (s.leaf c ns vpn) then State.moveNext k { s with moves := { m with todo } :: rest }
        else match s.studyStream, m.places.findSome? fun p => s.moveParts c ns vpn p with
          | none, _ => State.moveNext k (s.moveStuck m rest 0x06 0)
          | _, none => State.moveNext k (s.moveStuck m rest 0x21 0)
          | some sid, some (t, parts) => { t with moves := { m with sid := some sid, parts } :: rest }.beginMove c ns vpn parts sid

def State.runMoves (s : State) : State := State.moveNext ((s.moves.map fun m => m.todo.length + 1).sum) s

/-- Pages to move: they wait for the moves before them. -/
def State.addMove (s : State) (m : PageMove) : State := { s with moves := s.moves ++ [m] }.runMoves

/-- The stream of a move has ended: the page has moved, or it stays in its old frame. -/
def State.moveEnded (s : State) (sid : StreamId) (st : StreamSt) (code : Nat) : State :=
  match s.moves with
  | m :: rest =>
    match m.sid == some sid, m.todo with
    | true, (c, ns, vpn) :: todo =>
      let s := s.dropCopy sid
      let m' := { m with sid := none, parts := [] }
      (match st with
       | .done => { s with moves := { m' with todo, moved := m.moved + 1 } :: rest }.endMove c ns vpn m.parts
       | .fault => (s.undoMove c ns vpn m.parts).moveStuck m' rest 0x28 code
       | _ => (s.undoMove c ns vpn m.parts).moveStuck m' rest 0x26 0).runMoves
    | _, _ => s
  | [] => s

/-- The entry under which a move's stream reads or writes an address. -/
def State.moveEntry (s : State) (sid : StreamId) (write : Bool) (d : Dva) : Option (W64 × Bool) :=
  (s.moves.find? fun m => m.sid == some sid).bind fun m =>
    (m.parts.find? fun p => p.1 == 32 || p.1 == offSub (dvaOff d)).map fun p => (if write then p.2.2 ||| 2 else p.2.1, p.1 != 32)

/-- The page being copied is given up where a predicate picks it, before it is unmapped. -/
def State.dropMove (s : State) (hit : CtxId → Nat → Nat → Bool) : State :=
  match s.moves with
  | m :: rest =>
    match m.sid, m.todo with
    | some sid, (c, ns, vpn) :: _ =>
      if hit c ns vpn then ({ s with moves := { m with sid := none, parts := [] } :: rest }.dropCopy sid).undoMove c ns vpn m.parts else s
    | _, _ => s
  | [] => s

/-- A context is released: its PAGE_MOVE ends with ABORTED, and none of its pages moves. -/
def State.abortMoves (s : State) (c : CtxId) : State :=
  let s := s.dropMove fun c' _ _ => c' == c
  let mine (m : PageMove) : Bool := match m.why with
    | .command q => reqCtx q == c
    | _ => false
  let ended := s.moves.filter mine
  let s : State := { s with moves := (s.moves.filter fun m => !mine m).map fun m : PageMove => { m with todo := m.todo.filter fun p => p.1 != c } }
  (ended.foldl (fun s m => s.moveOver m 0x26 0) s).runMoves

/-- Unmap a range: invalidation first, then frames and entries (R185, R440). -/
def State.unmapRange (s : State) (c : CtxId) (ns vpn n : Nat) : State :=
  let s := (s.dropMove (inRange c ns vpn n)).invalidate (inRange c ns vpn n)
  ((s.mappedIn c ns vpn n).foldl (fun s v => s.unmapPage c ns v) s).runMoves

/-! ## Commands (13 R439, R440) -/

/-- Fields of a page-map command. -/
def pmNs (q : Req) : Nat := reqBits q 16 0 2
def pmPerm (q : Req) : Nat := reqBits q 16 2 3
def pmVpn (q : Req) : Nat := reqNat q 20 3
def pmCount (q : Req) : Nat := reqNat q 24 4
def pmPlace (s : State) (q : Req) : Placement :=
  { ptier := reqBits q 17 0 2, spread := reqBit q 17 2, unit := reqBits q 17 3 4
    wing := BitVec.ofNat 6 ((s.ctx (reqCtx q)).first.toNat + reqNat q 18 1) }

def pmBad (q : Req) : List (Nat × Bool) :=
  [(16, pmNs q == 0), (24, pmCount q == 0 || decide (2 ^ 24 < pmVpn q + pmCount q))]

/-- A placement breaks the table: PTIER 0 without SUB, SPREAD outside Pantry or with SUB, UNIT out of range. -/
def placeBad (q : Req) (sub : Bool) : Bool :=
  let t := reqBits q 17 0 2
  let u := reqBits q 17 3 4
  (t == 0 && !sub) || (reqBit q 17 2 && (t != 1 || sub)) ||
    (t != 0 && !reqBit q 17 2 && u != 15 && decide ((if t = 1 then 8 else if t = 2 then 4 else 2) ≤ u))

/-- A page belongs to a loaded model's PANTRY_VA range or to an attached Inflow ring (R440). -/
def State.pagePinned (s : State) (c : CtxId) (ns vpn n : Nat) : Bool :=
  let hits (d : Dva) (bytes : Nat) : Bool :=
    let a := dvaOff d
    decide (0 < bytes) && ns == 1 && decide (a / 2 ^ 21 < vpn + n) && decide (vpn ≤ (a + bytes - 1) / 2 ^ 21)
  ((s.modelsOf c).any fun m => hits m.pantryVa m.pantryBytes) ||
    [s.inflow0, s.inflow1].any fun x =>
      match x.desc with
      | some d =>
        let f (off n : Nat) := bitsOf d.toNat (8 * off) (8 * n)
        f 1 1 % 64 == c.toNat && (hits (BitVec.ofNat 64 (f 8 8)) 128 || hits (BitVec.ofNat 64 (f 16 8)) (2 ^ f 24 1))
      | none => false

/-- The page-map commands of a context are held back while one of its pages, or its PAGE_MOVE, moves (13 R423). -/
def State.pageHeld (s : State) (c : CtxId) : Bool :=
  s.moves.any fun m => (m.sid.isSome && m.todo.head?.any fun p => p.1 == c) || match m.why with
    | .command q => reqCtx q == c
    | _ => false

/-- A page-map command, once none before it is at work. -/
def State.pageCommand (s : State) (q : Req) (op : Nat) (fields : List (Nat × Nat × Nat)) (bad : List (Nat × Bool))
    (f : State → State) : State :=
  if s.pageHeld (reqCtx q) then s else s.commandWith q op fields bad f

/-- PAGE_MAP: COUNT pages from VPN, all or none. -/
def execPageMap (q : Req) (s : State) : Host.Outcome State Fault Refusal :=
  .next <|
    let sub := reqBit q 16 5
    s.pageCommand q 0x0201 [(16, 0, 6), (17, 0, 7), (18, 0, 6), (20, 0, 24), (24, 0, 25)] (pmBad q ++ [(17, placeBad q sub)]) fun s =>
      let c := reqCtx q
      if reqBits q 17 0 2 = 0 && decide ((s.ctx c).wings ≤ reqNat q 18 1) then s.reply q 0x13
      else if !(s.mappedIn c (pmNs q) (pmVpn q) (pmCount q)).isEmpty then s.reply q 0x08
      else match s.mapPages c (pmNs q) (pmPerm q) sub (pmPlace s q) (pmVpn q) (pmCount q) with
        | some t => t.reply q 0 0 [(16, 4, pmCount q)]
        | none => s.reply q 0x21

/-- PAGE_UNMAP. -/
def execPageUnmap (q : Req) (s : State) : Host.Outcome State Fault Refusal :=
  .next <|
    s.pageCommand q 0x0202 [(16, 0, 2), (20, 0, 24), (24, 0, 25)] (pmBad q) fun s =>
      if s.pagePinned (reqCtx q) (pmNs q) (pmVpn q) (pmCount q) then s.reply q 0x14
      else (s.unmapRange (reqCtx q) (pmNs q) (pmVpn q) (pmCount q)).reply q 0

/-- PAGE_PROT: permission bits of every mapped page of the range and of its subpage entries, then invalidation. -/
def execPageProt (q : Req) (s : State) : Host.Outcome State Fault Refusal :=
  .next <|
    s.pageCommand q 0x0203 [(16, 0, 5), (20, 0, 24), (24, 0, 25)] (pmBad q) fun s =>
      let c := reqCtx q
      let vs := s.mappedIn c (pmNs q) (pmVpn q) (pmCount q)
      let change (s : State) (v : Nat) : State :=
        if eSub (s.leaf c (pmNs q) v) then
          (s.subsOf c (pmNs q) v).foldl (fun s j => s.putSub c (pmNs q) v j.1 (withPerm j.2 (pmPerm q))) s
        else s.putLeaf c (pmNs q) v (withPerm (s.leaf c (pmNs q) v) (pmPerm q))
      ((vs.foldl change s).invalidate (inRange c (pmNs q) (pmVpn q) (pmCount q))).reply q 0 0 [(16, 4, vs.length)]

/-- PAGE_MOVE: ACCEPTED, and each mapped page moves to the placement, one after another, ascending; on a failure it stops with
MEM_FAULT, NO_FRAMES, or NO_STREAM (assumption 70). -/
def execPageMove (q : Req) (s : State) : Host.Outcome State Fault Refusal :=
  .next <|
    s.pageCommand q 0x0204 [(16, 0, 2), (17, 0, 7), (18, 0, 6), (20, 0, 24), (24, 0, 25)]
      (pmBad q ++ [(17, placeBad q (reqBits q 17 0 2 == 0))]) fun s =>
      let c := reqCtx q
      if reqBits q 17 0 2 = 0 && decide ((s.ctx c).wings ≤ reqNat q 18 1) then s.reply q 0x13
      else (s.accept q).addMove
        { why := .command q, todo := (s.mappedIn c (pmNs q) (pmVpn q) (pmCount q)).map fun v => (c, pmNs q, v), places := [pmPlace s q] }

/-- TLB_INVAL: SCOPE 0 page, 1 range, 2 namespace, 3 context. -/
def execTlbInval (q : Req) (s : State) : Host.Outcome State Fault Refusal :=
  .next <|
    let sc := reqBits q 18 0 2
    s.pageCommand q 0x0205 [(16, 0, 2), (18, 0, 2), (20, 0, 24), (24, 0, 25)]
      [(16, sc != 3 && pmNs q == 0), (24, sc == 1 && (pmCount q == 0 || decide (2 ^ 24 < pmVpn q + pmCount q)))] fun s =>
      let c := reqCtx q
      let m : CtxId → Nat → Nat → Bool := match sc with
        | 0 => inRange c (pmNs q) (pmVpn q) 1
        | 1 => inRange c (pmNs q) (pmVpn q) (pmCount q)
        | 2 => fun c' ns' _ => c' == c && ns' == pmNs q
        | _ => fun c' _ _ => c' == c
      (s.invalidate m).reply q 0

end Sys2Proof.Machine
end

