-- ==== Sys2Proof/Machine/Inflow.lean ====
section
/-! DEFINITION. Inflow (11 R376 to R385): flits and records received, staging, the writer, attaching and detaching. -/

namespace Sys2Proof.Machine

/-- The writer reads CONS. -/
def State.readCons (s : State) (p : Bool) : State :=
  let x := s.inflow p
  match x.desc with
  | some d =>
    match s.hdrKey x d 64 with
    | some k => s.updInflow p fun x => { x with cons := BitVec.ofNat 32 (s.readNat k 4) }
    | none => s
  | none => s

/-! ## Drops (R382; 13 R447) -/

/-- A dropped record: reasons 1 RING, 2 LINK, 3 CRC, 4 FORMAT, 5 BUFFER, 6 WRITE. The event and its record at most once in
10 ms of DEV_HC_COUNT (assumption 19). -/
def State.inflowDrop (s : State) (p : Bool) (reason : Nat) : State :=
  let up (m : Map W32) := mapSet m reason (mapGet 0 m reason + 1)
  let s := (s.updInflow p fun x => { x with drops := up x.drops, gap := up x.gap, evDrops := x.evDrops + 1 }).putHeader p
  let x := s.inflow p
  let due := match x.evAt with
    | some t => decide (24000000 ≤ (s.hc - t).toNat)
    | none => true
  if due then
    ((s.devEvent 0x800C [(20, 1, inflowPort p), (24, 4, x.evDrops.toNat)]).raise { cls := 0x34, src := 13, unit := boolNat p }).updInflow p
      fun x => { x with evDrops := 0, evAt := some s.hc }
  else s

/-! ## Reception (R377, R378, R382) -/

/-- Bytes a record occupies in the stream. -/
def recordBytes (len : Nat) : Nat := (32 + len + 31) / 32 * 32

def State.staging (x : Inflow) : Nat := (x.staged.map fun r => recordBytes r.len).sum

/-- A record header whose SYNC, VERSION or reserved fields are bad. -/
def headerBad (h : List Byte) : Bool :=
  let f (off n : Nat) := leNat ((h.drop off).take n)
  f 0 2 != 0x4649 || f 2 1 != 1 || f 3 1 != 0 || f 24 4 != 0

/-- The header of a record has arrived: what becomes of the record. Refusal 7 stands for a record with no attachment. -/
def State.headerDone (s : State) (p : Bool) (h : List Byte) : State :=
  let x := s.inflow p
  let len := leNat ((h.drop 4).take 4)
  let begin_ (s : State) (r : Nat) : State := s.updInflow p fun x => { x with part := some { bytes := h, need := some (recordBytes len), refused := r } }
  match x.desc, x.detaching with
  | some d, none =>
    if adMax d < len then begin_ (s.inflowDrop p 4) 4
    else if 2 ^ 22 < State.staging x + recordBytes len then begin_ (s.inflowDrop p 5) 5
    else begin_ s 0
  | _, _ => begin_ (s.updInflow p fun x => { x with noAttach := x.noAttach + 1 }) 7

/-- The last byte of a record has arrived: it is checked and staged. -/
def State.recordDone (s : State) (p : Bool) (b : InPartial) : State :=
  let f (off n : Nat) := leNat ((b.bytes.drop off).take n)
  let len := f 4 4
  let payload := (b.bytes.drop 32).take len
  let s := s.updInflow p fun x => { x with part := none }
  if b.refused ≠ 0 then s
  else if crc32c (b.bytes.take 28 ++ payload) ≠ f 28 4 then s.inflowDrop p 3
  else
    let r : InRec :=
      { len, rseq := BitVec.ofNat 32 (f 8 4), chan := BitVec.ofNat 32 (f 12 4), stamp := BitVec.ofNat 64 (f 16 8), arrival := s.hc
        payload }
    s.updInflow p fun x => { x with staged := x.staged ++ [r] }

/-- Feed stream bytes, record by record; a bad header loses the position (R378). -/
def State.feedGo (p : Bool) : Nat → List Byte → State → State
  | 0, _, s => s
  | k + 1, bs, s =>
    if bs.isEmpty then s
    else
      let b := ((s.inflow p).part).getD { bytes := [], need := none }
      let want := (b.need.getD 32) - b.bytes.length
      let b := { b with bytes := b.bytes ++ bs.take want }
      let s := s.updInflow p fun x => { x with part := some b }
      if bs.length < want then s
      else match b.need with
        | none =>
          if headerBad b.bytes then s.updInflow p fun x => { x with part := none, synced := false }
          else
            let s := s.headerDone p b.bytes
            let s := match (s.inflow p).part with
              | some c => if c.need = some 32 then s.recordDone p c else s
              | none => s
            State.feedGo p k (bs.drop want) s
        | some _ => State.feedGo p k (bs.drop want) (s.recordDone p b)

/-- A lost flit, or the port leaving service: the record in progress drops with LINK, and the position is lost. -/
def State.inflowLost (s : State) (p : Bool) : State :=
  let x := s.inflow p
  let s := s.updInflow p fun x => { x with part := none, synced := false, lastFseq := none }
  match x.part with
  | some b => if b.need.isSome && b.refused = 0 then s.inflowDrop p 2 else s
  | none => s

/-- INFLOW_FLIT: a flit arrives. After a lost flit the next one that decodes begins a new sequence, and a reserved FIRST names
no header (assumption 43). -/
def execInflowFlit (p : Bool) (f : RxFlit) (s : State) : Host.Outcome State Fault Refusal :=
  .next <|
    let x := s.inflow p
    if !s.inflowLive p || !s.live then s
    else
      let s := s.fecCount (inflowPort p) f
      let next := match x.lastFseq with
        | some k => f.fseq == k + 1
        | none => true
      if !f.decodes || !f.crcOk || !next then s.inflowLost p
      else
        let s := s.updInflow p fun x => { x with lastFseq := some f.fseq }
        if f.idle then s
        else if x.synced then State.feedGo p 18 f.stream s
        else if f.first < 250 then State.feedGo p 18 (f.stream.drop f.first) (s.updInflow p fun x => { x with synced := true })
        else s

/-! ## The writer (R381, R383) -/

def dropCounts (m : Map W32) : List Nat := (List.range 6).map fun r => (mapGet 0 m (r + 1)).toNat

/-- A GAP entry: expected RSEQ, MISSING, drops. -/
def gapEntry (restart final : Bool) (rseq : W32) (missing : Nat) (drops : List Nat) : List Byte :=
  layout 64 ([(0, 1, 2), (1, 1, 2 * boolNat restart + 4 * boolNat final), (8, 4, rseq.toNat), (32, 4, missing)] ++
    drops.zipIdx.map (fun e => (36 + 4 * e.2, 4, e.1)) ++ [(60, 4, missing - drops.sum)])

def padEntry (units : Nat) : List Byte := layout 64 [(0, 1, 3), (4, 4, units)]

def dataEntry (first : Bool) (r : InRec) : List Byte :=
  layout 64 [(0, 1, 1), (1, 1, boolNat first), (4, 4, r.len), (8, 4, r.rseq.toNat), (12, 4, r.chan.toNat), (16, 8, r.stamp.toNat),
    (24, 8, r.arrival.toNat)] ++ r.payload ++ List.replicate ((r.len + 63) / 64 * 64 - r.len) 0

/-- Write bytes from a unit; false if a frame is not in service. -/
def State.putUnits (s : State) (x : Inflow) (d : BitVec 512) : Nat → Nat → List Byte → State × Bool
  | _, 0, _ => (s, true)
  | u, k + 1, bs =>
    match s.unitKey x d u with
    | some key => State.putUnits (s.write key (bs.take 64)) x d (u + 1) k (bs.drop 64)
    | none => (s, false)

/-- The ring has room for `n` units; PROD − CONS above N counts as full (R383). -/
def roomFor (x : Inflow) (d : BitVec 512) (n : Nat) : Bool := decide ((x.prod - x.cons).toNat + n ≤ adUnits d)

/-- The first CONS that breaks the ring since attach writes a record. -/
def State.checkCons (s : State) (p : Bool) (d : BitVec 512) : State :=
  let x := s.inflow p
  if decide (adUnits d < (x.prod - x.cons).toNat) && !x.ringBad then
    (s.raise { cls := 0x34, src := 13, unit := boolNat p }).updInflow p fun x => { x with ringBad := true }
  else s

/-- The ADD to BOLT and the ring's vectors, at most once in 2,400 hc (R383 step 4, R368). -/
def State.inflowTell (s : State) (p : Bool) (d : BitVec 512) : State :=
  let c := adCtx d
  let s := if adBoltEn d then
      s.boltAsk { who := .study, ctx := c, bolt := (s.ctx c).boltBase + BitVec.ofNat 15 (adBolt d), op := 3, cond := 0, operand := 1 }
    else s
  let due := match (s.inflow p).irqAt with
    | some t => decide (2400 ≤ (s.hc - t).toNat)
    | none => true
  if due then
    ((s.raiseVec 0 (if p then 5 else 4)).raiseVec (c.toNat + 1) 2).updInflow p fun x => { x with irqAt := some s.hc }
  else s

/-- INFLOW_RECORD_WRITE: the record at the head of staging goes to the ring, or is dropped. -/
def execInflowRecordWrite (p : Bool) (s : State) : Host.Outcome State Fault Refusal :=
  .next <|
    let x := s.inflow p
    match x.staged, x.desc with
    | r :: rest, some d =>
      if !s.live || s.inflowHeld p then s
      else
        let s := s.updInflow p fun x => { x with staged := rest }
        let g := !x.gap.isEmpty || match x.expect with
          | some e => e != r.rseq
          | none => false
        let units := 1 + (r.len + 63) / 64
        let start := (x.prod.toNat + boolNat g) % adUnits d
        let pad := if adUnits d < start + units then adUnits d - start else 0
        let n := boolNat g + pad + units
        let s := if roomFor x d n then s else (s.readCons p).checkCons p d
        let x := s.inflow p
        if !roomFor x d n then s.inflowDrop p 1
        else
          let miss := match x.expect with
            | some e => (r.rseq - e).toNat
            | none => 0
          let restart := decide (2 ^ 31 ≤ miss)
          let miss := if restart then 0 else miss
          let drops := dropCounts x.gap
          let bytes := (if g then gapEntry restart false (x.expect.getD r.rseq) miss drops else []) ++
            (if pad = 0 then [] else padEntry pad ++ List.replicate (64 * (pad - 1)) 0)
          let (t, ok1) := s.putUnits x d x.prod.toNat (boolNat g + if pad = 0 then 0 else 1) bytes
          let (t, ok2) := t.putUnits x d (x.prod.toNat + boolNat g + pad) units (dataEntry (x.firstNext || restart) r)
          if ok1 && ok2 then
            ((t.updInflow p fun x =>
              { x with prod := x.prod + BitVec.ofNat 32 n, entries := x.entries + 1, gap := if g then [] else x.gap
                       unseen := x.unseen + if g then BitVec.ofNat 32 (miss - drops.sum) else 0
                       expect := some (r.rseq + 1), firstNext := false }).putHeader p).inflowTell p d
          else t.inflowDrop p 6
    | _, _ => s

/-- INFLOW_CONS_READ: while drops are pending the writer reads CONS (R383). -/
def execInflowConsRead (p : Bool) (s : State) : Host.Outcome State Fault Refusal :=
  .next <|
    let x := s.inflow p
    match x.desc with
    | some d => if s.live && !x.gap.isEmpty && !s.inflowHeld p then (s.readCons p).checkCons p d else s
    | none => s

/-! ## Attach and detach (R379, R385) -/

/-- Tag of the frame behind a page of a ring, or the code that refuses it. -/
def State.ringPage (s : State) (c : CtxId) (d : Dva) : Nat ⊕ Nat :=
  match s.walkNow c 1 (dvaOff d) with
  | .ok e sub =>
    if sub || ePtier e ≠ 1 then .inr 0x03
    else if !eWrite e then .inr 0x02
    else .inl (ringTag e)
  | .mig | .wait => .inr 0x05
  | .bad n => .inr n

/-- The page list, header page first. -/
def State.ringPages (s : State) (c : CtxId) (d : BitVec 512) : List Nat ⊕ Nat :=
  (adHdr d :: (List.range (2 ^ (adLog d - 21))).map fun i => adData d + BitVec.ofNat 64 (i * 2 ^ 21)).foldl (fun r a =>
    match r, s.ringPage c a with
    | .inl l, .inl t => .inl (l ++ [t])
    | .inl _, .inr n => .inr n
    | .inr n, _ => .inr n) (.inl [])

/-- First bad field of an attach descriptor, as a byte of the entry. -/
def State.attachBad (s : State) (d : BitVec 512) : List (Nat × Bool) :=
  let va (a : Dva) (al : Nat) : Bool := dvaNode a != 0xFFFF || dvaTier a != 1 || a.toNat % al != 0
  let b := s.bolt ((s.ctx (adCtx d)).boltBase + BitVec.ofNat 15 (adBolt d))
  [(18, adBoltEn d && (decide ((s.ctx (adCtx d)).bolts ≤ adBolt d) || b.barrier)),
   (20, decide (1048512 < adMax d) || decide (2 ^ adLog d < 4 * adMax d)), (24, va (adHdr d) 128), (32, va (adData d) (2 ^ 21)),
   (40, decide (adLog d < 21) || decide (36 < adLog d))]

/-- INFLOW_ATTACH. -/
def execInflowAttach (q : Req) (s : State) : Host.Outcome State Fault Refusal :=
  .next <|
    let d : BitVec 512 := BitVec.ofNat 512 (reqNat q 16 64)
    let p := bitOf d.toNat 0
    s.commandWith q 0x0611 [(16, 0, 1), (17, 0, 7), (18, 0, 15), (20, 0, 32), (24, 0, 64), (32, 0, 64), (40, 0, 6)] (s.attachBad d) fun s =>
      if (s.port (inflowPort p)).resRole ≠ 2 || (s.inflow p).desc.isSome || (s.ctx (adCtx d)).st == .free then s.reply q 0x14
      else match s.ringPages (adCtx d) d with
        | .inr n => s.reply q 0x28 n
        | .inl pages =>
          let x : Inflow := { s.inflow p with
                              desc := some d, pages, prod := 0, cons := 0, entries := 0, drops := [], gap := [], unseen := 0
                              expect := none, firstNext := true, ringBad := false, staged := [], detaching := none }
          let t := (s.updInflow p fun _ => x).putHeader p
          let t := match t.hdrKey x d 64 with
            | some k => t.write k (List.replicate 64 0)
            | none => t
          t.reply q 0

/-- INFLOW_DETACH: ACCEPTED; it takes effect at the next record boundary. -/
def execInflowDetach (q : Req) (s : State) : Host.Outcome State Fault Refusal :=
  .next <|
    s.commandWith q 0x0612 [(16, 0, 1)] [] fun s =>
      let p := reqBit q 16 0
      if (s.inflow p).desc.isNone || (s.inflow p).detaching.isSome then s.reply q 0x14
      else (s.accept q).updInflow p fun x => { x with detaching := some (some q) }

/-- The detach takes effect: the pending gap is written if a unit is free, then the header; the page list goes. -/
def State.detachNow (s : State) (p : Bool) : State :=
  let x := s.inflow p
  match x.desc, x.detaching with
  | some d, some req =>
    let s := if x.gap.isEmpty then s
      else
        let s := if roomFor x d 1 then s else (s.readCons p).checkCons p d
        let x := s.inflow p
        if roomFor x d 1 then
          let (t, ok) := s.putUnits x d x.prod.toNat 1 (gapEntry false true (x.expect.getD 0) 0 (dropCounts x.gap))
          if ok then t.updInflow p fun x => { x with prod := x.prod + 1, gap := [] } else t
        else s
    let s := (s.putHeader p).updInflow p fun x => { x with desc := none, pages := [], detaching := none, staged := [], gap := [] }
    match req with
    | some q => s.reply q 0
    | none => s
  | _, _ => s

/-- A record boundary: nothing staged, and no record of the attachment is being received. -/
def atBoundary (x : Inflow) : Bool :=
  x.staged.isEmpty && match x.part with
    | some b => b.refused != 0
    | none => true

end Sys2Proof.Machine
end

