-- ==== Sys2Proof/Machine/Dumbwaiter.lean ====
section
/-! DEFINITION. The Dumbwaiters below their commands (06 R192 to R212): the status record and the end of a stream, the
fields of a block-list entry, advancing, accesses, eligibility, deadlines and grants. -/

namespace Sys2Proof.Machine

/-! ## Descriptor and status (R196, R204, R205) -/

def streamStNum : StreamSt → Nat
  | .created => 0
  | .run => 1
  | .wait => 2
  | .done => 3
  | .fault => 4
  | .cancelled => 5

/-- The status record of R205. -/
def statusFields (t : Stream) : List (Nat × Nat × Nat) :=
  [(0, 1, streamStNum t.st), (1, 1, t.fault.toNat), (4, 4, t.entry.toNat), (8, 8, t.bytes.toNat), (16, 4, t.step.toNat),
    (20, 4, t.poisonCnt.toNat), (24, 4, t.underrun.toNat), (28, 4, t.skipped.toNat), (32, 8, t.faultDva.toNat),
    (40, 4, t.late.toNat), (44, 4, t.layer.toNat), (48, 4, t.blocked.toNat)]
def statusRecord (t : Stream) : List Byte := layout 64 (statusFields t)

/-- The descriptor of R196, with ENTRY in bytes 20 to 23 and LAYER in bytes 57 to 60 when `saved` (09 R318). -/
def descriptor (sid : StreamId) (t : Stream) (saved : Bool) : List Byte :=
  let flag (b : Bool) (i : Nat) := boolNat b * 2 ^ i
  layout 64
    [(0, 1, flag t.chainKind 0 + flag t.tclass 1 + flag t.gateArm 2 + flag t.gateGo 3 + flag t.gateAbort 4 +
        flag t.pendValid 5 + flag t.holdEn 6),
      (1, 1, sid / 64), (2, 2, t.wing.toNat), (4, 2, t.rate.toNat), (6, 2, t.bulkSlack.toNat), (8, 8, t.listBase.toNat),
      (16, 4, t.listLen.toNat), (20, 4, if saved then t.entry.toNat else t.start.toNat), (24, 8, t.pendBase.toNat),
      (32, 4, t.pendLen.toNat), (36, 4, t.gateStep.toNat), (40, 2, t.layerBolt.toNat), (42, 2, t.holdBolt.toNat),
      (44, 4, t.step.toNat), (48, 8, t.statusAddr.toNat), (56, 1, t.ctx.toNat), (57, 4, if saved then t.layer.toNat else 0)]

/-- The stream writes its status record to STATUS_ADDR, where a Dumbwaiter may store for its context (05 R158). -/
def State.writeStatus (s : State) (sid : StreamId) : State :=
  match s.stream sid with
  | some t =>
    match s.place t.ctx true t.statusAddr with
    | .here _ => (s.dvaWrite t.ctx t.statusAddr (statusRecord t)).1
    | _ => s
  | none => s

/-- Remove a requester's registered waits and waiting Bolt operations (assumption 23). -/
def State.dropWaits (s : State) (who : Waiter) : State :=
  { s with bolts := s.bolts.map fun e => (e.1, { e.2 with waiters := e.2.waiters.filter fun w : Wait => w.who != who })
           boltQ := s.boltQ.map fun e => (e.1, e.2.filterMap fun q : BoltReq =>
             if q.who != who then some q
             else if q.op == 0 || q.op == 4 then none
             else if q.op == 2 then some { q with op := 1 } else some q)
           boltRsp := s.boltRsp.filter fun q : BoltRsp => q.who != who }

/-- A fetch in flight is given up. -/
def State.dropFetch (s : State) (sid : StreamId) : State :=
  match (s.stream sid).bind fun t => t.fetching with
  | some id => ({ s with accesses := s.accesses.filter fun a => a.id != id }).updStream sid fun t => { t with fetching := none }
  | none => s

/-- Enter DONE, FAULT or CANCELLED: the status record is written, and STREAM raised for one made by STREAM_CREATE. A stream of
the Study ends the move of its page. -/
def State.endStream (s : State) (sid : StreamId) (st : StreamSt) : State :=
  let s := ((s.updStream sid fun t => { t with st, waiting := .none, begun := false }).dropWaits (.stream sid)).dropFetch sid
  match s.stream sid with
  | some t =>
    if t.study then s.moveEnded sid st t.fault.toNat
    else
    let s := s.writeStatus sid
    if t.hostMade then s.ctxEvent t.ctx 0x8006 [(20, 2, sid), (22, 1, streamStNum st), (23, 1, t.fault.toNat)] else s
  | none => s

/-- A stream faults with a code: it issues nothing further, and enters FAULT when its reads in flight are complete. -/
def State.stopStream (s : State) (sid : StreamId) (code : Nat) (dva : Dva := 0) : State :=
  s.updStream sid fun t => if t.pendFault = 0 then { t with pendFault := BitVec.ofNat 8 code, faultDva := dva } else t

/-! ## Block-list entries (R198, R199) -/

def eOp (w : Nat) : Nat := bitsOf w 0 4
def eSkip (w : Nat) : Bool := bitOf w 4
def ePoisonStop (w : Nat) : Bool := bitOf w 5
def eGidx (w : Nat) : Nat := bitsOf w 8 6
def eMaskAlt (w : Nat) : Bool := bitOf w 14
def eMask (w : Nat) : Nat := bitsOf w 16 16
def eBolt (w : Nat) : Nat := bitsOf w 16 15
def eLen (w : Nat) : Nat := bitsOf w 32 25
def eSrc (w : Nat) : Dva := BitVec.ofNat 64 (bitsOf w 64 64)
def eDst (w : Nat) : Dva := BitVec.ofNat 64 (bitsOf w 128 64)
def eImm2 (w : Nat) : Nat := bitsOf w 128 32
def eWaitArg (w : Nat) : Nat := bitsOf w 160 32
def eArg (w : Nat) : Nat := bitsOf w 192 32

/-- OP codes of R199. -/
def opDefined (op : Nat) : Bool := decide (op ≤ 8) || op == 0xF

/-- Bits reserved in every entry: [7:6], [15], LEN [31:25], bytes 28 to 31. -/
def eReserved (w : Nat) : Bool := bitsOf w 6 2 != 0 || bitOf w 15 || bitsOf w 57 7 != 0 || bitsOf w 224 32 != 0

/-- The IMM2 word of a block-list entry: OP, COND, STEPREL; INDEX, REMOTE, RET and reserved bits zero (09 R304). -/
def imm2Op (i : Nat) : Nat := bitsOf i 16 4
def imm2Cond (i : Nat) : Nat := bitsOf i 20 3
def imm2Bad (i : Nat) : Bool :=
  bitsOf i 0 16 != 0 || bitsOf i 24 8 != 0 || decide (8 < imm2Op i) || decide (5 < imm2Cond i) ||
    (imm2Op i == 0 && imm2Cond i == 0) || ((imm2Op i == 2 || imm2Op i == 4) && imm2Cond i != 0)

/-- Operand of a Bolt operation of a block list: IMM32, plus STEP with STEPREL. -/
def listOperand (t : Stream) (imm2 imm : Nat) : W32 :=
  BitVec.ofNat 32 (imm + if bitOf imm2 23 then t.step.toNat else 0)

/-- Fields of an entry an OP does not use are zero. -/
def unusedZero (w : Nat) (mask len src dst arg poison alt : Bool) : Bool :=
  (mask || eMask w == 0) && (len || eLen w == 0) && (src || eSrc w == 0) && (dst || eDst w == 0) && (arg || eArg w == 0) &&
    (poison || !ePoisonStop w) && (alt || !eMaskAlt w)

/-- The entry is LIST_BAD for a stream (R201 to R203, R206; 09 R304). -/
def State.entryListBad (s : State) (t : Stream) (w : Nat) : Bool :=
  let bolts := (s.ctx t.ctx).bolts
  let tier := dvaTier (eSrc w)
  eReserved w ||
    (match eOp w with
     | 1 => t.chainKind || !unusedZero w false true true true false true false || (eSrc w).toNat % 64 != 0 ||
         (eDst w).toNat % 64 != 0 || eLen w < 64 || 2 ^ 24 < eLen w || eLen w % 64 != 0 || dvaTier (eDst w) == 4 ||
         dvaTier (eDst w) == 5
     | 2 => !t.chainKind || !unusedZero w true true true false false false false || (eSrc w).toNat % 64 != 0 ||
         eLen w < 64 || 8192 < eLen w || eLen w % 64 != 0 || eMask w == 0 ||
         !(decide (1 ≤ tier) && decide (tier ≤ 3) || (tier == 0 && !bitOf (dvaOff (eSrc w)) 30))
     | 3 => !t.chainKind || !unusedZero w false false false false false false false ||
         (!t.tclass && decide (bolts ≤ t.layerBolt.toNat))
     | 5 => !unusedZero w false false false false true false false || decide (t.listLen.toNat ≤ eArg w)
     | 6 => !unusedZero w true false true true true false true || bitOf w 31 || (eSrc w).toNat % 8 != 0 || eArg w == 0 ||
         64 < eArg w || imm2Bad (eImm2 w) || imm2Op (eImm2 w) != 0 || decide (bolts ≤ eBolt w)
     | 7 => !unusedZero w true false false true true false false || bitOf w 31 || eWaitArg w != 0 || imm2Bad (eImm2 w) ||
         !([1, 3, 5].contains (imm2Op (eImm2 w))) || decide (bolts ≤ eBolt w) ||
         (s.bolt ((s.ctx t.ctx).boltBase + BitVec.ofNat 15 (eBolt w))).barrier != (imm2Op (eImm2 w) == 1) ||
         (imm2Op (eImm2 w) == 1 &&
           ((listOperand t (eImm2 w) (eArg w)).toNat == 0 || 65535 < (listOperand t (eImm2 w) (eArg w)).toNat))
     | 8 => !unusedZero w true false false true true false false || bitOf w 31 || eWaitArg w != 0 || imm2Bad (eImm2 w) ||
         !([0, 4].contains (imm2Op (eImm2 w))) || decide (bolts ≤ eBolt w) ||
         (imm2Op (eImm2 w) == 4 && (s.bolt ((s.ctx t.ctx).boltBase + BitVec.ofNat 15 (eBolt w))).barrier)
     | op => !opDefined op || !unusedZero w false false false false false false false)

/-! ## Advancing (R199, R200, R203) -/

/-- The entry that follows an entry at an index. -/
def afterEntry (i w : Nat) : Nat := if eOp w = 5 then eArg w else i + 1

/-- Index of the next entry to fetch: behind the last one fetched, none behind a STOP. -/
def nextFetch (t : Stream) : Option Nat :=
  match t.fetched.getLast? with
  | some (i, w) => if eOp w.toNat = 0xF then none else some (afterEntry i w.toNat)
  | none => some t.entry.toNat

/-- Continue at the entry behind the current one; a restored stream that waited at a LAYER_END or STEP_END may not have fetched it
again. -/
def advance (t : Stream) : Stream :=
  match t.fetched with
  | (i, w) :: rest =>
    { t with entry := BitVec.ofNat 24 (afterEntry i w.toNat), fetched := rest, begun := false, pos := 0
             waiting := .none, guardLeft := t.guardLeft - 1 }
  | [] => { t with entry := t.entry + 1, begun := false, pos := 0, waiting := .none, guardLeft := t.guardLeft - 1 }

/-- The entry at the head is covered by the last GUARD and its mask bit is 0. -/
def skipped? (t : Stream) (w : Nat) : Bool := decide (0 < t.guardLeft) && eSkip w && !bitOf t.guardMask.toNat (eGidx w)

/-- Every earlier entry of a stream is complete: no grant is open and every block lies in every Room of its mask. -/
def State.listDrained (s : State) (sid : StreamId) (t : Stream) : Bool :=
  t.grants.isEmpty &&
    (!t.chainKind || ((s.wing t.wing).ingress.all (fun i => i.block.stream != sid) &&
      (s.wing t.wing).sent.all fun b => b.stream != sid || b.arrived == b.mask))

/-- What follows from a stream's state by itself: the fault or cancellation that was waiting for reads in flight, the
POISON of R207, and LIST_BAD at a reserved OP or past the end of the list (assumption 24). -/
def State.settleStreamGo : Nat → StreamId → State → State
  | 0, _, s => s
  | k + 1, sid, s =>
    match s.stream sid with
    | none => s
    | some t =>
      if t.st ≠ .run && t.st ≠ .wait then s
      else if t.pendFault ≠ 0 then
        if t.grants.isEmpty then
          let s := (s.updStream sid fun t => { t with fault := t.pendFault }).endStream sid .fault
          s.raise { cls := if t.chainKind then 0x0E else 0x0F, code := t.pendFault, src := 2, unit := sid
                    ctx := some t.ctx, addr := t.faultDva }
        else s
      else if t.cancelReq then (if t.grants.isEmpty then s.endStream sid .cancelled else s)
      else match t.poisonAt with
        | some e =>
          if t.grants.any (fun g => g.exec == e) || (t.begun && t.exec == e) then s
          else State.settleStreamGo k sid (s.stopStream sid 0x08 t.faultDva)
        | none =>
          match t.fetched with
          | (_, w) :: _ =>
            if t.st == .run && !opDefined (eOp w.toNat) then State.settleStreamGo k sid (s.stopStream sid 0x20) else s
          | [] => if decide (t.listLen ≤ t.entry) then State.settleStreamGo k sid (s.stopStream sid 0x20) else s

def State.settleStream (s : State) (sid : StreamId) : State := State.settleStreamGo 3 sid s

/-! ## Accesses of a stream (R193, R201) -/

/-- Send an access of a stream: its number, and the state with it in flight or already refused at its source. A stream that
moves a page reads the old frame and writes the new one (05 R187). -/
def State.dwAccess (s : State) (sid : StreamId) (t : Stream) (write : Bool) (d : Dva) (n : Nat) (data : List Byte)
    (bad : List Nat) : Nat × State :=
  let id := s.nextAcc
  let a : Access := { id := 0, who := .dw sid, ctx := t.ctx, job := (s.ctx t.ctx).job, write, dva := d, len := n, data, bad }
  match s.moveEntry sid write d, s.place t.ctx write d with
  | some (e, sub), _ => (id, ((s.addAccess a).1).translated id e sub)
  | none, .bad code => (id, ((s.addAccess a).1).setDone id code [] [])
  | none, .config => (id, ((s.addAccess a).1).setDone id 0x07 [] [])
  | none, .register =>
    (id, (((s.violation .other (bitsOf (dvaOff d) 0 24) write 0x07).addAccess a).1).setDone id 0 (List.replicate n 0) [])
  | none, pl => (id, s.issue a pl)

/-- Pieces of a range that do not cross a 512-byte boundary, as (offset, length). -/
def pieces512 (d : Nat) : Nat → Nat → Nat → List (Nat × Nat)
  | 0, _, _ => []
  | f + 1, off, n =>
    if n = 0 then []
    else
      let k := min n (512 - (d + off) % 512)
      (off, k) :: pieces512 d f (off + k) (n - k)

/-! ## Eligibility, deadlines and grants (R209 to R211) -/

/-- Streams of a Dumbwaiter, by rising context number. -/
def State.dwStreams (s : State) (dw : Nat) : List (StreamId × Stream) := s.streams.filter fun e => e.1 / 64 == dw

/-- Reads in flight of a stream, and of its Dumbwaiter. -/
def readsOf (t : Stream) : Nat := (t.grants.filter fun g => !g.sent).length
def State.dwReads (s : State) (dw : Nat) : Nat := ((s.dwStreams dw).map fun e => readsOf e.2).sum

/-- The next read request of a stream's current entry: offset and length (R201). -/
def nextRequest (t : Stream) : Option (Nat × Nat × Nat) :=
  match t.fetched with
  | (_, w) :: _ =>
    let w := w.toNat
    if t.begun && decide (t.pos < eLen w) then
      some (w, t.pos, min (eLen w - t.pos) (512 - ((eSrc w).toNat + t.pos) % 512))
    else none
  | [] => none

/-- A stream has not been stopped: it may begin an entry, or go on with the one it has begun. -/
def streamFree (t : Stream) : Bool := t.pendFault == 0 && !t.cancelReq

def State.eligible (s : State) (sid : StreamId) (t : Stream) : Bool :=
  match nextRequest t with
  | none => false
  | some (_, _, n) =>
    t.st == .run && streamFree t && (t.poisonAt == none || t.poisonAt == some t.exec) && decide (readsOf t < 64) &&
      decide (s.dwReads (sid / 64) < 512) && (t.study || (s.ctx t.ctx).st != .failed) &&
      (!t.chainKind || decide (((s.wing t.wing).ingress.map (·.asked)).sum + n ≤ 16384))

/-- Deadline of R210 at time T. -/
def deadline (tm : W32) (t : Stream) : W32 :=
  if t.chainKind then tm + BitVec.ofNat 32 (min (t.occ * 256 / t.rate.toNat) (2 ^ 24 - 1))
  else t.te + BitVec.ofNat 32 (256 * t.bulkSlack.toNat)

def earlier (a b : W32) : Bool := decide (2 ^ 31 ≤ (a - b).toNat)

/-- The eligible stream with the earliest deadline; equal ones go to the lower number. -/
def State.winner (s : State) (dw : Nat) (tm : W32) : Option (StreamId × Stream) :=
  ((s.dwStreams dw).filter fun e => s.eligible e.1 e.2).foldl (fun best e =>
    match best with
    | none => some e
    | some b => if earlier (deadline tm e.2) (deadline tm b.2) then some e else best) none

/-- Bytes asked for of a block in a chain head's ingress; a first request makes its entry. -/
def askIngress (sid : StreamId) (t : Stream) (w n : Nat) (l : List Ingress) : List Ingress :=
  if l.any fun i => i.block.stream == sid && i.exec == t.exec then
    l.map fun i => if i.block.stream = sid && i.exec == t.exec then { i with asked := i.asked + n } else i
  else
    l ++ [{ block := { stream := sid, mask := BitVec.ofNat 16 (eMask w), len := eLen w, data := [] }
            exec := t.exec, asked := n, missing := eLen w }]

/-- Grant the next read request of a stream. -/
def State.grant (s : State) (sid : StreamId) (t : Stream) (tm : W32) : State :=
  match nextRequest t with
  | none => s
  | some (w, off, n) =>
    let (id, s) := s.dwAccess sid t false (eSrc w + BitVec.ofNat 64 off) n [] []
    let s := if t.chainKind then s.updWing t.wing fun x => { x with ingress := askIngress sid t w n x.ingress } else s
    s.updStream sid fun t =>
      let t := { t with pos := off + n, occ := if t.chainKind then t.occ + n else t.occ, te := if t.chainKind then t.te else tm
                        grants := t.grants ++ [{ exec := t.exec, word := BitVec.ofNat 256 w, off, len := n, read := id }] }
      if off + n = eLen w then advance t else t

end Sys2Proof.Machine
end

