-- ==== Sys2Proof/Machine/PorchBase.lean ====
section
/-! DEFINITION. The Porch below its builds (08): its accesses, the rings of R264, output records, the Sequence Table, KV
chunks and the prefix index. -/

namespace Sys2Proof.Machine

/-- Work of the Porch for one service: it stops at the first access that fails or ring that breaks R264, with the code. -/
abbrev Pm (α : Type) := EStateM Nat State α

/-! ## Descriptor fields (R262, R266) -/

/-- Field of a descriptor held as a number: bits [lo + w − 1 : lo] from a byte. -/
def fieldAt (v byte lo w : Nat) : Nat := bitsOf v (8 * byte + lo) w

def svPool (v : Service) : Nat := fieldAt v.desc.toNat 0 0 2
def svPrefix (v : Service) : Bool := bitOf v.desc.toNat 2
def svNotify (v : Service) : Bool := bitOf v.desc.toNat 3
def svBuckets (v : Service) : Nat := 2 ^ fieldAt v.desc.toNat 1 0 5
def svMaxSeq (v : Service) : Nat := fieldAt v.desc.toNat 2 0 15
def svStepTokens (v : Service) : Nat := fieldAt v.desc.toNat 4 0 16
def svChunkTokens (v : Service) : Nat := fieldAt v.desc.toNat 6 0 16
def svPrefillMin (v : Service) : Nat := fieldAt v.desc.toNat 8 0 16
def svMaxCtx (v : Service) : Nat := fieldAt v.desc.toNat 12 0 21
def svVocab (v : Service) : Nat := fieldAt v.desc.toNat 16 0 21
def svKvChunks (v : Service) : Nat := fieldAt v.desc.toNat 20 0 24
def svNodes (v : Service) : Nat := fieldAt v.desc.toNat 24 0 24
def svReqLen (v : Service) : Nat := 2 ^ fieldAt v.desc.toNat 28 0 5
def svCtlLen (v : Service) : Nat := 2 ^ fieldAt v.desc.toNat 29 0 5
def svOutLen (v : Service) : Nat := 2 ^ fieldAt v.desc.toNat 30 0 5
def svWaitLen (v : Service) : Nat := 2 ^ fieldAt v.desc.toNat 31 0 5
/-- DVA number i of bytes 32 to 127: 0 REQ, 1 CTL, 2 OUT, 3 WAIT, 4 STEP, 5 KV, 6 CHL, 7 TOKB, 8 PREFIX, 9 HAND, 10 INBOX,
11 PEERS. -/
def svVa (v : Service) (i : Nat) : Dva := BitVec.ofNat 64 (fieldAt v.desc.toNat (32 + 8 * i) 0 64)
def svStepBolt (v : Service) : Nat := fieldAt v.desc.toNat 128 0 15
def svDoneBolt (v : Service) : Nat := fieldAt v.desc.toNat 130 0 15
def svPeers (v : Service) : Nat := fieldAt v.desc.toNat 132 0 5
def svStops (v : Service) : List Nat :=
  ((List.range 16).map fun i => fieldAt v.desc.toNat (136 + 4 * i) 0 32).filter fun t => t != 0xFFFFFFFF

def rqTag (d : Nat) : Nat := fieldAt d 0 0 64
def rqHostStop (d : Nat) : Bool := bitOf d 64
def rqNoPrefix (d : Nat) : Bool := bitOf d 65
def rqStrings (d : Nat) : Nat := fieldAt d 9 0 4
def rqTokens (d : Nat) : Nat := fieldAt d 10 0 2
def rqRingLog (d : Nat) : Nat := fieldAt d 11 0 5
def rqLen (d : Nat) : Nat := fieldAt d 12 0 21
def rqPrompt (d : Nat) : Nat := fieldAt d 16 0 64
def rqMaxNew (d : Nat) : Nat := fieldAt d 24 0 21
def rqStrVa (d : Nat) : Nat := fieldAt d 32 0 64
def rqRingVa (d : Nat) : Nat := fieldAt d 40 0 64
def rqStops (d : Nat) : List Nat := (List.range (rqTokens d)).map fun i => fieldAt d (48 + 4 * i) 0 32

/-- Chunks of a sequence (R283). -/
def rqChunks (v : Service) (d : Nat) : Nat := (min (rqLen d + rqMaxNew d) (svMaxCtx v) + 31) / 32

/-! ## Accesses and services -/

/-- A DVA in register space: an access of the Porch there is silent, reads zeros, and each unit of it is a violation (00 R16,
12 R386). -/
def State.inRegisters (s : State) (d : Dva) : Bool := s.isLocal d && dvaTier d == 5 && bitsOf (dvaOff d) 24 21 == 0
def State.porchViolation (s : State) (d : Dva) (n : Nat) (write : Bool) : State :=
  (chunks64 d.toNat (n / 64 + 2) (List.replicate n 0)).foldl (fun s e =>
    s.violation .other (e.1 % 2 ^ 24) write 0x07) s

def pRead (c : CtxId) (d : Dva) (n : Nat) : Pm (List Byte) := fun s =>
  if s.inRegisters d then .ok (List.replicate n 0) (s.porchViolation d n false)
  else match s.dvaRead c d n with
  | .inl bs => .ok bs s
  | .inr e => .error e s
/-- An access whose failure its caller handles. -/
def pTry {α : Type} (m : Pm α) : Pm (α ⊕ Nat) := fun s =>
  match m s with
  | .ok a t => .ok (.inl a) t
  | .error e t => .ok (.inr e) t
def pNat (c : CtxId) (d : Dva) (n : Nat) : Pm Nat := leNat <$> pRead c d n
def pWrite (c : CtxId) (d : Dva) (bs : List Byte) : Pm Unit := fun s =>
  if s.inRegisters d then .ok () (s.porchViolation d bs.length true)
  else match s.dvaWrite c d bs with
  | (t, 0) => .ok () t
  | (t, e + 1) => .error (e + 1) t
def dvaAdd (d : Dva) (n : Nat) : Dva := d + BitVec.ofNat 64 n

def svc (i : Nat) : Pm Service := fun s =>
  match s.service i with
  | some v => .ok v s
  | none => .error 0 s
def updSvc (i : Nat) (f : Service → Service) : Pm Unit := modify fun s => s.updService i f
def updEnt (e : Nat) (f : Seq → Seq) : Pm Unit := modify fun s => s.updSeq e f

/-- Entries of a service, by ascending index. -/
def State.svSeqs (s : State) (i : Nat) : List (Nat × Seq) := s.seqs.filter fun e => e.2.service == i

/-! ## Rings (R264) -/

/-- PROD and CONS of a ring, checked. -/
def ringCounts (c : CtxId) (d : Dva) (len : Nat) : Pm (Nat × Nat) := do
  let h ← pNat c d 8
  let p := bitsOf h 0 32
  let k := bitsOf h 32 32
  if len < (p + 2 ^ 32 - k) % 2 ^ 32 then throw 0x20 else pure (p, k)

def ringUsed (r : Nat × Nat) : Nat := (r.1 + 2 ^ 32 - r.2) % 2 ^ 32
def ringEntry (d : Dva) (len size i : Nat) : Dva := dvaAdd d (64 + i % len * size)

/-- Write an entry, then PROD. -/
def ringPut (c : CtxId) (d : Dva) (len prod : Nat) (bs : List Byte) : Pm Unit := do
  pWrite c (ringEntry d len bs.length prod) bs
  pWrite c d (natLe 4 (prod + 1))

def setCons (c : CtxId) (d : Dva) (cons : Nat) : Pm Unit := pWrite c (dvaAdd d 4) (natLe 4 cons)

/-! ## Output records (R267, R282) -/

def outRec (tag value kind code : Nat) (str : Nat := 0) (tail : Nat := 0) : BitVec 128 :=
  BitVec.ofNat 128 (tag + value * 2 ^ 64 + kind * 2 ^ 96 + code * 2 ^ 104 + str * 2 ^ 112 + tail * 2 ^ 115)

/-- Free places of the output ring. -/
def outFree (i : Nat) : Pm Nat := do
  let v ← svc i
  let r ← ringCounts v.ctx (svVa v 2) (svOutLen v)
  pure (svOutLen v - ringUsed r)

def outPut (i : Nat) (r : BitVec 128) : Pm Unit := do
  let v ← svc i
  let k ← ringCounts v.ctx (svVa v 2) (svOutLen v)
  ringPut v.ctx (svVa v 2) (svOutLen v) k.1 (natLe 16 r.toNat)
  updSvc i fun v => { v with records := v.records + 1 }

/-- Room for a record behind every record that waits. -/
def outRoom (i : Nat) : Pm Bool := do
  let v ← svc i
  if v.pendOut.isEmpty then return decide (0 < (← outFree i)) else return false

/-- Write a record, or keep it until room exists. -/
def emit (i : Nat) (r : BitVec 128) : Pm Unit := do
  if ← outRoom i then outPut i r else updSvc i fun v => { v with pendOut := v.pendOut ++ [r] }

def flushGo (i : Nat) : Nat → Pm Unit
  | 0 => pure ()
  | k + 1 => do
    let v ← svc i
    match v.pendOut with
    | [] => pure ()
    | r :: rest =>
      if 0 < (← outFree i) then do
        outPut i r
        updSvc i fun v => { v with pendOut := rest }
        flushGo i k
      else pure ()

/-- Write the records that wait. -/
def flush (i : Nat) : Pm Unit := do flushGo i (← svc i).pendOut.length

/-! ## The prefix index (R284 to R289) -/

def nodeBase (v : Service) : Dva := dvaAdd (svVa v 8) (64 * svBuckets v)
def nodeVa (v : Service) (n : Nat) : Dva := dvaAdd (nodeBase v) (256 * n)
def node (v : Service) (n : Nat) : Pm Nat := pNat v.ctx (nodeVa v n) 256
def nParent (x : Nat) : Nat := fieldAt x 128 0 24
def nChunk (x : Nat) : Nat := fieldAt x 132 0 24
def nRef (x : Nat) : Nat := fieldAt x 136 0 32
def nChildren (x : Nat) : Nat := fieldAt x 140 0 32
def nLastUse (x : Nat) : Nat := fieldAt x 144 0 32
def nLive (x : Nat) : Bool := bitOf x (8 * 148)
def nDepth (x : Nat) : Nat := fieldAt x 152 0 16
def noNode : Nat := 0xFFFFFF

def setNodeField (v : Service) (n byte width value : Nat) : Pm Unit :=
  pWrite v.ctx (dvaAdd (nodeVa v n) byte) (natLe width value)

/-- REF and CHILDREN of a node change by one; LAST_USE becomes the step. -/
def nodeRef (v : Service) (n : Nat) (up : Bool) : Pm Unit := do
  let x ← node v n
  setNodeField v n 136 4 (if up then nRef x + 1 else nRef x - 1)
def nodeChildren (v : Service) (n : Nat) (up : Bool) : Pm Unit := do
  let x ← node v n
  setNodeField v n 140 4 (if up then nChildren x + 1 else nChildren x - 1)
def nodeUsed (v : Service) (n : Nat) : Pm Unit := setNodeField v n 144 4 v.n.toNat

/-- HASH of a chunk (R285). -/
def chunkHash (parent : Nat) (tokens : List Byte) : Nat := crc32c (natLe 4 parent ++ tokens)
def bucketVa (v : Service) (hash : Nat) : Dva := dvaAdd (svVa v 8) (64 * (hash % svBuckets v))

def entNode (e : Nat) : Nat := bitsOf e 0 24
def entValid (e : Nat) : Bool := bitOf e 24
def entDead (e : Nat) : Bool := bitOf e 25
def entHash (e : Nat) : Nat := bitsOf e 32 32

def bucket (v : Service) (hash : Nat) : Pm (List Nat) := do
  let b ← pNat v.ctx (bucketVa v hash) 64
  pure ((List.range 8).map fun i => bitsOf b (64 * i) 64)

def matchGo (v : Service) (parent tokens : Nat) : List Nat → Pm (Option Nat)
  | [] => pure none
  | e :: es => do
    let x ← node v (entNode e)
    if nLive x && nParent x == parent && bitsOf x 0 1024 == tokens then pure (some (entNode e)) else matchGo v parent tokens es

/-- The first node that matches a chunk under a parent. -/
def findNode (v : Service) (parent : Nat) (tokens : List Byte) : Pm (Option Nat) := do
  let h := chunkHash parent tokens
  let es ← bucket v h
  matchGo v parent (leNat tokens) (es.filter fun e => entValid e && !entDead e && entHash e == h)

/-- Walk the chunks of a prompt: the deepest matched node. -/
def walkGo (v : Service) (prompt : List Byte) : Nat → Nat → Nat → Pm Nat
  | 0, _, parent => pure parent
  | f + 1, k, parent => do
    match ← findNode v parent ((prompt.drop (128 * k)).take 128) with
    | some n => walkGo v prompt f (k + 1) n
    | none => pure parent

/-- A node or its nearest ancestor with LIVE = 1 (R286). -/
def liveGo (v : Service) : Nat → Nat → Pm Nat
  | 0, _ => pure noNode
  | f + 1, n => do
    if n = noNode then pure noNode
    else
      let x ← node v n
      if nLive x then pure n else liveGo v f (nParent x)

/-- A slot is free: not LIVE, and retired in a generation that is over with no walk of it in flight (R289). -/
def slotFree (v : Service) (n : Nat) : Bool :=
  match mapFind v.retired n with
  | none => true
  | some g => decide (g.toNat < v.g.toNat) && (v.reading ++ v.waitq).all fun w => w.taken || w.gone || decide (g.toNat < w.walkGen.toNat)

def freeSlotGo (v : Service) : Nat → Nat → Pm (Option Nat)
  | 0, _ => pure none
  | f + 1, n => do
    let x ← node v n
    if !nLive x && slotFree v n then pure (some n) else freeSlotGo v f (n + 1)

/-- Lowest free node slot. -/
def freeSlot (v : Service) : Pm (Option Nat) := freeSlotGo v (svNodes v) 0

/-- Put an entry into the first bucket place with VALID = 0, or mark the entry of a node DEAD. -/
def setEntry (v : Service) (hash i e : Nat) : Pm Unit := pWrite v.ctx (dvaAdd (bucketVa v hash) (8 * i)) (natLe 8 e)

/-- The evictable node with the least LAST_USE, then the least index; and how many there are. -/
def evictableGo (v : Service) : Nat → Nat → Option (Nat × Nat) → Nat → Pm (Option (Nat × Nat) × Nat)
  | 0, _, best, k => pure (best, k)
  | f + 1, n, best, k => do
    let x ← node v n
    if nLive x && nRef x == 0 && nChildren x == 0 then
      let better := match best with
        | some b => decide (nLastUse x < b.2)
        | none => true
      evictableGo v f (n + 1) (if better then some (n, nLastUse x) else best) (k + 1)
    else evictableGo v f (n + 1) best k

def evictable (v : Service) : Pm (Option (Nat × Nat) × Nat) :=
  if svPrefix v then evictableGo v (svNodes v) 0 none 0 else pure (none, 0)

/-- Evict one node (R289). -/
def evict (i n : Nat) : Pm Unit := do
  let v ← svc i
  let x ← node v n
  setNodeField v n 148 1 0
  let h := chunkHash (nParent x) (natLe 128 (bitsOf x 0 1024))
  let es ← bucket v h
  match (List.range 8).find? fun k => entValid (es.getD k 0) && entNode (es.getD k 0) == n && !entDead (es.getD k 0) with
  | some k => setEntry v h k (es.getD k 0 + 2 ^ 25)
  | none => pure ()
  if nParent x ≠ noNode then nodeChildren v (nParent x) false
  updSvc i fun v =>
    { v with usedChunks := v.usedChunks.erase (nChunk x), retired := mapSet v.retired n v.g, dead := v.dead + 1
             evicted := v.evicted + 1 }

/-! ## KV chunks (R283) -/

/-- Chunk IDs free and not reserved. -/
def State.freeChunks (s : State) (i : Nat) (v : Service) : Nat :=
  svKvChunks v - v.usedChunks.length - ((s.svSeqs i).map fun e => e.2.resv).sum

/-- Evict nodes until `need` IDs are free; false when evictable nodes are too few. -/
def makeRoomGo (i need : Nat) : Nat → Pm Unit
  | 0 => pure ()
  | f + 1 => do
    let v ← svc i
    if need ≤ (← get).freeChunks i v then pure ()
    else match (← evictable v).1 with
      | some b => do
        evict i b.1
        makeRoomGo i need f
      | none => pure ()

def canReserve (i need : Nat) : Pm Bool := do
  let v ← svc i
  let k := (← get).freeChunks i v
  if need ≤ k then pure true else return decide (need ≤ k + (← evictable v).2)

def reserve (i need : Nat) : Pm Unit := makeRoomGo i need need

/-- Lowest free chunk ID. -/
def lowestChunk (used : List Nat) : Nat := ((List.range (used.length + 1)).find? fun c => !used.contains c).getD 0

/-- Where chunk c lies (R283), and place k of the wait queue. -/
def chunkVa (v : Service) (c : Nat) : Dva := dvaAdd (svVa v 5) (c * fieldAt v.desc.toNat 10 0 9 * 65536)
def waitVa (v : Service) (k : Nat) : Dva := dvaAdd (svVa v 3) (128 * (k % svWaitLen v))
def listVa (v : Service) (slot : Nat) : Dva := dvaAdd (svVa v 6) (4 * slot * ((svMaxCtx v + 31) / 32))

/-- Move chunk IDs from RESV to the chunk list until it holds `n`. -/
def growGo (i e n : Nat) : Nat → Pm Unit
  | 0 => pure ()
  | f + 1 => do
    let v ← svc i
    match (← get).seq e with
    | none => pure ()
    | some q =>
      if n ≤ q.chunks.length then pure ()
      else do
        let c := lowestChunk v.usedChunks
        pWrite v.ctx (dvaAdd (listVa v q.slot) (4 * q.chunks.length)) (natLe 4 c)
        updSvc i fun v => { v with usedChunks := unitAdd v.usedChunks c }
        updEnt e fun q => { q with chunks := q.chunks ++ [c], resv := q.resv - 1, held := q.held + 1 }
        growGo i e n f

def grow (i e n : Nat) : Pm Unit := growGo i e n n

/-! ## Entries (R270 to R273) -/

/-- The next service, rotating from the one last assigned, whose head waits with TABLE_FULL. -/
def State.heldFor (s : State) : Option Nat :=
  let ks := s.services.filterMap fun e =>
    match e.2.waitq with
    | w :: _ => if w.full then some e.1 else none
    | [] => none
  match ks.find? fun k => s.heldRot ≤ k with
  | some k => some k
  | none => ks.head?

def clearFull (v : Service) : Service :=
  { v with waitq := match v.waitq with
             | w :: rest => { w with full := false } :: rest
             | [] => [] }

/-- The Study's copy of a handoff is given up. -/
def State.dropHandoff (s : State) (e : Nat) : State :=
  match (s.seq e).bind fun q => q.hoCopy with
  | some sid => (s.dropCopy sid).updSeq e fun q => { q with hoCopy := none }
  | none => s

/-- Free an entry: GEN advances, and a service whose head waits for an entry is assigned it (R273). -/
def State.freeEntry (s : State) (e : Nat) : State :=
  let s := s.dropHandoff e
  let s := { s with seqs := mapDel s.seqs e, seqGen := mapSet s.seqGen e (mapGet 0 s.seqGen e + 1) }
  match s.heldFor with
  | some k =>
    let s := { s with seqs := mapSet s.seqs e { st := 3, service := k, gen := mapGet 0 s.seqGen e }, heldRot := k + 1 }
    s.updService k clearFull
  | none => s

/-- Lowest entry that holds nothing. -/
def State.freeIndex (s : State) : Option Nat :=
  let l := (List.range (min 16384 (s.seqs.length + 1))).find? fun k => (s.seq k).isNone
  l

/-- The entry an admission of service i takes: one held for it, or the lowest free one. -/
def State.entryFor (s : State) (i : Nat) : Option Nat :=
  match (s.svSeqs i).find? fun e => e.2.st == 3 with
  | some e => some e.1
  | none => s.freeIndex

/-- Lowest free service slot. -/
def State.freeServiceSlot (s : State) (i : Nat) : Nat :=
  let used := ((s.svSeqs i).filter fun e => e.2.st != 3).map fun e => e.2.slot
  ((List.range (used.length + 1)).find? fun k => !used.contains k).getD 0

/-- Entries a service holds. -/
def State.heldCount (s : State) (i : Nat) : Nat := ((s.svSeqs i).filter fun e => e.2.st != 3).length

/-- Release what a sequence holds: private chunks, RESV, the reference to DEEP, the entry (R283, R287). -/
def releaseSeq (i e : Nat) : Pm Unit := do
  let v ← svc i
  match (← get).seq e with
  | none => pure ()
  | some q => do
    if q.deep.toNat ≠ noNode then
      nodeRef v q.deep.toNat false
      nodeUsed v q.deep.toNat
    updSvc i fun v => { v with usedChunks := v.usedChunks.filter fun c => !(q.chunks.drop q.indexed).contains c }
    modify fun s => s.freeEntry e

/-- A sequence ends: its END record is written and its entry freed, or both wait for room (R280, R282). -/
def endSeq (i e code : Nat) (str : Nat := 0) (tail : Nat := 0) : Pm Unit := do
  match (← get).seq e with
  | none => pure ()
  | some q =>
    let room ← outRoom i
    if q.pendToken || !room then
      updEnt e fun q =>
        { q with pendEnd := true, pendCode := BitVec.ofNat 8 code, pendStr := BitVec.ofNat 8 (str + 8 * tail)
                 pause := if q.pause = 0 then 1 else q.pause }
    else do
      outPut i (outRec q.tag.toNat q.new 2 code str tail)
      updSvc i fun v => { v with ended := v.ended + 1 }
      releaseSeq i e

/-- Deliver a token: a TOKEN record, or an entry of the sequence's token ring (R281). False when there is no room. -/
def putToken (i : Nat) (q : Seq) (tok flags : Nat) : Pm Bool := do
  let v ← svc i
  if q.hostStop then
    let d := q.ringVa
    let len := 2 ^ q.ringLog2
    let r ← ringCounts v.ctx d len
    if ringUsed r < len then
      ringPut v.ctx d len r.1 (natLe 4 tok ++ natLe 4 (q.new - 1 + if bitOf flags 2 then 2 ^ 31 else 0))
      pure true
    else pure false
  else if ← outRoom i then
    outPut i (outRec q.tag.toNat tok 1 flags)
    pure true
  else pure false

/-- The same, kept in the entry when there is no room. -/
def deliver (i e tok flags : Nat) : Pm Unit := do
  match (← get).seq e with
  | none => pure ()
  | some q =>
    updSvc i fun v => { v with tokens := v.tokens + 1 }
    if ← putToken i q tok flags then pure ()
    else updEnt e fun q =>
      { q with pendToken := true, pendFlags := BitVec.ofNat 8 flags, pause := if q.hostStop then 2 else 1 }

/-- Write the pending records of an entry (stage 1). -/
def pending (i e : Nat) : Pm Unit := do
  match (← get).seq e with
  | none => pure ()
  | some q =>
    if q.pendToken then
      if ← putToken i q q.lastToken.toNat q.pendFlags.toNat then
        updEnt e fun q => { q with pendToken := false, pause := if q.pendEnd then 1 else 0 }
    match (← get).seq e with
    | none => pure ()
    | some q =>
      if q.pendEnd && !q.pendToken then
        endSeq i e q.pendCode.toNat (q.pendStr.toNat % 8) (q.pendStr.toNat / 8)
      else pure ()

/-- Write every pending record of a service, in ascending entry index. -/
def pendings (i : Nat) : Pm Unit := do
  flush i
  ((← get).svSeqs i).forM fun e => pending i e.1

end Sys2Proof.Machine
end

