-- ==== Sys2Proof/Machine/PorchStep.lean ====
section
/-! DEFINITION. The stages of a Porch build (08 R274): finished steps and stop detection, control records, requests and
admission, handoffs, composition. -/

namespace Sys2Proof.Machine

/-! ## Handoff messages (R290, R291) -/

def peerEntry (v : Service) (p : Nat) : Pm Nat := pNat v.ctx (dvaAdd (svVa v 11) (8 * p)) 8
def peerNode (e : Nat) : NodeId := BitVec.ofNat 16 (bitsOf e 0 16)
def peerIndex (e : Nat) : Nat := bitsOf e 25 4

/-- A DVA of this device as another names it. -/
def atNode (d : Dva) (n : NodeId) : Dva := n ++ d.truncate 48

def recF (r : BitVec 512) (byte w : Nat) : Nat := fieldAt r.toNat byte 0 (8 * w)
def recKind (r : BitVec 512) : Nat := fieldAt r.toNat 0 0 3

def handoffRec (kind code hid hgen tseq tag pos new last chunks : Nat) (dva : Nat := 0) : BitVec 512 :=
  BitVec.ofNat 512 (leNat (layout 64
    [(0, 1, kind), (1, 1, code), (2, 2, hid), (4, 2, hgen), (6, 2, tseq), (8, 8, tag), (16, 4, pos), (20, 4, new), (24, 4, last),
      (28, 2, chunks), (32, 8, dva)]))

/-- A record in answer to one: its fields, with another KIND, CODE and TSEQ. -/
def answerRec (r : BitVec 512) (kind code tseq : Nat) : BitVec 512 :=
  handoffRec kind code (recF r 2 2 % 2 ^ 14) (recF r 4 2) tseq (recF r 8 8) (recF r 16 4 % 2 ^ 21) (recF r 20 4 % 2 ^ 21) (recF r 24 4)
    (recF r 28 2)

/-- A record of a source about its sequence. -/
def sourceRec (kind e : Nat) (q : Seq) : BitVec 512 :=
  handoffRec kind 0 e q.gen.toNat q.hoTseq q.tag.toNat q.pos q.new q.lastToken.toNat q.held

/-- Queue a record for a peer. -/
def State.sendMsg (s : State) (i p : Nat) (r : BitVec 512) (phase : Nat := 1) : State :=
  let m : PorchMsg := { id := s.nextMsg, svc := i, peer := p, record := r, phase }
  { s with porchOut := s.porchOut ++ [m], nextMsg := s.nextMsg + 1 }

def sendRec (i p : Nat) (r : BitVec 512) : Pm Unit := modify fun s => s.sendMsg i p r

/-- Offer a sequence to a peer, if one is left in this round (R292 steps 1, 3; R293). -/
def offerNext (i e : Nat) : Pm Unit := do
  let v ← svc i
  let s ← get
  match s.seq e with
  | none => pure ()
  | some q =>
    if q.pendEnd || q.endDue ≠ 0 then pure ()
    else if svPeers v ≤ q.hoAsked then updEnt e fun q => { q with hoPhase := 4, hoAsked := 0 }
    else do
      let p := (if q.hoAsked = 0 then v.nextPeer else q.hoPeer + 1) % svPeers v
      let pe ← peerEntry v p
      updEnt e fun q => { q with hoPhase := 1, hoPeer := p, hoAsked := q.hoAsked + 1, peer := peerNode pe }
      sendRec i p (handoffRec 1 0 e q.gen.toNat 0 q.tag.toNat q.pos q.new q.lastToken.toNat q.held
        (atNode (dvaAdd (svVa v 9) (512 * q.slot)) s.idNode).toNat)

/-- Begin a new round of offers. -/
def offerAgain (i e : Nat) : Pm Unit := do
  updEnt e fun q => { q with hoAsked := 0 }
  offerNext i e

/-- A sequence whose prefill is done is shipped (R292 step 1). -/
def startHandoff (i e : Nat) : Pm Unit := do
  let v ← svc i
  match (← get).seq e with
  | none => pure ()
  | some q => do
    pWrite v.ctx (dvaAdd (svVa v 9) (512 * q.slot))
      (natLe 64 q.desc.toNat ++ (q.stops ++ List.replicate 256 0).take 256 ++ (q.tail ++ List.replicate 30 0).take 30 ++
        natLe 1 q.tail.length ++ List.replicate 161 0)
    updEnt e fun q => { q with st := 4, hoAsked := 0 }
    offerNext i e

/-- Issue a remote access for a message; an access the source refuses is done with its code. -/
def State.porchAccess (s : State) (c : CtxId) (msg : Nat) (write : Bool) (d : Dva) (len : Nat) (data : List Byte) : State :=
  let id := s.nextAcc
  let a : Access := { id := 0, who := .porch msg, ctx := c, job := (s.ctx c).job, write, dva := d, len, data }
  let s := match s.place c write d with
    | .here t => s.issue a (.here t)
    | .away => s.issue a .away
    | .bad code => (s.addAccess a).1.setDone id code [] []
    | _ => (s.addAccess a).1.setDone id 0x07 [] []
  { s with porchOut := s.porchOut.map fun m => if m.id = msg then { m with accs := m.accs ++ [id] } else m }

/-- Pieces of a range between 512-byte boundaries. -/
def pieces : Nat → Nat → Nat → List (Nat × Nat)
  | 0, _, _ => []
  | f + 1, d, n => if n = 0 then [] else (let k := min n (512 - d % 512); (d, k) :: pieces f (d + k) (n - k))

/-- Read a range for a message. -/
def State.porchReads (s : State) (c : CtxId) (msg : Nat) (d : Dva) (n : Nat) : State :=
  (pieces (n / 512 + 2) d.toNat n).foldl (fun s p => s.porchAccess c msg false (BitVec.ofNat 64 p.1) p.2 []) s

def State.updMsg (s : State) (id : Nat) (f : PorchMsg → PorchMsg) : State :=
  { s with porchOut := s.porchOut.map fun m => if m.id = id then f m else m }

/-- Outcome of a message's accesses: none while one is open, else the first code and the data. -/
def State.msgResult (s : State) (m : PorchMsg) : Option (Nat × List Byte) :=
  m.accs.foldl (fun r id =>
    match r, s.access id with
    | some (c, bs), some a =>
      match a.st with
      | .done code data _ => some (if c ≠ 0 then c else code.toNat, bs ++ data)
      | _ => none
    | some x, none => some x
    | none, _ => none) (some (0, []))

/-- Drop a message's accesses, and the message. -/
def State.clearAccs (s : State) (m : PorchMsg) : State :=
  ({ s with accesses := s.accesses.filter fun a => !m.accs.contains a.id }).updMsg m.id fun m => { m with accs := [] }
def State.dropMsg (s : State) (m : PorchMsg) : State :=
  { s.clearAccs m with porchOut := s.porchOut.filter fun x => x.id != m.id }

/-- Where a record for a peer goes: partition PIDX of the peer's inbox, which lies where this service's own does
(assumption 34). -/
def peerRing (v : Service) (pe : Nat) : Dva := atNode (dvaAdd (svVa v 10) (4096 * peerIndex pe)) (peerNode pe)

/-- The source entry of a record, if it still is the one it names. -/
def State.sourceOf (s : State) (i : Nat) (r : BitVec 512) : Option Seq :=
  match s.seq (recF r 2 2 % 2 ^ 14) with
  | some q => if q.service = i && q.st == 4 && q.gen.toNat == recF r 4 2 && !q.pendEnd && q.endDue == 0 then some q else none
  | none => none

/-! ## Admission (R273, R283) -/

/-- Pin a node for a request whose result is taken. -/
def takeResult (i : Nat) (w : WaitReq) : Pm WaitReq := do
  let v ← svc i
  match w.node with
  | none => pure { w with taken := true }
  | some n => do
    let k ← liveGo v (svMaxCtx v / 32 + 1) n.toNat
    if k = noNode then pure { w with taken := true }
    else do
      nodeRef v k true
      nodeUsed v k
      pure { w with taken := true, pin := some (BitVec.ofNat 24 k) }

/-- Take the walker's results of the waiting requests, in arrival order. -/
def takeGo (i : Nat) : List WaitReq → List WaitReq → Pm Unit
  | kept, [] => updSvc i fun v => { v with waitq := kept }
  | kept, w :: ws => do
    if w.taken then takeGo i (kept ++ [w]) ws else takeGo i (kept ++ [← takeResult i w]) ws

def takeResults (i : Nat) : Pm Unit := do takeGo i [] (← svc i).waitq

/-- Depth of a pinned node. -/
def pinDepth (v : Service) (w : WaitReq) : Pm Nat :=
  match w.pin with
  | some n => return nDepth (← node v n.toNat)
  | none => pure 0

/-- Why the head cannot be admitted now: 0 it can, else the reason of ADMIT_WAIT. -/
def headReason (i : Nat) (w : WaitReq) : Pm Nat := do
  let v ← svc i
  let s ← get
  if (s.entryFor i).isNone then pure 1
  else if svMaxSeq v ≤ s.heldCount i then pure 2
  else if ← canReserve i (rqChunks v w.desc.toNat - (← pinDepth v w)) then pure 0 else pure 3

/-- Admit the head, whose place in the wait queue is read (R272, R273, R286). -/
def admitHead (i : Nat) (w : WaitReq) : Pm Unit := do
  let v ← svc i
  let _ ← pRead v.ctx (waitVa v w.place) 128
  let d := w.desc.toNat
  let depth ← pinDepth v w
  let need := rqChunks v d - depth
  reserve i need
  let s ← get
  match s.entryFor i with
  | none => pure ()
  | some e =>
    let q : Seq :=
      { st := 1, service := i, slot := s.freeServiceSlot i, gen := mapGet 0 s.seqGen e, tag := BitVec.ofNat 64 (rqTag d)
        hostStop := rqHostStop d, chlPending := decide (0 < depth), noInsert := rqNoPrefix d, promptLen := rqLen d
        pos := 32 * depth, maxNew := rqMaxNew d, indexed := depth, deep := w.pin.getD 0xFFFFFF, resv := need
        admitT := v.admitNo, seed := BitVec.ofNat 32 (fieldAt d 28 0 32), promptVa := BitVec.ofNat 64 (rqPrompt d)
        ringVa := BitVec.ofNat 64 (rqRingVa d), ringLog2 := rqRingLog d, desc := w.desc, stops := w.stops }
    modify fun s => { s with seqs := mapSet s.seqs e q }
    updSvc i fun v =>
      { v with waitq := v.waitq.tail, admitNo := v.admitNo + 1, admitted := v.admitted + 1
               shared := v.shared + BitVec.ofNat 64 depth }
    emit i (outRec (rqTag d) (32 * depth) 4 0)

/-- Admit from the head; answers why the head that is left waits. -/
def admitGo (i : Nat) : Nat → Pm Nat
  | 0 => pure 0
  | f + 1 => do
    match (← svc i).waitq with
    | [] => pure 0
    | w :: _ => do
      let r ← headReason i w
      if r = 0 then do
        admitHead i w
        admitGo i f
      else pure r

/-- ADMIT_WAIT of the requests left: the head its reason, those behind it ORDER; once each. -/
def tellGo (i reason : Nat) : Nat → List WaitReq → Pm (List WaitReq)
  | _, [] => pure []
  | k, w :: ws => do
    let w' ← if !w.told && reason ≠ 0 then do
        emit i (outRec (rqTag w.desc.toNat) k 3 (if k = 0 then reason else 4))
        pure { w with told := true }
      else pure w
    return { w' with full := decide (k = 0) && reason == 1 } :: (← tellGo i reason (k + 1) ws)

def admits (i : Nat) : Pm Unit := do
  takeResults i
  let r ← admitGo i (← svc i).waitq.length
  let ws ← tellGo i r 0 (← svc i).waitq
  updSvc i fun v => { v with waitq := ws }

/-! ## Requests (R266, R272) -/

/-- Fields of a request descriptor outside R261, PROMPT_LEN against MAX_CTX apart. -/
def limitsBad (d : Nat) : Bool :=
  decide (8 < rqStrings d) || rqLen d == 0 || rqMaxNew d == 0 || decide (1048575 < rqMaxNew d) ||
    (if rqHostStop d then decide (rqRingLog d < 6) || decide (16 < rqRingLog d) || rqStrings d != 0 || rqTokens d != 0
     else rqRingLog d != 0 || rqRingVa d != 0)

/-- Stop strings whose length is out of range. -/
def stringsBad (d : Nat) (stops : List Byte) : Bool :=
  (List.range (rqStrings d)).any fun k => (stops.getD (32 * k) 0) == 0 || 31 < (stops.getD (32 * k) 0).toNat

/-- Reserved bits of a request descriptor, and fields outside R261 and R266. -/
def requestBad (v : Service) (d : Nat) : Bool :=
  fieldAt d 8 2 6 != 0 || fieldAt d 9 4 4 != 0 || fieldAt d 10 2 6 != 0 || fieldAt d 11 5 3 != 0 || fieldAt d 14 5 11 != 0 ||
    fieldAt d 26 5 11 != 0 || fieldAt d 60 0 32 != 0 || limitsBad d || (rqStrings d == 0 && rqStrVa d != 0) || rqPrompt d % 64 != 0 || rqPrompt d / 2 ^ 48 != 0xFFFF ||
    !([1, 2].contains (rqPrompt d / 2 ^ 45 % 8)) || svPool v == 2

/-- TAGs of the live requests of a service. -/
def State.liveTags (s : State) (i : Nat) (v : Service) : List Nat :=
  ((v.reading.filter fun w => !w.gone && w.bad == 0) ++ v.waitq).map (fun w => rqTag w.desc.toNat) ++ ((s.svSeqs i).filter fun e => e.2.st != 3).map fun e => e.2.tag.toNat

/-- Walks in flight on the device: at most 64. -/
def State.walksInFlight (s : State) : Nat :=
  (s.services.map fun e => (e.2.reading.filter fun w => !w.walked).length).sum

/-- Room for what a request may write: a place in the wait queue and two records (R272). -/
def requestRoom (i : Nat) : Pm Bool := do
  let v ← svc i
  return decide (v.waitq.length < svWaitLen v) && v.pendOut.isEmpty && decide (2 ≤ (← outFree i))

/-- Requests whose walk has returned leave the ring, in order: with a REJECT, or into the wait queue (its entry: assumption 38). -/
def moveGo (i : Nat) : Nat → Pm Unit
  | 0 => pure ()
  | f + 1 => do
    let v ← svc i
    match v.reading with
    | [] => pure ()
    | w :: rest =>
      if w.walked && (← requestRoom i) then do
        let r ← ringCounts v.ctx (svVa v 0) (svReqLen v)
        if w.gone then pure ()
        else if w.bad ≠ 0 then do
          emit i (outRec (rqTag w.desc.toNat) 0 5 w.bad.toNat)
          updSvc i fun v => { v with rejected := v.rejected + 1 }
        else do
          pWrite v.ctx (waitVa v v.waitNo) (natLe 64 w.desc.toNat ++ natLe 64 ((w.node.getD 0xFFFFFF).toNat))
          updSvc i fun v => { v with waitq := v.waitq ++ [{ w with place := v.waitNo }], waitNo := v.waitNo + 1 }
        updSvc i fun v => { v with reading := rest }
        setCons v.ctx (svVa v 0) (r.2 + 1)
        moveGo i f
      else pure ()

/-- Check the request at a ring index, and pass it to the walker. -/
def readRequest (i : Nat) (at_ : Nat) : Pm Unit := do
  let v ← svc i
  let d ← pNat v.ctx (ringEntry (svVa v 0) (svReqLen v) 64 at_) 64
  let live := (← get).liveTags i v
  let code := if requestBad v d then 1
    else if svMaxCtx v ≤ rqLen d || svKvChunks v < rqChunks v d then 2
    else if live.contains (rqTag d) then 3 else 0
  let w : WaitReq := { desc := BitVec.ofNat 512 d, walkGen := v.g, walked := code != 0, bad := BitVec.ofNat 8 code }
  updSvc i fun v => { v with reading := v.reading ++ [w] }

/-- Read requests while the wait queue, the walker and the output ring have room (R272). -/
def readGo (i : Nat) : Nat → Pm Unit
  | 0 => pure ()
  | f + 1 => do
    let v ← svc i
    let r ← ringCounts v.ctx (svVa v 0) (svReqLen v)
    let k := v.reading.length
    if k < ringUsed r && v.waitq.length + k < svWaitLen v && (← get).walksInFlight < 64 && (← requestRoom i) then do
      readRequest i (r.2 + k)
      readGo i f
    else pure ()

/-- Requests of an OPEN service: those walked are taken from the ring, and up to 256 read. -/
def requests (i : Nat) : Pm Unit := do
  let v ← svc i
  if v.st ≠ .opened then pure ()
  else do
    moveGo i v.reading.length
    readGo i 256
    moveGo i (← svc i).reading.length

/-! ## Stage 1: the finished step (R280, R281, R287) -/

/-- Where a string first ends inside the last `n` bytes of a buffer. -/
def matchEnd (buf str : List Byte) (n : Nat) : Option Nat :=
  (List.range (buf.length + 1)).find? fun k =>
    decide (buf.length - n < k) && decide (str.length ≤ k) && (buf.drop (k - str.length)).take str.length == str

/-- The match that ends earliest, the lowest index among equals: (end, index). -/
def stopMatch (buf : List Byte) (strs : List (List Byte)) (n : Nat) : Option (Nat × Nat) :=
  strs.zipIdx.foldl (fun best e =>
    match matchEnd buf e.1 n, best with
    | some k, some b => if k < b.1 then some (k, e.2) else some b
    | some k, none => some (k, e.2)
    | none, b => b) none

/-- Stop strings of a stop block. -/
def stopStrings (d : Nat) (stops : List Byte) : List (List Byte) :=
  (List.range (rqStrings d)).map fun k =>
    (stops.drop (32 * k + 1)).take ((stops.getD (32 * k) 0).toNat)

/-- What R280 makes of a token: (delivered, flag STOP_TOKEN, END code, STR, TAIL field, TAIL). -/
structure Verdict where
  deliver : Bool := true
  stopToken : Bool := false
  code : Nat := 0
  str : Nat := 0
  after : Nat := 0
  tail : List Byte := []
  deriving DecidableEq, Repr

/-- The checks of R280 on token `t`, with the bytes of the token; `new` counts it. -/
def judge (v : Service) (q : Seq) (t new : Nat) (bytes : List Byte) : Verdict :=
  let d := q.desc.toNat
  let buf := q.tail ++ bytes
  let last := if new = q.maxNew then 3 else if q.promptLen + new = svMaxCtx v then 4 else 0
  let keep := buf.drop (buf.length - 30)
  if svVocab v ≤ t then { deliver := false, code := 7, tail := q.tail }
  else if q.hostStop then { code := last, tail := q.tail }
  else if (svStops v).contains t || (rqStops d).contains t then { stopToken := true, code := 1, tail := q.tail }
  else match stopMatch buf (stopStrings d q.stops) bytes.length with
    | some m => { code := 2, str := m.2, after := buf.length - m.1, tail := keep }
    | none => { code := last, tail := keep }

/-- Bytes of a token (R280). -/
def tokenBytes (v : Service) (t : Nat) : Pm (List Byte) := do
  let b ← pRead v.ctx (dvaAdd (svVa v 7) (32 * t)) 32
  pure ((b.drop 1).take (b.headD 0).toNat)

/-- Insert one completed chunk of a sequence; false when it stays private (R287). -/
def insertChunk (i e k : Nat) : Pm Unit := do
  let v ← svc i
  match (← get).seq e with
  | none => pure ()
  | some q => do
    let toks ← pRead v.ctx (dvaAdd q.promptVa (128 * k)) 128
    let parent := q.deep.toNat
    let h := chunkHash parent toks
    let es ← bucket v h
    let spot := (List.range 8).find? fun j => !entValid (es.getD j 0)
    let dup ← findNode v parent toks
    let slot ← freeSlot v
    match dup, spot, slot with
    | none, some j, some n => do
      pWrite v.ctx (nodeVa v n) (toks ++ layout 128
        [(0, 4, parent), (4, 4, q.chunks.getD k 0), (8, 4, 1), (12, 4, 0), (16, 4, v.n.toNat), (20, 1, 1), (24, 2, k + 1)])
      setEntry v h j (n + 2 ^ 24 + h * 2 ^ 32)
      if parent ≠ noNode then
        nodeChildren v parent true
        nodeRef v parent false
      updEnt e fun q => { q with deep := BitVec.ofNat 24 n, indexed := q.indexed + 1 }
      updSvc i fun v => { v with retired := mapDel v.retired n, inUse := v.inUse + 1 }
    | _, _, _ => do
      updEnt e fun q => { q with noInsert := true }
      updSvc i fun v => { v with insertFail := v.insertFail + 1 }

/-- Insert the chunks that positions `pos` up to the sequence's POS have completed. -/
def insertGo (i e pos : Nat) : Nat → Pm Unit
  | 0 => pure ()
  | f + 1 => do
    let v ← svc i
    match (← get).seq e with
    | none => pure ()
    | some q =>
      let stop := 32 * (q.indexed + 1)
      if svPrefix v && !q.noInsert && decide (pos < stop) && decide (stop ≤ q.pos) && decide (stop ≤ q.promptLen) then do
        insertChunk i e q.indexed
        insertGo i e pos f
      else pure ()

/-- One entry of the finished step. -/
def finishEntry (i : Nat) (se : StepEntry) (t : Nat) : Pm Unit := do
  let v ← svc i
  updEnt se.seq fun q => { q with pos := se.pos + se.ntok }
  match (← get).seq se.seq with
  | none => pure ()
  | some q =>
    if se.kind = 1 then insertGo i se.seq se.pos (se.ntok / 32 + 1)
    else do
      let bytes ← if svVocab v ≤ t || q.hostStop then pure [] else tokenBytes v t
      let j := judge v q t (q.new + 1) bytes
      if j.deliver then do
        updEnt se.seq fun q => { q with new := q.new + 1, lastToken := BitVec.ofNat 32 t, tail := j.tail }
        deliver i se.seq t (boolNat (q.new == 0) + 2 * boolNat j.stopToken + 4 * boolNat (j.code != 0))
      insertGo i se.seq se.pos (se.ntok / 32 + 1)
      if j.code ≠ 0 then endSeq i se.seq j.code j.str j.after
      else if se.kind = 2 && svPool v ≠ 1 then updEnt se.seq fun q => { q with st := 2 }

/-- In a PREFILL service a sequence whose prefill is done and whose token has been delivered is shipped. -/
def ship (i : Nat) : Pm Unit := do
  let v ← svc i
  let done (e : Nat × Seq) : Bool := e.2.st == 1 && e.2.pos == e.2.promptLen && !e.2.pendToken && !e.2.pendEnd
  if svPool v = 1 then (((← get).svSeqs i).filter done).forM fun e => startHandoff i e.1

/-- Stage 1 of a build: pending records, then step n − 1. -/
def stageOne (i : Nat) : Pm Unit := do
  pendings i
  ship i
  let v ← svc i
  match v.step with
  | none => pure ()
  | some es => do
    let base := dvaAdd (svVa v 4) (((v.n.toNat + 1) % 2) * 2 ^ 20 + 0x90040)
    es.zipIdx.forM fun e => do
      let t ← if e.1.kind = 1 then pure 0 else pNat v.ctx (dvaAdd base (8 * e.2)) 4
      finishEntry i e.1 t
    ship i
    updSvc i fun v => { v with step := none, doneSeen := false }

/-! ## Stage 2: control records (R268) -/

/-- A waiting request ends with an END record, and its pin is released. -/
def endWaiting (i : Nat) (w : WaitReq) (code : Nat) : Pm Unit := do
  match w.pin with
  | some n => nodeRef (← svc i) n.toNat false
  | none => pure ()
  emit i (outRec (rqTag w.desc.toNat) 0 2 code)
  updSvc i fun v => { v with ended := v.ended + 1 }

/-- CANCEL (6) or STOP (5) of an admitted sequence; one being handed off is withdrawn (R293). -/
def endByHost (i e : Nat) (q : Seq) (code : Nat) : Pm Unit := do
  if q.pendEnd || q.endDue ≠ 0 then pure ()
  else do
    if q.st = 4 && [2, 3, 5].contains q.hoPhase then sendRec i q.hoPeer (sourceRec 5 e q)
    modify fun s => s.dropHandoff e
    endSeq i e code

def control (i : Nat) (r : Nat) : Pm Unit := do
  let tag := bitsOf r 0 64
  let op := bitsOf r 64 2
  let v ← svc i
  let reject (code : Nat) : Pm Unit := do
    emit i (outRec tag 0 5 code)
    updSvc i fun v => { v with rejected := v.rejected + 1 }
  if bitsOf r 66 62 ≠ 0 || op = 0 || op = 3 then reject 7
  else match v.waitq.findIdx? fun w => rqTag w.desc.toNat == tag with
    | some k => do
      (v.waitq[k]?.toList).forM fun w => endWaiting i w 6
      updSvc i fun v => { v with waitq := v.waitq.eraseIdx k }
    | none =>
    match v.reading.findIdx? fun w => !w.gone && w.bad == 0 && rqTag w.desc.toNat == tag with
    | some k => do
      updSvc i fun v => { v with reading := v.reading.modify k fun w => { w with gone := true, walked := true } }
      emit i (outRec tag 0 2 6)
      updSvc i fun v => { v with ended := v.ended + 1 }
    | none =>
      match ((← get).svSeqs i).find? fun e => e.2.st != 3 && e.2.tag.toNat == tag with
      | some e => endByHost i e.1 e.2 (if op = 1 then 6 else 5)
      | none => reject 6

def controlsGo (i : Nat) : Nat → Pm Unit
  | 0 => pure ()
  | f + 1 => do
    let v ← svc i
    let k ← ringCounts v.ctx (svVa v 1) (svCtlLen v)
    if ringUsed k = 0 then pure ()
    else do
      let r ← pNat v.ctx (ringEntry (svVa v 1) (svCtlLen v) 16 k.2) 16
      control i r
      setCons v.ctx (svVa v 1) (k.2 + 1)
      controlsGo i f

def controls (i : Nat) : Pm Unit := do controlsGo i (svCtlLen (← svc i))

/-! ## Stage 4: handoffs (R292, R293) -/

/-- The target's decision on an OFFER whose area has been read: the DENY code, 0 to grant. -/
def denyCode (i : Nat) (r : BitVec 512) (d : Nat) (stops : List Byte) : Pm Nat := do
  let v ← svc i
  let s ← get
  let need := rqChunks v d
  if v.st ≠ .opened then pure 5
  else if svPool v ≠ 2 || rqTag d ≠ recF r 8 8 || svMaxCtx v ≤ rqLen d || limitsBad d || stringsBad d stops ||
      svMaxCtx v ≤ recF r 16 4 || need < recF r 28 2 then pure 6
  else if (s.liveTags i v).contains (rqTag d) then pure 4
  else if s.freeIndex.isNone then pure 1
  else if svMaxSeq v ≤ s.heldCount i then pure 2
  else if ← canReserve i need then pure 0 else pure 3

/-- Grant: an entry in HANDOFF_IN with its chunk list, then GRANT (R292 step 2). -/
def grantOffer (i p : Nat) (r : BitVec 512) (area : List Byte) : Pm Unit := do
  let v ← svc i
  let d := leNat (area.take 64)
  let need := rqChunks v d
  reserve i need
  let s ← get
  match s.freeIndex with
  | none => pure ()
  | some e => do
    let pe ← peerEntry v p
    let q : Seq :=
      { st := 5, service := i, slot := s.freeServiceSlot i, gen := mapGet 0 s.seqGen e, tag := BitVec.ofNat 64 (rqTag d)
        hostStop := rqHostStop d, noInsert := true, promptLen := rqLen d, pos := recF r 16 4 % 2 ^ 21
        new := recF r 20 4 % 2 ^ 21, maxNew := rqMaxNew d, resv := need, admitT := v.admitNo
        lastToken := BitVec.ofNat 32 (recF r 24 4), seed := BitVec.ofNat 32 (fieldAt d 28 0 32), peer := peerNode pe
        tail := (area.drop 320).take (min 30 (area.getD 350 0).toNat), promptVa := BitVec.ofNat 64 (rqPrompt d)
        ringVa := BitVec.ofNat 64 (rqRingVa d), ringLog2 := rqRingLog d, desc := BitVec.ofNat 512 d
        stops := (area.drop 64).take 256, hoPeer := p, hoHid := recF r 2 2 % 2 ^ 14, hoHgen := BitVec.ofNat 16 (recF r 4 2) }
    modify fun s => { s with seqs := mapSet s.seqs e q }
    updSvc i fun v => { v with admitNo := v.admitNo + 1 }
    grow i e (recF r 28 2)
    sendRec i p (handoffRec 2 0 q.hoHid q.hoHgen.toNat e q.tag.toNat q.pos q.new q.lastToken.toNat (recF r 28 2)
      (atNode (listVa v q.slot) s.idNode).toNat)

def decideOffer (i p : Nat) (r : BitVec 512) (area : List Byte) : Pm Unit := do
  let c ← denyCode i r (leNat (area.take 64)) (area.drop 64)
  if c = 0 then grantOffer i p r area else sendRec i p (answerRec r 3 c 0)

/-- The target entry a record names. -/
def State.targetOf (s : State) (i p : Nat) (r : BitVec 512) : Option (Nat × Seq) :=
  let e := recF r 6 2 % 2 ^ 14
  match s.seq e with
  | some q =>
    if q.service = i && q.st == 5 && !q.pendEnd && q.endDue == 0 && q.hoPeer == p && q.hoHid == recF r 2 2 % 2 ^ 14 && q.hoHgen.toNat == recF r 4 2 then
      some (e, q)
    else none
  | none => none

/-- A record at a source (PREFILL): GRANT, DENY, ABORT, TAKEN. -/
def sourceRecord (i p : Nat) (r : BitVec 512) : Pm Unit := do
  let v ← svc i
  let e := recF r 2 2 % 2 ^ 14
  let mine := match (← get).sourceOf i r with
    | some q => if q.hoPeer = p then some q else none
    | none => none
  match recKind r, mine with
  | 2, some q =>
    if q.hoPhase = 1 then do
      updEnt e fun q =>
        { q with hoPhase := 5, hoTseq := recF r 6 2 % 2 ^ 14, hoChl := BitVec.ofNat 64 (recF r 32 8) }
      updSvc i fun v => { v with nextPeer := p + 1 }
      let s ← get
      set ((s.sendMsg i p r 5).porchReads v.ctx s.nextMsg (BitVec.ofNat 64 (recF r 32 8)) (4 * q.held))
    else sendRec i p (answerRec r 5 0 (recF r 6 2 % 2 ^ 14))
  | 2, none => sendRec i p (answerRec r 5 0 (recF r 6 2 % 2 ^ 14))
  | 3, some q => if q.hoPhase = 1 then offerNext i e else pure ()
  | 5, some q => if q.hoPhase = 3 then offerAgain i e else pure ()
  | 6, some q =>
    if q.hoPhase = 3 then do
      let pe ← peerEntry v p
      emit i (outRec q.tag.toNat (peerNode pe).toNat 6 0)
      updSvc i fun v => { v with handedOut := v.handedOut + 1 }
      releaseSeq i e
    else pure ()
  | _, _ => pure ()

/-- A record at a target (DECODE): OFFER, DONE, ABORT. -/
def targetRecord (i p : Nat) (r : BitVec 512) : Pm Unit := do
  let v ← svc i
  match recKind r, (← get).targetOf i p r with
  | 1, _ =>
    if v.st ≠ .opened then sendRec i p (answerRec r 3 5 0)
    else do
      let s ← get
      set ((s.sendMsg i p r 0).porchReads v.ctx s.nextMsg (BitVec.ofNat 64 (recF r 32 8)) 512)
  | 4, some (e, q) => do
    updEnt e fun q => { q with st := 2, joined := true }
    let pe ← peerEntry v p
    emit i (outRec q.tag.toNat (peerNode pe).toNat 7 0)
    updSvc i fun v => { v with received := v.received + 1 }
    sendRec i p (answerRec r 6 0 e)
  | 4, none => sendRec i p (answerRec r 5 0 (recF r 6 2 % 2 ^ 14))
  | 5, some (e, _) => releaseSeq i e
  | _, _ => pure ()

def inboxGo (i p : Nat) : Nat → Pm Unit
  | 0 => pure ()
  | f + 1 => do
    let v ← svc i
    let d := dvaAdd (svVa v 10) (4096 * p)
    let h ← pNat v.ctx d 8
    let cons := match mapFind v.inCons p with
      | some k => k.toNat
      | none => bitsOf h 32 32
    let used := ringUsed (bitsOf h 0 32, cons)
    if 63 < used then throw 0x20
    if used = 0 then pure ()
    else do
      let r ← pNat v.ctx (ringEntry d 63 64 cons) 64
      (if svPool v = 1 then sourceRecord else targetRecord) i p (BitVec.ofNat 512 r)
      setCons v.ctx d (cons + 1)
      updSvc i fun v => { v with inCons := mapSet v.inCons p (BitVec.ofNat 32 (cons + 1)) }
      inboxGo i p f

/-- The copy of a handoff, or the read of its chunk list, has failed (R293). -/
def handoffFailed (i e code : Nat) : Pm Unit := do
  match (← get).seq e with
  | none => pure ()
  | some q => do
    modify fun s => s.dropHandoff e
    if code = 0x0C then offerAgain i e
    else do
      sendRec i q.hoPeer (sourceRec 5 e q)
      updEnt e fun q => { q with endDue := 0x0A }

/-- The Study's COPY stream on DW 8: one XFER for each chunk, to the target's chunk of its list (R292 step 4). It waits for a stream
context. -/
def startShip (i e : Nat) (q : Seq) (m : PorchMsg) (list : List Byte) : Pm Unit := do
  let v ← svc i
  let s ← get
  match freeStream s.heldStreams 8 with
  | none => pure ()
  | some sid =>
    let bytes := fieldAt v.desc.toNat 10 0 9 * 65536
    let ranges := q.chunks.zipIdx.map fun c =>
      (chunkVa v c.1, atNode (chunkVa v (leNat ((list.drop (4 * c.2)).take 4))) q.peer, bytes)
    set (((s.dropMsg m).setStream sid (copyStream v.ctx false ranges)).updSeq e fun q => { q with hoPhase := 2, hoCopy := some sid })

/-- Advance the oldest message to a peer, or a read for a handoff (R290). -/
def msgStep (i : Nat) (m : PorchMsg) : Pm Unit := do
  let v ← svc i
  let s ← get
  let pe ← peerEntry v m.peer
  let d := peerRing v pe
  match s.msgResult m with
  | none => pure ()
  | some (code, bs) => do
    let lost : Pm Unit := do
      set (s.dropMsg m)
      match recKind m.record, s.sourceOf i m.record with
      | 2, some q =>
        if m.phase = 5 && q.hoPhase = 5 then handoffFailed i (recF m.record 2 2 % 2 ^ 14) code else pure ()
      | 1, some q => if m.phase ≠ 0 && code = 0x0C && q.hoPhase = 1 then offerNext i (recF m.record 2 2 % 2 ^ 14) else pure ()
      | _, _ => pure ()
    let t := s.clearAccs m
    let goto (k : Nat) (t : State) : State := t.updMsg m.id fun m => { m with phase := k }
    if m.phase = 1 then set (goto 2 (t.porchAccess v.ctx m.id false d 64 []))
    else if code ≠ 0 then lost
    else match m.phase with
      | 0 => do
        set (s.dropMsg m)
        decideOffer i m.peer m.record bs
      | 5 =>
        match s.sourceOf i m.record with
        | some q =>
          if q.hoPhase = 5 && q.hoPeer = m.peer then startShip i (recF m.record 2 2 % 2 ^ 14) q m bs else set (s.dropMsg m)
        | none => set (s.dropMsg m)
      | 2 =>
        let prod := leNat (bs.take 4)
        let cons := leNat ((bs.drop 4).take 4)
        if 63 ≤ ringUsed (prod, cons) then set (goto 1 t)
        else
          let t := t.updMsg m.id fun m => { m with prod := BitVec.ofNat 32 prod, cons := BitVec.ofNat 32 cons }
          set (goto 3 (t.porchAccess v.ctx m.id true (ringEntry d 63 64 prod) 64 (natLe 64 m.record.toNat)))
      | 3 =>
        set (goto 4 (t.porchAccess v.ctx m.id true d 64 (layout 64 [(0, 4, m.prod.toNat + 1), (4, 4, m.cons.toNat)])))
      | _ => set (s.dropMsg m)

/-- The messages of a service that may advance: every read, and the oldest record goto each peer. -/
def State.activeMsgs (s : State) (i : Nat) : List PorchMsg :=
  let reads (m : PorchMsg) : Bool := m.phase == 0 || m.phase == 5
  s.porchOut.filter fun m => m.svc == i &&
    (reads m || !(s.porchOut.any fun x => x.svc == i && x.peer == m.peer && !reads x && decide (x.id < m.id)))

def messages (i : Nat) : Pm Unit := do ((← get).activeMsgs i).forM (msgStep i)

/-- Sequences that every peer has denied are offered again at the next build. -/
def reoffer (i : Nat) : Pm Unit := do
  (((← get).svSeqs i).filter fun e => e.2.st == 4 && e.2.hoPhase == 4).forM fun e => offerAgain i e.1

/-- Sequences whose handoff has ended them since the last build end now (R279). -/
def endsDue (i : Nat) : Pm Unit := do
  (((← get).svSeqs i).filter fun e => e.2.endDue != 0 && !e.2.pendEnd).forM fun e => endSeq i e.1 e.2.endDue.toNat

/-- What DONE has brought in an earlier build may be composed (R292 step 6). -/
def join (i : Nat) : Pm Unit := do
  (((← get).svSeqs i).filter fun e => e.2.joined).forM fun e => updEnt e.1 fun q => { q with joined := false }

/-- Stage 4. -/
def stageFour (i : Nat) : Pm Unit := do
  let v ← svc i
  if svPool v = 0 then pure ()
  else do
    (List.range (svPeers v)).forM fun p => inboxGo i p 63
    messages i
    messages i

/-! ## Stages 5 and 6 (R275, R276) -/

/-- Sequences that may be composed, in a state. -/
def State.ready (s : State) (i : Nat) (st : BitVec 3) : List (Nat × Seq) :=
  (s.svSeqs i).filter fun e => e.2.st == st && e.2.pause == 0 && !e.2.chlPending && !e.2.joined

/-- Insertion sort by a key; equal keys keep their order. -/
def insertBy (key : Nat × Seq → Nat) (x : Nat × Seq) : List (Nat × Seq) → List (Nat × Seq)
  | [] => [x]
  | y :: ys => if key x < key y then x :: y :: ys else y :: insertBy key x ys
def sortBy (key : Nat × Seq → Nat) (l : List (Nat × Seq)) : List (Nat × Seq) := l.foldl (fun a x => insertBy key x a) []

/-- Prefill entries from `b` tokens left, in ascending ADMIT, until one is left out. -/
def prefills (v : Service) : Nat → List (Nat × Seq) → List StepEntry
  | _, [] => []
  | b, (e, q) :: rest =>
    let r := q.promptLen - q.pos
    let chunk := svChunkTokens v
    if r ≤ min chunk b then { seq := e, kind := 2, pos := q.pos, ntok := r } :: prefills v (b - r) rest
    else
      let n := min chunk (32 * (b / 32))
      if n = 0 then [] else { seq := e, kind := 1, pos := q.pos, ntok := n } :: prefills v (b - n) rest

/-- The entries of the next step. -/
def State.compose (s : State) (i : Nat) (v : Service) : List StepEntry :=
  let cap := if (s.svSeqs i).any fun e => e.2.st == 1 then svStepTokens v - svPrefillMin v else svStepTokens v
  let ds := ((sortBy (fun e => e.2.lastStep.toNat) (s.ready i 2)).take cap).map fun e =>
    ({ seq := e.1, kind := 0, pos := e.2.pos, ntok := 1 } : StepEntry)
  ds ++ prefills v (svStepTokens v - ds.length) (sortBy (fun e => e.2.admitT.toNat) (s.ready i 1))

/-- Write the entries and tokens of a step buffer from entry k and token t. -/
def writeEntries (i : Nat) (base : Dva) : Nat → Nat → List StepEntry → Pm Unit
  | _, _, [] => pure ()
  | k, t, e :: es => do
    let v ← svc i
    match (← get).seq e.seq with
    | none => pure ()
    | some q => do
      pWrite v.ctx (dvaAdd base (0x40 + 32 * k)) (layout 32
        [(0, 2, e.seq + e.kind.toNat * 2 ^ 14), (2, 2, q.slot), (4, 4, e.pos), (8, 4, e.ntok), (12, 4, t), (16, 4, q.seed.toNat),
          (20, 4, q.new), (24, 8, (listVa v q.slot).toNat)])
      let toks ← if e.kind = 0 then pure (natLe 4 q.lastToken.toNat) else pRead v.ctx (dvaAdd q.promptVa (4 * e.pos)) (4 * e.ntok)
      pWrite v.ctx (dvaAdd base (0x80040 + 4 * t)) toks
      writeEntries i base (k + 1) (t + e.ntok) es

/-- Write step buffer n mod 2. -/
def writeStep (i n : Nat) (es : List StepEntry) : Pm Unit := do
  let v ← svc i
  let base := dvaAdd (svVa v 4) (n % 2 * 2 ^ 20)
  let ntok := (es.map fun e => e.ntok).sum
  let ndec := (es.filter fun e => e.kind == 0).length
  pWrite v.ctx base (layout 64 [(0, 4, n), (4, 2, es.length), (8, 4, ntok), (12, 4, (ntok + 63) / 64 * 64), (16, 2, ndec), (18, 2, i)])
  writeEntries i base 0 0 es

/-- Absolute index of a Bolt the descriptor names. -/
def State.svBolt (s : State) (v : Service) (b : Nat) : BoltId := (s.ctx v.ctx).boltBase + BitVec.ofNat 15 b

/-- Wait for DONE_BOLT to leave its present PHASE. -/
def State.awaitDone (s : State) (i : Nat) (v : Service) : State :=
  let b := s.svBolt v (svDoneBolt v)
  let p := (s.bolt b).phase
  let s := s.updService i fun v => { v with donePhase := p, doneSeen := false }
  s.boltAsk { who := .porch i, ctx := v.ctx, bolt := b, op := 0, cond := 1, operand := p }

/-- Compose step n; with an entry, write its buffer and release STEP_BOLT by an arrival (assumption 33). -/
def composeStep (i : Nat) : Pm Unit := do
  let v ← svc i
  let es := (← get).compose i v
  if es.isEmpty then pure ()
  else do
    es.forM fun e => grow i e.seq ((e.pos + e.ntok + 31) / 32)
    writeStep i v.n.toNat es
    es.forM fun e => updEnt e.seq fun q => { q with lastStep := v.n }
    updSvc i fun v => { v with step := some es, lastStep := v.n, n := v.n + 1, builds := v.builds + 1 }
    modify fun s => (s.awaitDone i v).boltAsk
      { who := .porch i, ctx := v.ctx, bolt := s.svBolt v (svStepBolt v), op := 1, cond := 0, operand := 1 }

end Sys2Proof.Machine
end

