-- ==== Sys2Proof/Machine/Porch.lean ====
section
/-! DEFINITION. The Porch's commands and events (08; 13 R445): opening, draining and closing a service, builds, polls, the
prefix walker and compaction, the end of a handoff's copy, timeouts, and what its context's failure, pre-emption, restore
and release do to it (R294). -/

namespace Sys2Proof.Machine

def svcStNum : SvcSt → Nat
  | .opened => 0
  | .draining => 1
  | .suspended => 2
  | .fault => 3
  | .closed => 4

/-! ## Service states (R263) -/

/-- The PORCH event of R447: 0 NOTIFY, 1 FAULT, 2 CLOSED. -/
def State.porchEvent (s : State) (i kind : Nat) : State :=
  match s.service i with
  | some v => s.ctxEvent v.ctx 0x8005 [(20, 2, i), (22, 1, kind), (23, 1, v.fcode.toNat), (24, 4, v.records.toNat)]
  | none => s

/-- A failed access or a bad ring index. -/
def State.porchFault (s : State) (i code : Nat) : State :=
  (s.updService i fun v => { v with st := .fault, fcode := BitVec.ofNat 8 code }).porchEvent i 1

/-- Run work of a service; a failure puts it into FAULT. -/
def State.runPorch (s : State) (i : Nat) (m : Pm Unit) : State :=
  match m s with
  | .ok _ t => t
  | .error code t => t.porchFault i code

/-- The service holds nothing more: CLOSED, its messages and waits dropped, the close answered. -/
def State.closeDone (s : State) (i : Nat) : State :=
  match s.service i with
  | none => s
  | some v =>
    let v' : Service := { v with st := .closed, step := none, doneSeen := false, waitq := [], reading := [], pendOut := [], closing := false
                                 closeTag := none, usedChunks := [], retired := [] }
    let s := (s.porchOut.filter fun m : PorchMsg => m.svc == i).foldl (fun s m => s.dropMsg m) s
    let s := { s with services := mapSet s.services i v' }.dropWaits (.porch i)
    let s := ((s.svSeqs i).foldl (fun s e => s.freeEntry e.1) s).porchEvent i 2
    match v.closeTag with
    | some tag => s.answer v.lbx tag 0x0503 v.ctx true 0
    | none => s

/-- END for every sequence and waiting request, which free what they hold (R263). -/
def endAll (i code : Nat) : Pm Unit := do
  ((← get).svSeqs i).forM fun e => do
    if e.2.st = 3 then modify fun s => s.freeEntry e.1
    else do
      pending i e.1
      match (← get).seq e.1 with
      | none => pure ()
      | some q => if q.pendEnd then pure () else endSeq i e.1 code
  (← svc i).waitq.forM fun w => endWaiting i w code
  updSvc i fun v => { v with waitq := [] }

/-- Close a service now: it is CLOSED once its last record is written (R282); what a ring that cannot be written would hold is lost
(assumption 35). -/
def State.closeNow (s : State) (i code : Nat) : State :=
  match (do
    flush i
    endAll i code : Pm Unit) s with
  | .error _ t => t.closeDone i
  | .ok _ t =>
    match t.service i with
    | some v =>
      if v.pendOut.isEmpty && (t.svSeqs i).isEmpty then t.closeDone i
      else t.updService i fun v => { v with closing := true, closeCode := BitVec.ofNat 8 code, step := none, reading := [] }
    | none => t

/-- A DRAINING service that holds nothing becomes CLOSED. -/
def State.drainCheck (s : State) (i : Nat) : State :=
  match s.service i with
  | some v =>
    if v.st == .draining && ((s.svSeqs i).all fun e => e.2.st == 3) && v.waitq.isEmpty && v.pendOut.isEmpty then s.closeDone i else s
  | none => s

/-- A step in progress can still complete. -/
def stepRuns (v : Service) : Bool := v.step.isSome && (v.st == .opened || v.st == .draining)

/-! ## Commands (R262, R263; 13 R445) -/

/-- The first bad field of a service descriptor (R261, R262). -/
def descBad (bolts d : Nat) : Option Nat :=
  let pow (v lo hi : Nat) : Bool := decide (v < lo) || decide (hi < v)
  let chunk := fieldAt d 6 0 16
  let steps := fieldAt d 4 0 16
  let prefixed := bitOf d 2
  let va (i : Nat) : Nat × Bool :=
    let a := fieldAt d (32 + 8 * i) 0 64
    (32 + 8 * i, a / 2 ^ 48 != 0xFFFF || a / 2 ^ 45 % 8 != 1 || a % (if i = 4 then 2 ^ 21 else 64) != 0)
  let fields : List (Nat × Bool) :=
    [(0, fieldAt d 0 0 2 == 3 || fieldAt d 0 4 4 != 0),
     (1, fieldAt d 1 5 3 != 0 || (prefixed && pow (fieldAt d 1 0 5) 10 24)),
     (2, pow (fieldAt d 2 0 16) 1 16384), (4, pow steps 64 16384 || steps % 64 != 0),
     (6, pow chunk 32 steps || chunk % 32 != 0), (8, decide (steps < fieldAt d 8 0 16) || fieldAt d 8 0 16 % 32 != 0),
     (10, pow (fieldAt d 10 0 16) 1 256), (12, pow (fieldAt d 12 0 32) 64 1048576), (16, pow (fieldAt d 16 0 32) 2 1048576),
     (20, pow (fieldAt d 20 0 32) 1 16777215), (24, fieldAt d 27 0 8 != 0 || (prefixed && fieldAt d 24 0 24 == 0)),
     (28, pow (fieldAt d 28 0 8) 6 16), (29, pow (fieldAt d 29 0 8) 4 12), (30, pow (fieldAt d 30 0 8) 8 20),
     (31, pow (fieldAt d 31 0 8) 6 16)] ++ (List.range 12).map va ++
    [(128, decide (bolts ≤ fieldAt d 128 0 16)), (130, decide (bolts ≤ fieldAt d 130 0 16)), (132, decide (16 < fieldAt d 132 0 8)),
     (133, fieldAt d 133 0 24 != 0), (200, fieldAt d 200 0 448 != 0)]
  (fields.find? (·.2)).map (·.1)

/-- The index starts empty: every bucket and node is zero (R295). -/
def clearIndex (v : Service) : Pm Unit :=
  if svPrefix v then (List.range (svBuckets v + 4 * svNodes v)).forM fun k => pWrite v.ctx (dvaAdd (svVa v 8) (64 * k)) (List.replicate 64 0)
  else pure ()

/-- PORCH_OPEN: copy the descriptor and open a service under the lowest free index. -/
def execPorchOpen (q : Req) (s : State) : Host.Outcome State Fault Refusal :=
  .next <|
    s.commandWith q 0x0501 [(16, 0, 64)] [(16, dvaTier (BitVec.ofNat 64 (reqNat q 16 8)) != 1)] fun s =>
      let c := reqCtx q
      if (s.ctx c).st ≠ .active then s.reply q 0x14 (ctxStNum (s.ctx c).st)
      else match s.dvaRead c (BitVec.ofNat 64 (reqNat q 16 8)) 256 with
        | .inr e => s.reply q 0x28 e
        | .inl bs =>
          match descBad (s.ctx c).bolts (leNat bs) with
          | some o => s.badReq q o
          | none =>
            match (List.range 512).find? fun i => match s.service i with
              | some v => v.st == .closed
              | none => true with
            | none => s.reply q 0x27
            | some i =>
              let v : Service := { ctx := c, desc := BitVec.ofNat 2048 (leNat bs), lbx := q.lbx }
              let t := { s with services := mapSet s.services i v }
              match clearIndex v t with
              | .error e _ => s.reply q 0x28 e
              | .ok _ t => (t.updCtx c fun x => { x with fresh := false }).reply q 0 0 [(16, 2, i)]

/-- The service a command names, if it is one of its context. -/
def State.svcOf (s : State) (q : Req) : Option (Nat × Service) :=
  match s.service (reqNat q 16 2) with
  | some v => if v.ctx = reqCtx q then some (reqNat q 16 2, v) else none
  | none => none

/-- PORCH_DRAIN. -/
def execPorchDrain (q : Req) (s : State) : Host.Outcome State Fault Refusal :=
  .next <|
    s.commandWith q 0x0502 [(16, 0, 16)] [(16, decide (512 ≤ reqNat q 16 2))] fun s =>
      match s.svcOf q with
      | none => s.reply q 0x13
      | some (i, v) =>
        if v.st ≠ .opened then s.reply q 0x14 (svcStNum v.st)
        else ((s.updService i fun v => { v with st := .draining, reading := [] }).reply q 0).drainCheck i

/-- PORCH_CLOSE: at once, or after the step in progress. -/
def execPorchClose (q : Req) (s : State) : Host.Outcome State Fault Refusal :=
  .next <|
    s.commandWith q 0x0503 [(16, 0, 16)] [(16, decide (512 ≤ reqNat q 16 2))] fun s =>
      match s.svcOf q with
      | none => s.reply q 0x13
      | some (i, v) =>
        if v.st = .closed || v.closing then s.reply q 0x14 (svcStNum v.st)
        else
          let s := (s.accept q).updService i fun v => { v with closing := true, closeTag := some (reqTag q), lbx := q.lbx }
          if stepRuns v then s else s.closeNow i 8

/-- The 128-byte entry of R270. -/
def seqRecord (q : Seq) : List (Nat × Nat × Nat) :=
  [(0, 1, q.st.toNat + 8 * q.pause.toNat + 32 * boolNat q.hostStop + 64 * boolNat q.pendToken + 128 * boolNat q.pendEnd),
    (1, 1, boolNat q.chlPending + 2 * boolNat q.noInsert), (2, 2, q.service), (4, 2, q.slot), (6, 2, q.gen.toNat),
    (8, 8, q.tag.toNat), (16, 4, q.promptLen), (20, 4, q.pos), (24, 4, q.new), (28, 4, q.maxNew), (32, 2, q.indexed),
    (36, 4, q.deep.toNat), (40, 2, q.held), (42, 2, q.resv), (44, 4, q.admitT.toNat), (48, 4, q.lastToken.toNat),
    (52, 4, q.lastStep.toNat), (56, 4, q.seed.toNat), (60, 2, q.peer.toNat), (62, 1, q.pendCode.toNat), (64, 30, leNat q.tail),
    (94, 1, q.tail.length), (96, 8, q.promptVa.toNat), (104, 8, q.ringVa.toNat), (112, 1, q.ringLog2)]

/-- PORCH_SEQ_READ. -/
def execPorchSeqRead (q : Req) (s : State) : Host.Outcome State Fault Refusal :=
  .next <|
    s.commandWith q 0x0504 [(16, 0, 14)] [] fun s =>
      match s.seq (reqNat q 16 2) with
      | none => s.reply q 0x14
      | some e =>
        if (s.service e.service).any fun v => v.ctx == reqCtx q then
          s.reply q 0 0 ((seqRecord e).map fun f => (16 + f.1, f.2.1, f.2.2))
        else s.reply q 0x13

/-- PORCH_STATS. -/
def execPorchStats (q : Req) (s : State) : Host.Outcome State Fault Refusal :=
  .next <|
    s.commandWith q 0x0505 [(16, 0, 16)] [(16, decide (512 ≤ reqNat q 16 2))] fun s =>
      match s.svcOf q with
      | none => s.reply q 0x13
      | some (i, v) =>
        s.reply q 0 0
          [(16, 1, svcStNum v.st), (17, 1, v.fcode.toNat), (20, 4, s.heldCount i), (24, 4, v.waitq.length), (32, 8, v.admitted.toNat),
            (40, 8, v.ended.toNat), (48, 4, v.rejected.toNat), (52, 4, v.lastStep.toNat), (56, 8, v.builds.toNat),
            (64, 8, v.tokens.toNat), (72, 8, v.shared.toNat), (80, 4, v.insertFail.toNat), (84, 4, v.evicted.toNat),
            (88, 4, v.handedOut.toNat), (92, 4, v.received.toNat)]

/-! ## Builds and polls (R265, R274, R279) -/

/-- NOTIFY = 1: one event when the build wrote output records. -/
def State.porchNotify (s : State) (i : Nat) : State :=
  match s.service i with
  | some v => if svNotify v && v.records ≠ 0 && v.st ≠ .fault && v.st ≠ .closed then s.porchEvent i 0 else s
  | none => s

/-- Stages 2 to 6. -/
def laterStages (i : Nat) : Pm Unit := do
  join i
  controls i
  requests i
  admits i
  endsDue i
  reoffer i
  stageFour i
  composeStep i

/-- The context of the service lets the Porch run. -/
def State.svcRuns (s : State) (v : Service) : Bool :=
  s.live && ((s.ctx v.ctx).st == .active || (s.ctx v.ctx).st == .preempting)

/-- No other service that may build has had its DONE_BOLT released before this one's (R274). -/
def State.firstDone (s : State) (v : Service) : Bool :=
  s.services.all fun e => !(stepRuns e.2 && e.2.doneSeen && s.svcRuns e.2) || decide (v.doneNo ≤ e.2.doneNo)

/-- PORCH_BUILD: DONE_BOLT has released, and the next step is built. A service being closed ends after stage 1. -/
def State.porchBuild (s : State) (i : Nat) : State :=
    match s.service i with
    | none => s
    | some v =>
      if stepRuns v && v.doneSeen && s.svcRuns v && s.firstDone v then
        let t := (s.updService i fun v => { v with records := 0 }).runPorch i do
          stageOne i
          if v.closing then pure () else laterStages i
        if v.closing then t.closeNow i v.closeCode.toNat else (t.drainCheck i).porchNotify i
      else s

/-- PORCH_POLL: an idle service repeats stages 2 to 5 (and writes what waited for ring space, assumption 36); one with a
step in progress reads requests; a suspended one answers offers. -/
def State.porchPoll (s : State) (i : Nat) : State :=
    match s.service i with
    | none => s
    | some v =>
      let t := s.updService i fun v => { v with records := 0 }
      if !s.live then s
      else if v.closing && !stepRuns v then t.closeNow i v.closeCode.toNat
      else if v.st == .suspended then t.runPorch i (stageFour i)
      else if v.st ≠ .opened && v.st ≠ .draining || !s.svcRuns v then s
      else if v.step.isSome then t.runPorch i (requests i)
      else
        ((t.runPorch i do
          pendings i
          ship i
          laterStages i).drainCheck i).porchNotify i

/-! ## The walker and compaction (R272, R285, R286, R289) -/

/-- The walker's result for a request. A failed read of its sources is a REJECT, one of the index a fault. -/
def walkRequest (v : Service) (w : WaitReq) : Pm WaitReq := do
  let d := w.desc.toNat
  let strs ← pTry (if rqStrings d = 0 then pure [] else pRead v.ctx (BitVec.ofNat 64 (rqStrVa d)) 256)
  match ← pTry (pRead v.ctx (BitVec.ofNat 64 (rqPrompt d)) (4 * rqLen d)), strs with
  | .inl p, .inl st =>
    if (List.range (rqLen d)).any fun k => decide (svVocab v ≤ leNat ((p.drop (4 * k)).take 4)) then
      pure { w with walked := true, bad := 4 }
    else if stringsBad d st then pure { w with walked := true, bad := 1 }
    else if rqNoPrefix d || !svPrefix v then pure { w with walked := true, stops := st }
    else do
      let n ← walkGo v p ((rqLen d - 1) / 32) 0 noNode
      pure { w with walked := true, stops := st, node := if n = noNode then none else some (BitVec.ofNat 24 n) }
  | _, _ => pure { w with walked := true, bad := 5 }

/-- PREFIX_WALK: the walker returns the result of the k-th request it has been passed, in arrival order. -/
def execPrefixWalk (i k : Nat) (s : State) : Host.Outcome State Fault Refusal :=
  .next <|
    match s.service i with
    | none => s
    | some v =>
      match v.reading[k]? with
      | some w =>
        if s.live && !w.walked && (v.reading.take k).all (fun x => x.walked) then
          s.runPorch i do
            let w ← walkRequest v w
            updSvc i fun v => { v with reading := v.reading.set k w }
        else s
      | none => s

/-- Chunks on the path from a node to the root, root first. -/
def pathGo (v : Service) : Nat → Nat → List Nat → Pm (List Nat)
  | 0, _, l => pure l
  | f + 1, n, l => do
    if n = noNode then pure l
    else
      let x ← node v n
      pathGo v f (nParent x) (nChunk x :: l)

/-- CHUNK_LIST_FILL_DONE: the shared part of a chunk list has been written. -/
def execChunkListFillDone (seq : Nat) (s : State) : Host.Outcome State Fault Refusal :=
  .next <|
    match s.seq seq with
    | none => s
    | some q =>
      if s.live && q.chlPending then
        s.runPorch q.service do
          let v ← svc q.service
          let cs ← pathGo v q.indexed q.deep.toNat []
          pWrite v.ctx (listVa v q.slot) (cs.flatMap (natLe 4))
          updEnt seq fun q => { q with chlPending := false, chunks := cs, held := cs.length }
      else s

/-- One bucket with its DEAD entries removed. -/
def compactBucket (v : Service) (b : Nat) : Pm Unit := do
  let es ← bucket v b
  if es.any fun e => entValid e && entDead e then
    let keep := es.filter fun e => entValid e && !entDead e
    pWrite v.ctx (bucketVa v b) ((keep ++ List.replicate (8 - keep.length) 0).flatMap (natLe 8))
  else pure ()

/-- A walk has a chunk to process (R289). -/
def State.walkBusy (s : State) : Bool :=
  s.services.any fun e => svPrefix e.2 && e.2.reading.any fun w =>
    !w.walked && !rqNoPrefix w.desc.toNat && decide (32 < rqLen w.desc.toNat)

/-- PREFIX_COMPACTION: DEAD entries exceed one sixteenth of those in use, and no walk has a chunk to process. -/
def execPrefixCompaction (i : Nat) (s : State) : Host.Outcome State Fault Refusal :=
  .next <|
    match s.service i with
    | none => s
    | some v =>
      if s.live && !s.walkBusy && svPrefix v && v.inUse < 16 * v.dead && v.st ≠ .closed && v.st ≠ .fault then
        s.runPorch i do
          (List.range (svBuckets v)).forM (compactBucket v)
          updSvc i fun v => { v with g := v.g + 1, inUse := v.inUse - v.dead, dead := 0 }
      else s

/-! ## Handoff events (R292, R293) -/

/-- HANDOFF_COPY_DONE: the copy stream of a granted handoff has ended; a sequence that it ends does so at the next build. -/
def execHandoffCopyDone (e : Nat) (sid : StreamId) (s : State) : Host.Outcome State Fault Refusal :=
  .next <|
    match s.seq e with
    | none => s
    | some q =>
      match s.copiesEnd q.hoCopy.toList with
      | none => s
      | some r =>
        if s.live && q.hoCopy == some sid && q.st == 4 && q.hoPhase == 2 && !q.pendEnd && q.endDue == 0 then
          s.runPorch q.service do
            match r with
            | none => do
              modify fun s => s.dropHandoff e
              updEnt e fun q => { q with hoPhase := 3 }
              sendRec q.service q.hoPeer (sourceRec 4 e q)
            | some f => handoffFailed q.service e f.1
            messages q.service
        else s

/-- HANDOFF_TIMEOUT: no reply to an OFFER or a DONE at the source, no DONE at the target: a sequence that it ends does so at the next
build. -/
def execHandoffTimeout (e : Nat) (s : State) : Host.Outcome State Fault Refusal :=
  .next <|
    match s.seq e with
    | none => s
    | some q =>
      if !s.live || q.pendEnd || q.endDue != 0 then s
      else if q.st == 4 && q.hoPhase == 1 then s.runPorch q.service (offerNext q.service e)
      else if (q.st == 4 && q.hoPhase == 3) || q.st == 5 then s.updSeq e fun q => { q with endDue := 0x09 }
      else s

/-! ## The context (R294; 09 R297, R314, R322; 06 R227) -/

def State.ctxServices (s : State) (c : CtxId) : List (Nat × Service) :=
  s.services.filter fun e => e.2.ctx == c && e.2.st != .closed

/-- Suspend a service, and remember its state. -/
def suspend (v : Service) : Service := if v.st = .opened || v.st = .draining then { v with before := v.st, st := .suspended } else v

/-- The context fails: its services are SUSPENDED, and the step in progress is void. -/
def State.porchCtxFailed (s : State) (c : CtxId) : State :=
  (s.ctxServices c).foldl (fun s e => s.updService e.1 fun v => { suspend v with doneSeen := false }) s

/-- The context is pre-empted: a service between steps is SUSPENDED. -/
def State.porchPreempted (s : State) (c : CtxId) : State :=
  (s.ctxServices c).foldl (fun s e => s.updService e.1 fun v => if v.step.isNone then suspend v else v) s

/-- The context is ACTIVE again: its services are OPEN, and a step in progress is issued again with the same entries: its
buffer is rewritten; where the context's Bolts have gone back to a copy (`again`), the wait for DONE_BOLT is registered anew, and
otherwise it has lasted, and a step already done stays so (assumption 37). -/
def State.porchRestored (s : State) (c : CtxId) (again : Bool) : State :=
  (s.ctxServices c).foldl (fun s e =>
    let i := e.1
    let s := s.updService i fun v => if v.st = .suspended then { v with st := v.before } else v
    match s.service i with
    | some v =>
      match v.step with
      | some es =>
        if !again && v.doneSeen then s
        else
          let s := s.runPorch i (writeStep i (v.n.toNat - 1) es)
          if again then (s.dropWaits (.porch i)).awaitDone i v else s
      | none => s
    | none => s) s

/-- The context is released: every live request ends with CONTEXT_LOST. -/
def State.porchReleased (s : State) (c : CtxId) : State :=
  (s.ctxServices c).foldl (fun s e => s.closeNow e.1 0x0B) s

/-- MODEL_UNLOAD releases the Bolts from `base`: services that use one are closed, after the step in progress. -/
def State.porchUnload (s : State) (c : CtxId) (base n : Nat) : State :=
  let uses (b : Nat) : Bool := decide (base ≤ b) && decide (b < base + n)
  ((s.ctxServices c).filter fun e => uses (svStepBolt e.2) || uses (svDoneBolt e.2)).foldl (fun s e =>
    let s := s.updService e.1 fun v => { v with closing := true }
    if stepRuns e.2 then s else s.closeNow e.1 8) s

end Sys2Proof.Machine
end

