-- ==== Sys2Proof/Machine/Bolt.lean ====
section
/-! DEFINITION. Bolts (09 R301 to R312): arrivals and releases, waiters, errors, the operations at a Bolt engine, BOLTOP in
a Room, slot triggers, wait reports, and the Bolt commands of 13 R443. -/

namespace Sys2Proof.Machine

/-! ## Names (R299, R301) -/

/-- A tree Bolt: ROOT = 0 or NCHILD ≠ 0. -/
def isTree (b : Bolt) : Bool := !b.root || !b.children.isEmpty

/-- The context that holds an absolute Bolt index. -/
def State.boltCtx (s : State) (b : BoltId) : Option CtxId :=
  ((List.range 64).map (BitVec.ofNat 6)).find? fun c =>
    let x := s.ctx c
    x.st != .free && decide (x.boltBase.toNat ≤ b.toNat) && decide (b.toNat < x.boltBase.toNat + x.bolts)

/-- Absolute index of a context-relative one, and back. -/
def State.boltAbs (s : State) (c : CtxId) (i : Nat) : BoltId := (s.ctx c).boltBase + BitVec.ofNat 15 i
def State.boltRel (s : State) (c : CtxId) (b : BoltId) : Nat := (b - (s.ctx c).boltBase).toNat

/-- Bolts of a context. -/
def State.ctxBolts (s : State) (c : CtxId) : List BoltId := (List.range (s.ctx c).bolts).map (s.boltAbs c)

def State.updBolt (s : State) (b : BoltId) (f : Bolt → Bolt) : State := s.setBolt b (f (s.bolt b))

/-- The 32-byte record of R301. -/
def boltRecord (b : Bolt) : List Byte :=
  let flag (x : Bool) (i : Nat) := boolNat x * 2 ^ i
  layout 32
    ([(0, 1, flag b.barrier 0 + flag b.ppoint 1 + flag b.remoteOk 2 + flag b.root 3 + flag b.reported 4 + flag b.held 5 +
        flag b.error 6), (1, 1, b.children.length), (2, 1, b.err.toNat), (4, 4, b.value.toNat), (8, 4, b.count.toNat),
      (12, 4, b.phase.toNat), (16, 2, b.parent.toNat)] ++ b.children.zipIdx.map fun e => (18 + 2 * e.2, 2, e.1.toNat))

/-- The record of 32 bytes, read back. -/
def boltOf (bs : List Byte) : Bolt :=
  let f (o n : Nat) := leNat ((bs.drop o).take n)
  let flag (i : Nat) := bitOf (f 0 1) i
  { barrier := flag 0, ppoint := flag 1, remoteOk := flag 2, root := flag 3, reported := flag 4, held := flag 5, error := flag 6
    err := BitVec.ofNat 8 (f 2 1), value := BitVec.ofNat 32 (f 4 4), count := BitVec.ofNat 32 (f 8 4), phase := BitVec.ofNat 32 (f 12 4)
    parent := BitVec.ofNat 16 (f 16 2), children := (List.range (min 6 (f 1 1))).map fun i => BitVec.ofNat 16 (f (18 + 2 * i) 2) }

/-! ## Replies and waiters (R305, R306, R312) -/

/-- The result or the error of an operation goes to its requester. A remote requester is answered by BOLT_RSP, with the ERR
of a Bolt in error in byte 20 of ARG (assumption 25). -/
def State.boltReply (s : State) (who : Waiter) (error : Bool) (err : Byte) (result : W32) : State :=
  match who with
  | .remote p pk => s.respond p (responseTo s pk 0 (result.toNat + if error then err.toNat * 2 ^ 32 else 0))
  | _ => { s with boltRsp := s.boltRsp ++ [{ who, error, result }] }

/-- An operation that waits, or that has RET = 1, has a result; a remote one is always answered. -/
def wantsReply (q : BoltReq) : Bool :=
  q.ret || q.op == 0 || q.op == 2 || q.op == 4 ||
    match q.who with
    | .remote _ _ => true
    | _ => false

def State.boltAnswer (s : State) (q : BoltReq) (error : Bool) (err : Byte) (result : W32) : State :=
  if wantsReply q then s.boltReply q.who error err result else s

/-- Conditions of R304. -/
def condHolds (b : Bolt) (cond : BitVec 3) (v : W32) : Bool :=
  match cond.toNat with
  | 1 => b.phase != v
  | 2 => decide ((b.phase - v).toNat < 2 ^ 31)
  | 3 => decide (v.toNat ≤ b.value.toNat)
  | 4 => b.value == v
  | 5 => b.value != 0
  | _ => true

/-- A registered wait holds: WAIT its condition, ARRIVE_WAIT and a trigger a PHASE that differs, ACQUIRE its operand. -/
def waitHolds (b : Bolt) (w : Wait) : Bool :=
  if w.op = 0 then condHolds b w.cond w.operand
  else if w.op = 4 then decide (w.operand.toNat ≤ b.value.toNat)
  else b.phase != w.phase0

/-- The first waiter in registration order that holds; ACQUIRE waiters only behind no earlier ACQUIRE. -/
def nextWake (b : Bolt) : Option Nat :=
  (List.range b.waiters.length).find? fun i =>
    match b.waiters[i]? with
    | some w => waitHolds b w && !(w.op == 4 && (b.waiters.take i).any fun v => v.op == 4)
    | none => false

/-- Result of a wait that returns (R304). -/
def wakeResult (b : Bolt) (w : Wait) : W32 :=
  if w.op = 0 then (if b.barrier then b.phase else b.value)
  else if w.op = 4 then b.value - w.operand
  else b.phase

/-- Wake the waiters that hold, one after another (R306; assumption 26). -/
def State.wakeGo : Nat → BoltId → State → State
  | 0, _, s => s
  | k + 1, b, s =>
    let x := s.bolt b
    match nextWake x with
    | none => s
    | some i =>
      match x.waiters[i]? with
      | none => s
      | some w =>
        let s := s.setBolt b { x with waiters := x.waiters.eraseIdx i, value := if w.op = 4 then x.value - w.operand else x.value }
        State.wakeGo k b (s.boltReply w.who false 0 (wakeResult x w))

def State.wake (s : State) (b : BoltId) : State := State.wakeGo (s.bolt b).waiters.length b s

/-! ## Tree messages and errors (R302, R311; 10 R335) -/

/-- Send a TREE message about a Bolt: 1 ARRIVE, 2 RELEASE, 3 ABORT, 4 REFUSED. -/
def State.treeSend (s : State) (b : BoltId) (node : NodeId) (ty : Nat) (err : Nat := 0) : State :=
  match s.boltCtx b with
  | some c =>
    let i := s.boltRel c b
    s.send { dst := node, src := s.idNode, kind := 7, vc := 2, job := (s.ctx c).job
             arg := BitVec.ofNat 64 (i + ty * 2 ^ 16 + err * 2 ^ 24), key := BitVec.ofNat 64 i }
  | none => s

/-- A Bolt enters error: its waiters wake with the error, and a tree Bolt tells its parent and its children. -/
def State.boltError (s : State) (b : BoltId) (code : Byte) : State :=
  let x := s.bolt b
  if x.error then s
  else
    let s := s.setBolt b { x with error := true, err := code, waiters := [] }
    let s := x.waiters.foldl (fun s w => s.boltReply w.who true code 0) s
    if isTree x then
      ((if x.root then [] else [x.parent]) ++ x.children).foldl (fun s n => s.treeSend b n 3 code.toNat) s
    else s

/-- Put into error every Bolt of a job's contexts that has REMOTE_OK = 1 or is a tree Bolt (R311). -/
def State.jobError (s : State) (job : W32) (code : Byte) : State :=
  let cs := ((List.range 64).map (BitVec.ofNat 6)).filter fun c => (s.ctx c).st != .free && (s.ctx c).job == job
  cs.foldl (fun s c => (s.ctxBolts c).foldl (fun s b =>
    if (s.bolt b).remoteOk || isTree (s.bolt b) then s.boltError b code else s) s) s

/-! ## Arrivals and releases (R302, R316) -/

/-- A release of a Bolt would now be held (R316): the context is being pre-empted, no release of it is held yet, and the
Bolt is the point named, at its phase, or any point. -/
def State.holdsRelease (s : State) (b : BoltId) : Bool :=
  match s.boltCtx b with
  | some c =>
    match (s.ctx c).pre with
    | some p =>
      (s.bolt b).ppoint && !p.saving && (p.phase == 0xFFFFFFFF ||
          (s.boltAbs c p.bolt.toNat == b && (s.bolt b).phase == p.phase)) &&
        (s.ctxBolts c).all fun k => !(s.bolt k).held
    | none => false
  | none => false

/-- Perform one release: COUNT leaves VALUE, PHASE advances, waiters wake, children get RELEASE. -/
def State.release (s : State) (b : BoltId) : State :=
  let x := s.bolt b
  let s := (s.setBolt b { x with value := x.value - x.count, phase := x.phase + 1 }).wake b
  x.children.foldl (fun s n => s.treeSend b n 2) s

/-- A root releases while VALUE ≥ COUNT, unless a release is held. -/
def State.releaseGo : Nat → BoltId → State → State
  | 0, _, s => s
  | k + 1, b, s =>
    let x := s.bolt b
    if x.held || x.value < x.count || x.count == 0 then s
    else if s.holdsRelease b then s.updBolt b fun x => { x with held := true }
    else State.releaseGo k b (s.release b)

/-- What VALUE allows: the releases of a root, the report of another, then the test for overrun. -/
def State.evaluate (s : State) (b : BoltId) : State :=
  let x := s.bolt b
  let s :=
    if x.root then State.releaseGo (x.value.toNat / max 1 x.count.toNat) b s
    else if decide (x.count ≤ x.value) && !x.reported then
      (s.updBolt b fun x => { x with reported := true }).treeSend b x.parent 1
    else s
  let y := s.bolt b
  if 0 < y.count.toNat && 2 * y.count.toNat ≤ y.value.toNat then s.boltError b 0x02 else s

/-- An arrival of a count at a BARRIER; every waiter is tested again (R306). -/
def State.arrive (s : State) (b : BoltId) (n : W32) : State :=
  ((s.updBolt b fun x => { x with value := x.value + n }).evaluate b).wake b

/-- RELEASE from the parent, or the held release of a Bolt (R302, R319 step 6). -/
def State.releaseNow (s : State) (b : BoltId) : State :=
  let s := s.updBolt b fun x => { x with reported := false, held := false }
  (if (s.bolt b).count ≤ (s.bolt b).value then s.release b else s).evaluate b

/-- Perform every held release of a context. -/
def State.releaseHeld (s : State) (c : CtxId) : State :=
  (s.ctxBolts c).foldl (fun s b => if (s.bolt b).held then s.releaseNow b else s) s

/-! ## Operations (R304, R306, R312) -/

/-- Registered waiters of a die's engine: at most 2,048. -/
def State.tableFull (s : State) (b : BoltId) : Bool :=
  decide (2048 ≤ ((s.bolts.filter fun e => e.1 / 8192 == b.toNat / 8192).map fun e => e.2.waiters.length).sum)

/-- Register a wait, if the table has room. -/
def State.register (s : State) (q : BoltReq) (phase0 : W32) : Option State :=
  if s.tableFull q.bolt then none
  else some (s.updBolt q.bolt fun x =>
    { x with waiters := x.waiters ++ [{ who := q.who, op := q.op, cond := q.cond, operand := q.operand, phase0 }] })

/-- The Bolt's mode does not allow the operation, or the count of an arrival is out of range. -/
def opRefused (x : Bolt) (q : BoltReq) : Bool :=
  match q.op.toNat with
  | 1 | 2 => !x.barrier || q.operand == 0 || 65535 < q.operand.toNat
  | 3 | 4 | 5 => x.barrier
  | _ => false

/-- A refused operation: BOLT_ACCESS in a Room, LIST_BAD in a stream, REMOTE_DENIED to another device (assumption 25). -/
def State.refuseOp (s : State) (q : BoltReq) : State :=
  match q.who with
  | .room r => if (s.room r).runst = .fault then s else s.faultRoom r 0x06 0x31
  | .stream sid => (s.stopStream sid 0x20).settleStream sid
  | .remote p pk => s.respond p (responseTo s pk 0x0A)
  | _ => s

/-- Give a COUNTER a value: PHASE advances when it comes from below COUNT to COUNT or above; waiters are tested. -/
def State.setValue (s : State) (b : BoltId) (v : W32) : State :=
  let x := s.bolt b
  (s.setBolt b { x with value := v, phase := if decide (x.value < x.count) && decide (x.count ≤ v) then x.phase + 1 else x.phase }).wake b

/-- WAIT. -/
def State.opWait (s : State) (q : BoltReq) : Option State :=
  let x := s.bolt q.bolt
  if condHolds x q.cond q.operand then some (s.boltAnswer q false 0 (if x.barrier then x.phase else x.value))
  else s.register q x.phase

/-- ARRIVE. -/
def State.opArrive (s : State) (q : BoltReq) : State :=
  (s.boltAnswer q false 0 (s.bolt q.bolt).phase).arrive q.bolt q.operand

/-- ARRIVE_WAIT: a release that its own arrival makes lets it return at once. -/
def State.opArriveWait (s : State) (q : BoltReq) : Option State :=
  let p := (s.bolt q.bolt).phase
  let t := s.arrive q.bolt q.operand
  let y := t.bolt q.bolt
  if y.phase ≠ p then some (t.boltAnswer q false 0 (p + 1))
  else if y.error then some (t.boltAnswer q true y.err 0)
  else t.register q p

/-- ADD, SET. -/
def State.opAdd (s : State) (q : BoltReq) : State :=
  let v := (s.bolt q.bolt).value
  (s.boltAnswer q false 0 v).setValue q.bolt (v + q.operand)
def State.opSet (s : State) (q : BoltReq) : State :=
  (s.boltAnswer q false 0 (s.bolt q.bolt).value).setValue q.bolt q.operand

/-- ACQUIRE: behind an earlier registered ACQUIRE, or with VALUE too small, it registers. -/
def State.opAcquire (s : State) (q : BoltReq) : Option State :=
  let x := s.bolt q.bolt
  if x.waiters.any (fun w => w.op == 4) || x.value < q.operand then s.register q x.phase
  else some ((s.boltAnswer q false 0 (x.value - q.operand)).setValue q.bolt (x.value - q.operand))

/-- The Room or stream that a FAULT names as the first failure. -/
def issuerId : Waiter → Nat
  | .room r => r.toNat
  | .stream sid => sid
  | _ => 0

/-- FAULT: the issuing context fails with a software code. The spec gives it no result (assumption 3). -/
def State.opFault (s : State) (q : BoltReq) : State :=
  let s := s.raise { cls := 0x08, src := 3, unit := q.ctx.toNat, ctx := some q.ctx
                     detail := BitVec.ofNat 64 (q.operand.toNat % 2 ^ 16 + 2 ^ 16 * issuerId q.who) }
  if wantsReply q then (s.boltAnswer q false 0 (s.freeVal.truncate 32)).bumpFree else s

/-- The engine performs an operation; none when it must stay in the input queue because the waiter table is full. A Bolt in
error changes nothing, and its waits and results return the error, READ and READ_PHASE excepted (R312). -/
def State.boltDo (s : State) (q : BoltReq) : Option State :=
  let x := s.bolt q.bolt
  match q.op.toNat with
  | 6 => some (s.boltAnswer q false 0 x.value)
  | 7 => some (s.boltAnswer q false 0 x.phase)
  | 8 => some (s.opFault q)
  | op =>
    if opRefused x q then some (s.refuseOp q)
    else if x.error then some (s.boltAnswer q true x.err 0)
    else match op with
      | 0 => s.opWait q
      | 1 => some (s.opArrive q)
      | 2 => s.opArriveWait q
      | 3 => some (s.opAdd q)
      | 4 => s.opAcquire q
      | 5 => some (s.opSet q)
      | _ => some s

/-- The operation at the head of a die's engine, if it has the OP. -/
def State.engineStep (s : State) (d : DieId) (op : BitVec 4) : State :=
  match mapGet [] s.boltQ d.toNat with
  | q :: rest =>
    if s.live && q.op == op then ({ s with boltQ := mapSet s.boltQ d.toNat rest }.boltDo q).getD s else s
  | [] => s

/-- BOLTOP_WAIT: the engine performs a WAIT (R304). -/
def execBoltopWait (d : DieId) (s : State) : Host.Outcome State Fault Refusal := .next (s.engineStep d 0)
/-- BOLTOP_ARRIVE: the engine performs an arrival (R302). -/
def execBoltopArrive (d : DieId) (s : State) : Host.Outcome State Fault Refusal := .next (s.engineStep d 1)
/-- BOLTOP_ARRIVE_WAIT: an arrival that waits for the release (R304). -/
def execBoltopArriveWait (d : DieId) (s : State) : Host.Outcome State Fault Refusal := .next (s.engineStep d 2)
/-- BOLTOP_ADD (R302). -/
def execBoltopAdd (d : DieId) (s : State) : Host.Outcome State Fault Refusal := .next (s.engineStep d 3)
/-- BOLTOP_ACQUIRE (R306). -/
def execBoltopAcquire (d : DieId) (s : State) : Host.Outcome State Fault Refusal := .next (s.engineStep d 4)
/-- BOLTOP_SET (R302). -/
def execBoltopSet (d : DieId) (s : State) : Host.Outcome State Fault Refusal := .next (s.engineStep d 5)
/-- BOLTOP_READ (R304). -/
def execBoltopRead (d : DieId) (s : State) : Host.Outcome State Fault Refusal := .next (s.engineStep d 6)
/-- BOLTOP_READ_PHASE (R304). -/
def execBoltopReadPhase (d : DieId) (s : State) : Host.Outcome State Fault Refusal := .next (s.engineStep d 7)
/-- BOLTOP_FAULT (R313). -/
def execBoltopFault (d : DieId) (s : State) : Host.Outcome State Fault Refusal := .next (s.engineStep d 8)

/-! ## BOLTOP in a Room (R304, R305) -/

/-- Encoding checks of IMM2 in a Room. -/
def roomImm2Bad (i : Nat) : Bool :=
  decide (8 < imm2Op i) || decide (5 < imm2Cond i) || bitOf i 23 || bitsOf i 25 7 != 0 ||
    (imm2Op i == 0 && imm2Cond i == 0) || ((imm2Op i == 2 || imm2Op i == 4) && imm2Cond i != 0)

/-- BOLTOP: index, node and operand from registers; the operation issues posted, or blocks the sequencer. -/
def execBoltop (r : RoomId) (s : State) : Host.Outcome State Fault Refusal :=
  .next <| s.vecStep r 0x16 fun w _ s =>
    let x := s.room r
    let i := wImm2 w
    let ga := x.gReg (wGA w)
    let idx := bitsOf i 0 15 + ga % 2 ^ 15
    let operand : W32 := BitVec.ofNat 32 (wImm w + x.gReg (wGB w))
    let op := imm2Op i
    let ret := bitOf i 24
    let node : NodeId := BitVec.ofNat 16 (ga / 2 ^ 16)
    let blocks := ret || op == 0 || op == 2 || op == 4
    let hold (s : State) := if blocks then s.updRoom r fun x =>
        { x with ve := { x.ve with wait := .bolt (if ret then some (BitVec.ofNat 4 (wGB w)) else none) } } else s
    if roomImm2Bad i then .encoding
    else match s.roomCtx r with
      | none => .bolt
      | some c =>
        let away := bitOf i 15 && op != 8 && node != s.idNode && node != 0xFFFF
        if (op == 1 || op == 2) && (operand == 0 || 65535 < operand.toNat) then .bolt
        else if away then
          if !s.nodeOk node then .mem 0x07 (BitVec.ofNat 64 (node.toNat * 2 ^ 48))
          else if 2 ^ 15 ≤ idx then .bolt
          else
            let pk : Packet := { dst := node, src := s.idNode, kind := 5, vc := 0, job := (s.ctx c).job
                                 arg := BitVec.ofNat 64 (operand.toNat + (i / 2 ^ 15 * 2 ^ 15 + idx) * 2 ^ 32)
                                 key := BitVec.ofNat 64 idx }
            match s.sendRequest node pk (if blocks then 3 else 1) r.toNat (if ret then some (BitVec.ofNat 4 (wGB w)) else none) with
            | some (s, _) => .ok (hold s)
            | none => .hold s
        else if (s.ctx c).bolts ≤ idx then .bolt
        else .ok ((hold s).boltAsk { who := .room r, ctx := c, bolt := s.boltAbs c idx, op := BitVec.ofNat 4 op
                                     cond := BitVec.ofNat 3 (imm2Cond i), operand, ret })

/-- The sequencer of a Room gets the result of a blocking operation, or its error: BOLT_ABORT (R305, R312). -/
def State.roomBoltDone (s : State) (r : RoomId) (error : Bool) (result : W32) : State :=
  match (s.room r).ve.wait with
  | .bolt ret =>
    if (s.room r).runst = .fault then s
    else if error then s.faultRoom r 0x06 0x32
    else
      (s.updRoom r fun x =>
        let x := { x with ve := { x.ve with wait := .none } }
        match ret with
        | some g => x.setG g.toNat result.toNat
        | none => x).settle r
  | _ => s

/-! ## Slot triggers (R309) -/

/-- TRIGGER_REGISTRATION_SERVED: the engine records PHASE for a Room's registration, a registered wait. -/
def execTriggerRegistrationServed (r : RoomId) (s : State) : Host.Outcome State Fault Refusal :=
  .next <|
    let head (d : Nat) := (mapGet [] s.boltQ d).head?.any fun q => q.op == opTrigger && q.who == .trigger r
    match (List.range 4).find? head with
    | none => s
    | some d =>
      match mapGet [] s.boltQ d with
      | q :: rest =>
        let t := { s with boltQ := mapSet s.boltQ d rest }
        let x := s.bolt q.bolt
        if !s.live then s
        else if x.error then t.boltReply q.who true x.err 0
        else match t.register q x.phase with
          | some t => t.updRoom r fun y => { y with trig := .recorded x.phase }
          | none => s
      | [] => s

/-- BOLT_TRIGGER_NOTICE: the engine's notice meets the trigger, or faults the Room with BOLT_ABORT. -/
def execBoltTriggerNotice (r : RoomId) (s : State) : Host.Outcome State Fault Refusal :=
  .next <|
    match s.boltRsp.find? fun q : BoltRsp => q.who == .trigger r with
    | none => s
    | some q =>
      let t := { s with boltRsp := s.boltRsp.erase q }
      let x := s.room r
      if !s.live || x.runst == .fault || x.trig == .none then t
      else if q.error then t.faultRoom r 0x06 0x32
      else if x.runst == .run || x.runst == .halt then
        t.updRoom r fun x => { x with trigMet := true, trig := .none, firePending := false }
      else t

/-! ## Wait reports (R310) -/

/-- The waiter field of the BOLT_WAIT event: a Room, a stream, or another unit by its endpoint number. -/
def waiterId : Waiter → Nat
  | .room r => endpointNo (.room r)
  | .trigger r => endpointNo (.room r)
  | .stream sid => 0x8000 + sid
  | .porch _ => 0x4000 + endpointNo .porch
  | .host _ => 0x4000 + endpointNo .hostPort
  | .study => 0x4000 + endpointNo .study
  | .remote p _ => 0x4000 + endpointNo (.port p)

/-- BOLT_WAIT_REPORT: the k-th registered wait of a Bolt has lasted a whole stall window. -/
def execBoltWaitReport (b : BoltId) (k : Nat) (s : State) : Host.Outcome State Fault Refusal :=
  .next <|
    let x := s.bolt b
    match x.waiters[k]?, s.boltCtx b with
    | some w, some c =>
      if x.held || !s.live then s
      else
        (s.raise { cls := 0x0D, src := 3, unit := c.toNat, ctx := some c }).ctxEvent c 0x8003
          [(20, 2, s.boltRel c b), (22, 2, waiterId w.who), (24, 1, w.op.toNat), (25, 1, boolNat x.reported),
            (28, 4, x.value.toNat), (32, 4, x.phase.toNat)]
    | _, _ => s

/-! ## Bolt commands (13 R443) -/

/-- BOLT_CONFIG: STATE for a Bolt with a waiter, in error, or in a tree. -/
def execBoltConfig (q : Req) (s : State) : Host.Outcome State Fault Refusal :=
  .next <|
    s.commandWith q 0x0304 [(16, 0, 15), (18, 0, 3), (20, 0, 32), (24, 0, 32)]
      [(20, reqBit q 18 0 && reqNat q 20 4 == 0)] fun s =>
        let c := reqCtx q
        let i := reqNat q 16 2
        let b := s.boltAbs c i
        let x := s.bolt b
        if (s.ctx c).bolts ≤ i then s.reply q 0x13
        else if !x.waiters.isEmpty || x.error || isTree x then s.reply q 0x14
        else
          (s.setBolt b { x with barrier := reqBit q 18 0, ppoint := reqBit q 18 1, remoteOk := reqBit q 18 2, root := true
                                children := [], count := BitVec.ofNat 32 (reqNat q 20 4)
                                value := BitVec.ofNat 32 (reqNat q 24 4), phase := 0 }).reply q 0

/-- BOLT_READ: the record of R301. -/
def execBoltRead (q : Req) (s : State) : Host.Outcome State Fault Refusal :=
  .next <|
    s.commandWith q 0x0305 [(16, 0, 15)] [] fun s =>
      let i := reqNat q 16 2
      if (s.ctx (reqCtx q)).bolts ≤ i then s.reply q 0x13
      else s.reply q 0 0 [(16, 32, leNat (boltRecord (s.bolt (s.boltAbs (reqCtx q) i))))]

/-- BOLT_ABORT: HOST_ABORT (R311). -/
def execBoltAbort (q : Req) (s : State) : Host.Outcome State Fault Refusal :=
  .next <|
    s.commandWith q 0x0306 [(16, 0, 15)] [] fun s =>
      let i := reqNat q 16 2
      if (s.ctx (reqCtx q)).bolts ≤ i then s.reply q 0x13
      else (s.boltError (s.boltAbs (reqCtx q) i) 0x04).reply q 0

end Sys2Proof.Machine
end

