-- ==== Sys2Proof/Machine/Stream.lean ====
section
/-! DEFINITION. Streams (06 R192 to R219, R229; 07 R246): fetching, arbitration, data and acknowledgements, every
block-list entry, the weight chain, the step gate, the stream commands of 13 R444, and the results of Bolt operations. -/

namespace Sys2Proof.Machine

/-! ## Fetch and arbitration (R200, R209 to R211) -/

/-- A fetched entry joins the list. -/
def State.takeEntry (s : State) (sid : StreamId) (i v : Nat) : State :=
  (s.updStream sid fun t => { t with fetched := t.fetched ++ [(i, BitVec.ofNat 256 v)], fetching := none }).settleStream sid

/-- The entry that a stream would fetch next, where the last GUARD covers and skips it: it is not fetched (07 R246; assumption
72). -/
def State.skippedAhead (s : State) (t : Stream) (i : Nat) : Option Nat :=
  if t.fetched.length < t.guardLeft then
    match s.dvaNat t.ctx (t.listBase + BitVec.ofNat 64 (32 * i)) 32 with
    | .inl v => if skipped? t v then some v else none
    | .inr _ => none
  else none

/-- ENTRY_FETCH: the next entry of a stream's list is asked for, at most 128 ahead of the one it stands at; the fetch in flight,
once performed, is taken. A failed read faults the stream. -/
def execEntryFetch (sid : StreamId) (s : State) : Host.Outcome State Fault Refusal :=
  .next <|
    match s.stream sid with
    | none => s
    | some t =>
      match nextFetch t with
      | none => s
      | some i =>
        if !s.live || (t.st != .run && t.st != .wait) || !streamFree t || 128 < t.fetched.length || t.listLen.toNat ≤ i then s
        else
          let d := t.listBase + BitVec.ofNat 64 (32 * i)
          match t.fetching.bind s.access, s.skippedAhead t i with
          | none, some v => s.takeEntry sid i v
          | none, none =>
            let (id, s) := s.dwAccess sid t false d 32 [] []
            s.updStream sid fun t => { t with fetching := some id }
          | some a, _ =>
            match a.st with
            | .done code data bad =>
              let s := s.dropFetch sid
              if code ≠ 0 then (s.stopStream sid code.toNat d).settleStream sid
              else if !bad.isEmpty then (s.stopStream sid 0x08 d).settleStream sid
              else s.takeEntry sid i (leNat data)
            | _ => s

/-- Streams that become eligible in this hc take it as T_e (R210). -/
def State.markEligible (s : State) (dw : Nat) (tm : W32) : State :=
  (s.dwStreams dw).foldl (fun s e =>
    let ok := s.eligible e.1 e.2
    s.updStream e.1 fun t => { t with elig := ok, te := if ok && !t.elig && !t.chainKind then tm else t.te }) s

/-- Issue slot `j` of an hc is one that a capped Dumbwaiter keeps: k of every 16, evenly spread (13 R417; assumption 84). -/
def slotKept (k : Nat) (tm : W32) (j : Nat) : Bool :=
  let n := 2 * tm.toNat + j + Config.capPhase
  decide (n * k / 16 < (n + 1) * k / 16)

/-- One grant, to the eligible stream with the earliest deadline, in a slot that the cap of DW 0 to 7 leaves. -/
def State.grantOne (s : State) (dw : Nat) (tm : W32) (j : Nat) : State :=
  match if dw < 8 && !slotKept s.power.k tm j then none else s.winner dw tm with
  | some (sid, t) => (s.grant sid t tm).settleStream sid
  | none => s

/-- DW_ARBITRATION: one hc of a Dumbwaiter: up to two grants, then T advances. That of a stack not in use stays idle (05 R166). -/
def execDwArbitration (dw : BitVec 4) (s : State) : Host.Outcome State Fault Refusal :=
  .next <|
    let n := dw.toNat
    if !s.live || 10 ≤ n || (decide (n < 8) && mapGet 0 s.stackCh n == 0) then s
    else
      let tm := (mapGet {} s.dws n).t
      let s := (((s.markEligible n tm).grantOne n tm 0).grantOne n tm 1)
      { s with dws := mapSet s.dws n { t := tm + 1 } }

/-! ## Data and acknowledgements (R193, R199, R206, R207) -/

def State.dropAccess (s : State) (id : Nat) : State := { s with accesses := s.accesses.filter fun a => a.id != id }

/-- Change grant k of a stream. -/
def State.updGrant (s : State) (sid : StreamId) (k : Nat) (f : Grant → Grant) : State :=
  s.updStream sid fun t => { t with grants := match t.grants[k]? with
                                      | some g => t.grants.set k (f g)
                                      | none => t.grants }
def State.dropGrant (s : State) (sid : StreamId) (k : Nat) : State :=
  s.updStream sid fun t => { t with grants := t.grants.eraseIdx k }

/-- The mask of a GUARD has been read: the next ARG entries are covered (R203). -/
def takeMask (t : Stream) (w : Nat) (mask : W64) : Stream :=
  { advance t with
    st := .run, guardLeft := eArg w, guardMask := mask
    held := some (eSrc w, eMaskAlt w, BitVec.ofNat 15 (eBolt w), mask) }

/-- Read data of a copy goes on as writes, poisoned units as poison (R207). -/
def State.copyData (s : State) (sid : StreamId) (t : Stream) (k : Nat) (g : Grant) (data : List Byte) (bad : List Nat) : State :=
  let d := eDst g.word.toNat + BitVec.ofNat 64 g.off
  let step (acc : List Nat × State) (p : Nat × Nat) : List Nat × State :=
    let us := (bad.filter fun u => decide (p.1 ≤ 64 * u) && decide (64 * u < p.1 + p.2)).map fun u => u - p.1 / 64
    let (id, s) := acc.2.dwAccess sid t true (d + BitVec.ofNat 64 p.1) p.2 ((data.drop p.1).take p.2) us
    (acc.1 ++ [id], s)
  let (ids, s) := (pieces512 d.toNat 3 0 g.len).foldl step ([], s)
  (s.updGrant sid k fun g => { g with sent := true, writes := ids }).updStream sid fun t =>
    { t with poisonCnt := t.poisonCnt + BitVec.ofNat 32 bad.length
             faultDva := if !bad.isEmpty && ePoisonStop g.word.toNat && t.poisonAt == none then eSrc g.word.toNat + BitVec.ofNat 64 g.off
               else t.faultDva
             poisonAt := if !bad.isEmpty && ePoisonStop g.word.toNat && t.poisonAt == none then some g.exec else t.poisonAt }

/-- Read data of a weight block goes to the chain head's ingress. -/
def State.chainData (s : State) (sid : StreamId) (t : Stream) (k : Nat) (g : Grant) (data : List Byte) (bad : List Nat) : State :=
  let put (i : Ingress) : Ingress :=
    if i.block.stream = sid && i.exec == g.exec then
      { i with missing := i.missing - g.len
               block := { i.block with data := memWrites i.block.data g.off data
                                       poison := i.block.poison ++ bad.map (· + g.off / 64) } }
    else i
  ((s.updWing t.wing fun x => { x with ingress := x.ingress.map put }).updGrant sid k fun g => { g with sent := true }).updStream
    sid fun t => { t with poisonCnt := t.poisonCnt + BitVec.ofNat 32 bad.length }

/-- DW_READ_DATA: the data of a stream's k-th open request leaves its source for its destination; a failed read faults the
stream with its code. -/
def State.dwReadData (s : State) (sid : StreamId) (k : Nat) : State :=
    match s.stream sid with
    | none => s
    | some t =>
      match t.grants[k]? with
      | none => s
      | some g =>
        match s.access g.read with
        | none => s
        | some a =>
          match a.st with
          | .done code data bad =>
            if g.sent then s
            else
              let s := s.dropAccess g.read
              let s :=
                if code ≠ 0 then (s.stopStream sid code.toNat a.dva).dropGrant sid k
                else if g.mask then
                  let off := (eSrc g.word.toNat).toNat % 64
                  if !bad.isEmpty then (s.stopStream sid 0x08 a.dva).dropGrant sid k
                  else
                    (s.dropGrant sid k).updStream sid fun t =>
                      if streamFree t then takeMask t g.word.toNat (BitVec.ofNat 64 (leNat ((data.drop off).take 8))) else t
                else if t.chainKind then s.chainData sid t k g data bad
                else s.copyData sid t k g data bad
              s.settleStream sid
          | _ => s

/-- DW_WRITE_ACK: the destination has taken the data of a stream's k-th request. -/
def State.dwWriteAck (s : State) (sid : StreamId) (k : Nat) : State :=
    match s.stream sid with
    | none => s
    | some t =>
      match t.grants[k]? with
      | none => s
      | some g =>
        let outs := g.writes.map fun id => (s.access id).map fun a => (a.dva, a.st)
        let code (o : Option (Dva × AccState)) : Option (Dva × Byte) :=
          match o with
          | some (d, .done c _ _) => some (d, c)
          | _ => none
        if !g.sent || outs.any (fun o => (code o).isNone) then s
        else
          let s := g.writes.foldl (fun s id => s.dropAccess id) (s.dropGrant sid k)
          let s := match (outs.filterMap code).find? fun e => e.2 != 0 with
            | some (d, c) => s.stopStream sid c.toNat d
            | none => s.updStream sid fun t => { t with bytes := t.bytes + BitVec.ofNat 64 g.len }
          s.settleStream sid

/-! ## Entries (R198 to R203, R218, R219, R229; 07 R246) -/

/-- The entry a stream stands at, when the stream may execute it. -/
def State.atEntry (s : State) (sid : StreamId) : Option (Stream × Nat) :=
  match s.stream sid with
  | none => none
  | some t =>
    match t.fetched with
    | (_, w) :: _ =>
      if s.live && t.st == .run && streamFree t && t.poisonAt == none && !t.begun && !t.boundaryHold &&
          (t.study || (s.ctx t.ctx).st != .failed) then some (t, w.toNat) else none
    | [] => none

/-- Execute the current entry, of OP `op`: a covered entry whose mask bit is 0 is skipped; LIST_BAD faults the stream, and an
XFER to TIER 4 or 5 its context too (R201). -/
def State.entryStep (s : State) (sid : StreamId) (op : Nat) (f : Stream → Nat → State → State) : State :=
  match s.atEntry sid with
  | none => s
  | some (t, w) =>
    if eOp w ≠ op then s
    else
      let s :=
        if decide (0 < t.guardLeft) && (op == 5 || op == 6) then s.stopStream sid 0x20
        else if skipped? t w then s.updStream sid fun t => { advance t with skipped := t.skipped + 1 }
        else if s.entryListBad t w then
          let s := s.stopStream sid 0x20
          if op = 1 && (dvaTier (eDst w) == 4 || dvaTier (eDst w) == 5) then
            s.raise { cls := 0x09, src := 3, unit := t.ctx.toNat, ctx := some t.ctx, detail := BitVec.ofNat 64 sid }
          else s
        else f t w s
      s.settleStream sid

/-- An XFER or CHAIN entry begins: its requests may be granted. -/
def beginEntry (t : Stream) : Stream := { t with begun := true, exec := t.exec + 1, pos := 0 }

/-- XFER (R201). -/
def execXferEntry (sid : StreamId) (s : State) : Host.Outcome State Fault Refusal :=
  .next (s.entryStep sid 1 fun _ _ s => s.updStream sid beginEntry)

/-- CHAIN (R202). -/
def execChainEntry (sid : StreamId) (s : State) : Host.Outcome State Fault Refusal :=
  .next (s.entryStep sid 2 fun _ _ s => s.updStream sid beginEntry)

/-- Every block delivered before has been freed in every Room (R218). -/
def State.chainDrained (s : State) (sid : StreamId) (t : Stream) : Bool :=
  t.occ == 0 && t.grants.isEmpty && (s.wing t.wing).ingress.all (fun i => i.block.stream != sid) &&
    (s.wing t.wing).sent.all fun b => b.stream != sid

/-- A stream sends a Bolt operation. -/
def State.streamAsk (s : State) (sid : StreamId) (t : Stream) (bolt op cond : Nat) (operand : W32) : State :=
  s.boltAsk { who := .stream sid, ctx := t.ctx, bolt := s.boltAbs t.ctx bolt, op := BitVec.ofNat 4 op
              cond := BitVec.ofNat 3 cond, operand }

/-- LAYER_END: a serving stream counts it and goes on; a deterministic one drains, arrives at LAYER_BOLT and waits. -/
def execLayerEnd (sid : StreamId) (s : State) : Host.Outcome State Fault Refusal :=
  .next <| s.entryStep sid 3 fun t _ s =>
    if t.tclass then s.updStream sid fun t => { advance t with layer := t.layer + 1, held := none }
    else if s.chainDrained sid t then
      (s.updStream sid fun t => { t with layer := t.layer + 1, held := none, st := .wait, waiting := .layerBolt }).streamAsk
        sid t t.layerBolt.toNat 2 0 1
    else s

def clearGate (t : Stream) : Stream :=
  { t with gateArm := false, gateGo := false, gateAbort := false, pendValid := false, holdEn := false }

/-- At the gate with GATE_GO or GATE_ABORT: abandon, or take the pending list and the hold (R229 steps 2 to 5). -/
def State.passGate (s : State) (sid : StreamId) : State :=
  match s.stream sid with
  | none => s
  | some t =>
    if t.gateAbort then s.updStream sid fun t => { clearGate (advance t) with st := .run }
    else if t.gateGo then
      let moved : Stream := if t.pendValid then
          { t with listBase := t.pendBase, listLen := t.pendLen, entry := 0, fetched := [], fetching := none, guardLeft := 0, begun := false }
        else advance t
      let s := if t.pendValid then s.dropFetch sid else s
      if t.holdEn then
        (s.setStream sid { moved with st := .wait, waiting := .hold }).streamAsk sid t t.holdBolt.toNat 2 0 1
      else s.setStream sid { clearGate moved with st := .run, waiting := .none }
    else s

/-- STEP_END: STEP advances; at the armed step the stream stops at its gate. -/
def State.stepEnd (s : State) (sid : StreamId) : State :=
  s.entryStep sid 4 fun t _ s =>
    if t.gateArm && t.step + 1 == t.gateStep then
      (s.updStream sid fun t => { t with step := t.step + 1, held := none, st := .wait, waiting := .gate }).passGate sid
    else s.updStream sid fun t => { advance t with step := t.step + 1, held := none }

/-- LOOP. -/
def execListLoop (sid : StreamId) (s : State) : Host.Outcome State Fault Refusal :=
  .next (s.entryStep sid 5 fun _ _ s => s.updStream sid advance)

/-- GUARD: it waits for its Bolt's condition and then reads its mask, unless the held copy serves it. -/
def execGuardEntry (sid : StreamId) (s : State) : Host.Outcome State Fault Refusal :=
  .next <| s.entryStep sid 6 fun t w s =>
    let again := match t.held with
      | some (src, alt, b, mask) => if src = eSrc w && alt == eMaskAlt w && b.toNat == eBolt w then some mask else none
      | none => none
    match again with
    | some mask => s.updStream sid fun t => takeMask t w mask
    | none =>
      (s.updStream sid fun t => { t with st := .wait, waiting := .guard }).streamAsk sid t (eBolt w) 0 (imm2Cond (eImm2 w))
        (listOperand t (eImm2 w) (eWaitArg w))

/-- BOLT: performed once every earlier entry is complete. -/
def execListBolt (sid : StreamId) (s : State) : Host.Outcome State Fault Refusal :=
  .next <| s.entryStep sid 7 fun t w s =>
    if s.listDrained sid t then
      (s.updStream sid fun t => { advance t with held := none }).streamAsk sid t (eBolt w) (imm2Op (eImm2 w))
        (imm2Cond (eImm2 w)) (listOperand t (eImm2 w) (eArg w))
    else s

/-- WAIT: no grant until the Bolt operation's condition holds. -/
def execListWait (sid : StreamId) (s : State) : Host.Outcome State Fault Refusal :=
  .next <| s.entryStep sid 8 fun t w s =>
    (s.updStream sid fun t => { t with held := none, st := .wait, waiting := .boltEntry }).streamAsk sid t (eBolt w)
      (imm2Op (eImm2 w)) (imm2Cond (eImm2 w)) (listOperand t (eImm2 w) (eArg w))

/-- NOP. -/
def execListNop (sid : StreamId) (s : State) : Host.Outcome State Fault Refusal :=
  .next (s.entryStep sid 0 fun _ _ s => s.updStream sid advance)

/-- STOP: the stream ends once every earlier entry is complete. -/
def State.stopEntry (s : State) (sid : StreamId) : State :=
  s.entryStep sid 0xF fun t _ s => if s.listDrained sid t then (s.updStream sid advance).endStream sid .done else s

/-! ## Results of Bolt operations (09 R305, R312) -/

/-- A stream's wait has returned. An error leaves it in WAIT until its context fails. -/
def State.streamBoltDone (s : State) (sid : StreamId) (error : Bool) : State :=
  match s.stream sid with
  | none => s
  | some t =>
    if t.st ≠ .wait || error then s
    else
      let s := match t.waiting, t.fetched with
        | .guard, (_, w) :: _ =>
          let src := eSrc w.toNat + BitVec.ofNat 64 (if eMaskAlt w.toNat then 256 * (t.step.toNat % 2) else 0)
          let (id, s) := s.dwAccess sid t false (BitVec.ofNat 64 (src.toNat / 64 * 64)) 64 [] []
          let g : Grant := { exec := t.exec + 1, word := w, off := 0, len := 0, read := id, mask := true }
          s.updStream sid fun t => { t with exec := t.exec + 1, grants := t.grants ++ [g] }
        | .hold, _ => s.updStream sid fun t => { clearGate t with st := .run, waiting := .none }
        | .gate, _ => s
        | .none, _ => s
        | _, _ => s.updStream sid fun t => { advance t with st := .run }
      s.settleStream sid

def isPorch : Waiter → Bool
  | .porch _ => true
  | _ => false

/-- BOLT_RESPONSE_ARRIVAL: the k-th result or wake on its way reaches its requester; the Porch's come in the order of release (08
R274). A trigger's notice has a row of its own. -/
def State.boltResponse (s : State) (k : Nat) : State :=
    match s.boltRsp[k]? with
    | none => s
    | some q =>
      let t := { s with boltRsp := s.boltRsp.eraseIdx k }
      match q.who with
      | .room r => t.roomBoltDone r q.error q.result
      | .stream sid => t.streamBoltDone sid q.error
      | .porch svc =>
        if (s.boltRsp.take k).any fun r => isPorch r.who then s
        else if q.error then t
        else { t with nextDone := t.nextDone + 1 }.updService svc fun v => { v with doneSeen := true, doneNo := t.nextDone }
      | .trigger _ => s
      | _ => t

/-! ## The weight chain (R214 to R217) -/

/-- Units of a Room's chain buffer in use or on their way to it. -/
def State.chainUnits (s : State) (r : RoomId) : Nat :=
  (((s.room r).chain.map fun b => b.len / 64).sum) +
    (((s.wing (wingOf r)).sent.filter fun b => bitOf b.mask.toNat (r.toNat % 16) && !bitOf b.arrived.toNat (r.toNat % 16)).map
      fun b => b.len / 64).sum

/-- Rooms of a block's mask, ascending, that lack space for it. -/
def State.lacking (s : State) (w : WingId) (b : ChainBlock) : List RoomId :=
  (maskRooms w b.mask).filter fun r => decide (512 < s.chainUnits r + b.len / 64)

/-- CHAIN_HEAD_BLOCK_SEND: the head's first block leaves when it is whole and every Room of its mask has space. -/
def execChainHeadBlockSend (w : WingId) (s : State) : Host.Outcome State Fault Refusal :=
  .next <|
    match (s.wing w).ingress with
    | i :: rest =>
      if s.live && i.missing == 0 && (s.lacking w i.block).isEmpty then
        s.updWing w fun x => { x with ingress := rest, sent := x.sent ++ [i.block] }
      else s
    | [] => s

/-- Change the first block that a predicate picks. -/
def updFirst (p : ChainBlock → Bool) (f : ChainBlock → ChainBlock) : List ChainBlock → List ChainBlock
  | [] => []
  | b :: l => if p b then f b :: l else b :: updFirst p f l

/-- The order in which the chain visits the Rooms of a Wing (R213). -/
def chainOrder : List Nat := [0, 1, 2, 3, 7, 6, 5, 4, 8, 9, 10, 11, 15, 14, 13, 12]

/-- A block has passed every Room of its mask that the chain visits before ROOM i (R214). -/
def chainPassed (b : ChainBlock) (i : Nat) : Bool :=
  (chainOrder.takeWhile fun k => k != i).all fun k => !bitOf b.mask.toNat k || bitOf b.arrived.toNat k

/-- CHAIN_BLOCK_DELIVERED: the oldest block on its way to a Room lies whole in the Room's buffer, behind the Rooms that the chain
visits before. -/
def execChainBlockDelivered (r : RoomId) (s : State) : Host.Outcome State Fault Refusal :=
  .next <|
    let i := r.toNat % 16
    let p (b : ChainBlock) := bitOf b.mask.toNat i && !bitOf b.arrived.toNat i
    match (s.wing (wingOf r)).sent.find? p with
    | some b =>
      if s.live && chainPassed b i then
        (s.updRoom r fun x => { x with chain := x.chain ++ [b] }).updWing (wingOf r) fun x =>
          { x with sent := updFirst p (fun b => { b with arrived := b.arrived ||| BitVec.ofNat 16 (2 ^ i) }) x.sent }
      else s
    | none => s

/-- CHAIN_BLOCK_FREE: a Room frees the block at the head of its buffer after its last use. -/
def execChainBlockFree (r : RoomId) (s : State) : Host.Outcome State Fault Refusal :=
  .next <|
    let i := r.toNat % 16
    let x := s.room r
    let p (b : ChainBlock) := bitOf b.arrived.toNat i && !bitOf b.freed.toNat i
    if s.live && decide (0 < x.chainUsed) then
      (s.updRoom r fun x => { x with chain := x.chain.tail, chainUsed := x.chainUsed - 1 }).updWing (wingOf r) fun y =>
        { y with sent := updFirst p (fun b => { b with freed := b.freed ||| BitVec.ofNat 16 (2 ^ i) }) y.sent }
    else s

/-- FREED_BYTES_ARRIVAL: the bytes of a block that every Room of its mask has freed leave OCC. -/
def execFreedBytesArrival (w : WingId) (s : State) : Host.Outcome State Fault Refusal :=
  .next <|
    match (s.wing w).sent.find? fun b => b.freed == b.mask with
    | some b =>
      (s.updWing w fun x => { x with sent := x.sent.erase b }).updStream b.stream fun t => { t with occ := t.occ - b.len }
    | none => s

/-- CHAIN_BLOCKED_REPORT: the head block has waited a whole stall window for space. -/
def execChainBlockedReport (w : WingId) (s : State) : Host.Outcome State Fault Refusal :=
  .next <|
    match (s.wing w).ingress with
    | i :: _ =>
      match s.lacking w i.block, s.stream i.block.stream with
      | r :: _, some t =>
        if s.live && i.missing == 0 then
          let s := s.updStream i.block.stream fun t => { t with blocked := t.blocked + 1 }
          (s.raise { cls := 0x0C, src := 2, unit := i.block.stream, ctx := some t.ctx }).ctxEvent t.ctx 0x8002
            [(20, 2, i.block.stream), (22, 1, w.toNat), (23, 1, r.toNat % 16)]
        else s
      | _, _ => s
    | [] => s

/-! ## The step gate (R229) -/

/-- GATE_ARM_WRITE: ACCEPTED when STEP is below GATE_STEP, else LATE, which is counted. -/
def State.armGate (s : State) (sid : StreamId) (step : W32) (pend : Option (Dva × BitVec 24)) (hold : Option (BitVec 15)) : State :=
  s.updStream sid fun t =>
    if t.step < step then
      let t := { t with gateArm := true, gateStep := step, pendValid := pend.isSome, holdEn := hold.isSome }
      let t := match pend with
        | some (b, n) => { t with pendBase := b, pendLen := n }
        | none => t
      match hold with
      | some b => { t with holdBolt := b }
      | none => t
    else { t with late := t.late + 1 }

def execGateArmWrite (sid : StreamId) (step : W32) (pend : Option (Dva × BitVec 24)) (hold : Option (BitVec 15)) (s : State) :
    Host.Outcome State Fault Refusal := .next (s.armGate sid step pend hold)

/-- A gate bit is set; a stream at its gate acts on it. -/
def State.gateDecide (s : State) (sid : StreamId) (f : Stream → Stream) : State :=
  let s := s.updStream sid f
  match s.stream sid with
  | some t => if t.st == .wait && t.waiting == .gate then (s.passGate sid).settleStream sid else s
  | none => s

/-- GATE_GO. -/
def execGateGo (sid : StreamId) (s : State) : Host.Outcome State Fault Refusal :=
  .next (s.gateDecide sid fun t => { t with gateGo := true })
/-- GATE_ABORT. -/
def State.gateAbort (s : State) (sid : StreamId) : State := s.gateDecide sid fun t => { t with gateAbort := true }

/-! ## Stream commands (R196, R197, R208, R212; 13 R444) -/

/-- Admission limit of a Dumbwaiter in bytes per 256 hc: 85 % of its native read bandwidth (R212). -/
def State.rateLimit (s : State) (dw : Nat) : Nat :=
  if dw < 8 then 222822 * mapGet 0 s.stackCh dw / 32
  else
    let ch := 4 * (([2 * (dw - 8), 2 * (dw - 8) + 1]).filter fun g => decide (0 < mapGet 0 s.groupFrames g)).length
    let rate := match bitsOf s.ident.mem.toNat 8 2 with
      | 1 => 704
      | 2 => 1024
      | _ => 0
    85 * 256 * ch * rate / 2400

/-- A list address: aligned, local, TIER 1 or TIER 0; LIST_BASE not in a Shelf. -/
def State.listDvaOk (s : State) (d : Dva) (al : Nat) (larder : Bool) : Bool :=
  d.toNat % al == 0 && s.isLocal d &&
    (dvaTier d == 1 || (dvaTier d == 0 && (!larder || !bitOf (dvaOff d) 30)))

/-- The stream of a 64-byte descriptor; the gate fields are the Study's and start clear (assumption 27). -/
def streamOf (c : CtxId) (v : Nat) : Stream :=
  let f (off n : Nat) := bitsOf v (8 * off) (8 * n)
  { chainKind := bitOf v 0, tclass := bitOf v 1, wing := BitVec.ofNat 6 (f 2 2), rate := BitVec.ofNat 16 (f 4 2)
    bulkSlack := BitVec.ofNat 16 (f 6 2), listBase := BitVec.ofNat 64 (f 8 8), listLen := BitVec.ofNat 24 (f 16 3)
    start := BitVec.ofNat 24 (f 20 3), layerBolt := BitVec.ofNat 15 (f 40 2), holdBolt := BitVec.ofNat 15 (f 42 2)
    step := BitVec.ofNat 32 (f 44 4), statusAddr := BitVec.ofNat 64 (f 48 8), ctx := c, entry := BitVec.ofNat 24 (f 20 3) }

/-- Reserved bits of a descriptor. -/
def descReserved (v : Nat) : Bool :=
  let f (off lo w : Nat) := bitsOf v (8 * off + lo) w != 0
  f 0 7 1 || f 1 4 4 || f 3 0 8 || f 2 6 2 || f 19 0 8 || f 23 0 8 || f 35 0 8 || f 41 7 1 || f 43 7 1 || f 56 6 2 || f 57 0 56

/-- Status of a stream creation beside the streams held: 0, BAD_DESCRIPTOR or NO_STREAM (R197, R212). The Dumbwaiter of a stack
not in use takes no stream (05 R166; assumption 73). -/
def State.descStatus (s : State) (c : CtxId) (dw : Nat) (t : Stream) (all : List (StreamId × Stream)) : Nat :=
  let chains := all.filter fun e => e.2.chainKind
  if 10 ≤ dw || (t.chainKind && (t.rate == 0 || t.bulkSlack != 0)) || (!t.chainKind && (t.rate != 0 || t.bulkSlack == 0 || t.tclass)) ||
    (t.chainKind && ((s.wing t.wing).ctx != some c || chains.any fun e => e.2.wing == t.wing)) ||
    !s.listDvaOk t.listBase 32 true || !s.listDvaOk t.statusAddr 64 false || t.listLen ≤ t.start then 0x0F
  else if decide (dw < 8) && mapGet 0 s.stackCh dw == 0 then 0x06
  else if t.chainKind && decide (s.rateLimit dw < ((chains.filter fun e => e.1 / 64 == dw).map fun e => e.2.rate.toNat).sum + t.rate.toNat) then
    0x06
  else 0

/-- STREAM_CREATE. -/
def execStreamCreate (q : Req) (s : State) : Host.Outcome State Fault Refusal :=
  .next <|
    s.commandWith q 0x0401 [(16, 0, 512)] [] fun s =>
      let c := reqCtx q
      let v := reqNat q 16 64
      let t := { streamOf c v with hostMade := true }
      let dw := bitsOf v 8 4
      if (s.ctx c).st ≠ .active then s.reply q 0x14 (ctxStNum (s.ctx c).st)
      else if descReserved v then s.reply q 0x0F
      else match s.descStatus c dw t s.heldStreams, freeStream s.heldStreams dw with
        | 0, some sid => (s.setStream sid t).reply q 0 0 [(16, 2, sid)]
        | 0, none => s.reply q 0x06
        | e, _ => s.reply q e

/-- The stream a command names, when it belongs to the command's context; else DENIED. -/
def State.withStream (s : State) (q : Req) (op : Nat) (f : StreamId → Stream → State → State) : State :=
  s.commandWith q op [(16, 0, 16)] [] fun s =>
    match s.stream (reqNat q 16 2) with
    | some t => if t.ctx = reqCtx q && !t.study then f (reqNat q 16 2) t s else s.reply q 0x13
    | none => s.reply q 0x13

/-- STREAM_START. -/
def execStreamStart (q : Req) (s : State) : Host.Outcome State Fault Refusal :=
  .next <| s.withStream q 0x0402 fun sid t s =>
    if t.st ≠ .created then s.reply q 0x14 (streamStNum t.st)
    else if (s.ctx t.ctx).st ≠ .active then s.reply q 0x14 (ctxStNum (s.ctx t.ctx).st)
    else
      let s := (s.updStream sid fun t => { t with st := .run }).updCtx t.ctx fun x => { x with fresh := false }
      (s.reply q 0).settleStream sid

/-- Cancel a stream (R208). -/
def State.cancelStream (s : State) (sid : StreamId) : State :=
  match s.stream sid with
  | none => s
  | some t =>
    match t.st with
    | .created => s.endStream sid .cancelled
    | .run | .wait => (s.updStream sid fun t => { t with cancelReq := true }).settleStream sid
    | _ => s

/-- STREAM_CANCEL. -/
def execStreamCancel (q : Req) (s : State) : Host.Outcome State Fault Refusal :=
  .next <| s.withStream q 0x0403 fun sid t s =>
    if t.model.isSome then s.reply q 0x14 (streamStNum t.st) else (s.cancelStream sid).reply q 0

/-- STREAM_SNAPSHOT: the status record is written and answered. -/
def execStreamSnapshot (q : Req) (s : State) : Host.Outcome State Fault Refusal :=
  .next <| s.withStream q 0x0404 fun sid t s => (s.writeStatus sid).reply q 0 0 [(16, 64, leNat (statusRecord t))]

/-- STREAM_FREE. -/
def execStreamFree (q : Req) (s : State) : Host.Outcome State Fault Refusal :=
  .next <| s.withStream q 0x0405 fun sid t s =>
    if t.model.isSome || t.st == .run || t.st == .wait then s.reply q 0x14 (streamStNum t.st)
    else ({ s with streams := mapDel s.streams sid }).reply q 0

end Sys2Proof.Machine
end

