-- ==== Sys2Proof/Machine/Revision.lean ====
section
/-! DEFINITION. Gates of a model armed together (06 R229), and expert placement: the route record, the placement that its Steward
computes, and a revision on each device (07 R235, R252 to R255, R258). -/

namespace Sys2Proof.Machine

/-! ## The gates of a model (06 R229) -/

/-- CHAIN streams of a model. -/
def State.chainsOf (s : State) (m : Model) : List (StreamId × Stream) :=
  m.streams.filterMap fun sid =>
    match s.stream sid with
    | some t => if t.chainKind then some (sid, t) else none
    | none => none

/-- No gate stands, and no stream waits at a hold. -/
def gatesClear (ts : List (StreamId × Stream)) : Bool := ts.all fun e => !e.2.gateArm && e.2.waiting != .hold

/-- Arm streams at one step, each with the list and the hold it is given; GATE_ABORT on the armed ones where an arm is LATE. Answers
whether every arm is accepted. -/
def State.armAll (s : State) (ts : List (StreamId × Stream)) (at_ : W32) (pend : StreamId × Stream → Option (Dva × BitVec 24))
    (hold : Bool) : State × Bool :=
  let t := ts.foldl (fun s e => s.armGate e.1 at_ (pend e) (if hold then some e.2.holdBolt else none)) s
  if ts.all fun e => decide (e.2.step < at_) then (t, true)
  else ((ts.filter fun e => decide (e.2.step < at_)).foldl (fun s e => s.gateAbort e.1) t, false)

/-- GATE_GO on every stream. -/
def State.goAll (s : State) (ts : List (StreamId × Stream)) : State :=
  ts.foldl (fun s e => s.gateDecide e.1 fun t => { t with gateGo := true }) s

/-! ## The route record and the placement (R235, R252, R255) -/

/-- A route record. -/
structure Route where
  capacity : Bool
  e : Nat
  tmax : Nat
  frows : Nat
  sources : Nat
  cap : Nat
  placeVa : Dva
  statusVa : Dva
  loadVa : Dva
  deriving DecidableEq, Repr

def State.routeOf (s : State) (c : CtxId) (d : Dva) : Option Route :=
  match s.dvaNat c d 64 with
  | .inl v =>
    let f (off n : Nat) := bitsOf v (8 * off) (8 * n)
    some { capacity := bitOf v 2, e := bitsOf v 16 10, tmax := f 8 2, frows := 64 * 2 ^ bitsOf v 80 2, sources := bitsOf v 96 13
           cap := f 14 2, placeVa := BitVec.ofNat 64 (f 16 8), statusVa := BitVec.ofNat 64 (f 48 8)
           loadVa := BitVec.ofNat 64 (f 56 8) }
  | .inr _ => none

/-- Largest E of a model's routed layers, 0 when it has none (13 R433). -/
def State.routedE (s : State) (c : CtxId) (m : Model) : Nat :=
  (Config.routeRecords m.modelId m.version).foldl (fun n d => max n (((s.routeOf c d).map (·.e)).getD 0)) 0

/-- Instances of each expert: one each, the rest of the budget by largest remainder, at most 8. -/
def replicas (loads : List Nat) (budget : Nat) : List Nat :=
  let total := loads.sum
  let n := loads.length
  let spare := budget - n
  if total = 0 then loads.map fun _ => 1
  else
    let rem (i : Nat) := loads.getD i 0 * spare % total
    let base := loads.map fun l => l * spare / total
    let left := spare - base.sum
    let rank (i : Nat) := ((List.range n).filter fun k => decide (rem i < rem k) || (rem k == rem i && decide (k < i))).length
    base.zipIdx.map fun e => min 8 (1 + e.1 + boolNat (decide (rank e.2 < left)))

/-- Folds of each instance of an expert. -/
def foldsOf (r : Route) (nrep : Nat) : Nat :=
  let x := if r.capacity then r.cap else r.tmax
  (x + nrep * r.frows - 1) / (nrep * r.frows)

/-- Lowest run of free guard bits. -/
def freeRun (used : List Nat) (folds : Nat) : Option Nat :=
  (List.range (65 - folds)).find? fun b => (List.range folds).all fun i => !used.contains (b + i)

/-- An instance: expert, node, Wing, first guard bit, folds. -/
structure Placed where
  expert : Nat
  node : NodeId
  wing : WingId
  gbase : Nat
  folds : Nat
  deriving DecidableEq, Repr

/-- The Wings of a model in ascending node and then Wing order. -/
def wingsInOrder (ws : List (NodeId × WingId)) : List (NodeId × WingId) :=
  let key (w : NodeId × WingId) : Nat := w.1.toNat * 64 + w.2.toNat
  ws.foldr (fun w l => (l.filter fun x => decide (key x < key w)) ++ w :: l.filter fun x => decide (key w < key x)) []

/-- Place one instance on the first Wing that has room and no other instance of its expert. -/
def placeOne (wings : List (NodeId × WingId)) (done : List Placed) (e folds : Nat) : Option Placed :=
  if 16 < folds then none
  else wings.findSome? fun w =>
    let here := done.filter fun p => p.node == w.1 && p.wing == w.2
    if here.any fun p => p.expert == e then none
    else (freeRun (here.flatMap fun p => (List.range p.folds).map (p.gbase + ·)) folds).map fun b =>
      { expert := e, node := w.1, wing := w.2, gbase := b, folds }

/-- Place every instance, in ascending expert and instance order. -/
def placeAll (r : Route) (wings : List (NodeId × WingId)) (reps : List Nat) : Option (List Placed) :=
  (reps.zipIdx.flatMap fun e => List.replicate e.1 e.2).foldl (fun (acc : Option (List Placed)) e =>
    acc.bind fun done => (placeOne wings done e (foldsOf r (reps.getD e 1))).map fun p => done ++ [p]) (some [])

/-- The expert with the most instances and, of those, the lowest load per instance; none when all are back at one. -/
def giveUp (loads reps : List Nat) : Option Nat :=
  let most := reps.foldl max 1
  if most = 1 then none
  else
    let c := (List.range reps.length).filter fun i => reps.getD i 1 == most
    c.find? fun i => c.all fun k => decide (loads.getD i 0 ≤ loads.getD k 0)

/-- R255 with its shortfall rule. -/
def placement (r : Route) (wings : List (NodeId × WingId)) (loads : List Nat) : Nat → List Nat → Option (List Nat × List Placed)
  | 0, _ => none
  | k + 1, reps =>
    match placeAll r wings reps with
    | some ps => some (reps, ps)
    | none =>
      match giveUp loads reps with
      | some i => placement r wings loads k (reps.set i (reps.getD i 1 - 1))
      | none => none

/-- Predicted largest rows per instance. -/
def predicted (loads reps : List Nat) (steps : Nat) : Nat :=
  (loads.zipIdx.map fun e => let d := max 1 (reps.getD e.2 1) * max 1 steps; (e.1 + d - 1) / d).foldl max 0

/-- An expert entry of a placement copy. -/
def placeEntry (ps : List Placed) : List Byte :=
  layout 64 ((0, 1, ps.length) :: ps.zipIdx.flatMap fun e =>
    let b := 8 + 6 * e.2
    [(b, 2, e.1.node.toNat), (b + 2, 1, e.1.wing.toNat), (b + 3, 1, e.1.gbase), (b + 4, 1, e.1.folds)])

/-- The bytes of a copy, with VALID = 0. -/
def placeCopy (e : Nat) (ps : List Placed) : List Byte :=
  layout 64 [(12, 2, e)] ++ (List.range e).flatMap fun i => placeEntry (ps.filter fun p => p.expert == i)

/-- Header of a placement copy: VALID, VERSION, FROM_STEP. -/
def State.placeHead (s : State) (c : CtxId) (d : Dva) : Option (Bool × W32 × W32) :=
  match s.dvaNat c d 12 with
  | .inl v => some (bitOf v 0, BitVec.ofNat 32 (bitsOf v 32 32), BitVec.ofNat 32 (bitsOf v 64 32))
  | .inr _ => none

/-- Write runs of bytes at their addresses; the code of the first that fails. -/
def State.writeRuns (s : State) (c : CtxId) (ws : List (Dva × List Byte)) : State × Nat :=
  ws.foldl (fun (r : State × Nat) w => if r.2 ≠ 0 then r else r.1.dvaWrite c w.1 w.2) (s, 0)

/-- STEP of the CHAIN streams of a model. -/
def State.chainSteps (s : State) (m : Model) : List Nat := (s.chainsOf m).map fun e => e.2.step.toNat

/-- VERSION, FROM_STEP and then VALID = 1 in a copy (R254 step 6). -/
def validRuns (d : Dva) (version fromStep : W32) : List (Dva × List Byte) :=
  [(d + 8, natLe 4 fromStep.toNat), (d + 4, natLe 4 version.toNat), (d, [1])]

def State.updModel (s : State) (c : CtxId) (midx : Nat) (f : Model → Model) : State :=
  s.updCtx c fun x => { x with models := match mapFind x.models midx with
    | some m => mapSet x.models midx (f m)
    | none => x.models }

/-- Loads over the interval: each counter's difference modulo 2^32 from its last read, with what workers have sent. -/
def intervalLoads (r : Route) (now old : List W32) (sent : List Nat) : List Nat :=
  (List.range r.e).map fun e =>
    ((List.range r.sources).map fun i => (now.getD (i * r.e + e) 0 - old.getD (i * r.e + e) 0).toNat).sum + sent.getD e 0

/-! ## A revision on one device (R254, R258) -/

def State.rev? (s : State) (c : CtxId) (midx : Nat) : Option Revision := s.revs.find? fun v => v.ctx == c && v.midx == midx
def State.updRev (s : State) (v : Revision) (f : Revision → Revision) : State :=
  { s with revs := s.revs.map fun x => if x.ctx = v.ctx && x.midx = v.midx then f x else x }
def State.revModel (s : State) (v : Revision) : Option Model := mapFind (s.ctx v.ctx).models v.midx

/-- PLACE to the other devices of the routing group, from its Steward; to the Steward, from a worker. -/
def State.tellPlace (s : State) (v : Revision) : State :=
  match s.job? (s.ctx v.ctx).job with
  | some j => if v.manager then (s.peers j).foldl (fun s n => s.stew j.tag n 8) s else s.stew j.tag j.manager 8
  | none => s

/-- The devices whose answer a Steward awaits. -/
def State.revPeers (s : State) (v : Revision) : List NodeId :=
  match s.job? (s.ctx v.ctx).job with
  | some j => if v.manager then s.peers j else []
  | none => []

/-- The Steward goes on to a phase, with a message to the others, whose answers it awaits; a worker answers the Steward. -/
def State.revPhase (s : State) (v : Revision) (p : RevPhase) : State :=
  (s.updRev v fun x => { x with phase := p, waits := s.revPeers v, again := false }).tellPlace v

/-- GATE_ABORT on the streams that a revision has armed. -/
def State.disarm (s : State) (v : Revision) : State :=
  match s.revModel v with
  | some m => ((s.chainsOf m).filter fun e => e.2.gateArm && e.2.gateStep == v.step).foldl (fun s e => s.gateAbort e.1) s
  | none => s

/-- What a device of a revision given up undoes before step 7: copies, arms, VALID and the pages it reserved. -/
def State.undoRev (s : State) (v : Revision) : State :=
  let s := v.copies.foldl (fun s sid => s.dropCopy sid) s
  let s := if v.phase = .arming || v.phase = .writing then s.disarm v else s
  let s := if v.phase = .writing then (s.dvaWrite v.ctx v.copy [0]).1 else s
  let s := if v.phase = .waiting then s else v.plan.pages.foldl (fun s p => s.unmapRange v.ctx 1 p.1 1) s
  { s with revs := s.revs.filter fun x => !(x.ctx == v.ctx && x.midx == v.midx) }

/-- A revision not yet at step 7 is given up, and the other devices are told: the Steward the workers, a worker the Steward. -/
def State.abandonRev (s : State) (v : Revision) : State := if v.phase = .going then s else (s.undoRev v).tellPlace v

/-- Every revision of a context not yet at step 7 is given up (R254, R258). -/
def State.abandonRevs (s : State) (c : CtxId) : State := (s.revs.filter fun v => v.ctx == c).foldl State.abandonRev s

/-- No revision of a context is left: one past step 7 stays as it is in memory, with both copies' pages (assumption 49). -/
def State.endRevs (s : State) (c : CtxId) : State :=
  let s := s.abandonRevs c
  { s with revs := s.revs.filter fun v => v.ctx != c }

/-- Reserve TIER 1 pages for new weights and lists: VPN and stack of each. -/
def State.mapRevPages (s : State) (c : CtxId) : List (Nat × Nat) → Option State
  | [] => some s
  | (vpn, stack) :: rest =>
    if !(s.mappedIn c 1 vpn 1).isEmpty then none
    else (s.mapPage c 1 vpn 1 false { ptier := 1, spread := false, unit := stack, wing := 0 }).bind fun t => State.mapRevPages t c rest

/-- Steps 3 and 4: once no stream uses the inactive copy, the pages are reserved, the lists and the table are written, and the
Study's COPY streams copy the weights. -/
def State.prepareRev (s : State) (v : Revision) (m : Model) : State :=
  if (s.chainSteps m).any fun n => decide (n < v.active) then s
  else match s.mapRevPages v.ctx v.plan.pages with
    | none => s.abandonRev v
    | some t =>
      let v := { v with phase := .copying }
      match t.writeRuns v.ctx ((v.plan.lists.map fun l => (l.2.1, l.2.2)) ++ [(v.copy, v.table)]) with
      | (t, 0) =>
        match t.startCopies v.ctx v.plan.copies [] with
        | some (u, ids) => u.updRev v fun x => { x with phase := .copying, copies := ids }
        | none => t.abandonRev v
      | (t, _) => t.abandonRev v

/-- The copies are complete: a worker answers; one that has failed ends the revision. -/
def State.copiedRev (s : State) (v : Revision) : State :=
  match s.copiesEnd v.copies with
  | none => s
  | some (some _) => s.abandonRev v
  | some none =>
    let t := (v.copies.foldl (fun s sid => s.dropCopy sid) s).updRev v fun x => { x with phase := .ready, copies := [] }
    if v.manager then t else t.tellPlace v

/-- Arm a revision's streams at its step (step 5). -/
def State.armRev (s : State) (v : Revision) (m : Model) (at_ : W32) : State × Bool :=
  s.armAll (s.chainsOf m) at_
    (fun e => (v.plan.lists.find? fun l => l.1 == e.1).map fun l => (l.2.1, BitVec.ofNat 24 (l.2.2.length / 32))) false

/-- Step 5 at the Steward: two steps above every STEP known, once no gate stands. -/
def State.armStep (s : State) (v : Revision) (m : Model) : State :=
  if !(gatesClear (s.chainsOf m)) then s
  else
    let at_ := BitVec.ofNat 32 ((s.chainSteps m).foldl max v.most + 2)
    match s.armRev v m at_ with
    | (t, true) => (t.updRev v fun x => { x with step := at_ }).revPhase v .arming
    | (t, false) => t

/-- Step 6: FROM_STEP, VERSION and VALID in the copy. -/
def State.validRev (s : State) (v : Revision) : State :=
  match s.writeRuns v.ctx (validRuns v.copy v.version v.step) with
  | (t, 0) => t.revPhase v .writing
  | (t, _) => t.abandonRev { v with phase := .writing }

/-- Step 7: GATE_GO on every armed stream. -/
def State.goRev (s : State) (v : Revision) (m : Model) : State := (s.goAll (s.chainsOf m)).revPhase v .going

/-- Step 8: every STEP is above s; what only the old copy used returns. A context that is not ACTIVE has no streams. -/
def State.pastRev (s : State) (v : Revision) (m : Model) : State :=
  if (s.ctx v.ctx).st ≠ .active || (s.chainSteps m).any fun n => decide (n ≤ v.step.toNat) then s
  else
    let s := v.plan.olds.foldl (fun s p => s.unmapRange v.ctx 1 p 1) s
    let s := s.updModel v.ctx v.midx fun m => { m with revPages := (m.revPages ++ v.plan.pages.map (·.1)).filter fun p => !(v.plan.olds.contains p) }
    { s with revs := s.revs.filter fun x => !(x.ctx == v.ctx && x.midx == v.midx) }

/-- A revision goes on as far as it can without another device: the Steward once every answer is in. -/
def State.settleRev (s : State) (v : Revision) : State :=
  match s.revModel v with
  | none => s
  | some m =>
    let mine := v.manager && v.waits.isEmpty
    match v.phase with
    | .waiting => s.prepareRev v m
    | .copying => s.copiedRev v
    | .ready => if mine then s.armStep v m else s
    | .arming =>
      if !mine then s
      else if v.again then (s.disarm v).revPhase v .ready
      else s.validRev v
    | .writing =>
      if mine then
        (s.goRev v m).ctxEvent v.ctx 0x8007 [(20, 4, v.version.toNat), (24, 4, v.step.toNat), (28, 1, v.midx)]
      else s
    | .going => s.pastRev v m

/-- Every revision goes on, by at most the six phases. -/
def State.settleRevs (s : State) : State := (List.range 6).foldl (fun s _ => s.revs.foldl State.settleRev s) s

/-- A revision begins on a device: on the Steward's, the others are asked to prepare. -/
def State.beginRev (s : State) (v : Revision) : State :=
  let t : State := { s with revs := s.revs ++ [v] }
  (if v.manager then t.revPhase v .waiting else t).settleRevs

/-- The pages that revisions have given a model return with it (06 R227). -/
def State.unloadRevs (s : State) (c : CtxId) (midx : Nat) (m : Model) : State :=
  let s := match s.rev? c midx with
    | some v => s.undoRev v
    | none => s
  m.revPages.foldl (fun s p => s.unmapRange c 1 p 1) s

/-! ## What a Steward and a worker tell each other (R254; 10 R360) -/

/-- The active copy of a placement table at a step: the VALID copy of the largest FROM_STEP not above it (R253). -/
def State.activeCopy (s : State) (c : CtxId) (r : Route) (now : Nat) : Option (Dva × Bool × W32 × W32) :=
  let copies := [r.placeVa, r.placeVa + 0x10000].filterMap fun d => (s.placeHead c d).map fun h => (d, h)
  (copies.filter fun k => k.2.1 && decide (k.2.2.2.toNat ≤ now)).foldl
    (fun (a : Option (Dva × Bool × W32 × W32)) k => match a with
      | some b => if b.2.2.2.toNat < k.2.2.2.toNat then some k else a
      | none => some k) none

/-- The smallest STEP of a model's CHAIN streams. -/
def State.leastStep (s : State) (m : Model) : Nat := (s.chainSteps m).foldl min ((s.chainSteps m).headD 0)

/-- A message about another revision than the one that stands is of no effect (assumption 8). -/
def State.otherRev (s : State) (c : CtxId) (midx : Nat) (route : Dva) (version : W32) : Bool :=
  match s.rev? c midx with
  | some v => v.route != route || v.version != version
  | none => false

/-- A worker takes a message of its Steward. -/
def State.placeAtWorker (s : State) (j : Job) (c : CtxId) (midx : Nat) (route : Dva) (version : W32) (p : PlaceMsg) : State :=
  match mapFind (s.ctx c).models midx, s.rev? c midx, p with
  | some m, none, .prepare copy plan table =>
    let fail := s.stew j.tag j.manager 8
    match s.routeOf c route with
    | none => fail
    | some r =>
      match s.activeCopy c r (s.leastStep m) with
      | none => fail
      | some act =>
        if (s.ctx c).st ≠ .active then fail
        else s.beginRev { ctx := c, midx, route, copy, version, active := act.2.2.2.toNat, manager := false, plan, table }
  | some m, some v, .arm at_ =>
    if v.phase ≠ .ready || v.manager || !(gatesClear (s.chainsOf m)) then s.stew j.tag j.manager 8
    else match s.armRev v m at_ with
      | (t, true) => (t.updRev v fun x => { x with step := at_ }).revPhase v .arming
      | (t, false) => t.tellPlace v
  | some _, some v, .disarm =>
    if v.phase = .arming then (s.disarm v).revPhase v .ready else if v.phase = .ready then s.tellPlace v else s
  | some _, some v, .valid => if v.phase = .arming then s.validRev v else s
  | some m, some v, .go =>
    if v.phase = .writing then
      ((s.goAll (s.chainsOf m)).updRev v fun x => { x with phase := .going }).settleRevs
    else s
  | _, some v, .abandon => if v.phase = .going then s else s.undoRev v
  | none, _, .prepare _ _ _ => s.stew j.tag j.manager 8
  | _, _, _ => s

/-- The Steward takes a worker's answer. -/
def State.placeAtManager (s : State) (c : CtxId) (midx : Nat) (sender : NodeId) (p : PlaceMsg) : State :=
  match s.rev? c midx with
  | none => s
  | some v =>
    let took (f : Revision → Revision) : State :=
      (s.updRev v fun x => f { x with waits := x.waits.filter fun n => n != sender }).settleRevs
    match p with
    | .ready n => took fun x => { x with most := max x.most n.toNat }
    | .late n => took fun x => { x with most := max x.most n.toNat, again := true }
    | .failed => s.abandonRev v
    | _ => s

/-! ## The rows whose effect may let a revision go on -/

/-- STOP: the stream ends once every earlier entry is complete. -/
def execStopEntry (sid : StreamId) (s : State) : Host.Outcome State Fault Refusal := .next (s.stopEntry sid).settleRevs

end Sys2Proof.Machine
end

