-- ==== Sys2Proof/Machine/RoomCmd.lean ====
section
/-! DEFINITION. The Room commands of the Study (13 R442): SLOT_LOAD, CFB_ACCESS and DEBUG_READ, and the control space they
read (02 R75 to R77). -/

namespace Sys2Proof.Machine

/-! ## Control space (02 R75, R76) -/

def runNum : RunSt → Nat
  | .idle => 0
  | .run => 1
  | .switch => 2
  | .halt => 3
  | .fault => 4

def slotNum : SlotSt → Nat
  | .empty => 0
  | .loading => 1
  | .ready => 2
  | .active => 3

/-- CFB_PORTOCC of a port. -/
def portOcc (i : InPort) : Nat :=
  onChipHeld i + 32 * i.spilled.length + 2 ^ 16 * boolNat (i.onchip.head?.any isToken) + 2 ^ 17 * boolNat (i.onchip.head?.any isEnd)

/-- A register of a Room's control space by offset: its width in bytes and its value. -/
def State.cfbReg (s : State) (r : RoomId) (off : Nat) : Option (Nat × Nat) :=
  let x := s.room r
  let port (o : Nat) : InPort := x.inPort (BitVec.ofNat 2 (o / 8))
  if off = 0 then
    some (4, ((List.range 8).map fun k => slotNum (mapGet .empty x.slots k) * 4 ^ k).sum + x.active.toNat * 2 ^ 16 + runNum x.runst * 2 ^ 20)
  else if off = 4 then some (4, boolNat x.haltReq + 16 * x.target.toNat)
  else if 0x10 ≤ off ∧ off < 0x30 ∧ off % 8 = 0 then some (8, (port (off - 0x10)).profile.toNat)
  else if 0x30 ≤ off ∧ off < 0x50 ∧ off % 8 = 0 then some (8, portOcc (port (off - 0x30)))
  else if off = 0x50 then some (8, ((List.range 4).map fun p => (x.inPort (BitVec.ofNat 2 p)).hwm.toNat * 2 ^ (16 * p)).sum)
  else if off = 0x58 then some (8, x.fires.toNat + x.forwards.toNat * 2 ^ 48)
  else if off = 0x60 then some (4, x.switches.toNat)
  else if off = 0x64 then some (4, x.discards.toNat)
  else if off = 0x68 then some (4, x.fault.toNat)
  else if off = 0x6C then some (4, (if s.blocked r then (s.stallReasonOf r).1 else 0) + 256 * x.stallCount)
  else none

/-- Registers CFB_ACCESS may write. -/
def cfbWritable (off : Nat) : Bool :=
  off == 4 || (decide (0x10 ≤ off) && decide (off < 0x30) && off % 8 == 0) || off == 0x50 || off == 0x68

/-- A write of a control register under its access code. -/
def State.cfbWrite (s : State) (r : RoomId) (off v : Nat) : State :=
  if off = 4 then s.ctrlWrite r (v % 2 ^ 32)
  else if off = 0x50 then
    (List.range 4).foldl (fun s p => s.updPortIn r (BitVec.ofNat 2 p) fun i => { i with hwm := BitVec.ofNat 11 (bitsOf v (16 * p) 11) }) s
  else if off = 0x68 then s.updRoom r fun x => { x with fault := x.fault &&& ~~~ (BitVec.ofNat 7 v) }
  else
    let p : PortId := BitVec.ofNat 2 ((off - 0x10) / 8)
    if s.profRefused r p v then s.updRoom r fun x => { x with fault := x.fault ||| 32 }
    else s.updPortIn r p fun i =>
      { i with profile := BitVec.ofNat 16 v, wrPos := 0, rdPos := 0, freed := if profLimit v = spillLimit i then i.freed else [] }

/-- CFB_ACCESS with WR as its row names it; a request of the other kind is left to the other row. -/
def State.cfbAccess (s : State) (q : Req) (wr : Bool) : State :=
  if reqBit q 18 0 ≠ wr then s
  else
    let off := reqNat q 20 2
    let reg := s.cfbReg 0 off
    s.commandWith q 0x0302 [(16, 0, 10), (18, 0, 1), (20, 0, 16), (24, 0, 64)] [(20, reg.isNone || (wr && !cfbWritable off))] fun s =>
      let r : RoomId := BitVec.ofNat 10 (reqNat q 16 2)
      if s.roomCtx r ≠ some (reqCtx q) then s.reply q 0x13
      else
        let s := if wr then s.cfbWrite r off (reqNat q 24 8) else s
        let v := match s.cfbReg r off with
          | some x => x.2
          | none => 0
        s.reply q 0 0 [(24, 8, v)]

/-- CFB_ACCESS with WR = 0. -/
def execCfbAccessRead (q : Req) (s : State) : Host.Outcome State Fault Refusal := .next (s.cfbAccess q false)
/-- CFB_ACCESS with WR = 1. -/
def execCfbAccessWrite (q : Req) (s : State) : Host.Outcome State Fault Refusal := .next (s.cfbAccess q true)

/-! ## SLOT_LOAD and DEBUG_READ -/

/-- SLOT_LOAD: a load request, answered at the loader's commit. -/
def execSlotLoad (q : Req) (s : State) : Host.Outcome State Fault Refusal :=
  .next <|
    s.commandWith q 0x0301 [(16, 0, 6), (17, 0, 3), (18, 0, 16), (20, 0, 24)] [(20, reqNat q 20 3 % 64 != 0)] fun s =>
      let c := reqCtx q
      let x := s.ctx c
      if x.wings ≤ reqNat q 16 1 then s.reply q 0x13
      else if x.st == .preempted then s.reply q 0x14 (ctxStNum x.st)
      else s.requestLoad (BitVec.ofNat 6 (x.first.toNat + reqNat q 16 1))
        { loff := BitVec.ofNat 24 (reqNat q 20 3), slot := BitVec.ofNat 3 (reqNat q 17 1), mask := BitVec.ofNat 16 (reqNat q 18 2)
          lbx := some (q.lbx, reqTag q), ctx := c }

/-- A byte of TIER 4: a slot window, or a control register (02 R72, R75); every other byte reads as zero. -/
def State.tier4Byte (s : State) (off : Nat) : Byte :=
  let r : RoomId := BitVec.ofNat 10 (bitsOf off 20 10)
  if bitOf off 19 then
    let a := off % 2 ^ 19
    let at8 (o w : Nat) : Option Byte :=
      match s.cfbReg r o with
      | some (n, v) => if n = w then some (BitVec.ofNat 8 (v / 256 ^ (a - o))) else none
      | none => none
    ((at8 (a / 8 * 8) 8).orElse fun _ => at8 (a / 4 * 4) 4).getD 0
  else if off % 2 ^ 16 < 0x4000 then memRead s.mem (slotKey r.toNat (bitsOf off 16 3) (off % 2 ^ 16))
  else 0

/-- DEBUG_READ: bytes of TIER 0 or TIER 4. -/
def execDebugRead (q : Req) (s : State) : Host.Outcome State Fault Refusal :=
  .next <|
    let d : Dva := BitVec.ofNat 64 (reqNat q 16 8)
    let n := reqNat q 24 1
    let t := dvaTier d
    s.commandWith q 0x0303 [(16, 0, 64), (24, 0, 8)]
      [(16, d.toNat % 4 != 0 || (t != 0 && t != 4) || dvaNode d != 0xFFFF), (24, n < 4 || 224 < n || n % 4 != 0)] fun s =>
      let off := dvaOff d
      let high := if t = 0 then bitsOf off 31 14 else bitsOf off 30 15
      if high ≠ 0 then s.reply q 0x28 0x07
      else if t = 0 && (List.range n).any (fun i => s.poison.contains (tier0Key (off + i) / 64)) then s.reply q 0x28 0x08
      else
        let bs := (List.range n).map fun i => if t = 0 then memRead s.mem (tier0Key (off + i)) else s.tier4Byte (off + i)
        s.reply q 0 0 [(32, n, leNat bs)]

end Sys2Proof.Machine
end

