-- ==== Sys2Proof/Machine/Model.lean ====
section
/-! DEFINITION. Resting models (06 R222 to R231; 13 R444): the manifest and its checks, loading with its slot loads,
replacement in place and by a shadow, unloading, and the loader's rows, which a load waits for. -/

namespace Sys2Proof.Machine

/-! ## The manifest (R222, R223) -/

/-- A section of a manifest. -/
structure Section where
  kind : Nat
  place : Nat
  widx : Nat
  off : Nat
  len : Nat
  dst : Nat
  deriving DecidableEq, Repr

/-- A manifest that has passed its checks. -/
structure Manifest where
  base : Dva
  tclass : Bool
  wings : Nat
  layers : Nat
  modelId : W64
  version : W32
  pantryVa : Dva
  pantryBytes : Nat
  larderBytes : Nat
  bolts : Nat
  sections : List Section
  deriving DecidableEq, Repr

def sectionOf (v : Nat) : Section :=
  { kind := bitsOf v 0 4, place := bitsOf v 4 2, widx := bitsOf v 8 6, off := bitsOf v 64 64, len := bitsOf v 128 64
    dst := bitsOf v 192 64 }

/-- A reserved bit or value, or a range out of bounds, in a section entry. -/
def sectionBad (m : Manifest) (v : Nat) : Bool :=
  let x := sectionOf v
  bitsOf v 6 2 != 0 || bitsOf v 14 50 != 0 || x.kind == 0 || 5 < x.kind || x.place == 3 || (x.kind != 1 && x.place != 0) ||
    x.off % 64 != 0 || x.len == 0 ||
    (match x.kind with
     | 1 | 3 => decide (m.pantryBytes < x.dst + x.len) || x.dst % 64 != 0
     | 2 => decide (2 ^ 24 < x.dst + x.len) || decide (m.larderBytes < x.len) || x.dst % 64 != 0
     | 4 => x.len % 64 != 0
     | _ => x.len != 16 * m.layers)

/-- Ranges of the layer table: offset from PANTRY_VA and length. -/
def layersOf (bs : List Byte) : List (Nat × Nat) :=
  (List.range (bs.length / 16)).map fun i => (leNat ((bs.drop (16 * i)).take 8), leNat ((bs.drop (16 * i + 8)).take 8))

def disjoint (l : List (Nat × Nat)) : Bool :=
  match l with
  | [] => true
  | r :: rest => (rest.all fun q => decide (r.1 + r.2 ≤ q.1) || decide (q.1 + q.2 ≤ r.1)) && disjoint rest

/-- Every page of a source range can be read. -/
def State.sourceMapped (s : State) (c : CtxId) (d : Dva) (n : Nat) : Bool :=
  (List.range ((n + d.toNat % 2 ^ 16 + 65535) / 65536)).all fun i =>
    match s.dvaKey c false (BitVec.ofNat 64 ((d.toNat / 2 ^ 16 + i) * 2 ^ 16)) with
    | .inl _ => true
    | .inr _ => false

def State.sectionBytes (s : State) (c : CtxId) (m : Manifest) (x : Section) : List Byte ⊕ Nat :=
  s.dvaRead c (m.base + BitVec.ofNat 64 x.off) x.len

/-- Read and check a manifest (R224 step 2): the manifest, or a status of R226. -/
def State.readManifest (s : State) (c : CtxId) (d : Dva) : Manifest ⊕ Nat :=
  match s.dvaRead c d 64 with
  | .inr _ => .inr 0x09
  | .inl hd =>
    let f (off n : Nat) := leNat ((hd.drop off).take n)
    if f 0 4 ≠ 0x474D4446 then .inr 0x01
    else if f 4 1 ≠ 1 then .inr 0x02
    else if f 12 2 = 0 || 1024 < f 12 2 then .inr 0x01
    else match s.dvaRead c d (64 + 32 * f 12 2) with
      | .inr _ => .inr 0x09
      | .inl bs =>
        let words := (List.range (f 12 2)).map fun i => leNat ((bs.drop (64 + 32 * i)).take 32)
        let m : Manifest :=
          { base := d, tclass := bitOf (f 5 1) 0, wings := f 6 2, layers := f 14 2, modelId := BitVec.ofNat 64 (f 16 8)
            version := BitVec.ofNat 32 (f 24 4), pantryVa := BitVec.ofNat 64 (f 32 8), pantryBytes := f 40 8
            larderBytes := f 48 4, bolts := f 52 2, sections := words.map sectionOf }
        let tables := m.sections.filter fun x => x.kind == 5
        if crc32c (bs.drop 12) ≠ f 8 4 || bitsOf (f 5 1) 1 7 != 0 || f 28 4 ≠ 0 || f 54 8 ≠ 0 || f 62 2 ≠ 0 || m.wings = 0 ||
            64 < m.wings || m.layers = 0 || 4096 < m.layers || 2 ^ 24 < m.larderBytes || m.pantryBytes = 0 ||
            dvaTier m.pantryVa ≠ 1 || dvaNode m.pantryVa ≠ 0xFFFF || m.pantryVa.toNat % 2 ^ 21 ≠ 0 ||
            2 ^ 45 < dvaOff m.pantryVa + m.pantryBytes || words.any (sectionBad m) || tables.length ≠ 1 then .inr 0x01
        else if m.sections.any (fun x => !s.sourceMapped c (d + BitVec.ofNat 64 x.off) x.len) then .inr 0x09
        else match tables.map (s.sectionBytes c m) with
          | [.inl bs] =>
            let ls := layersOf bs
            if ls.all (fun r => decide (r.1 + r.2 ≤ m.pantryBytes) && r.1 % 64 == 0 && r.2 % 64 == 0) && disjoint ls then .inl m
            else .inr 0x01
          | _ => .inr 0x09

/-! ## Resources of a load (R224 step 3) -/

/-- Placement of a page of the Pantry range: that of the first WEIGHTS section on it, else spread (assumption 31). -/
def State.pagePlace (s : State) (c : CtxId) (m : Manifest) (page : Nat) : Placement :=
  let on (x : Section) := x.kind == 1 && decide (x.dst < (page + 1) * 2 ^ 21) && decide (page * 2 ^ 21 < x.dst + x.len)
  let g (x : Section) : Nat := (s.ctx c).first.toNat + x.widx
  match m.sections.find? on with
  | some x =>
    if x.place = 0 then { ptier := 1, spread := true, unit := 0, wing := 0 }
    else { ptier := 1, spread := false, unit := g x / 16 * 2 + (x.place - 1), wing := 0 }
  | none => { ptier := 1, spread := true, unit := 0, wing := 0 }

/-- Map the pages of a Pantry range at a VPN; the model's pages carry WRITE (assumption 31). -/
def State.mapModel (s : State) (c : CtxId) (m : Manifest) (vpn : Nat) : Nat → Nat → Option State
  | _, 0 => some s
  | i, k + 1 =>
    match s.mapPage c 1 (vpn + i) 1 false (s.pagePlace c m i) with
    | some t => State.mapModel t c m vpn (i + 1) k
    | none => none

def pagesOf (bytes : Nat) : Nat := (bytes + 2 ^ 21 - 1) / 2 ^ 21

/-- Streams of the stream table: WING, DW, LIST_BASE and CONTEXT resolved (R223). -/
def State.modelStreams (s : State) (c : CtxId) (m : Manifest) (midx : Nat) : List (Nat × Stream × Bool) ⊕ Nat :=
  let tables := (m.sections.filter fun x => x.kind == 4).map (s.sectionBytes c m)
  if tables.any (fun t => match t with
    | .inl _ => false
    | .inr _ => true) then .inr 0x09
  else
    let bs := tables.flatMap fun t => match t with
      | .inl b => b
      | .inr _ => []
    .inl ((List.range (bs.length / 64)).map fun i =>
      let v := leNat ((bs.drop (64 * i)).take 64)
      let t := streamOf c v
      let g := (s.ctx c).first.toNat + t.wing.toNat
      (g / 16 * 2 + bitsOf v 8 1,
        { t with wing := BitVec.ofNat 6 g, listBase := m.pantryVa + t.listBase, model := some midx },
        descReserved v || bitsOf v 9 3 != 0 || decide ((s.ctx c).wings ≤ t.wing.toNat) || (t.chainKind && t.tclass != m.tclass)))

/-- Reserve stream contexts one after another: the streams with their IDs, or a status. -/
def State.reserveStreams (s : State) (c : CtxId) : List (Nat × Stream × Bool) → List (StreamId × Stream) → List (StreamId × Stream) ⊕ Nat
  | [], acc => .inl acc
  | (dw, t, bad) :: rest, acc =>
    let all := s.heldStreams ++ acc
    if bad then .inr 0x0F
    else match s.descStatus c dw t all, freeStream all dw with
      | 0, some sid => s.reserveStreams c rest (acc ++ [(sid, t)])
      | 0, none => .inr 0x06
      | e, _ => .inr e

/-- Ranges [b, b + n) of Bolts of a context that a model holds. -/
def boltClash (ms : List Model) (b n : Nat) : Bool :=
  ms.any fun m => decide (b < m.boltBase.toNat + m.boltCnt) && decide (m.boltBase.toNat < b + n)

/-- The lowest free model index. -/
def State.freeMidx (s : State) (c : CtxId) : Option Nat :=
  (List.range 256).find? fun i =>
    (mapFind (s.ctx c).models i).isNone && s.modelWork.all fun w => !(w.ctx == c && w.midx == i && w.model.isSome)

/-- The configuration sets of a manifest, by Wing. -/
def State.configSets (s : State) (c : CtxId) (m : Manifest) : List (WingId × Nat × Nat) :=
  (m.sections.filter fun x => x.kind == 2).map fun x => (BitVec.ofNat 6 ((s.ctx c).first.toNat + x.widx), x.dst, x.len)

/-! ## Ending and starting requests (R225, R227; 13 R423) -/

def State.updWork (s : State) (id : Nat) (f : ModelWork → ModelWork) : State :=
  { s with modelWork := s.modelWork.map fun w => if w.id = id then f w else w }
def State.work? (s : State) (id : Nat) : Option ModelWork := s.modelWork.find? fun w => w.id == id

/-- The model's slots, slot 0 of the Rooms of Wings, become EMPTY (R224 step 6; assumption 32). -/
def State.emptySlots (s : State) (gs : List WingId) : State :=
  (gs.flatMap wingRooms).foldl (fun s r =>
    s.updRoom r fun x => { x with slots := if (mapFind x.slots 0).isSome then mapSet x.slots 0 .empty else x.slots }) s

/-- The copies of a request are cancelled. -/
def State.dropCopies (s : State) (w : ModelWork) : State := w.copies.foldl (fun s sid => s.dropCopy sid) s

/-- A load is abandoned: its copies, its pages, the slots it has loaded, and its reservations go (R225). -/
def State.abandonLoad (s : State) (w : ModelWork) : State :=
  match w.model with
  | some m =>
    let s := (s.dropCopies w).unmapRange w.ctx 1 (dvaOff m.pantryVa / 2 ^ 21) (pagesOf m.pantryBytes)
    let busy := (List.range 64).filter fun g => (s.wing (BitVec.ofNat 6 g)).loading.any fun q : LoadReq => q.work == w.id
    let gs := w.loaded ++ busy.map (BitVec.ofNat 6 ·)
    let stay (q : LoadReq) : Bool := q.work != w.id
    let clear (x : Wing) : Wing := { x with loadQ := x.loadQ.filter stay, loading := x.loading.filter stay }
    let s : State := { s with wings := s.wings.map fun e : Nat × Wing => (e.1, clear e.2) }
    s.emptySlots gs
  | none => s.dropCopies w

/-- Request the slot loads that are still to be requested, as far as the Wings' queues have room (R83). -/
def State.pushLoads (s : State) (id : Nat) : State :=
  match s.work? id with
  | none => s
  | some w =>
    w.todo.foldl (fun s e =>
      if (s.wing e.1).loadQ.length < 8 then
        (s.requestLoad e.1 { loff := BitVec.ofNat 24 e.2, slot := 0, mask := 0xFFFF, work := id, ctx := w.ctx }).updWork id fun w =>
          { w with todo := w.todo.erase e }
      else s) s

/-! ## What a replacement must match (R228) -/

/-- Bytes of a block list without the SRC fields of its CHAIN entries. -/
def listShape (bs : List Byte) : List Byte :=
  ((List.range (bs.length / 32)).flatMap fun i =>
    let e := (bs.drop (32 * i)).take 32
    if eOp (leNat e) = 2 then e.take 8 ++ e.drop 16 else e) ++ bs.drop (32 * (bs.length / 32))

/-- The sections of an image with the bytes that a replacement must match, or a code. Poison is the copies' to find. -/
def State.imageOf (s : State) (c : CtxId) (m : Manifest) : List (Nat × Nat × Nat × List Byte) ⊕ Nat :=
  m.sections.foldl (fun acc x =>
    match acc with
    | .inr e => .inr e
    | .inl l =>
      if x.kind = 1 then .inl (l ++ [(x.kind, x.dst, x.len, [])])
      else match s.dvaReadGo c (m.base + BitVec.ofNat 64 x.off) x.len with
        | .inl (bs, _) => .inl (l ++ [(x.kind, x.dst, x.len, if x.kind = 3 then listShape bs else bs)])
        | .inr _ => .inr 0x09) (.inl [])

/-! ## Copies of a load (R224 step 4) -/

/-- Ranges that a load copies: sections of some kinds, to the Pantry range or to the Larder. -/
def copyRanges (first : Nat) (m : Manifest) (va : Dva) (kinds : List Nat) : List (Dva × Dva × Nat) :=
  (m.sections.filter fun x => kinds.contains x.kind).map fun x =>
    (m.base + BitVec.ofNat 64 x.off, if x.kind = 2 then dvaOf 0 ((first + x.widx) * 2 ^ 24 + x.dst) else va + BitVec.ofNat 64 x.dst, x.len)

/-- Go on once the pages of a model are mapped and its copies run; no page, or no stream context, is free otherwise. -/
def State.copying (o : Option State) (c : CtxId) (l : List (Dva × Dva × Nat)) (resv : List (StreamId × Stream))
    (f : List StreamId → State → State) : State ⊕ Nat :=
  match o with
  | none => .inr 0x04
  | some t =>
    match t.startCopies c l resv with
    | none => .inr 0x06
    | some (u, ids) => .inl (f ids u)

/-- Bytes of a Wing's Larder that the context could be given (05 R161). -/
def State.larderSpace (s : State) (g : WingId) : Nat :=
  2 ^ 24 - ((s.larderHeld g).map (·.2)).sum - 65536 * (s.used.filter fun u => decide (u < 2 ^ 14) && u / 256 == g.toNat).length

/-- MODEL_LOAD's checks (R224 steps 2 and 3) in the order of R226's codes: what begins, or a status. -/
def State.beginLoad (s : State) (w : ModelWork) : State ⊕ Nat :=
  let q := w.req
  let c := w.ctx
  match s.readManifest c (BitVec.ofNat 64 (reqNat q 16 8)), s.freeMidx c with
  | .inr e, _ => .inr e
  | _, none => .inr 0x27
  | .inl m, some midx =>
    let mask := reqNat q 24 8
    let named := pick 64 fun i => bitOf mask i
    let sets := s.configSets c m
    let perWing (g : WingId) := ((sets.filter fun e => e.1 == g).map fun e => (e.2.1, e.2.2))
    let base := reqNat q 32 2
    let cnt := reqNat q 34 2
    let vpn := dvaOff m.pantryVa / 2 ^ 21
    let gs := named.map fun i => (BitVec.ofNat 6 ((s.ctx c).first.toNat + i) : WingId)
    if named.length < m.wings || named.any (fun i => decide ((s.ctx c).wings ≤ i)) ||
        m.sections.any (fun x => (x.kind == 2 || (x.kind == 1 && x.place != 0)) && !bitOf mask x.widx) then .inr 0x03
    else if gs.any (fun g => decide (s.larderSpace g < m.larderBytes)) || sets.any (fun e => !s.larderFree e.1 e.2.1 e.2.2) || sets.any (fun e => !disjoint (perWing e.1)) then .inr 0x05
    else if cnt < m.bolts || (s.ctx c).bolts < base + cnt || boltClash (s.modelsOf c) base cnt then .inr 0x07
    else if !(s.mappedIn c 1 vpn (pagesOf m.pantryBytes)).isEmpty then .inr 0x08
    else match s.modelStreams c m midx, s.imageOf c m with
      | .inr e, _ => .inr e
      | _, .inr e => .inr e
      | .inl ts, .inl image =>
        match s.reserveStreams c ts [] with
        | .inr e => .inr e
        | .inl rs =>
          let x : Model :=
            { manifest := m.base, wmask := BitVec.ofNat 64 mask, boltBase := BitVec.ofNat 15 base, boltCnt := cnt
              pantryVa := m.pantryVa, pantryBytes := m.pantryBytes, wings := m.wings, layers := m.layers
              larderBytes := m.larderBytes, modelId := m.modelId, version := m.version, streams := rs.map (·.1), larder := sets
              image }
          State.copying (s.mapModel c m vpn 0 (pagesOf m.pantryBytes)) c (copyRanges (s.ctx c).first.toNat m m.pantryVa [1, 2, 3]) rs fun ids t =>
            t.updWork w.id fun w => { w with phase := .copying, midx, model := some x, resv := rs, copies := ids }

/-- MODEL_UNLOAD's checks and work (R227). -/
def State.beginUnload (s : State) (w : ModelWork) : State ⊕ Nat :=
  let c := w.ctx
  match mapFind (s.ctx c).models (reqNat w.req 16 1) with
  | none => .inr 0x0C
  | some m =>
    let idle := m.streams.all fun sid =>
      match s.stream sid with
      | some t => t.st == .created || t.st == .done || t.st == .cancelled
      | none => true
    if !idle then .inr 0x14
    else
      let s := (s.porchUnload c m.boltBase.toNat m.boltCnt).unloadRevs c (reqNat w.req 16 1) m
      let s := m.streams.foldl (fun s sid => { s.cancelStream sid with streams := mapDel (s.cancelStream sid).streams sid }) s
      let s := s.unmapRange c 1 (dvaOff m.pantryVa / 2 ^ 21) (pagesOf m.pantryBytes)
      .inl ((s.emptySlots ((m.larder.map (·.1)).eraseDups)).updCtx c fun x => { x with models := mapDel x.models (reqNat w.req 16 1) })

/-! ## Replacement checks (R228) -/

/-- A loaded model and the new manifest, of the structure that was loaded; or a status. -/
def State.replacePair (s : State) (w : ModelWork) : (Model × Manifest) ⊕ Nat :=
  let c := w.ctx
  match mapFind (s.ctx c).models (reqNat w.req 16 1) with
  | none => .inr 0x0C
  | some m =>
    match s.readManifest c (BitVec.ofNat 64 (reqNat w.req 24 8)) with
    | .inr e => .inr e
    | .inl b =>
      match s.imageOf c b with
      | .inr e => .inr e
      | .inl image =>
        if m.wings == b.wings && m.layers == b.layers && m.pantryBytes == b.pantryBytes && m.image == image then .inl (m, b) else .inr 0x0D

/-- The step at which the gates of a model are armed: two above the largest STEP of its streams (R229). -/
def State.gateAt (s : State) (m : Model) : W32 :=
  BitVec.ofNat 32 (((m.streams.filterMap s.stream).map fun t => t.step.toNat).foldl max 0 + 2)

/-- Arm every CHAIN stream of a model, and set GATE_GO if every arm is accepted; else GATE_ABORT on those armed (R229, R230 step
3, R231 step 4). Nothing is armed while a gate armed before still stands. Answers whether GATE_GO is set. -/
def State.armModel (s : State) (m : Model) (pend : Option (Dva × Dva)) (hold : Bool) : State × Bool :=
  let ts := s.chainsOf m
  if !gatesClear ts then (s, false)
  else match s.armAll ts (s.gateAt m) (fun e => pend.map fun d => (e.2.listBase - d.1 + d.2, e.2.listLen)) hold with
    | (t, true) => (t.goAll ts, true)
    | r => r

/-- A replacement that is to arm its gates tries to. -/
def State.settleArm (s : State) (w : ModelWork) : State :=
  match w.phase, mapFind (s.ctx w.ctx).models w.midx, w.model with
  | .holdArm i, some m, _ =>
    match s.armModel m none true with
    | (t, true) => t.updWork w.id fun w => { w with phase := .holding i }
    | (t, false) => t
  | .shadowArm, some m, some new =>
    match s.armModel m (some (m.pantryVa, new.pantryVa)) false with
    | (t, true) => t.updWork w.id fun w => { w with phase := .shadowGate (s.gateAt m) }
    | (t, false) => t
  | _, _, _ => s

def State.settleArms (s : State) : State := s.modelWork.foldl State.settleArm s

/-- MODEL_REPLACE in place begins (R230 steps 2, 3). -/
def State.beginInPlace (s : State) (w : ModelWork) : State ⊕ Nat :=
  match s.replacePair w with
  | .inr e => .inr e
  | .inl (m, b) =>
    if m.layers < reqBits w.req 18 0 13 then .inr 0x12
    else
      let x := { m with manifest := b.base, modelId := b.modelId, version := b.version }
      .inl (s.updWork w.id fun w => { w with phase := .holdArm 0, midx := reqNat w.req 16 1, model := some x }).settleArms

/-- MODEL_REPLACE by a shadow begins (R231 step 2). -/
def State.beginShadow (s : State) (w : ModelWork) : State ⊕ Nat :=
  let va : Dva := BitVec.ofNat 64 (reqNat w.req 32 8)
  match s.replacePair w with
  | .inr e => .inr e
  | .inl (m, b) =>
    let vpn := dvaOff va / 2 ^ 21
    if 2 ^ 45 < dvaOff va + m.pantryBytes || !(s.mappedIn w.ctx 1 vpn (pagesOf m.pantryBytes)).isEmpty then .inr 0x08
    else
      let x := { m with manifest := b.base, modelId := b.modelId, version := b.version, pantryVa := va, larder := [] }
      State.copying (s.mapModel w.ctx b vpn 0 (pagesOf m.pantryBytes)) w.ctx (copyRanges 0 b va [1]) [] fun ids t =>
        t.updWork w.id fun w => { w with phase := .shadowCopy, midx := reqNat w.req 16 1, model := some x, copies := ids }

/-- Begin a request: ACCEPTED, or its refusal; an unload is over at once. -/
def State.beginWork (s : State) (w : ModelWork) : State :=
  let drop (s : State) : State := { s with modelWork := s.modelWork.filter fun x : ModelWork => x.id != w.id }
  match reqOp w.req with
  | 0x0411 =>
    match s.beginLoad w with
    | .inl t => t.accept w.req
    | .inr e => (drop s).reply w.req e
  | 0x0413 =>
    match s.beginUnload w with
    | .inl t => ((drop t).accept w.req).reply w.req 0
    | .inr e => (drop s).reply w.req e
  | _ =>
    match (if reqBit w.req 17 0 then s.beginShadow w else s.beginInPlace w) with
    | .inl t => t.accept w.req
    | .inr e => (drop s).reply w.req e (if e = 0x12 then 18 else 0)

/-- The next request of a context begins when none of it is in progress and the context is ACTIVE (R227; 09 R319). -/
def State.startNext : Nat → CtxId → State → State
  | 0, _, s => s
  | k + 1, c, s =>
    let mine := s.modelWork.filter fun w => w.ctx == c
    if (s.ctx c).st ≠ .active || mine.any (fun w => w.phase != .queued) then s
    else match mine.head? with
      | some w => State.startNext k c (s.beginWork w)
      | none => s

def State.settleWork (s : State) (c : CtxId) : State := State.startNext (s.modelWork.length + 1) c s

/-- A request ends with its final response, and the next one begins. -/
def State.endWork (s : State) (w : ModelWork) (status detail : Nat) (result : List (Nat × Nat × Nat)) : State :=
  (({ s with modelWork := s.modelWork.filter fun x : ModelWork => x.id != w.id }).reply w.req status detail result).settleWork w.ctx

/-- A load after its reservation, or a shadow before its gate, fails with LOAD_FAULT (R225). -/
def State.failLoad (s : State) (w : ModelWork) (code : Nat) (dva : Dva) : State :=
  (s.abandonLoad w).endWork w 0x0A code [(24, 8, dva.toNat)]

/-- A request joins its context's requests; four may wait (R226). -/
def State.takeWork (s : State) (q : Req) : State :=
  let c := reqCtx q
  let st := (s.ctx c).st
  if st ≠ .active && st ≠ .preempting then s.reply q 0x14 (ctxStNum st)
  else if 4 ≤ (s.modelWork.filter fun w => w.ctx == c && w.phase == .queued).length then s.reply q 0x0B
  else
    let w : ModelWork := { id := s.nextWork + 1, ctx := c, req := q }
    ({ s with modelWork := s.modelWork ++ [w], nextWork := s.nextWork + 1 }).settleWork c

/-! ## Copies by the Study itself: block lists of a shadow, configuration sets at a restore -/

/-- Copy units of at most 64 bytes; poison stops the copy (POISON_STOP = 1). Answers the code and DVA that stopped it. -/
def copyUnits (c : CtxId) (src : Dva) (dst : State → Nat → Nat ⊕ Nat) (n : Nat) : Nat → State → State × Option (Nat × Dva)
  | 0, s => (s, none)
  | k + 1, s =>
    let off := 64 * ((n + 63) / 64 - (k + 1))
    let d := src + BitVec.ofNat 64 off
    match s.dvaKey c false d, dst s off with
    | .inl a, .inl b =>
      if s.poison.contains (a / 64) then (s, some (0x08, d))
      else copyUnits c src dst n k (s.write b (s.read a (min 64 (n - off))))
    | .inr e, _ => (s, some (e, d))
    | _, .inr e => (s, some (e, d))

def State.copyFrom (s : State) (c : CtxId) (src : Dva) (dst : State → Nat → Nat ⊕ Nat) (n : Nat) : State × Option (Nat × Dva) :=
  copyUnits c src dst n ((n + 63) / 64) s

/-- Copy one section to where it belongs. -/
def State.copySection (s : State) (c : CtxId) (m : Manifest) (va : Dva) (x : Section) : State × Option (Nat × Dva) :=
  let src := m.base + BitVec.ofNat 64 x.off
  match x.kind with
  | 1 | 3 => s.copyFrom c src (fun s o => s.dvaKey c false (va + BitVec.ofNat 64 (x.dst + o))) x.len
  | 2 => s.copyFrom c src (fun s o => .inl (larderKey ((s.ctx c).first.toNat + x.widx) (x.dst + o))) x.len
  | _ => (s, none)

/-- Copy sections of some kinds until one fails. -/
def State.copySections (s : State) (c : CtxId) (m : Manifest) (va : Dva) (kinds : List Nat) : State × Option (Nat × Dva) :=
  (m.sections.filter fun x => kinds.contains x.kind).foldl (fun (r : State × Option (Nat × Dva)) x =>
    match r.2 with
    | some _ => r
    | none => r.1.copySection c m va x) (s, none)

/-- SRC of the CHAIN entries of a block list in the loaded range, moved to the shadow (R231 step 3). -/
def moveList (old new : Dva) (bytes : Nat) (bs : List Byte) : List Byte :=
  (List.range (bs.length / 32)).flatMap fun i =>
    let e := (bs.drop (32 * i)).take 32
    let src := eSrc (leNat e)
    if eOp (leNat e) = 2 && decide ((src - old).toNat < bytes) then patchBytes e 8 (natLe 8 (src - old + new).toNat) else e

/-- Write the block lists of the new image at the shadow. -/
def State.shadowLists (s : State) (c : CtxId) (b : Manifest) (old new : Dva) : State × Option (Nat × Dva) :=
  (b.sections.filter fun x => x.kind == 3).foldl (fun (r : State × Option (Nat × Dva)) x =>
    match r.2 with
    | some _ => r
    | none =>
      match r.1.sectionBytes c b x with
      | .inr e => (r.1, some (e, b.base + BitVec.ofNat 64 x.off))
      | .inl bs =>
        let (t, e) := r.1.dvaWrite c (new + BitVec.ofNat 64 x.dst) (moveList old new b.pantryBytes bs)
        (t, if e = 0 then none else some (e, new + BitVec.ofNat 64 x.dst))) (s, none)

/-- Ranges of layers [i, i + n) of the new image, to the loaded range (R230 step 4). -/
def State.layerRanges (s : State) (c : CtxId) (b : Manifest) (va : Dva) (i n : Nat) : Option (List (Dva × Dva × Nat)) :=
  match (b.sections.filter fun x => x.kind == 5).map (s.sectionBytes c b) with
  | [.inl bs] =>
    some <| ((layersOf bs).drop i |>.take n).flatMap fun l =>
      (b.sections.filter fun x => x.kind == 1).filterMap fun x =>
        let lo := max l.1 x.dst
        let hi := min (l.1 + l.2) (x.dst + x.len)
        if lo < hi then some (b.base + BitVec.ofNat 64 (x.off + (lo - x.dst)), va + BitVec.ofNat 64 lo, hi - lo) else none
  | _ => none

/-! ## Commands and rows -/

/-- Manifests begin at a 2 MiB-aligned DVA of TIER 2 or 3. -/
def manifestBad (q : Req) (off : Nat) : Bool :=
  let d : Dva := BitVec.ofNat 64 (reqNat q off 8)
  d.toNat % 2 ^ 21 != 0 || (dvaTier d != 2 && dvaTier d != 3)

/-- MODEL_LOAD. -/
def execModelLoad (q : Req) (s : State) : Host.Outcome State Fault Refusal :=
  .next <| s.commandWith q 0x0411 [(16, 0, 64), (24, 0, 64), (32, 0, 15), (34, 0, 16)] [(16, manifestBad q 16)] fun s => s.takeWork q

/-- MODEL_REPLACE with MODE as its row names it. -/
def State.replaceCommand (s : State) (q : Req) (shadow : Bool) : State :=
  if reqBit q 17 0 ≠ shadow then s
  else
    let va : Dva := BitVec.ofNat 64 (reqNat q 32 8)
    s.commandWith q 0x0412 [(16, 0, 8), (17, 0, 1), (18, 0, 13), (24, 0, 64), (32, 0, 64)]
      [(18, !shadow && reqBits q 18 0 13 == 0), (24, manifestBad q 24),
        (32, shadow && (va.toNat % 2 ^ 21 != 0 || dvaTier va != 1 || dvaNode va != 0xFFFF))] fun s => s.takeWork q

/-- MODEL_REPLACE with MODE = 0. -/
def execModelReplaceInPlace (q : Req) (s : State) : Host.Outcome State Fault Refusal := .next (s.replaceCommand q false)
/-- MODEL_REPLACE with MODE = 1. -/
def execModelReplaceShadow (q : Req) (s : State) : Host.Outcome State Fault Refusal := .next (s.replaceCommand q true)

/-- MODEL_UNLOAD. -/
def execModelUnload (q : Req) (s : State) : Host.Outcome State Fault Refusal :=
  .next <| s.commandWith q 0x0413 [(16, 0, 8)] [] fun s => s.takeWork q

/-- All loads of a work's slots are done: the CHAIN streams exist and the model is loaded (R224 step 7). -/
def State.finishLoad (s : State) (id : Nat) : State :=
  match s.work? id with
  | some w =>
    match w.model with
    | some m =>
      if w.phase = .loadingSlots && w.todo.isEmpty && w.left == 0 then
        let s := w.resv.foldl (fun s e => s.setStream e.1 e.2) s
        (s.updCtx w.ctx fun x => { x with models := mapSet x.models w.midx m }).endWork w 0 0 [(16, 1, w.midx)]
      else s
    | none => s
  | none => s

/-- The slot loads of a load whose copies are complete begin (R224 step 6). -/
def State.loadSlots (s : State) (w : ModelWork) (m : Model) : State :=
  let gs := (pick 64 fun i => bitOf m.wmask.toNat i).map fun i => BitVec.ofNat 6 ((s.ctx w.ctx).first.toNat + i)
  let todo := gs.filterMap fun g => (m.larder.find? fun e => e.1 == g).map fun e => (g, e.2.1)
  let t := (s.dropCopies w).updWork w.id fun w => { w with phase := .loadingSlots, copies := [], todo, left := todo.length }
  (t.pushLoads w.id).finishLoad w.id

/-- The block lists of a shadow whose weights are copied are written, and the gates armed (R231 steps 3, 4). -/
def State.shadowReady (s : State) (w : ModelWork) (m : Model) : State :=
  match s.readManifest w.ctx m.manifest, mapFind (s.ctx w.ctx).models w.midx with
  | .inl b, some old =>
    match (s.dropCopies w).shadowLists w.ctx b old.pantryVa m.pantryVa with
    | (t, some e) => t.failLoad w e.1 e.2
    | (t, none) => (t.updWork w.id fun w => { w with phase := .shadowArm, copies := [] }).settleArms
  | _, _ => s.failLoad w 0x01 m.manifest

/-- MODEL_LOAD_COPIES_DONE: the copies of a load or of a shadow are complete, and the slot loads begin, or the gates are armed;
one has failed, and the load is abandoned with its code and DVA. -/
def execModelLoadCopiesDone (work : Nat) (s : State) : Host.Outcome State Fault Refusal :=
  .next <|
    match s.work? work with
    | none => s
    | some w =>
      match w.model, s.copiesEnd w.copies with
      | some m, some e =>
        if w.phase ≠ .copying && w.phase ≠ .shadowCopy then s
        else match e with
          | some e => s.failLoad w e.1 e.2
          | none => if w.phase = .copying then s.loadSlots w m else s.shadowReady w m
      | _, _ => s

/-- REPLACE_HOLD_REACHED: every CHAIN stream waits at HOLD_BOLT with OCC zero; the copies of the group start. -/
def execReplaceHoldReached (work : Nat) (s : State) : Host.Outcome State Fault Refusal :=
  .next <|
    match s.work? work with
    | some w =>
      match w.phase, mapFind (s.ctx w.ctx).models w.midx, w.model with
      | .holding i, some m, some new =>
        if (s.chainsOf m).all fun e => e.2.st == .wait && e.2.waiting == .hold && e.2.occ == 0 then
          match s.readManifest w.ctx new.manifest with
          | .inr _ => s.endWork w 0x0E 0 [(16, 2, i)]
          | .inl b =>
            match s.layerRanges w.ctx b m.pantryVa i (reqBits w.req 18 0 13) with
            | none => s.endWork w 0x0E 0 [(16, 2, i)]
            | some l =>
              match s.startCopies w.ctx l [] with
              | some (t, ids) => t.updWork work fun w => { w with phase := .groupCopy i, copies := ids }
              | none => s
        else s
      | _, _, _ => s
    | none => s

/-- REPLACE_GROUP_COPIED: the group is copied, HOLD_BOLT released by the Study's arrival (assumption 33), and the next group
armed, until every layer is done; a failed copy leaves the model held. -/
def execReplaceGroupCopied (work : Nat) (s : State) : Host.Outcome State Fault Refusal :=
  .next <|
    match s.work? work with
    | none => s
    | some w =>
      match w.phase, mapFind (s.ctx w.ctx).models w.midx, w.model with
      | .groupCopy i, some m, some new =>
        let n := reqBits w.req 18 0 13
        match s.copiesEnd w.copies with
        | none => s
        | some (some _) => (s.dropCopies w).endWork w 0x0E 0 [(16, 2, i)]
        | some none =>
          let bs := ((s.chainsOf m).map fun e => e.2.holdBolt).eraseDups
          let t := bs.foldl (fun s b => s.boltAsk
            { who := .study, ctx := w.ctx, bolt := s.boltAbs w.ctx b.toNat, op := 1, cond := 0, operand := 1 }) (s.dropCopies w)
          if m.layers ≤ i + n then
            (t.updCtx w.ctx fun x => { x with models := mapSet x.models w.midx new }).endWork w 0 0 []
          else (t.updWork work fun w => { w with phase := .holdArm (i + n), copies := [] }).settleArms
      | _, _, _ => s

/-- STEP_END: STEP advances; at the armed step the stream stops at its gate (R229). -/
def execStepEnd (sid : StreamId) (s : State) : Host.Outcome State Fault Refusal := .next (s.stepEnd sid).settleArms.settleRevs
/-- GATE_ABORT. -/
def execGateAbort (sid : StreamId) (s : State) : Host.Outcome State Fault Refusal := .next (s.gateAbort sid).settleArms.settleRevs
/-- BOLT_RESPONSE_ARRIVAL: the k-th result or wake on its way reaches its requester. -/
def execBoltResponseArrival (k : Nat) (s : State) : Host.Outcome State Fault Refusal := .next (s.boltResponse k).settleArms.settleRevs

/-- SHADOW_GATE_PASSED: every stream's STEP has reached s; the old pages go and the shadow is the model's range. -/
def execShadowGatePassed (work : Nat) (s : State) : Host.Outcome State Fault Refusal :=
  .next <|
    match s.work? work with
    | none => s
    | some w =>
      match w.phase, mapFind (s.ctx w.ctx).models w.midx, w.model with
      | .shadowGate g, some m, some new =>
        if (s.chainsOf m).all fun e => decide (g ≤ e.2.step) then
          let s := s.unmapRange w.ctx 1 (dvaOff m.pantryVa / 2 ^ 21) (pagesOf m.pantryBytes)
          (s.updCtx w.ctx fun x => { x with models := mapSet x.models w.midx { new with larder := m.larder } }).endWork w 0 0 []
        else s
      | _, _, _ => s

/-! ## The loader's rows (02 R83, R85) -/

/-- LOADER_TAKE_REQUEST: a refused request is answered SLOT_ACTIVE, and a load that made it fails. -/
def execLoaderTakeRequest (w : WingId) (s : State) : Host.Outcome State Fault Refusal :=
  .next <|
    match s.loaderTake w with
    | none => s
    | some (refused, q, t) =>
      let t := if refused then
          (match q.lbx with
           | some (l, tag) => t.answer l tag 0x0301 q.ctx true 0x1E
           | none =>
             match t.work? q.work with
             | some x => t.failLoad x 0x1E 0
             | none => t)
        else t
      t.pushLoads q.work

/-- LOAD_COMMIT: a SLOT_LOAD is answered; a model load counts its commits, or fails with the status of the lowest failing
Room. -/
def execLoadCommit (w : WingId) (s : State) : Host.Outcome State Fault Refusal :=
  .next <|
    match s.loaderCommit w with
    | none => s
    | some (q, res, t) =>
      let mask (p : Nat → Bool) := ((res.filter fun e => p e.2).map fun e => 2 ^ e.1).sum
      let status := ((res.find? fun e => e.2 != 0).map (·.2)).getD 0
      match q.lbx, t.work? q.work with
      | some (l, tag), _ => t.answer l tag 0x0301 q.ctx true status 0 [(16, 2, mask (· == 0)), (18, 2, mask (· != 0))]
      | none, some x =>
        let x := { x with loaded := x.loaded ++ [w] }
        let t := t.updWork x.id fun _ => x
        if status ≠ 0 then t.failLoad x status 0
        else ((t.updWork x.id fun x => { x with left := x.left - 1 }).pushLoads x.id).finishLoad x.id
      | none, none => t

end Sys2Proof.Machine
end

