-- ==== Sys2Proof/Machine/Context.lean ====
section
/-! DEFINITION. Contexts (09 R296 to R300, R313 to R324; 13 R438): creating and releasing, failure, point tables, save copies,
pre-emption, checkpoint and restore; and the memory rows that may let a release go on. -/

namespace Sys2Proof.Machine

/-! ## Creating (R298) -/

def State.wingFree (s : State) (g : Nat) : Bool :=
  let w := s.wing (BitVec.ofNat 6 g)
  decide (g < 64) && w.ctx.isNone && !w.retired

/-- First Wing of the run taken. -/
def State.wingRun (s : State) (n : Nat) (first : Option Nat) : Option Nat :=
  let ok (g : Nat) : Bool := (List.range n).all fun i => s.wingFree (g + i)
  match first with
  | some g => if ok g then some g else none
  | none => (List.range 64).find? ok

/-- Lowest run of free Bolts: it begins at 0 or behind a run in use. -/
def State.boltRun (s : State) (n : Nat) : Option Nat :=
  let runs := (s.ctxs.filter fun e => e.2.st != .free).map fun e => (e.2.boltBase.toNat, e.2.bolts)
  let ok (b : Nat) : Bool := decide (b + n ≤ 32768) && runs.all fun r => decide (b + n ≤ r.1) || decide (r.1 + r.2 ≤ b)
  (0 :: runs.map fun r => r.1 + r.2).foldl (fun best b =>
    if ok b then
      match best with
      | some x => some (min x b)
      | none => some b
    else best) none

/-- CTX_CREATE. -/
def execCtxCreate (q : Req) (s : State) : Host.Outcome State Fault Refusal :=
  .next <|
    let n := reqNat q 16 1
    let first := if reqBit q 17 0 then some (reqNat q 18 1) else none
    let nb := reqNat q 20 2
    let ms := reqNat q 28 4
    let va : Dva := BitVec.ofNat 64 (reqNat q 32 8)
    let bytes := reqNat q 40 8
    s.commandWith q 0x0101 [(16, 0, 7), (17, 0, 1), (18, 0, 6), (20, 0, 16), (24, 0, 32), (28, 0, 14), (32, 0, 64), (40, 0, 64)]
      [(16, n == 0 || decide (64 < n)), (20, nb == 0 || decide (32768 < nb)), (24, reqNat q 24 4 == 0),
       (28, ms == 0 || decide (10000 < ms)), (32, !([1, 2].contains (dvaTier va)) || dvaNode va != 0xFFFF || va.toNat % 2 ^ 21 != 0),
       (40, bytes == 0 || bytes % 2 ^ 22 != 0)] fun s =>
      match (List.range (min 64 s.numVfs)).find? fun c => (s.ctx (BitVec.ofNat 6 c)).st == .free with
      | none => s.reply q 0x16
      | some c =>
        match s.wingRun n first with
        | none => s.reply q 0x03
        | some g =>
          match s.boltRun nb with
          | none => s.reply q 0x07
          | some b =>
            let x : Ctx :=
              { st := .active, first := BitVec.ofNat 6 g, wings := n, boltBase := BitVec.ofNat 15 b, bolts := nb
                job := BitVec.ofNat 32 (reqNat q 24 4), saveVa := va, saveBytes := bytes, preemptMs := ms }
            let t := { s with ctxs := mapSet s.ctxs c x, createdCtx := true }.makeRoots (BitVec.ofNat 6 c)
            let t := (ctxWings x).foldl (fun s g => s.updWing g fun w => { w with ctx := some (BitVec.ofNat 6 c) }) t
            t.reply q 0 0 [(16, 1, c), (17, 1, g), (20, 4, b)]

/-! ## Spare positions (01 R23, R25; 02 R88; 15 R494) -/

/-- Wings that are not retired, as ID_WINGRET and ID_ACTIVE report them. -/
def State.countWings (s : State) : State :=
  let dead := pick 64 fun g => (s.wing (BitVec.ofNat 6 g)).retired
  let n := 64 - dead.length
  s.updIdent fun x => { x with wingret := BitVec.ofNat 64 ((dead.map fun g => 2 ^ g).sum), active := BitVec.ofNat 32 (16 * n + n * 2 ^ 16) }

/-- A Wing that its failed Rooms retire: its spare is in use, or more than one has failed (01 R25). -/
def State.wingDoomed (s : State) (g : WingId) : Bool :=
  let n := ((wingRooms g).filter fun r => (s.room r).hwFailed).length
  decide (1 < n) || (n == 1 && (s.wing g).spare.isSome)

/-- A Wing is retired. -/
def State.loseWing (s : State) (g : WingId) : State :=
  ((s.raise { cls := 0x49, src := 1, unit := g.toNat }).updWing g fun w => { w with retired := true }).countWings

/-- The remap of a quiesced Wing with a failed Room: the spare takes the position, whose contents are copied again (02 R88), or
the Wing is retired. -/
def State.remapWing (s : State) (g : WingId) : State :=
  match (wingRooms g).find? fun r => (s.room r).hwFailed with
  | none => s
  | some r =>
    if s.wingDoomed g then s.loseWing g
    else
      ((s.raise { cls := 0x49, src := 1, unit := g.toNat }).updRoom r fun x => { x with hwFailed := false }).updWing g
        fun w => { w with spare := some (BitVec.ofNat 4 (r.toNat % 16)), lastCtx := none }

def State.remapCtx (s : State) (c : CtxId) : State := (s.ownWings c).foldl (fun s g => s.remapWing g) s

/-! ## Releasing (R300; 13 R427) -/

/-- What a Room keeps when its configuration block is cleared: its accumulator file (03 R121, R126), without the instructions. -/
def accKept (t : Tensor) : Tensor := { t with queue := [], blockNo := 0, waiting := false, late := false }

/-- Clear the configuration blocks, queues and chains of a context's Wings (02 R71). -/
def State.clearRooms (s : State) (c : CtxId) : State :=
  let gs := s.ownWings c
  let s := (gs.flatMap wingRooms).foldl (fun s r => s.updRoom r fun x => { hwFailed := x.hwFailed, te := accKept x.te }) s
  gs.foldl (fun s g => s.updWing g fun w => { w with loadQ := [], loading := none, ingress := [], sent := [] }) s

def whoCtx (s : State) (c : CtxId) : Waiter → Bool
  | .room r | .trigger r => s.roomCtx r == some c
  | .stream sid => (s.stream sid).any fun t => t.ctx == c
  | .porch i => (s.service i).any fun v => v.ctx == c
  | .host h => h == c
  | _ => false

/-- Who runs in a context: its Rooms, their triggers, its streams. -/
def whoRuns (s : State) (c : CtxId) (w : Waiter) : Bool :=
  match w with
  | .room _ | .trigger _ | .stream _ => whoCtx s c w
  | _ => false

/-- Drop the streams of a context, the Study's own apart, and the accesses and Bolt traffic of its Rooms and streams; `bye`
drops all Bolt traffic of the context (R300), and without it the posted operations stay where `post` has them stay: no operation
is lost (R306). -/
def State.dropStreams (s : State) (c : CtxId) (bye : Bool) (post : Bool := false) : State :=
  let gone (t : Stream) : Bool := t.ctx == c && !t.study
  let mine (a : Access) : Bool := a.ctx == c && match a.who with
    | .vldm _ _ | .vstm _ => true
    | .dw sid => (s.stream sid).any gone
    | _ => false
  let left (q : BoltReq) : Option BoltReq :=
    if bye then (if whoCtx s c q.who then none else some q)
    else if !(whoRuns s c q.who) then some q
    else if post && [1, 3, 5, 8].contains q.op.toNat then some { q with who := .study } else none
  { s with boltRsp := s.boltRsp.filter fun r : BoltRsp => !(if bye then whoCtx s c r.who else whoRuns s c r.who)
           boltQ := s.boltQ.map fun e => (e.1, e.2.filterMap left)
           bolts := s.bolts.map fun e => (e.1, { e.2 with waiters := e.2.waiters.filter fun w : Wait =>
             match w.who with
             | .room _ | .trigger _ | .stream _ => !(whoCtx s c w.who)
             | _ => true })
           accesses := s.accesses.filter fun a => !(mine a)
           streams := s.streams.filter fun e => !(gone e.2) }

/-- Every long command of a context ends with ABORTED. -/
def State.abortCommands (s : State) (c : CtxId) : State :=
  let works := s.modelWork.filter fun w => w.ctx == c
  let s := works.foldl (fun s w => (if w.phase = .queued then s else s.abandonLoad w).reply w.req 0x26)
    { s with modelWork := s.modelWork.filter fun w => w.ctx != c }
  let s := match (s.ctx c).pre with
    | some p => s.reply p.req 0x26
    | none => s
  match (s.ctx c).restore with
  | some r => s.reply r.1 0x26
  | none => s

/-- Steps 5 to 7, once no Inflow port, no window and no open service of the context is left (08 R282), and its streams' reads and
writes are complete (06 R208). -/
def State.releaseDone (s : State) (c : CtxId) : State :=
  match (s.ctx c).releasing with
  | none => s
  | some req =>
    let x := s.ctx c
    let waits := [s.inflow0, s.inflow1].any (fun i => i.desc.any fun d => adCtx d == c) || (s.windows.any fun e => e.2.ctx == c) ||
      (s.streams.any fun e => e.2.ctx == c && !e.2.grants.isEmpty) || !(s.ctxServices c).isEmpty
    if waits then s
    else
      let s := ((s.dropStreams c true).clearRooms c).remapCtx c
      let s := ((List.range 3).foldl (fun s k => s.unmapRange c (k + 1) 0 (2 ^ 24)) s).dropTables c
      let s := { s with bolts := s.bolts.filter fun e => !(decide (x.boltBase.toNat ≤ e.1) && decide (e.1 < x.boltBase.toNat + x.bolts)) }
      let s := (s.ownWings c).foldl (fun s g => s.updWing g fun w => { w with ctx := none, lastCtx := none }) s
      let s := { s with ctxs := mapDel s.ctxs c.toNat }
      match req with
      | some q => s.reply q 0
      | none => s

/-- Steps 1 to 4 of a release. -/
def State.releaseCtx (s : State) (c : CtxId) (req : Option Req) : State :=
  let s := ((s.endRevs c).haltRooms c).abortMoves c
  let s := (s.streams.filter fun e => e.2.ctx == c).foldl (fun s e => s.cancelStream e.1) s
  let s := (s.abortCommands c).porchReleased c
  let s := [false, true].foldl (fun s p =>
    if (s.inflow p).desc.any fun d => adCtx d == c then
      s.updInflow p fun x => { x with detaching := some (x.detaching.getD none) }
    else s) s
  let s := s.updCtx c fun x => { x with releasing := some req, pre := none, restore := none }
  let ws := (s.windows.filter fun e => e.2.ctx == c).map (·.1)
  let stop (w : HostWin) : HostWin := if w.ctx = c then { w with removing := some (w.removing.getD none) } else w
  let s : State := { s with windows := s.windows.map fun e : Nat × HostWin => (e.1, stop e.2) }
  (ws.foldl (fun s i => s.windowDone i) s).releaseDone c

/-- Releases that wait and may go on. -/
def State.settleReleases (s : State) : State :=
  (s.ctxs.filter fun e => e.2.releasing.isSome).foldl (fun s e => s.releaseDone (BitVec.ofNat 6 e.1)) s

/-- CTX_RELEASE: ACCEPTED, and OK at its end. -/
def execCtxRelease (q : Req) (s : State) : Host.Outcome State Fault Refusal :=
  .next <|
    s.commandWith q 0x0102 [] [] fun s =>
      if (s.ctx (reqCtx q)).releasing.isSome then s.reply q 0x14 (ctxStNum (s.ctx (reqCtx q)).st)
      else (s.accept q).releaseCtx (reqCtx q) (some q)

/-- DW_READ_DATA: the data of a stream's k-th open request leaves its source for its destination. -/
def execDwReadData (sid : StreamId) (k : Nat) (s : State) : Host.Outcome State Fault Refusal := .next (s.dwReadData sid k).settleReleases.settleRevs
/-- DW_WRITE_ACK: the destination has taken the data of a stream's k-th request. -/
def execDwWriteAck (sid : StreamId) (k : Nat) (s : State) : Host.Outcome State Fault Refusal := .next (s.dwWriteAck sid k).settleReleases.settleRevs
/-- MEMORY_ACCESS: the access is performed at its home controller (01 R33), or leaves for another device. -/
def execMemoryAccess (id : Nat) (s : State) : Host.Outcome State Fault Refusal := .next (s.memoryAccess id).settleReleases
/-- WALK_READ_RETURN: a walk's read returns (05 R184). -/
def execWalkReadReturn (d : DieId) (k : Nat) (s : State) : Host.Outcome State Fault Refusal :=
  .next (s.walkReadReturn d k).settleReleases
/-- PORCH_BUILD: DONE_BOLT has released (08 R274). -/
def execPorchBuild (i : Nat) (s : State) : Host.Outcome State Fault Refusal := .next (s.porchBuild i).settleReleases
/-- PORCH_POLL (08 R265). -/
def execPorchPoll (i : Nat) (s : State) : Host.Outcome State Fault Refusal := .next (s.porchPoll i).settleReleases
/-- MIG_TIMEOUT: an access that has waited on MIG = 1 fails (05 R186). -/
def execMigTimeout (id : Nat) (s : State) : Host.Outcome State Fault Refusal := .next (s.migTimeout id).settleReleases

/-- INFLOW_DETACH_EFFECT: a detach takes effect at a record boundary (11 R385). -/
def execInflowDetachEffect (p : Bool) (s : State) : Host.Outcome State Fault Refusal :=
  .next (if s.live && !s.inflowHeld p && atBoundary (s.inflow p) then (s.detachNow p).settleReleases else s)

/-! ## Failure (R313, R314) -/

/-- End the works of a context that fails: loads and shadows with LOAD_FAULT, in-place replacements with REPLACE_ABORTED;
queued ones stay, and a shadow whose gates are set completes (06 R225, R230, R231). -/
def State.failWorks (s : State) (c : CtxId) : State :=
  (s.modelWork.filter fun w => w.ctx == c).foldl (fun s w =>
    match w.phase with
    | .queued | .shadowGate _ => s
    | .holdArm i | .holding i | .groupCopy i => (s.dropCopies w).endWork w 0x0E 0 [(16, 2, i)]
    | _ => s.failLoad w 0x01 0) s

/-- A context fails: CAUSE, FAIL_ID, FAIL_CODE and SWCODE of R438. -/
def State.failContext (s : State) (c : CtxId) (cause : Nat) (failId : Nat) (code : Nat) (sw : Nat) : State :=
  let x := s.ctx c
  if x.st = .free || x.st = .failed then s
  else
    let s := (s.endRevs c).haltRooms c
    let s := s.updCtx c fun x =>
      { x with st := .failed, cause, failId := BitVec.ofNat 16 failId, failCode := BitVec.ofNat 8 code, swCode := BitVec.ofNat 16 sw
               pre := none, restore := none }
    let s := match x.pre with
      | some p => s.reply p.req 0x14 4
      | none => s
    let s := match x.restore with
      | some r => s.reply r.1 0x14 4
      | none => s
    let s := (s.failWorks c).porchCtxFailed c
    let s := s.jobError x.job 0x05
    let ev := [(20, 1, cause), (21, 1, code), (22, 2, failId), (24, 2, sw)]
    (s.ctxEvent c 0x8004 ev).event 0 0x8004 c ev

/-! ## CTX_STATUS and CTX_POINTS (13 R438) -/

/-- CTX_STATUS. -/
def execCtxStatus (q : Req) (s : State) : Host.Outcome State Fault Refusal :=
  .next <|
    s.commandWith q 0x0103 [] [] fun s =>
      let x := s.ctx (reqCtx q)
      s.reply q 0 0
        [(16, 1, ctxStNum x.st), (17, 1, x.first.toNat), (18, 1, x.wings), (19, 1, x.cause), (20, 4, x.boltBase.toNat),
          (24, 4, x.bolts), (28, 4, x.job.toNat), (32, 2, x.failId.toNat), (34, 1, x.failCode.toNat), (36, 2, x.swCode.toNat),
          (40, 4, x.gen.toNat), (44, 1, boolNat x.genValid), (48, 8, x.routeDropped.toNat), (56, 8, x.routeInvalid.toNat)]

/-- Entry of a point table in the host buffer: first bad byte, if any. -/
def pointBad (bolts : Nat) (v : Nat) : Option Nat :=
  if bolts ≤ bitsOf v 0 16 then some 0
  else if bitsOf v 16 16 ≠ 0 then some 2
  else if 4096 < bitsOf v 32 32 then some 4
  else none

/-- CTX_POINTS: the point table of the host buffer replaces the earlier one. -/
def execCtxPoints (q : Req) (hostOk : Bool) (s : State) : Host.Outcome State Fault Refusal :=
  .next <|
    let n := reqNat q 28 1
    s.commandWith q 0x0104 [(16, 0, 64), (24, 0, 32), (28, 0, 8)]
      [(16, reqNat q 16 8 % 4096 != 0), (24, decide (reqNat q 24 4 < 16 * n)), (28, n == 0 || decide (64 < n))] fun s =>
      let x := s.ctx (reqCtx q)
      if x.st ≠ .active || x.pre.isSome then s.reply q 0x14 (ctxStNum x.st)
      else if !hostOk then s.reply q 0x22
      else
        let es := (List.range n).map fun i => s.readNat (hostKey (reqNat q 16 8 + 16 * i)) 16
        match (List.range n).findSome? fun i => (pointBad x.bolts (es.getD i 0)).map fun o => 16 * i + o with
        | some o => s.badReq q o
        | none =>
          (s.updCtx (reqCtx q) fun x =>
            { x with points := es.map fun v => (BitVec.ofNat 15 (bitsOf v 0 15), BitVec.ofNat 32 (bitsOf v 32 32), BitVec.ofNat 64 (bitsOf v 64 64)) }).reply q 0

/-! ## What a save holds (R315, R318) -/

/-- Key and length of one live-range entry, or the code that fails it. -/
def State.rangeKey (s : State) (c : CtxId) (v : Nat) : (Nat × Nat) ⊕ Nat :=
  let d : Dva := BitVec.ofNat 64 (bitsOf v 0 64)
  let n := bitsOf v 64 32
  if dvaTier d ≠ 0 || !s.isLocal d || bitsOf (dvaOff d) 31 14 ≠ 0 || n % 64 ≠ 0 || n = 0 || 2 ^ 24 < n then .inr 0x07
  else if (s.wing (tier0Wing (dvaOff d))).ctx ≠ some c then .inr 0x06
  else .inl (tier0Key (dvaOff d), n)

/-- The live ranges of a list of `n` entries. -/
def State.rangesAt (s : State) (c : CtxId) (n : Nat) (d : Dva) : List (Nat × Nat) ⊕ Nat :=
  match s.dvaRead c d (16 * n) with
  | .inr e => .inr e
  | .inl bs =>
    (List.range n).foldl (fun r i =>
      match r, s.rangeKey c (leNat ((bs.drop (16 * i)).take 16)) with
      | .inl l, .inl e => .inl (l ++ [e])
      | .inl _, .inr e => .inr e
      | .inr e, _ => .inr e) (.inl [])

/-- Count and DVA of a point's live-range list. -/
def State.pointList (s : State) (c : CtxId) (bolt : BitVec 15) : Nat × Dva :=
  match (s.ctx c).points.find? fun p => p.1 == bolt with
  | none => (0, 0)
  | some (_, n, d) => (n.toNat, d)

/-- The live ranges of a point. -/
def State.rangesOf (s : State) (c : CtxId) (bolt : BitVec 15) : List (Nat × Nat) ⊕ Nat :=
  s.rangesAt c (s.pointList c bolt).1 (s.pointList c bolt).2

/-- Enabled spill regions of Rooms (02 R48). -/
def spillRangesOf (rooms : List (RoomId × Room)) : List (Nat × Nat) :=
  rooms.flatMap fun e =>
    (List.range 4).filterMap fun p =>
      let i := e.2.inPort (BitVec.ofNat 2 p)
      if spillLimit i = 0 then none else some (shelfKey e.1.toNat (spillBase i), 64 * spillLimit i)
def State.spillRanges (s : State) (c : CtxId) : List (Nat × Nat) := spillRangesOf ((ctxRooms (s.ctx c)).map fun r => (r, s.room r))

/-- Larder KV subframes of the context (05 R161). -/
def State.kvRanges (s : State) (c : CtxId) : List (Nat × Nat) :=
  ((s.allLeaves.filter fun l => l.1.1 == c && eValid l.2 && eSub l.2).flatMap fun l =>
    (s.subEntries l.2).filter fun e => eValid e.2 && ePtier e.2 == 0).map
    fun e => (larderKey (eSfn e.2 / 256) (eSfn e.2 % 256 * 65536), 65536)

/-- Streams of a context, the Study's own apart. -/
def State.ctxStreams (s : State) (c : CtxId) : List (StreamId × Stream) := s.streams.filter fun e => e.2.ctx == c && !e.2.study

def rangeBytes (l : List (Nat × Nat)) : Nat := (l.map (·.2)).sum

/-- Bytes a copy needs (R318). -/
def State.copyBytes (s : State) (c : CtxId) (l : Nat) : Nat :=
  4096 + 86016 * (s.ctx c).wings + 64 * (s.ctxStreams c).length + 32 * (s.ctx c).bolts + l

/-- L for a point, or for the largest one. -/
def State.saveL (s : State) (c : CtxId) (bolt : Option (BitVec 15)) : Nat :=
  let one (b : BitVec 15) : Nat := match s.rangesOf c b with
    | .inl l => rangeBytes l
    | .inr _ => 0
  let listed := match bolt with
    | some b => one b
    | none => ((s.ctx c).points.map fun p => one p.1).foldl max 0
  listed + rangeBytes (s.spillRanges c) + rangeBytes (s.kvRanges c)

/-! ## Pre-emption and checkpoint (R316 to R321) -/

/-- Hold every COPY stream of a context at its next entry boundary, or let them go on. -/
def State.holdCopies (s : State) (c : CtxId) (on : Bool) : State :=
  { s with streams := s.streams.map fun e => (e.1, if e.2.ctx = c && !e.2.chainKind && !e.2.study then { e.2 with boundaryHold := on } else e.2) }

/-- Checks and start of CTX_PREEMPT and CTX_CHECKPOINT. -/
def State.preemptCommand (s : State) (q : Req) (op : Nat) (checkpoint : Bool) : State :=
  s.commandWith q op [(16, 0, 15), (20, 0, 32)] [] fun s =>
    let c := reqCtx q
    let x := s.ctx c
    let bi := reqNat q 16 2
    let phase : W32 := BitVec.ofNat 32 (reqNat q 20 4)
    let any := phase == 0xFFFFFFFF
    let b := s.bolt (s.boltAbs c bi)
    let past := (b.phase - phase).toNat
    if x.st = .preempting then s.reply q 0x15
    else if x.st ≠ .active then s.reply q 0x14 (ctxStNum x.st)
    else if x.bolts ≤ bi then s.reply q 0x13
    else if !any && !(b.barrier && b.ppoint) then s.badReq q 16
    else if !any && past ≠ 0 && past < 2 ^ 31 then s.reply q 0x17
    else if x.saveBytes / 2 < s.copyBytes c (s.saveL c (if any then none else some (BitVec.ofNat 15 bi))) then s.reply q 0x19
    else
      let p : Preempt := { checkpoint, bolt := BitVec.ofNat 15 bi, phase, req := q }
      let s := if checkpoint then s else s.abandonRevs c
      ((s.accept q).updCtx c fun x => { x with st := .preempting, pre := some p }).holdCopies c true

/-- CTX_PREEMPT. -/
def execCtxPreempt (q : Req) (s : State) : Host.Outcome State Fault Refusal := .next (s.preemptCommand q 0x0105 false)
/-- CTX_CHECKPOINT. -/
def execCtxCheckpoint (q : Req) (s : State) : Host.Outcome State Fault Refusal := .next (s.preemptCommand q 0x0106 true)

/-- The held Bolt of a context. -/
def State.heldBolt (s : State) (c : CtxId) : Option BoltId := (s.ctxBolts c).find? fun b => (s.bolt b).held

/-- A Room stands at the point: IDLE, HALT, or idle in RUN with a BOLT trigger on the held Bolt; nothing in flight. -/
def State.roomAtPoint (s : State) (c : CtxId) (held : BoltId) (r : RoomId) : Bool :=
  let x := s.room r
  let h := s.header r x.active
  let ports := (List.range 4).map fun p => x.inPort (BitVec.ofNat 2 p)
  (x.runst == .idle || x.runst == .halt ||
      (x.runst == .run && roomIdle x h && hTrigger h == 3 && s.boltAbs c (hBolt h) == held)) &&
    x.firings.isEmpty && x.switching.isNone && x.out0.leaving.isEmpty && x.out1.leaving.isEmpty &&
    ports.all fun i => i.transit.isEmpty && i.freed.isEmpty && i.moving.isEmpty

/-- A stream stands at the point: it has no Bolt operation on its way, to or from an engine, that it waits for. -/
def State.streamAtPoint (s : State) (sid : StreamId) (t : Stream) : Bool :=
  let asks := s.boltRsp.any (fun r : BoltRsp => r.who == .stream sid) ||
    s.boltQ.any fun e => e.2.any fun q : BoltReq => q.who == .stream sid && [0, 2, 4].contains q.op.toNat
  (t.st != .run && t.st != .wait) ||
    (!asks && if t.chainKind then (t.waiting == .gate || t.waiting == .layerBolt) && t.occ == 0 && t.grants.isEmpty
     else t.grants.isEmpty && !t.begun)

/-- The context is at its point (R317). -/
def State.atPoint (s : State) (c : CtxId) : Option BoltId :=
  match s.heldBolt c with
  | none => none
  | some b =>
    if (ctxRooms (s.ctx c)).all (s.roomAtPoint c b) && (s.ctxStreams c).all (fun e => s.streamAtPoint e.1 e.2) &&
        (ctxWings (s.ctx c)).all (fun g => (s.wing g).ingress.isEmpty && (s.wing g).sent.isEmpty) then some b
    else none

/-! ## Save copies (R318) -/

/-- The header of a copy; its CRC covers the header with COMPLETE and the CRC field zero (assumption 45). Count and DVA of the
point's live-range list lie in bytes 48 to 63, which R318 leaves reserved (assumption 44). -/
def copyHeader (c : CtxId) (complete : Bool) (gen : W32) (bolt : Nat) (phase : W32) (w n b l : Nat) (list : Nat × Dva) : List Byte :=
  let fields := [(0, 4, 0x47535643), (4, 1, c.toNat), (8, 4, gen.toNat), (12, 2, bolt), (16, 4, phase.toNat), (20, 1, w), (22, 2, n),
    (24, 4, b), (32, 8, l), (48, 4, list.1), (56, 8, list.2.toNat)]
  layout 4096 (fields ++ [(5, 1, boolNat complete), (40, 4, crc32c (layout 4096 fields))])

/-- DVA of copy k. -/
def copyVa (x : Ctx) (k : Bool) : Dva := x.saveVa + BitVec.ofNat 64 (boolNat k * (x.saveBytes / 2))

/-- Fields of a header that is complete and whose CRC holds. -/
def headFields : List Byte ⊕ Nat → Option (Nat → Nat → Nat)
  | .inl bs =>
    let f (o n : Nat) := leNat ((bs.drop o).take n)
    let bare := patchBytes (patchBytes bs 5 [0]) 40 [0, 0, 0, 0]
    if f 0 4 = 0x47535643 && bitOf (f 5 1) 0 && crc32c bare = f 40 4 then some f else none
  | .inr _ => none

/-- Header of a copy, as fields. -/
def State.copyHead (s : State) (c : CtxId) (k : Bool) : Option (Nat → Nat → Nat) :=
  headFields (s.dvaRead c (copyVa (s.ctx c) k) 4096)
def State.copyGen (s : State) (c : CtxId) (k : Bool) : Option W32 := (s.copyHead c k).map fun f => BitVec.ofNat 32 (f 8 4)

/-- Which of two copies is the newer, and its GEN. -/
def newerCopy (zero one : Option W32) : Option (Bool × W32) :=
  match zero, one with
  | some a, some b => if (b - a).toNat < 2 ^ 31 then some (true, b) else some (false, a)
  | some a, none => some (false, a)
  | none, some b => some (true, b)
  | none, none => none

/-- The newest complete copy, and its GEN. -/
def State.newestCopy (s : State) (c : CtxId) : Option (Bool × W32) := newerCopy (s.copyGen c false) (s.copyGen c true)

/-- Offsets of the control registers of a configuration block (02 R76). -/
def cfbOffsets : List Nat :=
  [0, 4, 0x10, 0x18, 0x20, 0x28, 0x30, 0x38, 0x40, 0x48, 0x50, 0x58, 0x60, 0x64, 0x68, 0x6C]

/-- Output port that fed a port last: Room × 2 + port. -/
def lastSource (i : InPort) : Nat :=
  match i.spilled.getLast?, i.onchip.getLast? with
  | some e, _ => e.2.1.toNat * 2 + boolNat e.2.2
  | none, some e => e.src.toNat * 2 + boolNat e.out
  | none, none => 0

def rotNum : Option PortId → Nat
  | none => 0
  | some p => 4 + p.toNat

/-- A Room record of 5,376 bytes. R318 fixes what bytes 0 to 255 hold and not where: the control registers lie at their offsets,
the rest behind them (assumption 44). -/
def State.roomRecord (s : State) (r : RoomId) : List Byte :=
  let x := s.room r
  let port (p : Nat) : InPort := x.inPort (BitVec.ofNat 2 p)
  let steer (k : Nat) : Nat := (let t := mapGet {} x.steer k; (boolNat t.second + 2 * boolNat t.acted) * 4 ^ k)
  let trig := match x.trig with
    | .none => (0, 0)
    | .sent => (1, 0)
    | .recorded p => (2, p.toNat)
  let kinds (p : Nat) : Nat := ((port p).onchip.zipIdx.map fun e => e.1.kind.toNat * 4 ^ e.2).sum
  let spilled (p i : Nat) : Nat := match (port p).spilled[i]? with
    | some e => e.1.toNat
    | none => 0
  let onchip (p i : Nat) : Nat := match (port p).onchip[i]? with
    | some e => e.payload.toNat
    | none => 0
  layout 256
    ((cfbOffsets.filterMap fun o => (s.cfbReg r o).map fun v => (o, v.1, v.2)) ++
      [(0x70, 4, x.slotFires.toNat), (0x74, 4, trig.2), (0x78, 4, ((List.range 16).map steer).sum),
        (0x7C, 1, trig.1 + 4 * boolNat x.trigMet), (0x7D, 1, rotNum x.rotIn + 8 * rotNum x.rotOut),
        (0x7E, 1, ((List.range 4).map fun p => boolNat (port p).fullSince * 2 ^ p).sum), (0x80, 4, x.windows.toNat)] ++
      ((List.range 4).flatMap fun p =>
        [(0x84 + 4 * p, 2, (port p).wrPos), (0x86 + 4 * p, 2, (port p).rdPos), (0x94 + 4 * p, 4, kinds p),
          (0xA4 + 2 * p, 2, lastSource (port p))]) ++
      x.loffs.map fun e => (0xAC + 4 * e.1, 4, e.2 + 2 ^ 31)) ++
    packElems 2 ((List.range 4).flatMap fun p => (List.range 1024).map (spilled p)) ++
    (List.range 4).flatMap fun p => (List.range 16).flatMap fun i => natLe 64 (onchip p i)

/-- A port of a Room record. -/
def portOf (f : Nat → Nat → Nat) (p : Nat) : InPort :=
  let occ := f (0x30 + 8 * p) 8
  let src := f (0xA4 + 2 * p) 2
  let room : RoomId := BitVec.ofNat 10 (src / 2)
  let out := src % 2 == 1
  let kind (o i : Nat) : BitVec 2 := BitVec.ofNat 2 (f (o + i / 4) 1 / 4 ^ (i % 4))
  { onchip := (List.range (min 16 (bitsOf occ 0 5))).map fun i =>
      { kind := kind (0x94 + 4 * p) i, payload := BitVec.ofNat 512 (f (1280 + 64 * (16 * p + i)) 64), src := room, out }
    spilled := (List.range (min 1024 (bitsOf occ 5 11))).map fun i => (kind (256 + 256 * p) i, room, out)
    profile := BitVec.ofNat 16 (f (0x10 + 8 * p) 2), wrPos := f (0x84 + 4 * p) 2, rdPos := f (0x86 + 4 * p) 2
    hwm := BitVec.ofNat 11 (f (0x50 + 2 * p) 2), fullSince := bitOf (f 0x7E 1) p }

/-- A Room of its record; the engines' own state stays as it is. -/
def roomOf (old : Room) (bs : List Byte) : Room :=
  let f (o n : Nat) := leNat ((bs.drop o).take n)
  let st := f 0 4
  let slot (k : Nat) : SlotSt := match bitsOf st (2 * k) 2 with
    | 0 => .empty
    | 1 => .loading
    | 2 => .ready
    | _ => .active
  let rot (n : Nat) : Option PortId := if n % 8 < 4 then none else some (BitVec.ofNat 2 n)
  { in0 := portOf f 0, in1 := portOf f 1, in2 := portOf f 2, in3 := portOf f 3
    rotIn := rot (f 0x7D 1), rotOut := rot (f 0x7D 1 / 8)
    slots := ((List.range 8).filter fun k => slot k != .empty).map fun k => (k, slot k)
    loffs := ((List.range 8).filter fun k => bitOf (f (0xAC + 4 * k) 4) 31).map fun k => (k, f (0xAC + 4 * k) 4 % 2 ^ 31)
    active := BitVec.ofNat 3 (bitsOf st 16 3)
    runst := match bitsOf st 20 3 with
      | 1 => .run
      | 3 => .halt
      | _ => .idle
    haltReq := bitOf (f 4 4) 0, target := BitVec.ofNat 3 (bitsOf (f 4 4) 4 3)
    slotFires := BitVec.ofNat 32 (f 0x70 4), trigMet := bitOf (f 0x7C 1) 2
    steer := ((List.range 16).filter fun k => bitsOf (f 0x78 4) (2 * k) 2 != 0).map fun k =>
      (k, { second := bitOf (f 0x78 4) (2 * k), acted := bitOf (f 0x78 4) (2 * k + 1) })
    fires := BitVec.ofNat 48 (f 0x58 6), forwards := BitVec.ofNat 16 (f 0x5E 2), switches := BitVec.ofNat 32 (f 0x60 4)
    discards := BitVec.ofNat 32 (f 0x64 4), fault := BitVec.ofNat 7 (f 0x68 4), stallCount := f 0x6D 3
    windows := BitVec.ofNat 32 (f 0x80 4)
    trig := match f 0x7C 1 % 4 with
      | 1 => .sent
      | 2 => .recorded (BitVec.ofNat 32 (f 0x74 4))
      | _ => .none
    te := accKept old.te, ve := old.ve }

/-- A stream record. Bytes 61 to 63, reserved in R318, hold its state and what it waits at, its model, and its number on its
Dumbwaiter (assumption 44). -/
def streamRecord (sid : StreamId) (t : Stream) : List Byte :=
  let at_ := if t.waiting = .layerBolt then 1 else if t.waiting = .gate then 2 else 0
  patchBytes (descriptor sid t true) 61
    [BitVec.ofNat 8 (streamStNum t.st + 8 * at_ + 64 * boolNat t.hostMade), BitVec.ofNat 8 ((t.model.map (· + 1)).getD 0),
      BitVec.ofNat 8 (sid % 64)]

/-- A stream of its record: its number, and the stream, at its saved entry with OCC zero (06 R232). One that waits at a WAIT or a
GUARD executes it again. -/
def streamSaved (c : CtxId) (bs : List Byte) : StreamId × Stream :=
  let f (o n : Nat) := leNat ((bs.drop o).take n)
  let flag (i : Nat) := bitOf (f 0 1) i
  let at_ := bitsOf (f 61 1) 3 2
  let st : StreamSt := match bitsOf (f 61 1) 0 3 with
    | 0 => .created
    | 1 => .run
    | 2 => if at_ = 0 then .run else .wait
    | 3 => .done
    | 4 => .fault
    | _ => .cancelled
  (64 * bitsOf (f 1 1) 0 4 + f 63 1 % 64,
    { chainKind := flag 0, tclass := flag 1, gateArm := flag 2, gateGo := flag 3, gateAbort := flag 4, pendValid := flag 5
      holdEn := flag 6, wing := BitVec.ofNat 6 (f 2 2), rate := BitVec.ofNat 16 (f 4 2), bulkSlack := BitVec.ofNat 16 (f 6 2)
      listBase := BitVec.ofNat 64 (f 8 8), listLen := BitVec.ofNat 24 (f 16 4), start := BitVec.ofNat 24 (f 20 4)
      entry := BitVec.ofNat 24 (f 20 4), pendBase := BitVec.ofNat 64 (f 24 8), pendLen := BitVec.ofNat 24 (f 32 4)
      gateStep := BitVec.ofNat 32 (f 36 4), layerBolt := BitVec.ofNat 15 (f 40 2), holdBolt := BitVec.ofNat 15 (f 42 2)
      step := BitVec.ofNat 32 (f 44 4), statusAddr := BitVec.ofNat 64 (f 48 8), ctx := c, layer := BitVec.ofNat 32 (f 57 4)
      st, waiting := if st = .wait then (if at_ = 1 then .layerBolt else .gate) else .none
      hostMade := bitOf (f 61 1) 6, model := if f 62 1 = 0 then none else some (f 62 1 - 1) })

/-- Write runs of bytes one after another; the code of the first write that fails. -/
def State.dvaWriteAll (s : State) (c : CtxId) (d : Dva) : List (List Byte) → State × Nat
  | [] => (s, 0)
  | bs :: rest =>
    match s.dvaWrite c d bs with
    | (t, 0) => State.dvaWriteAll t c (d + BitVec.ofNat 64 bs.length) rest
    | r => r

/-- Write a copy with COMPLETE = 0: header, Room records, stream records, Bolt records, range contents. -/
def State.writeCopy (s : State) (c : CtxId) (k : Bool) (gen : W32) (b : BoltId) (ranges : List (Nat × Nat)) : State × Nat :=
  let x := s.ctx c
  let sts := s.ctxStreams c
  let i := s.boltRel c b
  let hd := copyHeader c false gen i (s.bolt b).phase x.wings sts.length x.bolts (rangeBytes ranges) (s.pointList c (BitVec.ofNat 15 i))
  if ranges.any fun r => s.poisoned r.1 r.2 then (s, 0x08)
  else
    s.dvaWriteAll c (copyVa x k)
      (hd :: (ctxRooms x).map s.roomRecord ++ sts.map (fun e => streamRecord e.1 e.2) ++
        (s.ctxBolts c).map (fun b => boltRecord (s.bolt b)) ++ ranges.map fun r => s.read r.1 r.2)

/-- PREEMPT_POINT_REACHED: the context is at its point, and its copy is written. No load, replacement or move of its pages is at
work (assumption 74). -/
def execPreemptPointReached (c : CtxId) (s : State) : Host.Outcome State Fault Refusal :=
  .next <|
    let x := s.ctx c
    match x.pre, s.atPoint c with
    | some p, some b =>
      if p.saving || !s.live || s.modelWork.any (fun w => w.ctx == c && w.phase != .queued) ||
          s.streams.any fun e => e.2.ctx == c && e.2.study then s
      else
        let (k, gen) : Bool × W32 := match s.newestCopy c with
          | some (k, g) => (!k, g + 1)
          | none => (false, 1)
        match s.rangesOf c (BitVec.ofNat 15 (s.boltRel c b)) with
        | .inr e => s.updCtx c fun x => { x with pre := some { p with saving := true, err := BitVec.ofNat 8 e } }
        | .inl l =>
          let l := l ++ s.spillRanges c ++ s.kvRanges c
          let (t, e) := s.writeCopy c k gen b l
          t.updCtx c fun x =>
            { x with pre := some { p with saving := true, copy := k, gen, bytes := s.copyBytes c (rangeBytes l), err := BitVec.ofNat 8 e } }
    | _, _ => s

/-- End a pre-emption with the context ACTIVE: the held release is performed, and COPY streams and requests go on. -/
def State.preemptOff (s : State) (c : CtxId) (p : Preempt) (status detail : Nat) (result : List (Nat × Nat × Nat)) : State :=
  let s := s.updCtx c fun x => { x with st := .active, pre := none }
  (((s.releaseHeld c).holdCopies c false).reply p.req status detail result).settleWork c

/-- PREEMPT_TIMEOUT: the point was not reached in time (R320). -/
def execPreemptTimeout (c : CtxId) (s : State) : Host.Outcome State Fault Refusal :=
  .next <|
    match (s.ctx c).pre with
    | some p => if p.saving then s else s.preemptOff c p 0x18 0 []
    | none => s

/-- Step 5 of R319: status records are written (06 R205), stream contexts and Wings freed, and every slot is EMPTY. -/
def State.preempted (s : State) (c : CtxId) : State :=
  let s := (s.ctxStreams c).foldl (fun s e => s.writeStatus e.1) s
  let s := (s.dropStreams c false true).clearRooms c
  let s := (s.ownWings c).foldl (fun s g => s.updWing g fun w => { w with ctx := none, lastCtx := some c }) s
  (s.updCtx c fun x => { x with st := .preempted, pre := none }).porchPreempted c

/-- PREEMPT_SAVE_DONE: the writes of a copy are accepted, or one has failed with a code of R188. -/
def execPreemptSaveDone (c : CtxId) (code : Byte) (s : State) : Host.Outcome State Fault Refusal :=
  .next <|
    let x := s.ctx c
    match x.pre with
    | none => s
    | some p =>
      if !p.saving then s
      else
        let e := if p.err ≠ 0 then p.err else code
        if e ≠ 0 then s.preemptOff c p 0x1A e.toNat []
        else
          let t := (s.dvaWrite c (copyVa x p.copy + 5) [1]).1
          let t := t.updCtx c fun x => { x with gen := p.gen, genValid := true, genCopy := p.copy }
          let res := [(16, 4, p.gen.toNat), (24, 8, p.bytes)]
          if p.checkpoint then t.preemptOff c p 0 0 res else (t.preempted c).reply p.req 0 0 res

/-! ## Restore (R322, R324) -/

/-- Records of a copy: `n` of them of `len` bytes, from an offset. -/
def State.copyRecords (s : State) (c : CtxId) (k : Bool) (off len n : Nat) : List (List Byte) ⊕ Nat :=
  (List.range n).foldl (fun r i =>
    match r, s.dvaRead c (copyVa (s.ctx c) k + BitVec.ofNat 64 (off + len * i)) len with
    | .inl l, .inl bs => .inl (l ++ [bs])
    | .inl _, .inr e => .inr e
    | .inr e, _ => .inr e) (.inl [])

/-- Streams and Bolts of a copy with W Wings, S streams and B Bolts. -/
def State.copyStreams (s : State) (c : CtxId) (k : Bool) (w n : Nat) : List (StreamId × Stream) ⊕ Nat :=
  (s.copyRecords c k (4096 + 86016 * w) 64 n).map (fun l => l.map (streamSaved c)) id
def State.copyBolts (s : State) (c : CtxId) (k : Bool) (w n b : Nat) : List Bolt ⊕ Nat :=
  (s.copyRecords c k (4096 + 86016 * w + 64 * n) 32 b).map (fun l => l.map boltOf) id

/-- Stream contexts for saved streams, each on its Dumbwaiter, its own number if it is free: pairs of old and new. -/
def streamPlaces : List (StreamId × Stream) → List (StreamId × Stream) → Option (List (StreamId × StreamId))
  | _, [] => some []
  | held, (sid, t) :: rest =>
    let goal_ := if held.all fun e => e.1 != sid then some sid else freeStream held (sid / 64)
    match goal_ with
    | none => none
    | some n => (streamPlaces ((n, t) :: held) rest).map fun l => (sid, n) :: l

/-- Step 3 for a FAILED or fresh context: the Wings' configuration blocks and queues are cleared, and every Bolt record is written
from the copy; what waits on a Bolt from outside the context's Rooms and streams stays registered. -/
def State.restoreBolts (s : State) (c : CtxId) (bolts : List Bolt) : State :=
  let s := (s.dropStreams c false).clearRooms c
  let s := (s.ownWings c).foldl (fun s w => s.updWing w fun y => { y with lastCtx := none }) s
  (bolts.zipIdx).foldl (fun s e => s.updBolt (s.boltAbs c e.2) fun b => { e.1 with waiters := b.waiters }) s

/-- A Wing that a restore of a context cannot use: retired, or held by another context. -/
def State.wingTaken (s : State) (c : CtxId) (w : WingId) : Bool :=
  (s.wing w).retired || !((s.wing w).ctx == none || (s.wing w).ctx == some c)

/-- A restore from a copy that has been read begins, if its Wings and its streams' contexts are free. -/
def State.restoreBegins (s : State) (q : Req) (k : Bool) (g : W32) (sts : List (StreamId × Stream)) (bolts : List Bolt) : State :=
  let c := reqCtx q
  let x := s.ctx c
  let ws := ctxWings x
  if ws.any (s.wingTaken c) then s.reply q 0x1C
  else
    let t := (ws.filter s.wingDoomed).foldl (fun s w => s.loseWing w) s
    if ws.any (t.wingTaken c) then t.reply q 0x1C
    else if (streamPlaces (s.heldStreams.filter fun e => e.2.ctx != c) sts).isNone then s.reply q 0x06
    else
      let t := (s.accept q).updCtx c fun y =>
        { y with st := .restoring, restore := some (q, x.st), gen := g, genValid := true, genCopy := k }
      let t := ws.foldl (fun s w => s.updWing w fun y => { y with ctx := some c }) t
      (if x.st ≠ .preempted then t.restoreBolts c bolts else t).remapCtx c

/-- CTX_RESTORE: checks and step 3. A copy of another shape, or one that cannot be read, is no checkpoint of the context. A Wing
with failed Rooms is remapped once it is cleared, or retired (15 R494). -/
def execCtxRestore (q : Req) (s : State) : Host.Outcome State Fault Refusal :=
  .next <|
    s.commandWith q 0x0107 [] [] fun s =>
      let c := reqCtx q
      let x := s.ctx c
      if !(x.st == .preempted || x.st == .failed || (x.st == .active && x.fresh)) then s.reply q 0x14 (ctxStNum x.st)
      else match s.newestCopy c with
        | none => s.reply q 0x1B
        | some (k, g) =>
          match s.copyHead c k with
          | none => s.reply q 0x1B
          | some f =>
            match s.copyStreams c k (f 20 1) (f 22 2), s.copyBolts c k (f 20 1) (f 22 2) (f 24 4) with
            | .inl sts, .inl bolts =>
              if f 20 1 ≠ x.wings || f 24 4 ≠ x.bolts then s.reply q 0x1B else s.restoreBegins q k g sts bolts
            | _, _ => s.reply q 0x1B

/-- Wings whose configuration sets are copied again: held by another context since, or cleared. -/
def State.staleWings (s : State) (c : CtxId) (ws : List WingId) : List WingId := ws.filter fun w => (s.wing w).lastCtx != some c

/-- Step 4: recopy configuration sets from the resting images, and reload slots. A code of R188 where a copy fails. -/
def State.recopySets (s : State) (c : CtxId) (ws : List WingId) : State × Option Nat :=
  (s.ctx c).models.foldl (fun (r : State × Option Nat) e =>
    match r.2, r.1.readManifest c e.2.manifest with
    | some e, _ => (r.1, some e)
    | none, .inr _ => (r.1, some 0x01)
    | none, .inl b =>
      let b := { b with sections := b.sections.filter fun x => ws.contains (BitVec.ofNat 6 ((s.ctx c).first.toNat + x.widx)) }
      match r.1.copySections c b e.2.pantryVa [2] with
      | (t, some x) => (t, some x.1)
      | (t, none) => (t, none)) (s, none)

/-- Reload every slot that was READY or ACTIVE in a Room; the status of a commit that fails (02 R85). -/
def State.reloadSlots (s : State) (r : RoomId) (x : Room) : State × Option Nat :=
  (x.slots.filter fun e => e.2 == .ready || e.2 == .active).foldl (fun (a : State × Option Nat) e =>
    match a.2, mapFind x.loffs e.1 with
    | none, some o =>
      let (st, t) := a.1.commitRoom (wingOf r) r (BitVec.ofNat 3 e.1) o
      (t, if st = 0 then none else some st)
    | _, _ => a) (s, none)

/-- Step 5: copy the range contents back from the copy. -/
def State.copyRanges (s : State) (c : CtxId) : Dva → List (Nat × Nat) → State × Option Nat
  | _, [] => (s, none)
  | d, (key, n) :: rest =>
    match s.dvaRead c d n with
    | .inl bs => State.copyRanges (s.write key bs) c (d + BitVec.ofNat 64 n) rest
    | .inr e => (s, some e)

/-- The next part of a restore, where no part before it has failed. -/
def thenPart (r : State × Option Nat) (f : State → State × Option Nat) : State × Option Nat :=
  match r with
  | (t, none) => f t
  | x => x

/-- A part of a restore with what has been read, or the code of why it could not be. -/
def withRead {α : Type} (s : State) (r : α ⊕ Nat) (f : α → State × Option Nat) : State × Option Nat :=
  match r with
  | .inl a => f a
  | .inr e => (s, some e)

/-- Bytes with unspecified values (assumption 3). -/
def State.freeRange (s : State) (key n : Nat) : State :=
  { s.write key ((List.range n).map fun i => (Config.freeWord (s.fresh + i)).truncate 8) with fresh := s.fresh + n }

/-- What a restore leaves unspecified in a Wing: Shelf and Larder outside its configuration sets (09 R315), and each Room's
registers and operand cache (04 R132). -/
def State.freeRoom (s : State) (r : RoomId) : State :=
  let f := s.fresh
  let w32 (i : Nat) : W32 := (Config.freeWord (f + i)).truncate 32
  let v : Map VReg := (List.range 32).map fun k => (k, (List.range 64).map fun i => w32 (64 * k + i))
  let p : Map W64 := ((List.range 8).drop 1).map fun k => (k, Config.freeWord (f + 2048 + k))
  let g : Map W32 := ((List.range 15).drop 1).map fun k => (k, w32 (2056 + k))
  let s := { s.updRoom r (fun x => { x with ve := { x.ve with v, p, g } }) with fresh := f + 2072 }
  (s.freeRange (shelfKey r.toNat 0) (2 ^ 20)).freeRange (cacheKey r.toNat 0) 65536

def State.freeWing (s : State) (c : CtxId) (g : WingId) : State :=
  let keep := ((s.modelsOf c).flatMap fun m => m.larder).filter fun l => l.1 == g
  let old := keep.map fun l => (larderKey g.toNat l.2.1, s.read (larderKey g.toNat l.2.1) l.2.2)
  let s := (wingRooms g).foldl (fun s r => s.freeRoom r) (s.freeRange (larderKey g.toNat 0) (2 ^ 24))
  old.foldl (fun s e => s.write e.1 e.2) s

/-- A restored Room's BOLT trigger is registered with its saved PHASE; a registration that had not been served is sent again
(R309). -/
def State.restoreTrigger (s : State) (c : CtxId) (r : RoomId) : State :=
  match (s.room r).trig with
  | .recorded p =>
    s.updBolt (s.boltAbs c (hBolt (s.header r (s.room r).active))) fun b =>
      { b with waiters := b.waiters ++ [{ who := .trigger r, op := opTrigger, cond := 0, operand := 0, phase0 := p }] }
  | .sent => s.registerTrigger r
  | .none => s

/-- A restored stream that had arrived at its LAYER_BOLT waits for the PHASE after the saved one. -/
def State.restoreWait (s : State) (c : CtxId) (phases : List W32) (sid : StreamId) (t : Stream) : State :=
  if t.waiting = .layerBolt then
    s.updBolt (s.boltAbs c t.layerBolt.toNat) fun b =>
      { b with waiters := b.waiters ++ [{ who := .stream sid, op := 2, cond := 0, operand := 1, phase0 := phases.getD t.layerBolt.toNat 0 }] }
  else s

/-- Steps 5 and 6: Rooms, but for their registers; streams, waits; ACTIVE; the held releases; the Porch. -/
def State.finishRestore (s : State) (c : CtxId) (again : Bool) (rooms : List (RoomId × Room)) (sts : List (StreamId × Stream))
    (phases : List W32) : State :=
  let s := rooms.foldl (fun s e => s.updRoom e.1 fun x => { e.2 with ve := x.ve }) s
  let s := { s with streams := s.streams.filter fun e => e.2.ctx != c || e.2.study }
  let s := sts.foldl (fun s e => s.setStream e.1 e.2) s
  let s := s.updCtx c fun x =>
    { x with st := .active, restore := none, fresh := false
             models := x.models.map fun e => (e.1, { e.2 with streams := (sts.filter fun y => y.2.model == some e.1).map (·.1) }) }
  let s := rooms.foldl (fun s e => s.restoreTrigger c e.1) s
  let s := sts.foldl (fun s e => s.restoreWait c phases e.1 e.2) s
  let s := (s.ctxBolts c).foldl (fun s b => s.wake b) s
  ((s.releaseHeld c).porchRestored c again).settleWork c

/-- The restore fails: the context returns to its state, and the fault is reported. -/
def State.restoreFails (s : State) (c : CtxId) (q : Req) (st : CtxSt) (code : Nat) : State :=
  let s := if st = .preempted then (s.ownWings c).foldl (fun s g => s.updWing g fun w => { w with ctx := none }) s else s
  (s.updCtx c fun x => { x with st, restore := none }).reply q 0x28 code

/-- Step 4: configuration sets and slots of stale Wings again, then the ranges of the copy; a code of R188 where that fails. -/
def State.restoreMemory (s : State) (c : CtxId) (ws stale : List WingId) (rooms : List (RoomId × Room)) (base : Dva)
    (ranges : List (Nat × Nat)) : State × Option Nat :=
  thenPart ((ws.foldl (fun s g => s.freeWing c g) s).recopySets c stale) fun t =>
    thenPart ((rooms.filter fun e => stale.contains (wingOf e.1)).foldl
      (fun a e => thenPart a fun t => t.reloadSlots e.1 e.2) (t, none)) fun t => t.copyRanges c base ranges

/-- What a copy holds. -/
structure Copy where
  field : Nat → Nat → Nat
  rooms : List (List Byte)
  streams : List (StreamId × Stream)
  bolts : List Bolt
  ranges : List (Nat × Nat)

/-- What is read, then what it leads to; the code where it cannot be read. -/
def thenRead {α β : Type} : α ⊕ Nat → (α → β ⊕ Nat) → β ⊕ Nat
  | .inl a, f => f a
  | .inr e, _ => .inr e

/-- A copy, with places for its streams; a code of R188 where it cannot be read. -/
def State.readCopy (s : State) (c : CtxId) (k : Bool) : Copy ⊕ Nat :=
  let w := (s.ctx c).wings
  thenRead ((s.copyHead c k).elim (.inr 0x01) .inl) fun f =>
    thenRead (s.copyRecords c k 4096 5376 (16 * w)) fun rooms =>
      thenRead (s.copyStreams c k w (f 22 2)) fun sts =>
        thenRead (s.copyBolts c k w (f 22 2) (s.ctx c).bolts) fun bolts =>
          thenRead (s.rangesAt c (f 48 4) (BitVec.ofNat 64 (f 56 8))) fun ranges =>
            match streamPlaces (s.heldStreams.filter fun e => e.2.ctx != c) sts with
            | none => .inr 0
            | some names => .inl { field := f, rooms, streams := (sts.zip names).map fun e => (e.2.2, e.1.2), bolts, ranges }

/-- Steps 4 to 6 (assumption 30: the row makes the copies); the code of what fails. -/
def State.restoreParts (s : State) (c : CtxId) (again : Bool) (y : Copy) : State × Option Nat :=
  let x := s.ctx c
  let rooms := ((ctxRooms x).zip y.rooms).map fun e => (e.1, roomOf (s.room e.1) e.2)
  let ranges := y.ranges ++ spillRangesOf rooms ++ s.kvRanges c
  let base := copyVa x x.genCopy + BitVec.ofNat 64 (4096 + 86016 * x.wings + 64 * y.field 22 2 + 32 * x.bolts)
  if rangeBytes ranges ≠ y.field 32 8 then (s, some 0x01)
  else thenPart (s.restoreMemory c (ctxWings x) (s.staleWings c (ctxWings x)) rooms base ranges) fun t =>
    (t.finishRestore c again rooms y.streams (y.bolts.map (·.phase)), none)

def State.restoreSteps (s : State) (c : CtxId) (st : CtxSt) : State × Option Nat :=
  withRead s (s.readCopy c (s.ctx c).genCopy) fun y => s.restoreParts c (st != .preempted) y

/-- RESTORE_COPY_DONE: the copies of a restore are accepted, or one has failed. -/
def execRestoreCopyDone (c : CtxId) (code : Byte) (s : State) : Host.Outcome State Fault Refusal :=
  .next <|
    match (s.ctx c).restore with
    | none => s
    | some (q, st) =>
      if code ≠ 0 then s.restoreFails c q st code.toNat
      else match s.restoreSteps c st with
        | (t, none) => t.reply q 0
        | (t, some e) => t.restoreFails c q st e

end Sys2Proof.Machine
end

