-- ==== Sys2Proof/Machine/Recorder.lean ====
section
/-! DEFINITION. The Event Recorder (12 R404 to R407; 15 R478 to R481): records, their bytes, the freeze and its end, and the
push to the host. -/

namespace Sys2Proof.Machine

/-- Bytes of DETAIL that R478 gives a class: the software code, the row number, and a bit position behind it. -/
def detailFixed (cls : Nat) : Nat :=
  if cls = 0x08 then 2
  else if cls = 0x18 || cls = 0x19 then 6
  else if cls = 0x1A || cls = 0x1B || cls = 0x1E || cls = 0x1F then 4
  else 0

/-- DETAIL: the bytes that the class gives, and the firmware's own (assumption 58). -/
def detailBytes (r : Record) : List Byte :=
  (natLe 8 r.detail.toNat).take (detailFixed r.cls) ++
    (natLe 16 (Config.recordDetail r.cls r.detail r.seq).toNat).drop (detailFixed r.cls)

/-- The 64 bytes of a record. -/
def recordBytesOf (r : Record) : List Byte :=
  let c := match r.ctx with
    | some c => c.toNat + 64
    | none => 0
  let b := layout 44
    [(0, 8, r.seq.toNat), (8, 8, r.hc.toNat), (16, 1, r.cls), (17, 1, r.code.toNat),
      (18, 1, r.base + 8 * r.sev + 64 * boolNat r.esc + 128 * boolNat r.absorbed), (19, 1, r.src), (20, 2, r.unit), (22, 1, c),
      (24, 8, r.addr.toNat), (32, 4, r.count.toNat), (36, 8, r.episode.toNat)] ++ detailBytes r
  b ++ natLe 4 (crc32c b)

/-- Write a record of an error, or count it while the Recorder is frozen. EPISODE is the record's own SEQ where none is
given. -/
def State.writeRecord (s : State) (e : Err) (sev : Nat) (esc : Bool := false) (absorbed : Bool := false)
    (episode : Option W64 := none) : State :=
  if s.evr.frozen then s.updEvr fun x => { x with unwritten := x.unwritten + 1 }
  else
    let r : Record :=
      { seq := s.evr.next, hc := e.stamp, cls := e.cls, code := e.code, base := severity e.cls, sev, esc, absorbed, src := e.src
        unit := e.unit, ctx := e.ctx, addr := e.addr, count := e.count, episode := episode.getD s.evr.next, detail := e.detail }
    s.updEvr fun x => { x with window := mapSet x.window (x.next.toNat % 4096) r, next := x.next + 1 }

/-- A record that the boot ROM or the Study writes directly. -/
def State.directRecord (s : State) (cls unit : Nat) (src : Nat := 9) (count : W32 := 1) (detail : W64 := 0) : State :=
  s.writeRecord { cls, src, unit, count, detail, stamp := s.hc } (severity cls)

/-- Bytes of the Recorder window. -/
def State.windowBytes (s : State) (off n : Nat) : List Byte :=
  (List.range n).map fun i =>
    match mapFind s.evr.window ((off + i) / 64) with
    | some r => (recordBytesOf r).getD ((off + i) % 64) 0
    | none => 0

/-- Records s with EVR_NEXT − 4,096 ≤ s < EVR_NEXT. -/
def State.keptRecords (s : State) : List Record :=
  (s.evr.window.map (·.2)).filter fun r => decide (s.evr.next.toNat < r.seq.toNat + 4097) && decide (r.seq.toNat < s.evr.next.toNat)

/-- UNFREEZE: the freeze and the push status end, with one EVR_RESUMED record for a freeze that ends, and the owed records of
TRAY_LATCH (15 R480, R501). -/
def State.unfreeze (s : State) : State :=
  let t := (s.updI3c fun x => { x with pushReady := false }).updEvr fun x =>
    { x with frozen := false, hostDone := false, bmcDone := false, hostFail := false, unwritten := 0, departOwed := 0 }
  if s.evr.frozen then
    let t := t.directRecord 0x4B (Config.unitOf 0x4B) 9 s.evr.unwritten
    if s.evr.departOwed = 0 then t
    else t.writeRecord { cls := 0x44, src := 12, unit := 1, count := BitVec.ofNat 32 s.evr.departOwed, stamp := s.hc } 4
  else t

/-- The push to the host: the whole buffer is written, records at their places and zero elsewhere. -/
def State.hostPush (s : State) (hostOk : Bool) : State :=
  let (s, v) := s.readTv s.evr.hostbuf fun t s => s.updEvr fun x => { x with hostbuf := t }
  let base := v.toNat / 4096 * 4096
  if !s.evr.pushHost || base = 0 || !hostOk || !s.hostUp then s.updEvr fun x => { x with hostFail := true }
  else
    let m := memClear s.mem (hostKey base) 262144
    { s with mem := s.keptRecords.foldl (fun m r => memWrites m (hostKey (base + 64 * (r.seq.toNat % 4096))) (recordBytesOf r)) m
             evr := { s.evr with hostDone := true } }

end Sys2Proof.Machine
end

