-- ==== Sys2Proof/Machine/Letterbox.lean ====
section
/-! DEFINITION. The rings of a Letterbox (12 R409; 13 R419 to R426): the enable check, taking requests, writing responses and
events, vectors and their interval, faults and RESET. -/

namespace Sys2Proof.Machine

/-- A Letterbox stops being served: FAULT with FCODE, an error and a count (15 R472; 13 R434). -/
def State.lbxFault (s : State) (l : Nat) (code : Byte) : State :=
  let s := s.updLbx l fun b => { b with fault := true, fcode := code }
  { s with diag := { s.diag with lbxFault := satAdd 32 s.diag.lbxFault 1 } }.raise
    { cls := 0x32, code, src := 10, unit := l + 1 }

/-- The Study, or in minimal mode and in FATAL the boot ROM, serves a Letterbox (13 R429 to R431). -/
def State.servesLbx (s : State) (l : Nat) : Bool :=
  if l = 0 then s.devSt == .running || s.devSt == .minimal || s.devSt == .fatal || (s.devSt == .handshake && s.serving)
  else s.devSt == .running

/-- Entries of the two rings. -/
def reqSlots (b : Lbx) : Nat := 2 ^ bitsOf b.size.toNat 0 4
def rspSlots (b : Lbx) : Nat := 2 ^ bitsOf b.size.toNat 8 4
def ringBase (t : Tv) : Nat := (vote t).toNat / 4096 * 4096
/-- Read a ring's base: voted, corrected and counted (12 R396). -/
def State.reqRing (s : State) (l : Nat) : State × Nat :=
  let r := s.readTv (s.lbx l).reqBase fun t s => s.updLbx l fun b => { b with reqBase := t }
  (r.1, r.2.toNat / 4096 * 4096)
def State.rspRing (s : State) (l : Nat) : State × Nat :=
  let r := s.readTv (s.lbx l).rspBase fun t s => s.updLbx l fun b => { b with rspBase := t }
  (r.1, r.2.toNat / 4096 * 4096)

/-- Ring sizes out of range, or a ring that passes the end of the address space (assumption 52). -/
def ringsBad (b : Lbx) : Bool :=
  let bad (lg base : Nat) := decide (lg < 4) || decide (12 < lg) || decide (2 ^ 64 < base + 256 * 2 ^ lg)
  bad (bitsOf b.size.toNat 0 4) (ringBase b.reqBase) || bad (bitsOf b.size.toNat 8 4) (ringBase b.rspBase)

/-- LETTERBOX_ENABLE_CHECK: the rings are checked after ENABLE. -/
def execLetterboxEnableCheck (l : Nat) (s : State) : Host.Outcome State Fault Refusal :=
  .next <|
    let b := s.lbx l
    if !s.servesLbx l || !b.enable || b.ready || b.fault then s
    else
      let s := (s.reqRing l).1
      let s := (s.rspRing l).1
      if ringsBad b then s.lbxFault l 3
      else s.updLbx l fun b => { b with ready := true }

/-- Responses owed (R424): one for a command not answered with FINAL, and one for an ACCEPTED not written. -/
def owed (b : Lbx) : Nat :=
  (b.taken.map fun q => 1 + boolNat (longOp (reqOp q))).sum + (if b.busy then 1 + boolNat (longOp b.busyOp.toNat) else 0) +
    b.long.length + (b.outq.filter fun r : Response => !r.event).length

/-- The ring indices of a Letterbox are out of range. -/
def indexBad (b : Lbx) : Bool :=
  decide (reqSlots b < (b.reqProd - b.reqCons).toNat) || decide (2 ^ 31 ≤ (b.rspProd - b.rspCons).toNat)

/-- LETTERBOX_REQUEST_TAKE: the entry at REQ_CONS is copied, or its read fails. -/
def execLetterboxRequestTake (l : Nat) (hostOk : Bool) (s : State) : Host.Outcome State Fault Refusal :=
  .next <|
    let b := s.lbx l
    if !s.servesLbx l || !b.ready || b.fault || b.reqCons = b.reqProd || 64 ≤ owed b then s
    else if !hostOk || !s.hostUp then s.lbxFault l 1
    else
      let (s, base) := s.reqRing l
      let a := base + b.reqCons.toNat % reqSlots b * 256
      let q : Req := { lbx := l, entry := BitVec.ofNat 2048 (s.readNat (hostKey a) 256) }
      s.updLbx l fun b => { b with taken := b.taken ++ [q], reqCons := b.reqCons + 1 }

/-- The 256 bytes of a response or event; an event carries LOST. -/
def responseBytes (r : Response) (lost : Nat) : List Byte :=
  layout 256 ([(0, 2, r.opcode.toNat), (2, 1, r.ctx.toNat), (3, 1, boolNat r.fin + 2 * boolNat r.event), (4, 1, r.status.toNat),
    (5, 1, r.detail.toNat), (8, 8, r.tag.toNat)] ++ (if r.event then [(16, 4, lost)] else []) ++ r.result)

/-- A vector of a Letterbox, at once or at the end of its interval (R425). -/
def State.lbxVector (s : State) (l : Nat) (evt : Bool) : State :=
  let b := s.lbx l
  if evt then
    if !b.evtIrq then s
    else if b.evtHold then s.updLbx l fun b => { b with evtHeld := true }
    else (s.updLbx l fun b => { b with evtHold := true }).raiseVec l 1
  else
    if !b.rspIrq then s
    else if b.rspHold then s.updLbx l fun b => { b with rspHeld := true }
    else (s.updLbx l fun b => { b with rspHold := true }).raiseVec l 0

/-- The oldest owed entry is written to the response ring, and RSP_PROD advances. -/
def State.ringWrite (s : State) (l : Nat) (hostOk : Bool) : State :=
  let b := s.lbx l
  match b.outq with
  | [] => s
  | r :: rest =>
    if !s.servesLbx l || !b.ready || b.fault || rspSlots b ≤ (b.rspProd - b.rspCons).toNat then s
    else if !hostOk || !s.hostUp then s.lbxFault l 1
    else
      let (s, base) := s.rspRing l
      let a := base + b.rspProd.toNat % rspSlots b * 256
      let s := s.write (hostKey a) (responseBytes r b.lost.toNat)
      let s := s.updLbx l fun b =>
        { b with outq := rest, rspProd := b.rspProd + 1, events := if r.event then b.events - 1 else b.events
                 lost := if r.event then 0 else b.lost }
      s.lbxVector l r.event

/-- RESPONSE_RING_WRITE. -/
def execResponseRingWrite (l : Nat) (hostOk : Bool) (s : State) : Host.Outcome State Fault Refusal := .next (s.ringWrite l hostOk)

/-- Write what the ring has room for (before a start that fails takes the Study back). -/
def State.ringFlush : Nat → Nat → State → State
  | 0, _, s => s
  | k + 1, l, s => State.ringFlush k l (s.ringWrite l true)

/-- VECTOR_HOLDOFF_END: the 10 µs interval of a vector ends, and one held back is raised. -/
def execVectorHoldoffEnd (l : Nat) (evt : Bool) (s : State) : Host.Outcome State Fault Refusal :=
  .next <|
    let b := s.lbx l
    if evt then
      let s := s.updLbx l fun b => { b with evtHold := false, evtHeld := false }
      if b.evtHold && b.evtHeld then s.lbxVector l true else s
    else
      let s := s.updLbx l fun b => { b with rspHold := false, rspHeld := false }
      if b.rspHold && b.rspHeld then s.lbxVector l false else s

/-- RESET: requests not started are abandoned, those started write no more (`waiting`: the short commands that have not answered),
and the rings begin again (R426; 12 R409). -/
def State.lbxReset (s : State) (l : Nat) : State :=
  let waiting := (s.windows.filterMap fun e => (e.2.removing.getD none).bind fun q => if q.lbx = l then some (reqTag q) else none) ++
    s.wings.flatMap fun e => (e.2.loading.toList ++ e.2.loadQ).filterMap fun q => q.lbx.bind fun r => if r.1 = l then some r.2 else none
  let s := { s with modelWork := s.modelWork.filter fun w : ModelWork => !(w.req.lbx == l && w.phase == ModelPhase.queued) }
  s.updLbx l fun b =>
    { b with ready := false, fault := false, fcode := 0, resetting := false, reqProd := 0, reqCons := 0, rspProd := 0, rspCons := 0
             busy := false, taken := [], mute := b.mute ++ b.long ++ waiting, long := [], outq := [], events := 0, lost := 0, evSeq := 0
             rspHeld := false, evtHeld := false }

end Sys2Proof.Machine
end

