-- ==== Sys2Proof/Machine/Boot.lean ====
section
/-! DEFINITION. Resets, the start and its failures (14 R448 to R465, R468, R469; 12 R399; 16 R517 to R521), and the resets of
the host port (11 R366). -/

namespace Sys2Proof.Machine

/-! ## The start record (R459, R436; 15 R484) -/

def startEntryBytes (e : StartEntry) : List Byte :=
  layout 24 [(0, 1, e.reason.toNat), (1, 1, boolNat e.warm), (2, 2, e.stage.toNat), (8, 8, e.hc.toNat), (16, 8, e.detail.toNat)]

def startEntryOf (bs : List Byte) : StartEntry :=
  let f (off n : Nat) := leNat ((bs.drop off).take n)
  { reason := BitVec.ofNat 8 (f 0 1), warm := bitOf (f 1 1) 0, stage := BitVec.ofNat 16 (f 2 2), hc := BitVec.ofNat 64 (f 8 8)
    detail := BitVec.ofNat 64 (f 16 8) }

/-- The 128 bytes of the start record. -/
def startRecBytes (r : StartRec) : List Byte :=
  let b := layout 16 [(0, 4, 0x47535452), (4, 1, 1), (5, 1, r.fails), (6, 1, boolNat r.opened), (8, 8, r.serial.toNat)] ++
    startEntryBytes r.e0 ++ startEntryBytes r.e1 ++ startEntryBytes r.e2 ++ startEntryBytes r.pending ++ List.replicate 12 0
  b ++ natLe 4 (crc32c b)

/-- The record that 128 bytes hold; none where the serial differs or the CRC fails. -/
def startRecOf (serial : W64) (bs : List Byte) : Option StartRec :=
  let f (off n : Nat) := leNat ((bs.drop off).take n)
  let e (i : Nat) := startEntryOf ((bs.drop (16 + 24 * i)).take 24)
  if crc32c (bs.take 124) ≠ f 124 4 || f 8 8 ≠ serial.toNat then none
  else some { fails := f 5 1 % 4, opened := bitOf (f 6 1) 0, serial, e0 := e 0, e1 := e 1, e2 := e 2, pending := e 3 }

/-- Raise the in-band interrupt with its data byte: 1 PUSH_READY, 2 REC_REQ, 3 REC_UPD. -/
def State.ibi (s : State) (b : Byte) : State :=
  if s.i3c.intEn then { s with i3c := { s.i3c with ibis := s.i3c.ibis ++ [b] } } else s

/-- The start record goes to the retained region and, through BMC_RECORD and REC_UPD, to the BMC. -/
def State.putStartRec (s : State) (r : StartRec) : State :=
  ({ s with startRec := r, i3c := { s.i3c with record := startRecBytes r, recUpd := true } }).ibi 3

/-! ## The firmware gives the Study back (R462) -/

/-- Numbers of DEV_STATE.STATE. -/
def devStNum : DevSt → Nat
  | .rom => 0
  | .awaitFw => 1
  | .verify => 2
  | .handshake => 3
  | .running => 4
  | .minimal => 5
  | .fatal => 6

/-- Append an entry: the oldest of the three goes, and FAILS rises to at most 3. -/
def addFailure (r : StartRec) (e : StartEntry) : StartRec :=
  { r with fails := min 3 (r.fails + 1), opened := false, e0 := r.e1, e1 := r.e2, e2 := e }

/-- The boot ROM takes the Study back: what the firmware kept of the Letterboxes is gone, and they are no longer served
(assumption 53). -/
def State.dropFirmware (s : State) : State :=
  let wipe (b : Lbx) : Lbx :=
    { b with ready := false, hello := false, busy := false, taken := [], long := [], mute := [], outq := [], events := 0 }
  { s with serving := false, ident := { s.ident with fwver := 0 }, episodes := []
           lbxs := s.lbxs.map fun e : Nat × Lbx => (e.1, wipe e.2) }

/-! ## What a reset leaves (R448 to R450, R468; 12 R399; 10 R362; 15 R500) -/

/-- Memory that a predicate on keys keeps, with its poison. -/
def State.keepKeys (s : State) (p : Nat → Bool) : State :=
  { s with mem := s.mem.filter (fun e => p e.1), poison := s.poison.filter fun u => p (u * 64) }

/-- What every reset leaves: the model's own fields, the host's memory and what the device has sent it, the pins, the fuses. -/
def State.afterReset (s : State) (keep : Nat → Bool) : State :=
  let m := s.keepKeys fun k => decide (12 ≤ keyKind k) || keep k
  { State.reset with
      pending := s.pending, fresh := s.fresh, mem := m.mem, poison := m.poison, irqs := s.irqs, cxlOut := s.cxlOut, readData := s.readData
      fuseSvn := s.fuseSvn, brake := s.brake, latch := s.latch, rst := s.rst, pwrOk := s.pwrOk, clockLost := s.clockLost }

/-- A port over a warm reset keeps its counters and its retired lanes. -/
def portKept (p : Nat) (x : Port) : Port :=
  { portReset p with
    lanesBad := x.lanesBad, fecCorr := x.fecCorr, fecUncorr := x.fecUncorr, replays := x.replays, downCnt := x.downCnt
    laneRet := x.laneRet, txFlits := x.txFlits, creditWait := x.creditWait }

/-! ## MINIMAL, and failures (R460 to R464) -/

/-- MINIMAL: the boot ROM serves the management Letterbox, the diagnostics start to count again (13 R434), and everything but
register space, the sideband inputs, the Event Recorder and its exchange with the BMC is in reset (R464). -/
def State.enterMinimal (s : State) : State :=
  let t := s.dropFirmware
  { t.afterReset fun _ => false with
      devSt := .minimal, romWait := .none, devReason := t.devReason, devWarm := t.devWarm, devIstat := t.devIstat, hc := t.hc
      lock := t.lock, ident := t.ident, idNode := t.idNode, evr := t.evr, fwAddr := t.fwAddr, fwLen := t.fwLen
      rdShadow := t.rdShadow, wrShadow := t.wrShadow, violQ := t.violQ, lbxs := t.lbxs, numVfs := t.numVfs, hostUp := t.hostUp
      msixOpen := t.msixOpen, msixPend := t.msixPend, startRec := t.startRec, startCause := t.startCause, i3c := t.i3c
      coolantAbsent := t.coolantAbsent, thermTrip := t.thermTrip, repair := t.repair, errQ := t.errQ, errOvf := t.errOvf
      sweepDue := t.sweepDue, reported := t.reported, fatalLatch := t.fatalLatch, fatalErr := t.fatalErr, stackCh := t.stackCh
      chanLost := t.chanLost, groupFrames := t.groupFrames
      ports := t.ports.map fun e : Nat × Port => (e.1, portKept e.1 e.2) }

/-- A start fails with a reason at a step of R451. -/
def State.startFail (s : State) (reason : Nat) (detail : W64) (step : Nat) : State :=
  let e : StartEntry := { reason := BitVec.ofNat 8 reason, warm := s.devWarm
                          stage := BitVec.ofNat 16 (devStNum s.devSt + 16 * step), hc := s.hc, detail }
  let s : State := { s.putStartRec (addFailure s.startRec e) with devReason := BitVec.ofNat 8 reason, early := false }
  if s.startRec.fails = 3 then s.enterMinimal
  else if reason = 0x0B then s
  else { s.dropFirmware with devSt := .awaitFw, romWait := .none }

/-! ## Step 3, and what precedes it (R451, R459, R460) -/

/-- Steps 2 and 3 once the start record is there: an open attempt is committed as INTERRUPTED; FAILS = 3 enters MINIMAL. -/
def State.recordReady (s : State) (r : StartRec) : State :=
  let s := { s with startRec := r, romWait := .none }
  let s : State := if r.opened then
      let e := { r.pending with reason := 1, detail := BitVec.ofNat 64 s.startCause }
      { s.putStartRec (addFailure r e) with devReason := 1 }
    else s
  if s.startRec.fails = 3 then s.enterMinimal else { s with devSt := .awaitFw }

/-- No usable start record: FAILS = 0, empty entries, and a record of the Event Recorder. -/
def State.recordMissing (s : State) : State := (s.directRecord 0x48 (Config.unitOf 0x48)).recordReady { serial := s.ident.serial }

/-! ## SRAM repair at a start (R454; 01 R21, R23, R25; 05 R176) -/

/-- Rows recorded for a unit, by subarray of 512; columns, by group of 64 of a subarray: more than two of either need more
spares than R21 provides. -/
def needsSpare (rs : List Nat) : Bool :=
  let rows := rs.filter fun r => decide (r < 2 ^ 20)
  let cols := rs.filter fun r => decide (2 ^ 20 ≤ r)
  (rows.any fun r => decide (2 < (rows.filter fun q => q / 512 == r / 512).length)) ||
    cols.any fun r => decide (2 < (cols.filter fun q => q / 64 == r / 64).length)

/-- Units of SRAM that need more spares than they have: Rooms, and Wings for the Larder. -/
def State.sramFailed (s : State) (kind n : Nat) : List Nat :=
  (List.range n).filter fun u => needsSpare ((s.repair.sram.filter fun e => e.1 == kind && e.2.1 == u).map (·.2.2))

/-- Retire a Wing (01 R25): ID_WINGRET and ID_ACTIVE follow. -/
def State.retireWing (s : State) (g : WingId) : State :=
  let s := s.updWing g fun w => { w with retired := true }
  let ret := s.ident.wingret ||| BitVec.ofNat 64 (2 ^ g.toNat)
  let n := 64 - ((List.range 64).filter fun i => bitOf ret.toNat i).length
  s.updIdent fun x => { x with wingret := ret, active := BitVec.ofNat 32 (16 * n + n * 2 ^ 16) }

/-- Apply the recorded SRAM repairs: the spare Room takes a Shelf that its spares cannot repair, a second one or a Larder
retires the Wing. -/
def State.applySram (s : State) : State :=
  let s := (s.sramFailed 1 1024).foldl (fun s r =>
    let g : WingId := BitVec.ofNat 6 (r / 16)
    if (s.wing g).retired then s
    else if (s.wing g).spare.isSome then s.retireWing g
    else s.updWing g fun w => { w with spare := some (BitVec.ofNat 4 (r % 16)) }) s
  (s.sramFailed 2 64).foldl (fun s g => s.retireWing (BitVec.ofNat 6 g)) s

/-! ## Step 2 (R451, R469; 05 R163 to R166, R168; 12 R402) -/

/-- A Pantry key in the reserved frames. -/
def keyReserved (k : Nat) : Bool := keyKind k == 10 && decide (keyByte k < 128 * 2 ^ 21)

/-- Code of a Cellar group in ID_CELLAR: 0 in use, 1 not fitted, 2 partly fitted, 3 modules differ, 4 training failed, 5 type
unsupported; the first that applies of 1, 2, 5, 3, 4 (assumption 76). -/
def dimmCode (g : Dimms) : Nat :=
  if g.fitted = 0 then 1 else if g.fitted ≠ 15 then 2 else if g.unsupported then 5 else if g.differ then 3
  else if !g.trains then 4 else 0

/-- Frames of a group of four modules (05 R169). -/
def dimmFrames (g : Dimms) : Nat :=
  if dimmCode g ≠ 0 then 0
  else 4 * 10 ^ 9 * (match g.gb with
    | .gb64 => 64
    | .gb128 => 128
    | .gb256 => 256) / 2 ^ 21

/-- CELLAR_RATE: the highest rate that every fitted module supports (05 R167); 0 with no group in use. -/
def cellarRate (gs : List Dimms) : Nat :=
  if gs.all fun g => dimmCode g != 0 then 0
  else if gs.all fun g => g.fitted == 0 || g.unsupported || g.fast then 2 else 1

/-- Training of memory at a cold start; a stack that fails it is retired (05 R166). -/
def State.trainCold (s : State) (t : Training) : State :=
  let gs := [t.group0, t.group1, t.group2, t.group3]
  let s := ((List.range 8).filter fun i => !bitOf t.hbm.toNat i).foldl (fun s i => s.raise { cls := 0x1D, src := 4, unit := 256 * i }) s
  { s with stackCh := (List.range 8).map fun i => (i, if bitOf t.hbm.toNat i then 32 else 0)
           groupFrames := gs.zipIdx.map fun g => (g.2, dimmFrames g.1)
           ident := { s.ident with
             cellar := BitVec.ofNat 32 ((gs.zipIdx.map fun g => dimmCode g.1 * 16 ^ g.2).sum)
             mem := BitVec.ofNat 32 ((255 - t.hbm.toNat) + cellarRate gs * 256) } }

/-- HDM decoders of the Annex ports, 8 each (05 R170). -/
def annexDecoders (t : Training) : List (Nat × Nat × Nat × Bool) :=
  let one (p : Nat) (l : List (W64 × W64 × Bool)) := (l.take 8).map fun d => (p, d.1.toNat, d.2.1.toNat, d.2.2)
  one 0 t.decoders0 ++ one 1 t.decoders1

/-- Stacks and groups that fail to leave self-refresh are retrained and zeroed, with a record, and the repair list tells of their
frames (R469). -/
def State.trainWarm (s : State) (t : Training) : State :=
  let lost (k : Nat) : Bool := (keyKind k == 10 && bitOf t.lostStacks.toNat (keyUnit k)) ||
    (keyKind k == 11 && bitOf t.lostGroups.toNat (keyUnit k))
  let s := s.keepKeys fun k => !(keyReserved k || lost k)
  if t.lostStacks = 0 && t.lostGroups = 0 then s
  else
    let parts := ((pick 8 (bitOf t.lostStacks.toNat)).map fun i => (1, i)) ++ (pick 4 (bitOf t.lostGroups.toNat)).map fun i => (2, i)
    let s := s.directRecord 0x48 (Config.unitOf 0x48) 9 1 (BitVec.ofNat 64 (t.lostStacks.toNat + t.lostGroups.toNat * 256))
    { s with repair := { s.repair with lost := s.repair.lost ++ parts } }

/-- An asserted PWR_BRAKE# holds the compute dies from their first clock (15 R489; 16 R519). -/
def State.guardAtStart (s : State) : State :=
  if !s.brake.level then s
  else
    { s with power := { s.power with
        steps := (List.range 4).map fun d => (d, 15), k := 4
        clocks := (List.range 4).map fun d => (d, [(s.hc.toNat, s.tc1536 d s.hc.toNat, 15)]) } }

/-- Step 2: the boot ROM prepares the device; it holds while a reference clock is lost (16 R521). -/
def State.romStart (s : State) (t : Training) : State :=
  let s := { s with devSt := .rom }
  if !s.clockLost.isEmpty then { s with romWait := .clock }
  else
    let s := (if s.devWarm then s.trainWarm t else s.trainCold t).guardAtStart
    let s := { s with
      ident := { s.ident with
        part := BitVec.ofNat 32 (0x0D04 + Config.partStepping.toNat * 2 ^ 16)
        variant := (fun v : W64 => ({ a := v, b := v, c := v } : Tv))
          (BitVec.ofNat 64 (Config.partHost.toNat + 16 * 256 + Config.partGrade.toNat * 2 ^ 16))
        serial := Config.partSerial, wingret := 0, active := BitVec.ofNat 32 (1024 + 64 * 2 ^ 16)
        mem := BitVec.ofNat 32 (s.ident.mem.toNat % 2 ^ 10 + t.annex.toNat * 2 ^ 10) }
      annexUp := [(0, bitOf t.annex.toNat 0), (1, bitOf t.annex.toNat 1)], decoders := annexDecoders t, hostUp := t.hostUp }
    let s := ((List.range 64).filter fun g => bitOf t.wingRet.toNat g).foldl (fun s g => s.retireWing (BitVec.ofNat 6 g)) s
    let s := if s.devWarm then s.applySram else s
    let s := if t.hostUp && t.hostDegraded then s.raise { cls := 0x35, src := 14, unit := 0x100 } else s
    let s := if s.rst.asserts = 0 && s.rst.episodes = 0 then s
      else { s.directRecord 0x43 2 12 s.rst.asserts (s.rst.episodes.setWidth 64) with rst := { s.rst with asserts := 0, episodes := 0 } }
    if s.devWarm then
      let s := if s.evr.frozen && !s.evr.bmcDone then ({ s with i3c := { s.i3c with pushReady := true } }).ibi 1 else s
      s.recordReady s.startRec
    else ({ s with romWait := .record, i3c := { s.i3c with recReq := true } }).ibi 2

/-! ## Resets (R448 to R450, R468; 12 R399; 10 R362; 15 R500) -/

/-- A cold reset: everything but fuses and pins is gone. -/
def State.coldReset (s : State) (cause : Nat) : State := { s.afterReset fun _ => false with startCause := cause }

/-- Writes that no controller has accepted when a warm reset stops the accesses: each 64-byte unit of one that has its translation
may have been performed or not, which is a free value (R450; assumption 3). -/
def State.lateWrites (s : State) : State :=
  s.accesses.foldl (fun s a =>
    match a.st with
    | .translated e sub =>
      if !a.write || accessCode a s e sub ≠ 0 then s
      else
        let key := entryKey e sub (dvaOff a.dva)
        let put (s : State) (i : Nat) : State :=
          if !bitOf s.freeVal.toNat i then s
          else s.writeBadUnits (key + 64 * i) ((a.data.drop (64 * i)).take 64) (if a.bad.contains i then [0] else [])
        ((List.range ((a.data.length + 63) / 64)).foldl put s).bumpFree
    | _ => s) s

/-- A warm reset: its record, then all but the retained region, Pantry and Cellar, and the boot ROM from step 2. -/
def State.warmReset (s : State) (cause : Nat) (t : Training) : State :=
  let s := s.directRecord 0x48 (Config.unitOf 0x48) 9 1 (BitVec.ofNat 64 cause)
  let s := s.lateWrites
  let r := s.afterReset fun k => keyKind k == 10 || keyKind k == 11
  { r with
      devWarm := true, startCause := cause, startRec := s.startRec
      evr := { s.evr with pushHost := true, hostbuf := {} }
      thermTrip := s.thermTrip, stackCh := s.stackCh, chanLost := s.chanLost, groupFrames := s.groupFrames
      ident := { cellar := s.ident.cellar, mem := s.ident.mem }
      ports := s.ports.map (fun e : Nat × Port => (e.1, portKept e.1 e.2))
      repair := { s.repair with ceRows := [], sramRows := [], held := [], ueRows := [] } }.romStart t

/-- The host port has a function or a link event to reset the device with: it is out of reset. -/
def State.resettable (s : State) : Bool := s.romWait != .reset

/-- PF_FUNCTION_LEVEL_RESET: a warm reset. -/
def execPfFunctionLevelReset (t : Training) (s : State) : Host.Outcome State Fault Refusal :=
  .next (if s.resettable && s.hostUp then s.warmReset 4 t else s)
/-- HOT_RESET: a warm reset. -/
def execHotReset (t : Training) (s : State) : Host.Outcome State Fault Refusal :=
  .next (if s.resettable && s.hostUp then s.warmReset 4 t else s)
/-- HOST_LINK_LOSS: link disable or loss of the host link is a warm reset. -/
def execHostLinkLoss (t : Training) (s : State) : Host.Outcome State Fault Refusal :=
  .next (if s.resettable && s.hostUp then s.warmReset 4 t else s)

/-- VF_FUNCTION_LEVEL_RESET: the context is released, the page returns to its reset values, the vectors are masked. -/
def execVfFunctionLevelReset (c : CtxId) (s : State) : Host.Outcome State Fault Refusal :=
  .next <|
    if s.romWait = .reset || !s.hostUp then s
    else
      let l := c.toNat + 1
      let s := if !s.live || (s.ctx c).st == .free || (s.ctx c).releasing.isSome then s else s.releaseCtx c none
      let mute := ((s.lbxReset l).lbx l).mute
      let s := (s.lbxReset l).updLbx l fun _ => ({ mute } : Lbx)
      let mine (k : Nat) : Bool := k / 16 == l
      { s with msixOpen := s.msixOpen.filter (fun k => !mine k), msixPend := s.msixPend.filter (fun k => !mine k)
               rdShadow := s.rdShadow.filter (fun e => e.1 / 2 ^ 24 != l), wrShadow := s.wrShadow.filter fun e => e.1 / 2 ^ 24 != l }

/-! ## HOST_RST#, power and clocks (R449; 15 R486 to R488; 16 R517 to R521) -/

/-- HOST_RST_ASSERT: a filtered assertion begins a cold reset, counted by the filter. -/
def execHostRstAssert (s : State) : Host.Outcome State Fault Refusal :=
  .next <|
    let s := s.coldReset (if s.pwrOk then 2 else 1)
    { s with rst := { s.rst with level := true, asserts := s.rst.asserts + 1 } }

/-- HOST_RST_RELEASE: the start begins once power is good. -/
def execHostRstRelease (t : Training) (s : State) : Host.Outcome State Fault Refusal :=
  .next <|
    if !s.rst.level || s.rst.chatter then s
    else
      let s := { s with rst := { s.rst with level := false } }
      if s.pwrOk then s.romStart t else s

/-- PWR_OK_ASSERT: power is good; a start that waited for it begins. -/
def execPwrOkAssert (t : Training) (s : State) : Host.Outcome State Fault Refusal :=
  .next <|
    if s.pwrOk then s
    else
      let s := { s with pwrOk := true }
      if s.rst.level then s else s.romStart t

/-- PWR_OK_DEASSERT: loss of package power. The counts of the filters go with it. -/
def execPwrOkDeassert (s : State) : Host.Outcome State Fault Refusal :=
  .next <|
    if !s.pwrOk then s
    else
      let off (p : Pin) : Pin := { level := p.level, chatter := p.chatter }
      { s.coldReset 1 with pwrOk := false, brake := off s.brake, latch := off s.latch, rst := off s.rst }

/-- REFCLK_LOSS: references 0 to 3 C, 4 to 7 SR, 8 to 15 B, 16 NIO, 17 SIO. In ROM the start holds; later the loss is fatal, SR
excepted; the loss of NIO stops the host port, Annex port 0 and Corridor ports 0 to 11 at once. -/
def execRefclkLoss (ref : BitVec 5) (s : State) : Host.Outcome State Fault Refusal :=
  .next <|
    let n := ref.toNat
    if 18 ≤ n || s.clockLost.contains n then s
    else
      let s := { s with clockLost := unitAdd s.clockLost n }
      if s.romWait = .reset then s
      else if s.devSt = .rom then { s with romWait := .clock, i3c := { s.i3c with recReq := false } }
      else if 4 ≤ n && n < 8 then s
      else
        let unit := if n < 4 then n else if n < 16 then n else if n = 16 then 4 else 5
        let s := s.raise { cls := 0x3D, code := 0xC1, src := 11, unit }
        if n = 16 then
          let stop (x : Port) : Port := { x with st := if portLive x then .down else x.st, width := 0 }
          let s := { s with hostUp := false, annexUp := mapSet s.annexUp 0 false }
          (List.range 12).foldl (fun s p => s.updPort p stop) s
        else s

/-- REFERENCE_CLOCK_RECOVERED: a reference has met its limits for 1 ms; in ROM, with every one back, step 2 begins again. -/
def execReferenceClockRecovered (ref : BitVec 5) (t : Training) (s : State) : Host.Outcome State Fault Refusal :=
  .next <|
    let s := { s with clockLost := s.clockLost.filter fun n => n != ref.toNat }
    if s.clockLost.isEmpty && s.romWait == .clock then s.romStart t else s

/-! ## GO to RUNNING (R451 to R453, R455 to R460) -/

/-- An attempt opens: the record is written, and the device waits for the BMC before it verifies. -/
def State.openAttempt (s : State) : State :=
  let p : StartEntry := { reason := 1, warm := s.devWarm, stage := BitVec.ofNat 16 (2 + 16 * 7), hc := s.hc }
  { s.putStartRec { s.startRec with opened := true, pending := p } with devSt := .verify, romWait := .opening }

/-- Offset of the first bad field of an image header for FORMAT. -/
def headerFormat (h : List Byte) (len : Nat) : Option Nat :=
  let f (off n : Nat) := leNat ((h.drop off).take n)
  let named (i : Nat) : Bool := decide (i < 6) || (decide (8 ≤ i) && decide (i < 11)) || (decide (12 ≤ i) && decide (i < 24)) ||
    (decide (256 ≤ i) && decide (i < 353)) || (decide (384 ≤ i) && decide (i < 480))
  (List.range 4096).find? fun i =>
    if i = 0 then f 0 4 != 0x47444657 else if i = 4 then f 4 1 != 1 else if i = 16 then f 16 4 != len
    else !named i && (h.getD i 0) != 0

/-- The checks of R457 on an image, in order: a reason with its DETAIL, or the firmware. -/
def checkImage (img : List Byte) (len fuse : Nat) : (Nat × Nat) ⊕ Firmware :=
  let h := img.take 4096
  let f (off n : Nat) := leNat ((h.drop off).take n)
  let key := (h.drop 256).take 97
  let idx := f 5 1 % 4
  let keyHash := sha384 key
  let measure := sha384 (h.take 384 ++ img.drop 4096)
  let svn := f 12 4
  match headerFormat h len with
  | some o => .inl (3, o)
  | none =>
    if keyHash ≠ Config.partKeyHash idx || Config.partRevoked idx then .inl (4, idx + 256 * boolNat (Config.partRevoked idx))
    else if f 8 2 ≠ 0x0D04 || Config.partStepping.toNat < f 10 1 then .inl (5, f 8 2 + f 10 1 * 2 ^ 16)
    else if svn < fuse then .inl (6, svn + fuse * 2 ^ 32)
    else if !ecdsaVerify key measure.toNat (beNat ((h.drop 384).take 48)) (beNat ((h.drop 432).take 48)) then .inl (7, 0)
    else .inr { keyIndex := BitVec.ofNat 2 idx, svnCommit := bitOf (f 5 1) 7, svn, minor := BitVec.ofNat 8 (f 20 1)
                major := BitVec.ofNat 8 (f 21 1), build := BitVec.ofNat 16 (f 22 2), measure, keyHash }

/-- The image in host memory. -/
def State.image (s : State) : List Byte := s.read (hostKey (ringBase s.fwAddr)) s.fwLen.toNat

/-- FW_VERIFY_DONE: the fetch and the checks end; the address names a read that failed. -/
def execFwVerifyDone (failed : Option W64) (s : State) : Host.Outcome State Fault Refusal :=
  .next <|
    if s.devSt ≠ .verify || s.romWait ≠ .none then s
    else
      let s := (s.readTv s.fwAddr fun t s => { s with fwAddr := t }).1
      match failed with
      | some a => s.startFail 2 a 7
      | none =>
        match checkImage s.image s.fwLen.toNat s.fuseSvn with
        | .inl e => s.startFail e.1 (BitVec.ofNat 64 e.2) 7
        | .inr fw =>
          { s with devSt := .handshake, fw, serving := false
                   ident := { s.ident with fwver := BitVec.ofNat 32 (fw.minor.toNat + fw.build.toNat * 2 ^ 16) } }

/-- VERIFY_TIMEOUT: the bound from GO to the end of VERIFY is missed. -/
def execVerifyTimeout (s : State) : Host.Outcome State Fault Refusal := .next (if s.devSt = .verify then s.startFail 2 0 7 else s)

/-- FW_SERVING: the firmware begins to serve the management Letterbox. -/
def execFwServing (s : State) : Host.Outcome State Fault Refusal :=
  .next (if s.devSt = .handshake then { s with serving := true } else s)

/-- FW_INIT_TIMEOUT: the firmware does not serve in time. -/
def execFwInitTimeout (detail : W64) (s : State) : Host.Outcome State Fault Refusal :=
  .next (if s.devSt = .handshake && !s.serving then s.startFail 8 detail 8 else s)

/-- ENABLE_TIMEOUT: ENABLE is not set in time. -/
def execEnableTimeout (s : State) : Host.Outcome State Fault Refusal :=
  .next (if s.devSt = .handshake && s.serving && !(s.lbx 0).enable then s.startFail 0x0A 0 9 else s)

/-- HELLO_TIMEOUT: no HELLO in time after READY. -/
def execHelloTimeout (s : State) : Host.Outcome State Fault Refusal :=
  .next (if s.devSt = .handshake && (s.lbx 0).ready then s.startFail 0x0A 0 10 else s)

/-- START_SUCCESS: 10 s in RUNNING without a fatal error; the attempt closes, and SVN_COMMIT raises the fuse SVN. -/
def execStartSuccess (s : State) : Host.Outcome State Fault Refusal :=
  .next <|
    if s.devSt ≠ .running || !s.early || s.fatalLatch then s
    else
      let s := { s.putStartRec { s.startRec with fails := 0, opened := false } with early := false }
      if s.fw.svnCommit && s.fuseSvn < s.fw.svn then ({ s with fuseSvn := min 64 s.fw.svn }).raise { cls := 0x48, src := 9, unit := Config.unitOf 0x48 }
      else s

/-- START_RECORD_TIMEOUT: the BMC has not answered within 100 ms. -/
def execStartRecordTimeout (s : State) : Host.Outcome State Fault Refusal :=
  .next (if s.romWait = .record then ({ s with i3c := { s.i3c with recReq := false } }).recordMissing else s)

/-- The record has been stored, or its bound has passed: an attempt that waited begins VERIFY. -/
def State.recordStored (s : State) : State :=
  { s with i3c := { s.i3c with recUpd := false }, romWait := if s.romWait = .opening then .none else s.romWait }

/-- BMC_RECORD_WRITE_TIMEOUT: the BMC write has failed; the Event Recorder records it and the start goes on. -/
def execBmcRecordWriteTimeout (s : State) : Host.Outcome State Fault Refusal :=
  .next (if s.i3c.recUpd then (s.directRecord 0x48 (Config.unitOf 0x48)).recordStored else s)

/-- WATCHDOG_EXPIRY: before RUNNING a start failure FW_INIT, later the fatal error WATCHDOG (13 R413; R461). -/
def execWatchdogExpiry (core : BitVec 2) (s : State) : Host.Outcome State Fault Refusal :=
  .next <|
    if s.devSt = .handshake then s.startFail 8 0 8
    else if s.devSt = .running then s.raise { cls := 0x3A, src := 9, unit := core.toNat }
    else s

end Sys2Proof.Machine
end

