-- ==== Sys2Proof/Machine/Package.lean ====
section
/-! DEFINITION. The package (16 R502 to R516, R520, R522): the function of each land, the Corridor connectors, the rails and their
telemetry addresses, and the pins that only follow the state. No command reads a land; the machine takes the rails'
limits from here. -/

namespace Sys2Proof.Machine

/-! ## Rails (R514 to R516) -/

/-- Rails in the order of Idx. -/
inductive Rail where
  | vddC | vddSr | vhbmC | vhbmQ | vhbmPp | vbase | vddNio | vddSio | vserA | vserH | vucie | vddqDdr | vaux | vddH | vddHio
  deriving DecidableEq, Repr

/-- Idx, 0 to 14. -/
def Rail.idx : Rail → Nat
  | .vddC => 0
  | .vddSr => 1
  | .vhbmC => 2
  | .vhbmQ => 3
  | .vhbmPp => 4
  | .vbase => 5
  | .vddNio => 6
  | .vddSio => 7
  | .vserA => 8
  | .vserH => 9
  | .vucie => 10
  | .vddqDdr => 11
  | .vaux => 12
  | .vddH => 13
  | .vddHio => 14

/-- A row of R514: nominal mV, tolerance in percent, maximum A of each part of the rail, and the lands of each part. -/
structure RailRow where
  mv : Nat
  tol : Nat
  amps : Nat
  lands : Nat
  deriving DecidableEq, Repr

/-- The rail table. -/
def Rail.row (g17 : Bool) (h2 : Bool) : Rail → RailRow
  | .vddC => if g17 then ⟨680, 3, 700, 375⟩ else ⟨720, 3, 800, 375⟩
  | .vddSr => ⟨750, 3, 36, 15⟩
  | .vhbmC => ⟨1050, 3, 24, 26⟩
  | .vhbmQ => ⟨750, 3, 10, 13⟩
  | .vhbmPp => ⟨1800, 5, 2, 6⟩
  | .vbase => ⟨750, 3, 12, 13⟩
  | .vddNio => ⟨750, 3, 240, 192⟩
  | .vddSio => ⟨750, 3, 240, 192⟩
  | .vserA => ⟨850, 2, 30, 32⟩
  | .vserH => ⟨1200, 3, 10, 16⟩
  | .vucie => ⟨750, 2, 12, 8⟩
  | .vddqDdr => ⟨1100, 3, 3, 8⟩
  | .vaux => ⟨1800, 5, 3, 8⟩
  | .vddH => ⟨800, 3, if h2 then 320 else 190, 384⟩
  | .vddHio => ⟨1800, 5, 2, 4⟩

/-- Watts of a part of a rail at its maximum current and nominal voltage: what a telemetry device that does not answer is read as
(R516). -/
def RailRow.maxWatts (r : RailRow) : Nat := r.amps * r.mv / 1000

/-- Where a rail part's telemetry device answers: the bus (VR0 to VR3, VRN 4, VRS 5) and its static address. The part is told by
one of its lands: its unit and its row. -/
def Rail.telemetry (r : Rail) (unit row : Nat) : Option (Nat × Nat) :=
  match r with
  | .vddC => some (unit, 0x40)
  | .vddH | .vddHio => none
  | _ => some (if row ≤ 52 then 4 else 5, 0x40 + r.idx)

/-! ## Lands (R503 to R511) -/

/-- Regions of the grid. -/
inductive Region where
  | host | celN | nsvc | hbmW | core | hbmE | ssvc | gf | celS
  deriving DecidableEq, Repr

/-- Signals of a Cellar subchannel. -/
inductive DdrPin where
  | dq (i : Nat)
  | dqsT (m : Nat)
  | dqsC (m : Nat)
  | dca (i : Nat)
  | dpar
  | dcs (i : Nat)
  | dckT
  | dckC
  deriving DecidableEq, Repr

/-- What a land carries. `neg` is the _N or _C of a pair. -/
inductive Land where
  | vss
  | noConnect
  /-- a rail, and its die, stack, channel or I/O die -/
  | rail (r : Rail) (unit : Nat)
  /-- a reference of R520, numbered 0 to 3 C, 4 to 7 SR, 8 to 15 B, 16 NIO, 17 SIO -/
  | refclk (n : Nat) (neg : Bool)
  /-- Cellar channel: a subchannel's signal, B where `b`; ALERT#, RESET#, HSCL, HSDA -/
  | cel (ch : Nat) (b : Bool) (pin : DdrPin)
  | celAlert (ch : Nat)
  | celReset (ch : Nat)
  | celHscl (ch : Nat)
  | celHsda (ch : Nat)
  /-- UCIe module and position q -/
  | ucie (u q : Nat)
  /-- PCIe lane of the chiplet: 0 TXP, 1 TXN, 2 RXP, 3 RXN -/
  | pcie (lane pin : Nat)
  /-- the chiplet's own signals, by n − 512 -/
  | chiplet (i : Nat)
  /-- Annex port: lane and pin, as PCIe; its reference; PERST# -/
  | annex (port lane pin : Nat)
  | annexRef (port : Nat) (neg : Bool)
  | perst (port : Nat)
  /-- VSNS pair: dies 0 to 3, NIO 4, SIO 5 -/
  | sense (i : Nat) (neg : Bool)
  /-- VR bus 0 to 3, VRN 4, VRS 5: SCL, or SDA where `sda` -/
  | vr (bus : Nat) (sda : Bool)
  /-- sideband signals of R522 by n − 344: PWR_BRAKE#, THERM_TRIP#, HOST_RST#, TRAY_LATCH, PWR_OK, PRESENT#, I3C_SCL, I3C_SDA, TCK,
  TMS, TDI, TDO, TRST#, TEST_EN -/
  | sideband (i : Nat)
  deriving DecidableEq, Repr

/-- Region of a land. -/
def regionOf (r c : Nat) : Region :=
  if r ≤ 26 then (if c ≤ 36 then .host else .celN)
  else if 79 ≤ r then (if c ≤ 36 then .gf else .celS)
  else if c ≤ 12 then .nsvc
  else if c ≤ 24 then .hbmW
  else if c ≤ 84 then .core
  else if c ≤ 96 then .hbmE
  else .ssvc

/-- Place of land Lr.c in tenths of a millimetre from the package centre, east and north (R502, R503). -/
def landAt (r c : Nat) : Int × Int := (10 * (c : Int) - 545, 525 - 10 * (r : Int))

/-- VSS of R505. -/
def isVss (i j : Nat) : Bool := (i + j) % 3 == 0

/-- Number of a position in a region or block of that many columns (R505). -/
def position (cols i j : Nat) : Nat :=
  ((List.range i).map fun y => ((List.range cols).filter fun x => !isVss y x).length).sum +
    ((List.range j).filter fun x => !isVss i x).length

/-- A quadrant of CORE (R506). -/
def coreLand (r c : Nat) : Land :=
  let d := (if 55 ≤ c then 1 else 0) + (if 53 ≤ r then 2 else 0)
  let i := if 53 ≤ r then r - 53 else r - 27
  let j := if 55 ≤ c then c - 55 else c - 25
  if (i + j) % 2 = 1 then .vss
  else if r = 52 || r = 53 then .rail .vddSr d else .rail .vddC d

/-- Stack of a land of HBMW or HBME (R507). -/
def stackOf (r c : Nat) : Nat :=
  let b := (r - 27) / 13
  if c ≤ 24 then (if b < 2 then b else b + 2) else b + (if b < 2 then 2 else 4)

/-- A stack's block (R507). -/
def hbmLand (r c : Nat) : Land :=
  let s := stackOf r c
  let i := (r - 27) % 13
  let k := if c ≤ 24 then 25 - c else c - 84
  if k = 12 && i < 2 then .refclk (8 + s) (i == 1)
  else if (i + k) % 2 = 1 then .vss
  else if k ≤ 4 then .rail .vhbmC s
  else if k ≤ 6 then .rail .vhbmQ s
  else if k ≤ 8 then .rail .vbase s
  else if k = 9 then .rail .vhbmPp s
  else .vss

/-- Signals of a subchannel's data and of its command group. -/
def ddrData (m : Nat) : DdrPin :=
  if m < 40 then .dq m else if m % 2 = 0 then .dqsT ((m - 40) / 2) else .dqsC ((m - 40) / 2)

def ddrCommand (m : Nat) : DdrPin :=
  if m < 7 then .dca m else if m = 7 then .dpar else if m < 10 then .dcs (m - 8) else if m = 10 then .dckT else .dckC

/-- Position n of a Cellar channel (R508). -/
def celPosition (ch n : Nat) : Land :=
  if n < 120 then .cel ch (60 ≤ n) (ddrData (n % 60))
  else if n < 144 then .cel ch (132 ≤ n) (ddrCommand ((n - 120) % 12))
  else if n = 144 then .celAlert ch
  else if n = 145 then .celReset ch
  else if n = 146 then .celHscl ch
  else if n = 147 then .celHsda ch
  else .rail .vddqDdr ch

/-- A Cellar channel's block. -/
def celLand (r c : Nat) : Land :=
  let r0 := if 79 ≤ r then r - 79 else r - 1
  let ch := (if 79 ≤ r then 8 else 0) + 4 * (r0 / 13) + (c - 37) / 18
  let i := r0 % 13
  let j := (c - 37) % 18
  if isVss i j then .vss else celPosition ch (position 18 i j)

/-- Position n of HOST, by the host-chiplet option (R509). -/
def hostPosition (h0 : Bool) (n : Nat) : Land :=
  if h0 then (if n < 592 then .ucie (n / 148) (n % 148) else .noConnect)
  else if n < 384 then .rail .vddH 0
  else if n < 512 then .pcie ((n - 384) / 4) ((n - 384) % 4)
  else if n < 526 then .chiplet (n - 512)
  else if n < 530 then .rail .vddHio 0
  else .noConnect

/-- Position n of NSVC, or of SSVC where `south` (R510). -/
def svcPosition (south : Bool) (n : Nat) : Land :=
  let u := if south then 1 else 0
  if n < 192 then .rail (if south then .vddSio else .vddNio) u
  else if n < 224 then .rail .vserA u
  else if n < 240 then .rail .vserH u
  else if n < 248 then (if south then .noConnect else .rail .vucie 0)
  else if n < 312 then .annex u ((n - 248) / 4) ((n - 248) % 4)
  else if n < 314 then .annexRef u (n == 313)
  else if n = 314 then .perst u
  else if n = 315 then .noConnect
  else if n < 318 then .refclk (16 + u) (n == 317)
  else if n < 322 then .refclk (2 * u + (n - 318) / 2) (n % 2 == 1)
  else if n < 326 then .refclk (4 + 2 * u + (n - 322) / 2) (n % 2 == 1)
  else if n < 334 then (if south then .noConnect else .rail .vaux 0)
  else if n < 338 then .sense (2 * u + (n - 334) / 2) (n % 2 == 1)
  else if n < 340 then .sense (4 + u) (n == 339)
  else if n < 344 then .vr (2 * u + (n - 340) / 2) (n % 2 == 1)
  else if n < 358 then (if south then .noConnect else .sideband (n - 344))
  else if n < 360 then .vr (4 + u) (n == 359)
  else .noConnect

/-- The function of land Lr.c, 1 ≤ r ≤ 104 and 1 ≤ c ≤ 108 (R503 to R510). -/
def landOf (h0 : Bool) (r c : Nat) : Land :=
  match regionOf r c with
  | .host => if isVss (r - 1) (c - 1) then .vss else hostPosition h0 (position 36 (r - 1) (c - 1))
  | .celN | .celS => celLand r c
  | .nsvc => if isVss (r - 27) (c - 1) then .vss else svcPosition false (position 12 (r - 27) (c - 1))
  | .ssvc => if isVss (r - 27) (c - 97) then .vss else svcPosition true (position 12 (r - 27) (c - 97))
  | .hbmW | .hbmE => hbmLand r c
  | .core => coreLand r c
  | .gf => .vss

/-! ## Connectors (R512) and the pins that follow the state (R522) -/

/-- Centre of the connector of a Corridor port, in hundredths of a millimetre. -/
def connectorAt (p : Nat) : Int × Int := (950 * ((p % 12 : Nat) : Int) - 5225, if p < 12 then 5600 else -5600)

/-- ANXp_PERST# is asserted from reset until step 2 of the start, in which the Annex ports train. -/
def State.annexPerst (s : State) : Bool := s.romWait == .reset || s.romWait == .clock

/-- IDCODE of the test port. -/
def jtagIdcode : W32 := 0x1D040A3F

end Sys2Proof.Machine
end

