-- ==== Sys2Proof/Machine/Link.lean ====
section
/-! DEFINITION. Corridor ports (10 R326 to R348): states and lanes, slots, a port leaving service and its replay, flits and
packets received, and the packets that ports exchange about a link. -/

namespace Sys2Proof.Machine

/-! ## States (R332; 13 R447) -/

def portStNum : PortSt → Nat
  | .disabled => 0
  | .training => 1
  | .up => 2
  | .degraded => 3
  | .down => 4

/-- The PORT event of a state change, and the vector of a reserved port (11 R368). -/
def State.portEvent (s : State) (p : Nat) : State :=
  let x := s.port p
  let s := s.devEvent 0x8008 [(20, 1, p), (21, 1, portStNum x.st), (22, 1, x.reason.toNat), (23, 1, x.width.toNat)]
  if isReserved p then s.raiseVec 0 6 else s

/-! ## Slots (R341, R343, R345) -/

/-- Direction and slot as one key. -/
def slotKeyOf (d : BitVec 3) (k : Nat) : Nat := d.toNat * 64 + k

/-- Packets of slot k that a port holds, queued or not acknowledged. -/
def holdsSlot (x : Port) (k : Nat) : Bool := x.txq.any (fun pk => slotOf pk == k) || x.retry.any fun e => slotOf e.1 == k

def State.slotPort (s : State) (d : BitVec 3) (k : Nat) : Option Nat := (mapGet [] s.slotTab d.toNat)[k]?
def State.setSlot (s : State) (d : BitVec 3) (k p : Nat) : State :=
  { s with slotTab := mapSet s.slotTab d.toNat ((mapGet [] s.slotTab d.toNat).set k p) }

/-- Packets that waited for a slot leave, in order. -/
def State.slotGo (s : State) (d : BitVec 3) (k p : Nat) : State :=
  let mine := (s.slotWait.filter fun e => e.1 == slotKeyOf d k).map (·.2)
  mine.foldl (fun s pk => s.enqueue p pk)
    { s with slotWait := s.slotWait.filter (fun e => e.1 != slotKeyOf d k), slotBack := mapDel s.slotBack (slotKeyOf d k) }

/-- Slot k goes to a port: at once, or once its interim port's flits are acknowledged (R345). -/
def State.dealSlot (s : State) (d : BitVec 3) (k p : Nat) : State :=
  match s.slotPort d k with
  | some cur =>
    if cur = p then s.slotGo d k p
    else if portLive (s.port cur) && holdsSlot (s.port cur) k then { s with slotBack := mapSet s.slotBack (slotKeyOf d k) p }
    else (s.setSlot d k p).slotGo d k p
  | none => s

/-- Deal the slots of a direction over its ports in service (R341). -/
def State.redeal (s : State) (d : BitVec 3) : State :=
  let ps := ((s.dirPorts d).filter fun p => portLive (s.port p)).map fun p => (p, (s.port p).width == 8)
  let deal := dealSlots ps
  match mapFind s.slotTab d.toNat with
  | none => { s with slotTab := mapSet s.slotTab d.toNat deal }
  | some [] => { s with slotTab := mapSet s.slotTab d.toNat deal }
  | some _ => deal.zipIdx.foldl (fun s e => s.dealSlot d e.2 e.1) s

/-- SLOT_RETURN: a slot returns to its port once every flit that carried its packets on the interim port is acknowledged. -/
def execSlotReturn (dir : BitVec 3) (slot : BitVec 6) (s : State) : Host.Outcome State Fault Refusal :=
  .next <|
    let k := slot.toNat
    match mapFind s.slotBack (slotKeyOf dir k), s.slotPort dir k with
    | some p, some cur => if holdsSlot (s.port cur) k then s else (s.setSlot dir k p).slotGo dir k p
    | _, _ => s

/-! ## Lanes (R331) -/

/-- Width and spare that a set of good lanes gives; width 0 is too few. Lane 8 is the spare lane. -/
def laneMap (good : BitVec 9) : Nat × Bool :=
  let n := ((List.range 8).filter fun i => bitOf good.toNat i).length
  if n = 8 then (8, false)
  else if n = 7 && bitOf good.toNat 8 then (8, true)
  else if 4 ≤ n + boolNat (bitOf good.toNat 8) then (4, false)
  else (0, false)

/-- Enter UP or DEGRADED with a lane map. -/
def State.setLanes (s : State) (p : Nat) (w : Nat) (spare : Bool) : State :=
  let old := (s.port p).st
  let s := s.updPort p fun x =>
    { x with st := if w = 8 then .up else .degraded, width := BitVec.ofNat 4 w, spare }
  let s := if (s.port p).st = old then s else s.portEvent p
  let d := (s.port p).dir
  if isReserved p || 6 ≤ d.toNat then s else s.redeal d

/-! ## Leaving service (R332, R343, R347, R352) -/

/-- The link layer at rest: every queue, buffer, credit and number of the link cleared. -/
def linkClear (x : Port) : Port :=
  { x with txSeq := 0, txPos := 0, acked := 0x3FF, rxNext := 0, retry := [], nakOpen := false, naks := 0, txq := [], shared := 0
           reserved := [], rxUsed := [], given := [], rot := [], rxPart := [] }

/-- A LINK packet to the device at the far end of a port: 1 PROBE, 2 REPLAY_END, 3 REPLAY_END_ACK, with RPORT. -/
def linkPacket (s : State) (node : NodeId) (ty rport : Nat) : Packet :=
  { dst := node, src := s.idNode, kind := 0xB, vc := 2, arg := BitVec.ofNat 64 (ty + rport * 256) }

/-- What a failed port held, in order: its retry buffer marked as a replay, its queue, and REPLAY_END. -/
def movedPackets (s : State) (x : Port) : List Packet :=
  let mark (e : Packet × BitVec 10 × Nat) : Packet :=
    if e.1.replay then { e.1 with via := 31 }
    else { e.1 with via := 31, replay := true, rfseq := e.2.1, rpos := BitVec.ofNat 8 e.2.2, rport := x.nbrPort }
  x.retry.map mark ++ (x.txq.map fun pk => { pk with via := 31 }) ++ [linkPacket s x.nbrNode 2 x.nbrPort.toNat]

/-- Give each slot of a failed port to the others of its set, in rotation. A slot on its way back stays where it is. -/
def State.reassign (s : State) (d : BitVec 3) (p : Nat) (others : List Nat) : State :=
  let backs := (s.slotBack.filter fun e => e.1 / 64 == d.toNat && e.2 == p).map fun e => e.1 % 64
  let s := backs.foldl (fun s k =>
    match s.slotPort d k with
    | some cur => s.slotGo d k cur
    | none => s) s
  let mine := (List.range 64).filter fun k => s.slotPort d k == some p
  mine.zipIdx.foldl (fun s e => s.setSlot d e.1 (others.getD (e.2 % others.length) p)) s

/-- Move packets to the heads of their new ports' queues, in order. -/
def State.headQueue (s : State) (d : BitVec 3) (pks : List Packet) : State :=
  let portOf (pk : Packet) := (s.slotPort d (slotOf pk)).getD 0
  ((pks.map portOf).eraseDups).foldl (fun s p =>
    s.updPort p fun x => pump { x with txq := (pks.filter fun pk => portOf pk == p) ++ x.txq }) s

/-- A port goes DOWN: its slots and its traffic move to its set, or go on the LINK detour; the position of its last whole
packet stays for the far end's replay (R344); each Steward sends new detour entries (R361). -/
def State.portDown (s : State) (p : Nat) (reason : Byte) : State :=
  let x := s.port p
  let d := x.dir
  let torus := !isReserved p && decide (d.toNat < 6) && portLive x
  let s := s.updPort p fun x =>
    { linkClear x with
        st := .down, width := 0, reason, downCnt := x.downCnt + 1, hostDown := reason == 8
        linkRec := if torus then x.rxPos else x.linkRec, replayWait := torus || x.replayWait
        replayEndSeen := !torus && x.replayEndSeen }
  let s := if reason = 8 then s else s.raise { cls := 0x2A, code := reason, src := 7, unit := p }
  let s := s.portEvent p
  let s := if p = 11 then (if x.resRole = 2 then s.inflowLost false else s)
    else if p = 23 then (if x.resRole = 2 then s.inflowLost true else s) else s
  if !torus then s
  else
    let moved := movedPackets s x
    let others := (s.dirPorts d).filter fun q => portLive (s.port q)
    if others.isEmpty then
      let s := s.raise { cls := 0x2B, src := 7, unit := 0x100 + d.toNat }
      let s := if s.unreachable.contains d.toNat then
          (s.updPort p fun x => { x with replayWait := false, replayEndSeen := true, linkRec := none })
        else moved.foldl (fun s pk => s.enterDetour d.toNat d pk) s
      s.recomputeAll
    else ((s.reassign d p others).headQueue d moved).recomputeAll

/-- PORT_DOWN: a port in service goes DOWN with a reason of R332 other than HOST. -/
def execPortDown (p : BitVec 5) (reason : Byte) (s : State) : Host.Outcome State Fault Refusal :=
  .next <| if portLive (s.port p.toNat) && reason != 0 && decide (reason.toNat < 8) then s.portDown p.toNat reason else s

/-- LANE_RETIRE: a lane of a port in service is retired, and the port goes on with the new lane map; the flits of the pause are
replayed, so nothing of the link is lost. -/
def execLaneRetire (p : BitVec 5) (lane : BitVec 4) (s : State) : Host.Outcome State Fault Refusal :=
  .next <|
    let n := p.toNat
    let x := s.port n
    if !portLive x || 8 < lane.toNat || bitOf x.lanesBad.toNat lane.toNat then s
    else
      let bad := x.lanesBad ||| BitVec.ofNat 9 (2 ^ lane.toNat)
      let s := (s.updPort n fun x => { x with lanesBad := bad, laneRet := x.laneRet + 1 }).raise { cls := 0x29, src := 7, unit := n }
      let m := laneMap (~~~bad)
      if m.1 = 0 then s.portDown n 4 else s.setLanes n m.1 m.2

/-! ## Training (R326, R329 to R332, R348; 11 R375, R376; 16 R512) -/

/-- Why training ends in DOWN, 0 if it does not. -/
def State.trainReason (s : State) (p : Nat) (t : TrainResult) : Nat :=
  let x := s.port p
  if !t.cable then 3
  else if (laneMap (t.good &&& ~~~x.lanesBad)).1 = 0 then 4
  else if isReserved p then 0
  else if t.nbrNode ≠ s.neighbour x.dir || t.nbrDir ≠ x.dir ^^^ 1 then 5
  else if 600 < t.rttNs.toNat then 6
  else 0

/-- A link begins: every credit is granted, and numbering starts again (assumption 46). -/
def linkBegin (x : Port) (t : TrainResult) : Port :=
  { linkClear x with
      nbrNode := t.nbrNode, nbrPort := t.nbrPort, rttNs := t.rttNs, rxPos := none, shared := 2944
      reserved := (List.range 9).map fun q => (q, 128) }

/-- PORT_TRAINING_DONE: training ends with UP, DEGRADED or DOWN. -/
def execPortTrainingDone (p : BitVec 5) (t : TrainResult) (s : State) : Host.Outcome State Fault Refusal :=
  .next <|
    let n := p.toNat
    let x := s.port n
    if x.st ≠ .training then s
    else
      let r := s.trainReason n t
      if r = 3 then s.portDown n 3
      else
        let s := s.updPort n fun x => { x with nbrNode := t.nbrNode, nbrPort := t.nbrPort, rttNs := t.rttNs }
        if r ≠ 0 then s.portDown n (BitVec.ofNat 8 r)
        else
          let m := laneMap (t.good &&& ~~~x.lanesBad)
          let s := s.updPort n fun x => linkBegin x t
          let s := if isReserved n then s else { s with unreachable := s.unreachable.filter fun d => d != x.dir.toNat }
          let s := s.setLanes n m.1 m.2
          let s := if isReserved n then s else s.recomputeAll
          if x.resRole = 2 then s.updInflow (n == 23) fun i => { i with lastFseq := none, synced := false, part := none } else s

/-- A DOWN port may train: no replay of its link is in progress (R332, R344). -/
def mayRetrain (x : Port) : Bool := x.st == .down && !x.replayWait && x.replayEndSeen

def State.startTraining (s : State) (p : Nat) : State :=
  (s.updPort p fun x => { x with st := .training, hostDown := false }).portEvent p

/-- PORT_RETRAIN_RETRY: a DOWN port tries again, unless the host holds it DOWN. -/
def execPortRetrainRetry (p : BitVec 5) (s : State) : Host.Outcome State Fault Refusal :=
  .next <|
    let x := s.port p.toNat
    if mayRetrain x && x.reason != 8 && s.devSt != .fatal then s.startTraining p.toNat else s

/-! ## Packets received (R335, R337, R342, R344, R346; 11 R374, R375) -/

/-- Position a is at or before position b on a link (sequence numbers compare over half their range). -/
def atOrBefore (a b : BitVec 10 × Nat) : Bool :=
  if a.1 = b.1 then decide (a.2 ≤ b.2) else decide ((b.1 - a.1).toNat < 512)

/-- A replayed packet of the failed link behind `rport` that had arrived whole before. -/
def State.replayed (s : State) (pk : Packet) : Bool :=
  let x := s.port pk.rport.toNat
  match x.linkRec.orElse fun _ => x.rxPos with
  | some pos => atOrBefore (pk.rfseq, pk.rpos.toNat) pos
  | none => false

/-- Reserved kinds, and the reserved values of the types of TREE and LINK and of VC. -/
def packetBad (pk : Packet) : Bool :=
  let ty := bitsOf pk.arg.toNat (if pk.kind = 7 then 16 else 0) 8
  pk.resv || pk.kind == 0 || decide (0xB < pk.kind.toNat) || pk.vc == 3 || (pk.kind == 7 && (ty == 0 || decide (4 < ty))) ||
    (pk.kind == 0xB && (ty == 0 || decide (3 < ty)))

/-- Free the units of a packet that leaves the receive buffer of port p. -/
def State.freeRx (s : State) (p : Nat) (pk : Packet) : State := s.updPort p fun x => freeUnits x pk

/-- A packet has arrived whole on port p: discarded, forwarded, kept for the row that serves it, or, for a STEW packet, taken by
the Study (its message is a row of its own). -/
def State.packetIn (s : State) (p : Nat) (pk : Packet) : State :=
  let s := s.updPort p fun x => { x with rxUsed := mapAdd x.rxUsed (queueOf pk) (packetUnits pk) }
  let keep (s : State) (pk : Packet) : State := { s with arrived := s.arrived ++ [(BitVec.ofNat 5 p, pk)] }
  if isReserved p then
    if !packetBad pk && [1, 2, 5].contains pk.kind.toNat && (pk.dst == s.idNode || pk.dst == 0xFFFF) then keep s pk
    else (s.freeRx p pk).updPort p fun x => { x with discards := x.discards + 1 }
  else if packetBad pk || pk.hops = 64 then (s.freeRx p pk).discardPacket p
  else if pk.dt && pk.dleft ≠ 0 then (s.freeRx p pk).forward p pk
  else if pk.replay && s.replayed pk then s.freeRx p pk
  else
    let from_ := if pk.replay then pk.rport.toNat else p
    let clean : Packet := { pk with replay := false, rfseq := 0, rpos := 0, rport := 0 }
    if pk.dst = s.idNode || isGroup pk.dst then (if pk.kind = 0xA then s.freeRx p pk else keep s clean)
    else (s.freeRx p pk).forward from_ clean

/-! ## Flits (R327 to R330, R334, R335) -/

/-- Bytes of the packet whose header begins a stream: WR_REQ, RD_RSP, GWR_REQ and STEW carry LEN units of data. -/
def wireLen (bs : List Byte) : Nat :=
  let h := leNat (bs.take 32)
  32 + if [2, 3, 8, 0xA].contains (bitsOf h 32 4) then 64 * bitsOf h 40 4 else 0

/-- KEY of a packet by its kind (R341). -/
def wireKey (kind : Nat) (arg : Nat) (bs : List Byte) : W64 :=
  if [1, 2, 8].contains kind then dvaSlotKey (BitVec.ofNat 64 arg)
  else if kind = 5 then BitVec.ofNat 64 (bitsOf arg 32 15)
  else if kind = 7 then BitVec.ofNat 64 (bitsOf arg 0 16)
  else if kind = 0xA || kind = 0xB then 0
  else Config.responseKey (bs.take 32)

/-- A packet of its bytes (R334). -/
def packetOf (bs : List Byte) : Packet :=
  let h := leNat (bs.take 32)
  let f (byte lo w : Nat) : Nat := bitsOf h (8 * byte + lo) w
  { dst := BitVec.ofNat 16 (f 0 0 16), src := BitVec.ofNat 16 (f 2 0 16), kind := BitVec.ofNat 4 (f 4 0 4), vc := BitVec.ofNat 2 (f 4 4 2)
    dl := bitOf h 38, dt := bitOf h 39, len := BitVec.ofNat 4 (f 5 0 4), siod := bitOf h 44, seq := BitVec.ofNat 16 (f 6 0 16)
    job := BitVec.ofNat 32 (f 8 0 32), rtag := BitVec.ofNat 12 (f 12 0 12), code := BitVec.ofNat 8 (f 14 0 8), hops := BitVec.ofNat 8 (f 15 0 8)
    arg := BitVec.ofNat 64 (f 16 0 64), dpath := BitVec.ofNat 18 (f 24 0 18), dleft := BitVec.ofNat 3 (f 24 18 3)
    rfseq := BitVec.ofNat 10 (f 28 0 10), rpos := BitVec.ofNat 8 (f 30 0 8), rport := BitVec.ofNat 5 (f 31 0 5), replay := bitOf h 255
    resv := f 5 5 3 != 0 || decide (8 < f 5 0 4) || f 12 12 4 != 0 || f 24 21 11 != 0 || f 28 10 6 != 0 || f 31 5 2 != 0
    key := wireKey (f 4 0 4) (f 16 0 64) bs, data := bs.drop 32 }

/-- The packets that are whole in a stream, each with the offset at which it begins; then the offset and the bytes of the rest. -/
def readPackets : Nat → Nat → List Byte → List (Packet × Nat) × Nat × List Byte
  | 0, o, bs => ([], o, bs)
  | k + 1, o, bs =>
    let n := wireLen bs
    if bs.length < 32 || bs.length < n then ([], o, bs)
    else
      let r := readPackets k (o + n) (bs.drop n)
      ((packetOf (bs.take n), o) :: r.1, r.2)

/-- What a data flit completes: packets with the positions at which they began, and the port's stream behind them. -/
def streamIn (x : Port) (f : RxFlit) : List (Packet × BitVec 10 × Nat) × List Byte × BitVec 10 × Nat :=
  let bs := x.rxPart ++ f.payload.take 250
  let at_ (o : Nat) : BitVec 10 × Nat := if o < x.rxPart.length then x.rxStart else (f.fseq, o - x.rxPart.length)
  let r := readPackets (bs.length / 32 + 1) 0 bs
  (r.1.map fun e => (e.1, at_ e.2), r.2.2, at_ r.2.1)

/-- Credits that a flit returns: queue 0 to 8, shared or reserved units. -/
def takeCredits (x : Port) (f : RxFlit) : Port :=
  if 8 < f.crq.toNat then x
  else if f.crp then { x with shared := x.shared + f.crcnt.toNat }
  else { x with reserved := mapAdd x.reserved f.crq.toNat f.crcnt.toNat }

/-- ASEQ, NAK and credits of an accepted flit. A NAK makes the sender resend from ASEQ + 1; the packets it resends are those
still in the retry buffer. -/
def flitHeader (x : Port) (f : RxFlit) : Port :=
  let x := takeCredits x f
  let x := if (f.ack || f.nak) && decide ((f.aseq - x.acked).toNat ≤ 512) then ackTo x f.aseq else x
  pump (if f.nak then { x with naks := x.naks + 1 } else x)

/-- A flit that is not accepted: one NAK for the episode (R329). -/
def State.flitBad (s : State) (p : Nat) : State :=
  if (s.port p).nakOpen then s
  else (s.updPort p fun x => { x with nakOpen := true, replays := x.replays + 1 }).raise { cls := 0x28, src := 7, unit := p }

/-- FLIT_RECEIVE: a flit is checked, its header taken, and the packets it completes are received. -/
def execFlitReceive (p : BitVec 5) (f : RxFlit) (s : State) : Host.Outcome State Fault Refusal :=
  .next <|
    let n := p.toNat
    let x := s.port n
    if !portLive x || (isReserved n && x.resRole == 2) || s.devSt == .fatal then s
    else
      let s := s.fecCount n f
      if !f.decodes || !f.crcOk then s.flitBad n
      else if !f.idle && f.fseq ≠ x.rxNext then s.flitBad n
      else
        let s := s.updPort n fun x => flitHeader x f
        if f.nak && 16 ≤ (s.port n).naks then s.portDown n 2
        else if f.idle then s
        else
          let (done, part, start) := streamIn (s.port n) f
          let s := s.updPort n fun x =>
            { x with rxNext := f.fseq + 1, nakOpen := false, rxPart := part, rxStart := start
                     rxPos := match done.getLast? with
                       | some e => some e.2
                       | none => x.rxPos }
          done.foldl (fun s e => s.packetIn n e.1) s

/-! ## LINK packets (R344, R347) -/

/-- PROBE: answered as a replay's end is (assumption 47). -/
def execProbePkt (p : BitVec 5) (s : State) : Host.Outcome State Fault Refusal :=
  .next <|
    match s.takeArrived p 0xB (some 1) with
    | some (pk, s) => s.send (linkPacket s pk.src 3 (bitsOf pk.arg.toNat 8 5))
    | none => s

/-- REPLAY_END: this end's port of the failed link has had its replay; it is DOWN, and its record goes. -/
def execReplayEnd (p : BitVec 5) (s : State) : Host.Outcome State Fault Refusal :=
  .next <|
    match s.takeArrived p 0xB (some 2) with
    | some (pk, s) =>
      let rp := bitsOf pk.arg.toNat 8 5
      let s := if portLive (s.port rp) then s.portDown rp 7 else s
      let s := s.updPort rp fun x => { x with linkRec := none, replayEndSeen := true }
      s.send (linkPacket s pk.src 3 (s.port rp).nbrPort.toNat)
    | none => s

/-- REPLAY_END_ACK: the far end has had this end's replay; from a device being probed, it is the probe's reply. -/
def execReplayEndAck (p : BitVec 5) (s : State) : Host.Outcome State Fault Refusal :=
  .next <|
    match s.takeArrived p 0xB (some 3) with
    | some (pk, s) =>
      let s := { s with jobs := s.jobs.map fun j : Job => { j with probing := j.probing.filter fun n => n != pk.src } }
      let rp := bitsOf pk.arg.toNat 8 5
      if (s.port rp).nbrNode = pk.src then s.updPort rp fun x => { x with replayWait := false } else s
    | none => s

end Sys2Proof.Machine
end

