-- ==== Sys2Proof/Machine/Remote.lean ====
section
/-! DEFINITION. Remote requests and responses (05 R189 to R191; 09 R302, R308, R311; 10 R337, R351, R356; 11 R375). -/

namespace Sys2Proof.Machine

/-! ## Reads and writes at the target (05 R189, R190) -/

/-- Namespace and OFFSET of a request, as a DVA of this device. -/
def requestDva (pk : Packet) : Dva := BitVec.ofNat 64 (pk.arg.toNat % 2 ^ 48 + 0xFFFF * 2 ^ 48)

/-- A read or write request is served in the context of its job tag, or refused. -/
def State.serveRequest (s : State) (p : BitVec 5) (pk : Packet) (write : Bool) : State :=
  let d := requestDva pk
  match s.jobCtx pk.job with
  | none => s.respond p.toNat (responseTo s pk 0x0B)
  | some c =>
    if dvaTier d = 0 || 4 ≤ dvaTier d then s.respond p.toNat (responseTo s pk 0x07)
    else
      let (s, a) := s.addAccess
        { id := 0, who := .remote p.toNat pk, ctx := c, job := pk.job, write, dva := d
          len := if write then pk.data.length else pk.len.toNat * 64, data := if write then pk.data else [] }
      s.serve a

/-- RD_REQ: a remote read is served. -/
def execRdReq (p : BitVec 5) (s : State) : Host.Outcome State Fault Refusal :=
  .next <|
    if !s.live then s else match s.takeArrived p 1 with
    | some (pk, s) => s.serveRequest p pk false
    | none => s

/-- WR_REQ: a remote write is served. -/
def execWrReq (p : BitVec 5) (s : State) : Host.Outcome State Fault Refusal :=
  .next <|
    if !s.live then s else match s.takeArrived p 2 with
    | some (pk, s) => s.serveRequest p pk true
    | none => s

/-! ## Completions at the source (R337, R351; 05 R191) -/

/-- The sequencer of the Room that waits for a remote Bolt operation gets its outcome; the refusal of a posted one faults the
Room too (09 R304), and its loss goes unnoticed (assumption 48). -/
def State.remoteBoltDone (s : State) (r : RoomId) (waits : Bool) (code : Nat) (err : Nat) (result : W32) : State :=
  if code = 0x0C then (if waits then s.roomBoltDone r true 0 else s)
  else if code ≠ 0 then (if (s.room r).runst = .fault then s else s.faultRoom r 0x06 0x31)
  else if waits then s.roomBoltDone r (err != 0) result
  else s

/-- The outcome of a remote request goes to what asked for it. -/
def State.remoteDone (s : State) (m : Remote) (code : Byte) (arg : Nat) (data : List Byte) : State :=
  let s := s.dropRemote m
  match m.kind with
  | 0 =>
    match s.access m.what with
    | some a => s.finish a code.toNat (if code = 0 && !a.write then data else []) ((List.range 8).filter fun i => bitOf arg i)
    | none => s
  | 2 => s.updGroup m.what fun g =>
      { g with kids := g.kids.map fun k : NodeId × Option Byte => if k.1 = m.node then (k.1, some code) else k }
  | k => s.remoteBoltDone (BitVec.ofNat 10 m.what) (k == 3) code.toNat (bitsOf arg 32 8) (BitVec.ofNat 32 arg)

/-- A response of a kind on a port: matched by RTAG and E2E_SEQ, or discarded and counted. -/
def State.responseIn (s : State) (p : BitVec 5) (kind : Nat) : State :=
  match s.takeArrived p kind with
  | some (pk, t) =>
    match t.remoteOf pk with
    | some m => t.remoteDone m pk.code pk.arg.toNat pk.data
    | none => t.discardPacket p.toNat
  | none => s

/-- RD_RSP: a read response completes its access. -/
def execRdRsp (p : BitVec 5) (s : State) : Host.Outcome State Fault Refusal := .next (s.responseIn p 3)
/-- WR_ACK: a write acknowledgement completes its store. -/
def execWrAck (p : BitVec 5) (s : State) : Host.Outcome State Fault Refusal := .next (s.responseIn p 4)
/-- BOLT_RSP: the result of a remote Bolt operation. -/
def execBoltRsp (p : BitVec 5) (s : State) : Host.Outcome State Fault Refusal := .next (s.responseIn p 6)
/-- GWR_ACK: a child's acknowledgement of a group write. -/
def execGwrAck (p : BitVec 5) (s : State) : Host.Outcome State Fault Refusal := .next (s.responseIn p 9)

/-- REMOTE_TIMEOUT: a request with no response completes with REMOTE_LOST. -/
def execRemoteTimeout (south : Bool) (rtag : BitVec 12) (s : State) : Host.Outcome State Fault Refusal :=
  .next <|
    match s.remotes.find? fun m => m.south == south && m.rtag == rtag with
    | some m => ({ s with remoteTimeouts := s.remoteTimeouts + 1 }).remoteDone m 0x0C 0 []
    | none => s

/-! ## Bolt operations and tree messages at the target (09 R302, R308, R311) -/

/-- Context and Bolt that a job tag and an index name. -/
def State.remoteBolt (s : State) (job : W32) (i : Nat) : Option (CtxId × BoltId) :=
  match s.jobCtx job with
  | some c => if i < (s.ctx c).bolts then some (c, s.boltAbs c i) else none
  | none => none

/-- BOLT_REQ: the operation goes to the Bolt's engine, or is refused and nothing changes. -/
def execBoltReq (p : BitVec 5) (s : State) : Host.Outcome State Fault Refusal :=
  .next <|
    match s.takeArrived p 5 with
    | none => s
    | some (pk, t) =>
      let i := bitsOf pk.arg.toNat 32 32
      let refuse (code : Nat) : State := t.respond p.toNat (responseTo t pk code)
      if !s.live then s
      else if (t.jobCtx pk.job).isNone then refuse 0x0B
      else match t.remoteBolt pk.job (bitsOf i 0 15) with
        | some (c, b) =>
          if (t.bolt b).remoteOk && imm2Op i ≤ 8 then
            t.boltAsk { who := .remote p.toNat pk, ctx := c, bolt := b, op := BitVec.ofNat 4 (imm2Op i)
                        cond := BitVec.ofNat 3 (imm2Cond i), operand := BitVec.ofNat 32 pk.arg.toNat, ret := bitOf i 24 }
          else refuse 0x0A
        | none => refuse 0x0A

/-- A tree message of a type reaches its Bolt; one that names none, or one that is no tree Bolt's BARRIER, is refused. -/
def State.treeIn (s : State) (p : BitVec 5) (ty : Nat) (f : BoltId → Byte → State → State) : State :=
  match s.takeArrived p 7 (some ty) with
  | none => s
  | some (pk, t) =>
    let i := bitsOf pk.arg.toNat 0 15
    if !s.live then s
    else match t.remoteBolt pk.job i with
      | some (_, b) => f b (BitVec.ofNat 8 (bitsOf pk.arg.toNat 24 8)) t
      | none =>
        if ty = 4 then t
        else t.send { dst := pk.src, src := t.idNode, kind := 7, vc := 2, job := pk.job
                      arg := BitVec.ofNat 64 (i + 4 * 2 ^ 16), key := BitVec.ofNat 64 i }

/-- TREE_ARRIVE: a child's arrival of count 1; in error it changes nothing (09 R312). -/
def execTreeArrive (p : BitVec 5) (s : State) : Host.Outcome State Fault Refusal :=
  .next <| s.treeIn p 1 fun b _ s => if (s.bolt b).error then s else s.arrive b 1

/-- TREE_RELEASE: the parent's release, performed or held; one that was not asked for is ignored. -/
def execTreeRelease (p : BitVec 5) (s : State) : Host.Outcome State Fault Refusal :=
  .next <| s.treeIn p 2 fun b _ s =>
    let x := s.bolt b
    if x.error || !x.reported then s
    else if s.holdsRelease b then s.updBolt b fun x => { x with held := true }
    else s.releaseNow b

/-- TREE_ABORT: the Bolt enters error with the code carried. -/
def execTreeAbort (p : BitVec 5) (s : State) : Host.Outcome State Fault Refusal :=
  .next <| s.treeIn p 3 fun b err s => s.boltError b err

/-- TREE_REFUSED: the sending Bolt enters error with REMOTE_REFUSED. -/
def execTreeRefused (p : BitVec 5) (s : State) : Host.Outcome State Fault Refusal :=
  .next <| s.treeIn p 4 fun b _ s => s.boltError b 3

/-! ## Group writes at a member (R356) -/

/-- GWR_REQ: a member copies and forwards a group write; one without an entry refuses it. The request waits while the I/O die
takes no further one. -/
def execGwrReq (p : BitVec 5) (s : State) : Host.Outcome State Fault Refusal :=
  .next <|
    match s.takeArrived p 8 with
    | none => s
    | some (pk, t) =>
      let south := decide (12 ≤ p.toNat)
      if !s.live then s
      else match t.groupOf pk.job (BitVec.ofNat 8 pk.dst.toNat) with
        | some e => if t.groupReady south then t.startGroup e (requestDva pk) pk.data south (some pk) none else s
        | none => t.send (responseTo t pk 0x0A)

end Sys2Proof.Machine
end

