-- ==== Sys2Proof/Machine/Steward.lean ====
section
/-! DEFINITION. Jobs, their Steward and their workers (10 R339, R348 to R350, R355, R359 to R361; 15 R496), the messages
of placement revisions (07 R254), and the fabric commands (10 R333, R338, R359; 13 R446). -/

namespace Sys2Proof.Machine

/-! ## Events (13 R425) -/

/-- The JOB event: 1 SUSPECT, 2 LOST, 3 MANAGER_LOST. -/
def State.jobEvent (s : State) (kind : Nat) (node : NodeId) (job : W32) : State :=
  s.devEvent 0x8009 [(20, 1, kind), (22, 2, node.toNat), (24, 4, job.toNat)]

/-! ## Loss (R348 to R350; 05 R191; 09 R311; 15 R496) -/

/-- PEER_LOST: the job's Bolts enter error, and its contexts fail by the error raised. -/
def State.peerLost (s : State) (job : W32) : State :=
  (s.jobError job 0x01).raise { cls := 0x2C, src := 8, unit := 0, addr := job.setWidth 64 }

/-- What every surviving device does about a lost one. -/
def State.nodeLost (s : State) (job : W32) (node : NodeId) : State :=
  let s := (s.remotes.filter fun m => m.node == node).foldl (fun s m => s.remoteDone m 0x0C 0 []) s
  let waits (a : Access) : Bool := a.st == .issued && !s.isLocal a.dva && !isGroup (dvaNode a.dva) && dvaNode a.dva == node
  let s := (s.accesses.filter waits).foldl (fun s a => s.finish a 0x0C [] []) s
  let s := s.updJob job fun j => { j with lost := j.lost ++ [node], probing := j.probing.filter fun n => n != node }
  let s := (s.revs.filter fun v => (s.ctx v.ctx).job == job).foldl State.abandonRev s
  (s.jobEvent 2 node job).peerLost job

/-- A worker treats its manager as lost. -/
def State.managerLost (s : State) (j : Job) : State :=
  ((s.updJob j.tag fun j => { j with mgrLost := true }).jobEvent 3 j.manager j.tag).peerLost j.tag

/-- The Steward declares a worker lost, and tells the survivors. -/
def State.declareLost (s : State) (j : Job) (node : NodeId) : State :=
  if j.lost.contains node then s
  else
    let s := s.nodeLost j.tag node
    let s := ((s.peers j).filter fun n => n != node).foldl (fun s n => s.stew j.tag n 6) s
    s.recompute j.tag

/-- Run a message's effect on the job it names, while the device runs. -/
def State.onJob (s : State) (job : W32) (f : Job → State → State) : State :=
  if !s.live then s else match s.job? job with
  | some j => f j s
  | none => s

/-- HEARTBEAT: a worker answers its manager. -/
def execHeartbeatMsg (job : W32) (s : State) : Host.Outcome State Fault Refusal :=
  .next <| s.onJob job fun j s =>
    if j.isManager then s else (s.updJob job fun j => { j with mgrMissed := 0 }).stew job j.manager 5

/-- HB_ACK: a worker has answered. -/
def execHbAckMsg (job : W32) (node : NodeId) (s : State) : Host.Outcome State Fault Refusal :=
  .next <| s.onJob job fun j s =>
    if j.isManager then s.updJob job fun j => { j with missed := mapSet j.missed node.toNat 0 } else s

/-- The Steward has a SUSPECT: it probes the device, or declares one that names itself. -/
def State.suspect (s : State) (j : Job) (node sender : NodeId) : State :=
  if !j.isManager || j.lost.contains node || !s.inBlock j node || node == s.idNode then s
  else
    let s := s.jobEvent 1 node j.tag
    if node = sender then s.declareLost j node
    else
      let s := s.updJob j.tag fun j => { j with probing := if j.probing.contains node then j.probing else j.probing ++ [node] }
      s.send { linkPacket s node 1 0 with job := j.tag }

/-- SUSPECT, as the Steward receives it. -/
def execSuspectMsg (job : W32) (node sender : NodeId) (s : State) : Host.Outcome State Fault Refusal :=
  .next <| s.onJob job fun j s => s.suspect j node sender

/-- LOST, as a worker receives it; one that names its manager counts as the manager's loss. -/
def execLostMsg (job : W32) (node : NodeId) (s : State) : Host.Outcome State Fault Refusal :=
  .next <| s.onJob job fun j s =>
    if j.lost.contains node || j.isManager then s
    else
      let s := s.nodeLost job node
      if node = j.manager then s.managerLost j else s

/-- HEARTBEAT_TICK: 1 ms of a job. The Steward declares a worker that has missed four answers and sends the next heartbeat; at a
worker the interval counts until the manager's next heartbeat. -/
def execHeartbeatTick (job : W32) (s : State) : Host.Outcome State Fault Refusal :=
  .next <| s.onJob job fun j s =>
    if j.isManager then
      (s.peers j).foldl (fun s n =>
        let k := mapGet 0 j.missed n.toNat
        if 4 ≤ k then s.declareLost ((s.job? job).getD j) n
        else (s.updJob job fun j => { j with missed := mapSet j.missed n.toNat (k + 1) }).stew job n 4) s
    else s.updJob job fun j => { j with mgrMissed := j.mgrMissed + 1 }

/-- PROBE_TIMEOUT: a device that was probed has not answered. -/
def execProbeTimeout (job : W32) (node : NodeId) (s : State) : Host.Outcome State Fault Refusal :=
  .next <| s.onJob job fun j s => if j.isManager && j.probing.contains node then s.declareLost j node else s

/-- MANAGER_LOST: a worker has missed four heartbeats. -/
def execManagerLost (job : W32) (s : State) : Host.Outcome State Fault Refusal :=
  .next <| s.onJob job fun j s => if j.isManager || j.mgrLost || j.mgrMissed < 4 then s else s.managerLost j

/-- NEIGHBOUR_UNREACHABLE: an unusable direction whose replay is not answered: its retry buffers go, its traffic goes round the
neighbour or is answered, and each Steward is told. -/
def execNeighbourUnreachable (dir : BitVec 3) (s : State) : Host.Outcome State Fault Refusal :=
  .next <|
    let ps := s.dirPorts dir
    if !s.live || !s.dirUnusable dir || s.unreachable.contains dir.toNat || !(ps.any fun p => (s.port p).replayWait) then s
    else
      let queued := ps.flatMap fun p => (s.port p).txq
      let waiting := (s.slotWait.filter fun e => e.1 / 64 == dir.toNat).map (·.2)
      let s := ps.foldl (fun s p => s.updPort p fun x =>
        { x with retry := [], txq := [], replayWait := false, replayEndSeen := true, linkRec := none }) s
      let s := { s with unreachable := s.unreachable ++ [dir.toNat], slotWait := s.slotWait.filter fun e => e.1 / 64 != dir.toNat
                        slotBack := s.slotBack.filter fun e => e.1 / 64 != dir.toNat }
      let s := (queued ++ waiting).foldl (fun s pk => s.sendDir dir pk) s
      let s := s.raise { cls := 0x2B, src := 7, unit := 0x100 + dir.toNat }
      let node := s.neighbour dir
      (s.jobs.foldl (fun s j =>
        if j.isManager then s.suspect j node s.idNode else (s.jobEvent 1 node j.tag).stew j.tag j.manager 7) s).recomputeAll

/-! ## Trees, groups and detours (R355, R360, R361; 09 R302, R303) -/

/-- Toward the root of a tree along an axis: the shorter way on a line that wraps, and the minus way on a tie (09 R303). -/
def State.rootWay (s : State) (j : Job) (axis a b : Nat) : Bool :=
  let e := s.extent axis
  if j.size.getD axis 1 = e then decide (2 * ((b + e - a) % e) < e)
  else
    let o := j.origin.getD axis 0
    decide ((a + e - o) % e ≤ (b + e - o) % e)

/-- Parent of a device in the tree of a root: one step nearer along Z, else along Y, else along X; the root has none. -/
def State.treeParent (s : State) (j : Job) (root n : NodeId) : Option NodeId :=
  ([2, 1, 0].find? fun a => coord n a != coord root a).map fun a =>
    let e := s.extent a
    let c := (coord n a + (if s.rootWay j a (coord n a) (coord root a) then 1 else e - 1)) % e
    nodeAt (if a = 0 then c else coord n 0) (if a = 1 then c else coord n 1) (if a = 2 then c else coord n 2)
def State.treeChildren (s : State) (j : Job) (root n : NodeId) : List NodeId :=
  (s.blockNodes j).filter fun m => s.treeParent j root m == some n

/-- The fields that a Steward gives a Bolt of this device: those of the tree rooted at the manager, COUNT with one arrival of each
child and never 0 (09 R302, R303), or those of a local Bolt. -/
def State.treeFits (s : State) (j : Job) (t : TreeFields) : Bool :=
  let p := s.treeParent j j.manager s.idNode
  let kids := s.treeChildren j j.manager s.idNode
  t.count != 0 &&
    ((t.root && t.children.isEmpty) ||
      (t.root == p.isNone && (p.isNone || p == some t.parent) && t.children.length == kids.length &&
        kids.all (fun n => t.children.contains n) && decide (kids.length ≤ t.count.toNat)))

/-- A Steward sets its own fields, and sends the others theirs by a message type. -/
def State.tellWorkers (s : State) (j : Job) (ty : Nat) : State :=
  if j.isManager then (s.peers j).foldl (fun s n => s.stew j.tag n ty) s else s

/-- TREE_SET: the PARENT, CHILD and COUNT fields of a tree Bolt. -/
def execTreeSet (job : W32) (index : BitVec 15) (t : TreeFields) (s : State) : Host.Outcome State Fault Refusal :=
  .next <| s.onJob job fun j s =>
    match s.remoteBolt job index.toNat with
    | some (_, b) =>
      if s.treeFits j t then
        (s.updBolt b fun x => { x with root := t.root, parent := t.parent, children := t.children, count := t.count }).tellWorkers j 1
      else s
    | none => s

/-- GROUP_SET: an entry is written over the one of the same job and group, or added while fewer than 1,024 stand, or cleared. -/
def execGroupSet (e : Group) (clear : Bool) (s : State) : Host.Outcome State Fault Refusal :=
  .next <| s.onJob e.job fun j s =>
    let rest := s.groups.filter fun g => !(g.job == e.job && g.group == e.group)
    let e := { e with children := e.children.take 6 }
    if clear then { s with groups := rest }.tellWorkers j 2
    else if rest.length < 1024 then { s with groups := rest ++ [e] }.tellWorkers j 2 else s

/-- DETOUR_SET: the job's 12 detour entries are replaced between two packets. -/
def execDetourSet (job : W32) (entries : List (BitVec 24)) (s : State) : Host.Outcome State Fault Refusal :=
  .next <| s.onJob job fun _ s => if entries.length = 12 then s.updJob job fun j => { j with detours := entries } else s

/-! ## Placement revisions (07 R249 to R255) -/

/-- Sum of a 4-byte field over the routing status records of every source (13 R438), or none where one cannot be read. -/
def State.statusSum (s : State) (c : CtxId) (r : Route) (off : Nat) : Option Nat :=
  (List.range r.sources).foldl (fun (a : Option Nat) i =>
    a.bind fun n => match s.dvaNat c (r.statusVa + BitVec.ofNat 64 (64 * i + off)) 4 with
      | .inl v => some (n + v)
      | .inr _ => none) (some 0)

/-- Step 1 of R254: every load counter, and DROPPED and INVALID over the status records. -/
def State.readLoads (s : State) (c : CtxId) (r : Route) : Option (List W32 × Nat × Nat) :=
  match s.dvaRead c r.loadVa (4 * r.e * r.sources), s.statusSum c r 16, s.statusSum c r 20 with
  | .inl bs, some d, some i => some ((List.range (r.e * r.sources)).map fun k => BitVec.ofNat 32 (leNat ((bs.drop (4 * k)).take 4)), d, i)
  | _, _, _ => none

/-- Step 2 of R254: the new placement and its table's bytes, where one fits and gains MIN_GAIN. -/
def State.newPlacement (s : State) (c : CtxId) (m : Model) (r : Route) (wings : List (NodeId × WingId)) (act : Dva) (loads : List Nat) :
    Option (List Byte) :=
  let budget := min (m.instanceBudget.getD (s.routedE c m)) (8 * r.e)
  let oldReps := (List.range r.e).map fun e =>
    match s.dvaNat c (act + BitVec.ofNat 64 (64 + 64 * e)) 1 with
    | .inl v => v % 16
    | .inr _ => 1
  match placement r (wingsInOrder wings) loads (8 * r.e + 1) (replicas loads budget) with
  | some (reps, ps) =>
    let was := predicted loads oldReps m.reviseSteps
    let will := predicted loads reps m.reviseSteps
    if was * 100 < will * 100 + m.minGain * was then none else some (placeCopy r.e ps)
  | none => none

/-- STEWARD_REVISION. At the job's manager, a revision of one routed layer begins, REVISE_STEPS after the last, while no device of
the group is lost (assumption 49 on the plan); a worker sends its load counters and routing status (10 R360). -/
def execStewardRevision (c : CtxId) (midx : Byte) (route : Dva) (plan : RevPlan) (s : State) : Host.Outcome State Fault Refusal :=
  .next <|
    match mapFind (s.ctx c).models midx.toNat, s.routeOf c route, s.job? (s.ctx c).job with
    | some m, some r, some j =>
      let now := s.leastStep m
      match s.activeCopy c r now, s.readLoads c r with
      | some act, some (cnt, dropped, invalid) =>
        if !s.live || !j.lost.isEmpty || j.mgrLost || (s.ctx c).st ≠ .active ||
            now < mapGet 0 m.revised route.toNat + m.reviseSteps || (s.modelWork.any fun w => w.ctx == c) ||
            (s.rev? c midx.toNat).isSome then s
        else
          let loads := intervalLoads r cnt (mapGet [] m.loads route.toNat) (mapGet [] m.sent route.toNat)
          let s := s.updModel c midx.toNat fun m =>
            { m with loads := mapSet m.loads route.toNat cnt, sent := mapDel m.sent route.toNat, revised := mapSet m.revised route.toNat now }
          if !j.isManager then s.stew j.tag j.manager 9
          else
            let s := s.updCtx c fun x =>
              { x with routeDropped := x.routeDropped + BitVec.ofNat 64 dropped, routeInvalid := x.routeInvalid + BitVec.ofNat 64 invalid }
            match s.newPlacement c m r plan.wings act.1 loads with
            | some table => s.beginRev
                { ctx := c, midx := midx.toNat, route, copy := if act.1 = r.placeVa then r.placeVa + 0x10000 else r.placeVa
                  version := act.2.2.1 + 1, active := act.2.2.2.toNat, manager := true, plan, table }
            | none => s
      | _, _ => s
    | _, _, _ => s

/-- PLACE: what the Steward asks a worker to do, or a worker's answer. -/
def execPlaceMsg (job : W32) (midx : Byte) (sender : NodeId) (route : Dva) (version : W32) (p : PlaceMsg) (s : State) : Host.Outcome State Fault Refusal :=
  .next <| s.onJob job fun j s =>
    match s.jobCtx job with
    | none => s
    | some c =>
      if s.otherRev c midx.toNat route version then s
      else if j.isManager then s.placeAtManager c midx.toNat sender p
      else s.placeAtWorker j c midx.toNat route version p

/-- STATS, at the Steward: a worker's loads of a routed layer and its dropped and invalid ranks. -/
def execStatsMsg (job : W32) (midx : Byte) (route : Dva) (loads : List W32) (dropped invalid : W32) (s : State) :
    Host.Outcome State Fault Refusal :=
  .next <| s.onJob job fun j s =>
    match s.jobCtx job with
    | none => s
    | some c =>
      if !j.isManager then s
      else
        let add (old : List Nat) : List Nat :=
          (List.range (max old.length loads.length)).map fun i => old.getD i 0 + (loads.getD i 0).toNat
        (s.updModel c midx.toNat fun m =>
          { m with sent := mapSet m.sent route.toNat (add (mapGet [] m.sent route.toNat)) }).updCtx c fun x =>
            { x with routeDropped := x.routeDropped + dropped.setWidth 64, routeInvalid := x.routeInvalid + invalid.setWidth 64 }

/-! ## Fabric commands (10 R333, R338, R359; 13 R446) -/

/-- Direction that the configuration gives a port: fixed for torus ports, FLEX for flex ports. -/
def configDir (f : Nat) (p : Nat) : BitVec 3 :=
  if p = 9 then BitVec.ofNat 3 (bitsOf f 40 3)
  else if p = 10 then BitVec.ofNat 3 (bitsOf f 44 3)
  else if p = 21 then BitVec.ofNat 3 (bitsOf f 48 3)
  else if p = 22 then BitVec.ofNat 3 (bitsOf f 52 3)
  else (portReset p).dir

/-- A detour entry with a reserved bit, a LEN of 7, or a step that is no direction. -/
def detourBad (v : Nat) : Bool :=
  bitsOf v 21 3 != 0 || bitsOf v 0 3 == 7 || (List.range (bitsOf v 0 3)).any fun i => decide (6 ≤ bitsOf v (3 + 3 * i) 3)

/-- FAB_CONFIG: the record is accepted once after a reset; ports with a use begin training. -/
def execFabConfig (q : Req) (s : State) : Host.Outcome State Fault Refusal :=
  .next <|
    let f := bitsOf q.entry.toNat 128 512
    let node : NodeId := BitVec.ofNat 16 f
    let ext (a : Nat) := bitsOf f (8 * (2 + a)) 5 + 1
    s.commandWith q 0x0601 [(16, 0, 16), (18, 0, 5), (19, 0, 5), (20, 0, 5), (21, 0, 3), (21, 4, 3), (22, 0, 3), (22, 4, 3), (23, 0, 4),
        (24, 0, 10), (32, 0, 288)]
      ([(16, bitOf f 15 || (List.range 3).any fun a => decide (ext a ≤ coord node a)),
        (21, bitsOf f 40 3 == 6 || bitsOf f 44 3 == 6), (22, bitsOf f 48 3 == 6 || bitsOf f 52 3 == 6),
        (23, bitsOf f 56 2 == 3 || bitsOf f 58 2 == 3), (24, decide (1000 < bitsOf f 64 10))] ++
        (List.range 12).map fun i => (32 + 3 * i, detourBad (bitsOf f (8 * (16 + 3 * i)) 24))) fun s =>
      if s.fabric.isSome then s.reply q 0x14
      else
        let s := { s with fabric := some (BitVec.ofNat 512 f), idNode := node
                          remoteTimeoutMs := if bitsOf f 64 10 = 0 then 50 else bitsOf f 64 10 }
        let s := (List.range 24).foldl (fun s p =>
          let d := configDir f p
          let res := if p = 11 then bitsOf f 56 2 else if p = 23 then bitsOf f 58 2 else 0
          let used := if isReserved p then res != 0 else decide (d.toNat < 6) && decide (1 < ext (d.toNat / 2))
          let s := s.updPort p fun x => { x with dir := d, resRole := BitVec.ofNat 2 res }
          if used then s.startTraining p else s) s
        s.reply q 0

/-- FAB_ROLE: a job's block entry, or its removal. -/
def execFabRole (q : Req) (s : State) : Host.Outcome State Fault Refusal :=
  .next <|
    let tag : W32 := BitVec.ofNat 32 (reqNat q 16 4)
    let org := (List.range 3).map fun a => reqNat q (20 + a) 1
    let size := (List.range 3).map fun a => reqNat q (23 + a) 1 + 1
    let remove := reqBit q 26 1
    s.commandWith q 0x0602 ([(16, 0, 32), (26, 0, 2), (28, 0, 16)] ++ (List.range 6).map fun i => (20 + i, 0, 5))
      ((List.range 3).flatMap fun a =>
        [(20 + a, !remove && decide (s.extent a ≤ org.getD a 0)), (23 + a, !remove && decide (s.extent a < size.getD a 1))]) fun s =>
      if remove then
        if (s.job? tag).isNone || (s.jobCtx tag).isSome then s.reply q 0x14
        else { s with jobs := s.jobs.filter fun j => j.tag != tag }.reply q 0
      else if s.fabric.isNone || (s.job? tag).isSome then s.reply q 0x14
      else
        let j : Job :=
          { tag, origin := org, size, manager := BitVec.ofNat 16 (reqNat q 28 2), isManager := reqBit q 26 0
            detours := (List.range 12).map fun i => BitVec.ofNat 24 (s.detourEntry tag i) }
        if !s.inBlock j s.idNode then s.badReq q 20
        else if 64 ≤ s.jobs.length then s.reply q 0x27
        else ({ s with jobs := s.jobs ++ [j] }.recompute tag).reply q 0

/-- The 64-byte status record of a port. -/
def portRecord (p : Nat) (x : Port) : List Byte :=
  layout 64
    [(0, 1, p), (1, 1, portStNum x.st + x.dir.toNat * 8 + x.role.toNat * 64), (2, 1, x.width.toNat + boolNat x.spare * 16),
      (3, 1, x.reason.toNat), (4, 2, x.lanesBad.toNat), (6, 2, x.nbrNode.toNat), (8, 1, x.nbrPort.toNat), (12, 2, x.rttNs.toNat),
      (16, 8, x.fecCorr.toNat), (24, 4, x.fecUncorr.toNat), (28, 4, x.replays.toNat), (32, 4, x.downCnt.toNat),
      (36, 4, x.laneRet.toNat), (40, 8, x.txFlits.toNat), (48, 8, x.creditWait.toNat)]

/-- PORT_STATUS. -/
def execPortStatus (q : Req) (s : State) : Host.Outcome State Fault Refusal :=
  .next <|
    let p := reqNat q 16 1
    s.commandWith q 0x0603 [(16, 0, 8)] [(16, decide (24 ≤ p))] fun s => s.reply q 0 0 [(16, 64, leNat (portRecord p (s.port p)))]

/-- PORT_CTL with DISABLE as its row names it; a request of the other kind is left to the other row. A reserved port, and a
port the configuration does not use, answers STATE. -/
def State.portCtl (s : State) (q : Req) (disable : Bool) (f : Nat → State → State) : State :=
  if reqOp q = 0x0604 && reqBit q 17 0 != disable then s
  else
    let p := reqNat q 16 1
    s.commandWith q 0x0604 [(16, 0, 8), (17, 0, 1)] [(16, decide (24 ≤ p))] fun s =>
      if isReserved p || (s.port p).st == .disabled then s.reply q 0x14 (portStNum (s.port p).st) else f p s

/-- PORT_CTL with DISABLE = 1: DOWN with reason HOST. -/
def execPortCtlDisable (q : Req) (s : State) : Host.Outcome State Fault Refusal :=
  .next <| s.portCtl q true fun p s =>
    if (s.port p).st = .down then (s.updPort p fun x => { x with reason := 8, hostDown := true }).reply q 0
    else (s.portDown p 8).reply q 0

/-- PORT_CTL with DISABLE = 0: training starts; a port in service or in training goes on, and one whose replay is in progress
answers STATE (assumption 50). -/
def execPortCtlEnable (q : Req) (s : State) : Host.Outcome State Fault Refusal :=
  .next <| s.portCtl q false fun p s =>
    if (s.port p).st ≠ .down then s.reply q 0
    else if mayRetrain (s.port p) then (s.startTraining p).reply q 0
    else s.reply q 0x14 4

end Sys2Proof.Machine
end

