-- ==== Sys2Proof/Machine/Power.lean ====
section
/-! DEFINITION. Power and temperature (13 R415 to R418, R435; 15 R485, R489 to R492), and the sideband inputs (15 R486 to R488,
R495, R501). -/

namespace Sys2Proof.Machine

/-! ## Readings -/

/-- Coolant temperature in 0.1 °C, none while its data is absent (R485). -/
def State.tcool (s : State) : Option Int :=
  if s.coolantAbsent || !bitOf s.i3c.coolant.toNat 16 then none else some (signedOf s.i3c.coolant.toNat 16)

def State.dieTj (s : State) (d : Nat) : Nat := s.power.last.tj.getD d 0
def State.tjMax (s : State) : Nat := s.power.last.tj.foldl max 0
/-- Powers outside the compute dies, and the package's (R415, R435). -/
def State.restW (s : State) : Nat := s.power.last.pantry + s.power.last.io + s.power.last.sram
def State.pkgW (s : State) : Nat := ((List.range 4).map fun d => s.power.last.die.getD d 0).sum + s.restW
def State.dieStep (s : State) (d : Nat) : Nat := mapGet 0 s.power.steps d

def State.updPower (s : State) (f : Power → Power) : State := { s with power := f s.power }

/-! ## The ladder (R490, R491) -/

/-- TCOOL threshold of a stage, in 0.1 °C. -/
def tcoolMark : Nat → Int
  | 1 => 450
  | 2 => 550
  | 3 => 620
  | _ => 670

/-- An entry condition of a stage holds. -/
def State.stageHolds (s : State) (n : Nat) : Bool :=
  let cool := match s.tcool with
    | some t => decide (tcoolMark n ≤ t)
    | none => n == 1
  cool || (match n with
    | 2 => decide (100 ≤ s.power.hot)
    | 3 => decide (105 ≤ s.tjMax) || s.brake.level
    | 4 => decide (108 ≤ s.tjMax)
    | _ => false)

/-- TCOOL lets the stage fall. -/
def State.coolFalls (s : State) : Bool :=
  match s.tcool with
  | some t => decide (t + 20 ≤ tcoolMark s.power.stage)
  | none => true

/-- Package ceiling of a stage. -/
def stageCeiling (n : Nat) : Option Nat :=
  match n with
  | 0 => none
  | 1 => some (Config.gradeLimit * 85 / 100)
  | 2 => some (Config.gradeLimit * 60 / 100)
  | 3 => some 1000
  | _ => some 900

/-- Package limit in force. -/
def State.pkgLimit (s : State) : Nat :=
  match stageCeiling s.power.stage with
  | some c => min c s.power.limit
  | none => s.power.limit

/-- A stage change, with its THROTTLE record. -/
def State.setStage (s : State) (n : Nat) : State :=
  (s.updPower fun p => { p with stage := n, calm := 0 }).raise { cls := 0x40, src := 12, unit := Config.unitOf 0x40 }

/-- One pass of the ladder: up at once, down one stage after 1,000 calm passes. -/
def State.ladder (s : State) : State :=
  let top := ((List.range 5).filter fun n => decide (1 ≤ n) && s.stageHolds n).foldl max 0
  if s.power.stage < top then s.setStage top
  else if s.power.stage = 0 then s
  else if s.stageHolds s.power.stage then s.updPower fun p => { p with calm := 0 }
  else
    let s := s.updPower fun p => { p with calm := p.calm + 1 }
    if 1000 ≤ s.power.calm && s.coolFalls then s.setStage (s.power.stage - 1) else s

/-! ## Clock steps and grants (R415 to R418, R489) -/

/-- Four times a compute die's limit in W: the smaller of 560 W and a quarter of what the package limit leaves. -/
def State.dieLimit4 (s : State) : Nat := min 2240 (s.pkgLimit - s.restW)

/-- The POWER event of a step or k that leaves or returns to its rest value; where no condition of R415 or R417 gives the
reason, it is a free value. -/
def State.powerEvent (s : State) (who v tj limit : Nat) (reason : Option Nat) : State :=
  let e (r : Nat) := [(20, 1, who), (21, 1, v), (22, 1, tj), (24, 2, limit), (26, 1, r)]
  match reason with
  | some r => s.devEvent 0x800B (e r)
  | none => (s.devEvent 0x800B (e (s.freeVal.toNat % 3 + 1))).bumpFree

/-- Set a die's clock step. -/
def State.setStep (s : State) (d v : Nat) (reason : Option Nat) : State :=
  let old := s.dieStep d
  let now := s.hc.toNat
  let clock := (now, s.tc1536 d now, v) :: mapGet [] s.power.clocks d
  let t := s.updPower fun p => { p with steps := mapSet p.steps d v, clocks := if old = v then p.clocks else mapSet p.clocks d clock }
  if s.live && old ≠ v && (old = 0 || v = 0) then t.powerEvent d v (s.dieTj d) (s.dieLimit4 / 4) reason else t

/-- Set the grant cap k of DW 0 to 7. -/
def State.setK (s : State) (v : Nat) (reason : Option Nat) : State :=
  let old := s.power.k
  let t := s.updPower fun p => { p with k := v }
  if s.live && old ≠ v && (old = 16 || v = 16) then t.powerEvent 255 v s.tjMax 240 reason else t

/-- The hardware current guard, or the junction trip: every die at step 15, and for the guard k = 4. -/
def State.guardSteps (s : State) : State := (List.range 4).foldl (fun s d => s.setStep d 15 none) s

/-- One die's pass: the table of R415, under the stage and the guard (R418). -/
def State.diePass (s : State) (d : Nat) : State :=
  let p4 := 4 * s.power.last.die.getD d 0
  let lim := s.dieLimit4
  let over_ := decide (lim < p4)
  let hot := decide (s.tjTarget < s.dieTj d)
  let st := s.dieStep d
  let rise := if lim = 0 then 4 else min 4 (max 1 ((64 * (p4 - lim) + lim - 1) / lim))
  let v := if over_ || hot then min 15 (st + rise)
    else if 100 * p4 ≤ 95 * lim && s.dieTj d + 3 ≤ s.tjTarget then st - 1
    else st
  let held := s.power.stage == 4 || s.brake.level
  s.setStep d (if held then 15 else v) (if over_ then some 1 else if hot then some 2 else none)

/-- The package pass: k follows the Pantry power (R417), under the stage and the guard. -/
def State.packagePass (s : State) : State :=
  let w := s.power.last.pantry
  let k := s.power.k
  let v := if 240 < w then max 4 (k - 1) else if w < 228 then min 16 (k + 1) else k
  let cap := if s.power.stage = 4 || s.brake.level then 4 else if s.power.stage = 3 then min v 8 else v
  s.setK cap (if 240 < w || w < 228 then some 3 else none)

/-- Watts of a compute-die rail at its maximum current and nominal voltage: 800 A at 0.72 V, or 700 A at 0.68 V (16 R514). -/
def railMax : Nat := (Rail.row Config.partG17 false .vddC).maxWatts

/-- The readings of a pass: a compute-die supply that does not answer is read as its maximum (16 R516). -/
def readings (t : Telemetry) : Telemetry :=
  { t with die := (List.range 4).map fun d => if bitOf t.silent.toNat d then railMax else t.die.getD d 0 }

/-- One record for each bus on which a device does not answer. -/
def State.busRecords (s : State) (t : Telemetry) : State :=
  ((pick 6 fun i => bitOf t.silent.toNat i && !s.power.silent.contains i).foldl (fun s i =>
    (s.updPower fun p => { p with silent := p.silent ++ [i] }).directRecord Config.busClass.toNat i) s)

/-- POWER_LOOP_PASS: telemetry, ladder, dies and package. -/
def execPowerLoopPass (t : Telemetry) (s : State) : Host.Outcome State Fault Refusal :=
  .next <|
    if !s.live then s
    else
      let s := s.busRecords t
      let s := s.updPower fun p =>
        { p with last := readings t, energy := p.energy + t.energy, hot := if t.tj.any fun x => decide (100 ≤ x) then p.hot + 1 else 0 }
      ((List.range 4).foldl (fun s d => s.diePass d) s.ladder).packagePass

/-! ## POWER_SET and POWER_READ (R435) -/

/-- POWER_SET. -/
def execPowerSet (q : Req) (s : State) : Host.Outcome State Fault Refusal :=
  .next <|
    let w := reqNat q 16 2
    s.commandWith q 0x0005 [(16, 0, 16)] [(16, decide (w < 1000) || decide (Config.gradeLimit < w))] fun s =>
      (s.updPower fun p => { p with limit := w }).reply q 0

/-- POWER_READ. -/
def execPowerRead (q : Req) (s : State) : Host.Outcome State Fault Refusal :=
  .next <|
    s.commandWith q 0x0006 [] [] fun s =>
      let per (f : Nat → Nat × Nat × Nat) := (List.range 4).map f
      s.reply q 0 0
        ([(16, 2, s.pkgLimit), (18, 2, s.pkgW)] ++ per (fun d => (20 + 2 * d, 2, s.power.last.die.getD d 0)) ++
          per (fun d => (28 + d, 1, s.dieTj d)) ++ per (fun d => (32 + d, 1, s.dieStep d)) ++
          [(36, 2, s.power.last.pantry), (38, 2, s.power.last.io), (40, 2, s.power.last.sram), (42, 1, s.power.k),
            (48, 8, s.power.energy.toNat)])

/-! ## PWR_BRAKE# (R487 to R489, R491) -/

/-- The Study, or its hardware, is out of reset. -/
def State.powered (s : State) : Bool := s.romWait != .reset

/-- PWR_BRAKE# is treated as asserted: the guard acts at once, and the Study writes BRAKE. -/
def State.brakeOn (s : State) : State :=
  let s := { s with brake := { s.brake with level := true, held := 0 } }
  if !s.powered then s else (s.guardSteps.setK 4 none).raise { cls := 0x41, src := 12, unit := 0 }

/-- PWR_BRAKE_ASSERT. -/
def execPwrBrakeAssert (s : State) : Host.Outcome State Fault Refusal :=
  .next <|
    if s.brake.level then s
    else
      let s := s.brakeOn
      { s with brake := { s.brake with asserts := s.brake.asserts + 1 } }

/-- PWR_BRAKE_RELEASE: the loop takes over; a chattering input stays as it is. -/
def execPwrBrakeRelease (s : State) : Host.Outcome State Fault Refusal :=
  .next (if s.brake.chatter then s else { s with brake := { s.brake with level := false } })

/-! ## TRAY_LATCH (R487, R495, R501) -/

/-- The departure: every job's Steward hears a SUSPECT naming this device, the workers of managed jobs LOST naming it; then
DEPART is raised. In FATAL it is only counted. -/
def State.depart (s : State) : State :=
  let s := { s with latch := { s.latch with level := true, held := 0 } }
  if !s.powered then s
  else if s.devSt = .fatal then s.updEvr fun x => { x with departOwed := x.departOwed + 1 }
  else
    let tell (s : State) (j : Job) : State :=
      if j.isManager then (s.peers j).foldl (fun s n => s.stew j.tag n 6) s else s.stew j.tag j.manager 7
    (s.jobs.foldl tell s).raise { cls := 0x44, src := 12, unit := 1 }

/-- TRAY_LATCH_ASSERT. -/
def execTrayLatchAssert (s : State) : Host.Outcome State Fault Refusal := 
  .next (if s.latch.level then s else { s with latch := { s.latch with asserts := s.latch.asserts + 1 } }.depart)

/-- TRAY_LATCH_RELEASE: the level falls; a departure is not undone. -/
def execTrayLatchRelease (s : State) : Host.Outcome State Fault Refusal :=
  .next (if s.latch.chatter then s else { s with latch := { s.latch with level := false } })

/-! ## Chatter and held inputs (R486 to R488); pins 0 PWR_BRAKE#, 1 TRAY_LATCH, 2 HOST_RST# -/

/-- SIDEBAND_CHATTER: a ninth transition within 8 ms; the input is treated as held asserted. -/
def execSidebandChatter (pin : BitVec 2) (s : State) : Host.Outcome State Fault Refusal :=
  .next <|
    let mark (p : Pin) : Pin := { p with chatter := true, episodes := p.episodes + 1 }
    let note (s : State) (u : Nat) : State := if s.powered then s.raise { cls := 0x43, src := 12, unit := u } else s
    match pin with
    | 0 =>
      if s.brake.chatter then s
      else
        let was := s.brake.level
        let s := note { s with brake := mark s.brake } 0
        if was then s else s.brakeOn
    | 1 =>
      if s.latch.chatter then s
      else
        let was := s.latch.level
        let s := note { s with latch := mark s.latch } 1
        if was then s else s.depart
    | 2 =>
      if s.rst.chatter then s
      else
        let s := if s.rst.level then s else s.coldReset (if s.pwrOk then 2 else 1)
        { s with rst := { mark s.rst with level := true } }
    | _ => s

/-- CHATTER_END: the filtered level has stayed deasserted for 16 ms. HOST_RST# is then released by HOST_RST_RELEASE, which
carries what the start finds. -/
def execChatterEnd (pin : BitVec 2) (s : State) : Host.Outcome State Fault Refusal :=
  .next <|
    let rest (p : Pin) : Pin := if p.chatter then { p with chatter := false, level := false } else p
    match pin with
    | 0 => { s with brake := rest s.brake }
    | 1 => { s with latch := rest s.latch }
    | 2 => { s with rst := { s.rst with chatter := false } }
    | _ => s

/-- SIDEBAND_HELD_REPORT: an input has stayed held for another 60 s. -/
def execSidebandHeldReport (pin : BitVec 2) (s : State) : Host.Outcome State Fault Refusal :=
  .next <|
    let more (p : Pin) : Pin := { p with held := p.held + 60 }
    let note (s : State) (n : Nat) : State :=
      s.raise { cls := 0x43, src := 12, unit := pin.toNat, detail := BitVec.ofNat 64 n }
    if !s.live then s
    else match pin with
      | 0 => if s.brake.level then note { s with brake := more s.brake } (s.brake.held + 60) else s
      | 1 => if s.latch.level then note { s with latch := more s.latch } (s.latch.held + 60) else s
      | _ => s

/-! ## THERM_TRIP# (R492) -/

/-- THERM_TRIP: a junction sensor has reached 110 °C. -/
def execThermTrip (d : DieId) (s : State) : Host.Outcome State Fault Refusal :=
  .next <|
    if !s.powered then s
    else
      ({ s with thermTrip := true }.guardSteps).raise { cls := 0x42, src := 12, unit := 3, detail := BitVec.ofNat 64 d.toNat }

end Sys2Proof.Machine
end

