-- ==== Sys2Proof/Machine/Bmc.lean ====
section
/-! DEFINITION. The I3C target: common commands, private transfers, and the exchange with the tray BMC (15 R482 to R485). -/

namespace Sys2Proof.Machine

/-! ## The registers (R483) -/

def State.bmcStat (s : State) : Nat :=
  boolNat s.i3c.pushReady + 2 * boolNat s.i3c.recReq + 4 * boolNat s.i3c.recUpd + 8 * boolNat s.evr.frozen +
    16 * s.power.stage + 256 * devStNum s.devSt

/-- A byte of the target's address space; an offset not listed reads zero. -/
def State.bmcByte (s : State) (off : Nat) : Byte :=
  let word (v i : Nat) : Byte := BitVec.ofNat 8 (v / 256 ^ i)
  if off < 4 then word s.bmcStat off
  else if off < 8 then 0
  else if off < 12 then word s.i3c.coolant.toNat (off - 8)
  else if off < 16 then word (s.pkgW % 2 ^ 16 + 2 ^ 16 * s.power.stage) (off - 12)
  else if 0x100 ≤ off && off < 0x180 then s.i3c.record.getD (off - 0x100) 0
  else if 0x40000 ≤ off && off < 0x80000 then (s.windowBytes (off - 0x40000) 1).getD 0 0
  else 0

/-- PUSHED: the push ends. -/
def State.ackPushed (s : State) : State :=
  if s.i3c.pushReady then (s.updI3c fun x => { x with pushReady := false }).updEvr fun x => { x with bmcDone := true } else s

/-- SUPPLIED: BMC_RECORD holds the start record. -/
def State.ackSupplied (s : State) : State :=
  if !s.i3c.recReq then s
  else
    let s := s.updI3c fun x => { x with recReq := false }
    if s.romWait ≠ .record then s
    else match startRecOf s.ident.serial s.i3c.record with
      | some r => s.recordReady r
      | none => s.recordMissing

/-- STORED: the record has been stored. -/
def State.ackStored (s : State) : State := if s.i3c.recUpd then s.recordStored else s

/-- A write of BMC_COOLANT: the data is absent while VALID = 0, with one record each time it becomes so. -/
def State.coolantWrite (s : State) (v : W32) : State :=
  let s := s.updI3c fun x => { x with coolant := v &&& 0x1FFFF, coolantSeen := true }
  if bitOf v.toNat 16 then { s with coolantAbsent := false }
  else if s.coolantAbsent then s
  else { s with coolantAbsent := true }.raise { cls := 0x45, src := 12, unit := 4 }

/-- Put bytes into BMC_RECORD. -/
def State.recordPut (s : State) (off : Nat) (data : List Byte) : State :=
  s.updI3c fun x => { x with record := patchBytes ((x.record ++ List.replicate 128 0).take 128) off data }

/-- One byte of a private write. A word register acts once its last byte arrives; BMC_ACK acts on each bit written 1. -/
def State.bmcWrite (s : State) (off : Nat) (data : List Byte) : State :=
  let f (lo n : Nat) : Option Nat :=
    if off ≤ lo && lo + n ≤ off + data.length then some (leNat ((data.drop (lo - off)).take n)) else none
  let s := match f 4 1 with
    | some v =>
      let s := if bitOf v 0 then s.ackPushed else s
      let s := if bitOf v 1 then s.ackSupplied else s
      if bitOf v 2 then s.ackStored else s
    | none => s
  let s := match f 8 4 with
    | some v => s.coolantWrite (BitVec.ofNat 32 v)
    | none => s
  let lo := max off 0x100
  if lo < 0x180 && lo < off + data.length then s.recordPut (lo - 0x100) (data.drop (lo - off)) else s

/-- The target has power and a clock: it is not held in reset. -/
def State.i3cUp (s : State) : Bool := s.romWait != .reset

/-- I3C_PRIVATE_WRITE: a 3-byte offset and up to 256 bytes; with none, the read that follows it is answered with the 256 bytes
from the offset (assumption 56). -/
def execI3cPrivateWrite (off : BitVec 24) (data : List Byte) (s : State) : Host.Outcome State Fault Refusal :=
  .next <|
    if !s.i3cUp || s.i3c.addr.isNone then s
    else
      let s := s.bmcWrite off.toNat (data.take 256)
      let at_ := off.toNat + (data.take 256).length
      s.updI3c fun x =>
        { x with offset := BitVec.ofNat 24 at_, reply := (List.range 256).map fun i => s.bmcByte (at_ + i) }

/-! ## The exchange (R484) -/

/-- BMC_PUSH_INTERRUPT: the in-band interrupt is repeated every 1 s until PUSHED. -/
def execBmcPushInterrupt (s : State) : Host.Outcome State Fault Refusal := .next (if s.i3c.pushReady then s.ibi 1 else s)
/-- BMC_ACK_PUSHED. -/
def execBmcAckPushed (s : State) : Host.Outcome State Fault Refusal := .next s.ackPushed
/-- BMC_ACK_SUPPLIED. -/
def execBmcAckSupplied (s : State) : Host.Outcome State Fault Refusal := .next s.ackSupplied
/-- BMC_ACK_STORED. -/
def execBmcAckStored (s : State) : Host.Outcome State Fault Refusal := .next s.ackStored
/-- BMC_COOLANT_WRITE. -/
def execBmcCoolantWrite (v : W32) (s : State) : Host.Outcome State Fault Refusal := .next (if s.i3cUp then s.coolantWrite v else s)
/-- COOLANT_ABSENT: no write for 1 s (R485). -/
def execCoolantAbsent (s : State) : Host.Outcome State Fault Refusal :=
  .next <|
    if !s.i3cUp || s.coolantAbsent then s else { s with coolantAbsent := true }.raise { cls := 0x45, src := 12, unit := 4 }

/-! ## Common commands (R482); their data goes to `reply` -/

/-- An address is assigned: Hot-Join ends. -/
def State.assign (s : State) (a : BitVec 7) : State := s.updI3c fun x => { x with addr := some a, hotJoin := false }

/-- ENTDAA: takes part while it has no address. -/
def execEntdaa (addr : BitVec 7) (s : State) : Host.Outcome State Fault Refusal :=
  .next (if s.i3cUp && s.i3c.addr.isNone then s.assign addr else s)
/-- SETDASA from the static address 0x4C. -/
def execSetdasa (static addr : BitVec 7) (s : State) : Host.Outcome State Fault Refusal :=
  .next (if s.i3cUp && s.i3c.addr.isNone && static == 0x4C then s.assign addr else s)
/-- RSTDAA: the dynamic address is gone. -/
def execRstdaa (s : State) : Host.Outcome State Fault Refusal :=
  .next (if s.i3cUp then s.updI3c fun x => { x with addr := none } else s)

/-- Events byte of ENEC and DISEC: bit 0 in-band interrupts, bit 3 Hot-Join (assumption 57). -/
def State.setEvents (s : State) (e : Byte) (on : Bool) : State :=
  s.updI3c fun x =>
    { x with intEn := if bitOf e.toNat 0 then on else x.intEn, hjEn := if bitOf e.toNat 3 then on else x.hjEn }

/-- ENEC. -/
def execEnec (events : Byte) (s : State) : Host.Outcome State Fault Refusal :=
  .next (if s.i3cUp then s.setEvents events true else s)
/-- DISEC. -/
def execDisec (events : Byte) (s : State) : Host.Outcome State Fault Refusal :=
  .next (if s.i3cUp then s.setEvents events false else s)

/-- An answer goes out while the target has its address. -/
def State.cccReply (s : State) (b : List Byte) : State :=
  if !s.i3cUp || s.i3c.addr.isNone then s else s.updI3c fun x => { x with reply := b }

/-- GETSTATUS: the two bytes, which the spec does not give, are a free value (assumption 57). -/
def execGetstatus (s : State) : Host.Outcome State Fault Refusal := .next (s.cccReply (natLe 2 s.freeVal.toNat)).bumpFree
/-- GETPID: six bytes of the part. -/
def execGetpid (s : State) : Host.Outcome State Fault Refusal := .next (s.cccReply ((List.range 6).map (Config.i3cBytes 0)))
/-- GETBCR. -/
def execGetbcr (s : State) : Host.Outcome State Fault Refusal := .next (s.cccReply [Config.i3cBytes 1 0])
/-- GETDCR. -/
def execGetdcr (s : State) : Host.Outcome State Fault Refusal := .next (s.cccReply [Config.i3cBytes 2 0])
/-- GETMXDS. -/
def execGetmxds (s : State) : Host.Outcome State Fault Refusal := .next (s.cccReply ((List.range 2).map (Config.i3cBytes 3)))

end Sys2Proof.Machine
end

