-- ==== Sys2Proof/Machine/Repair.lean ====
section
/-! DEFINITION. What the Study does about memory errors (05 R165, R174 to R176, R529): the triggers, soft repair, frames
evacuated and retired, Pantry channels retired, and SRAM repairs recorded. -/

namespace Sys2Proof.Machine

/-! ## Evacuation (R169, R176, R187) -/

/-- Frames that an entry uses: physical tier with the spread tag of R176, and frame. -/
def State.framesOf (s : State) (e : W64) : List (Nat × Nat) :=
  if !eValid e then []
  else if eSub e then
    ((s.subEntries e).filter fun t => eValid t.2 && ePtier t.2 != 0).map fun t => (ePtier t.2, eSfn t.2 / 32)
  else [(retireTier (ePtier e) (eSpread e), ePpn e)]

/-- Move every page that uses a frame a predicate picks to the first of the placements that has a free frame. -/
def State.evacuate (s : State) (why : MoveWhy) (hit : Nat × Nat → Bool) (ps : List Placement) : State :=
  s.addMove { why, todo := (s.allLeaves.filter fun e => (s.framesOf e.2).any hit).map (·.1), places := ps }

/-- Any frame of Pantry, Cellar or Annex, in that order, outside one stack. -/
def elsewhere (stack : Option Nat) : List Placement :=
  let p (t u : Nat) : Placement := { ptier := t, spread := false, unit := u, wing := 0 }
  ((List.range 8).filter fun k => some k != stack).map (p 1) ++ [p 2 15, p 3 15]

/-! ## DRAM rows -/

/-- First bytes of the granules of a row in its stack's or group's address space. -/
def State.rowGranules (s : State) (tier unit row : Nat) : List Nat :=
  if tier = 1 then
    let p := s.pseudo (unit / 256)
    (List.range 4).map fun m => 256 * (p * (4 * (row / p) + m) + row % p)
  else (List.range 32).map fun j => 256 * (4 * (32 * (row / 4) + j) + row % 4)

/-- Frames with a granule in a row. -/
def State.rowFrames (s : State) (tier unit row : Nat) : List (Nat × Nat) :=
  ((s.rowGranules tier unit row).flatMap fun b =>
    if tier = 1 then [(1, b / 2 ^ 21 * 8 + unit / 256), (5, b / 2 ^ 21 * 8 + b % 2 ^ 21 / 2 ^ 18)]
    else [(2, b / 2 ^ 21 * 4 + unit / 4)]).eraseDups.filter fun f => tier != 1 || decide (1024 ≤ f.2)

/-- Number of a channel's unit in events: its stack or its group. -/
def unitGroup (tier unit : Nat) : Nat := if tier = 1 then unit / 256 else unit / 4

/-- Key of a bank for its spare rows. -/
def bankKey (tier unit bank : Nat) : Nat := (tier * 2 ^ 16 + unit) * 2 ^ 32 + bank

/-- Repair a row: into a spare row of its bank, whose traffic is held, or by retiring its frames. -/
def State.repairRow (s : State) (tier unit row : Nat) (addr : W64) : State :=
  let bank := Config.bankOf tier unit row
  let left := Config.bankSpares tier unit bank - mapGet 0 s.repair.spares (bankKey tier unit bank)
  if 0 < left then
    let r := s.repair
    { s with repair := { r with
        rows := r.rows ++ [(tier, unit, row, 1)], spares := mapAdd r.spares (bankKey tier unit bank) 1
        held := r.held ++ [(tier, unitGroup tier unit, row)] } }.memoryEvent tier 1 (unitGroup tier unit) addr.toNat row (left - 1)
  else
    let fs := s.rowFrames tier unit row
    let r := s.repair
    let s := { s with repair := { r with rows := r.rows ++ [(tier, unit, row, 2)], retiredFrames := r.retiredFrames ++ fs } }
    s.evacuate (.frames tier unit fs) (fun f => fs.contains f) (elsewhere none)

/-- Hours within which errors count together: 24, in hc. -/
def dayHc : Nat := 24 * 3600 * 2400000000

/-- A channel whose count of rows passes a limit is to be retired, once. -/
def State.channelDue (s : State) (unit : Nat) : State :=
  let n := (s.repair.rows.filter fun r => r.1 == 1 && r.2.1 == unit && r.2.2.2 != 3).length
  let ue := ((mapGet [] s.repair.ueRows unit).map (·.1)).eraseDups.length
  if (64 < n || 8 < ue) && !s.reported.contains (0x1D * 2 ^ 16 + unit) && !(s.errQ.any fun e => e.cls == 0x1D && e.unit == unit) then
    s.raise { cls := 0x1D, src := 4, unit }
  else s

/-- An uncorrectable error in a DRAM row, or one that repairs the row at once. -/
def State.dramUe (s : State) (tier unit row : Nat) (e : Err) : State :=
  let now := e.stamp.toNat
  let old := (mapGet [] s.repair.ueRows unit).filter fun r => decide (now < r.2 + dayHc)
  let s := if tier = 1 then { s with repair := { s.repair with ueRows := mapSet s.repair.ueRows unit (old ++ [(row, now)]) } } else s
  let s := s.repairRow tier unit row e.addr
  if tier = 1 then s.channelDue unit else s

/-- A corrected error in a DRAM row: the second address within 24 hours repairs it. -/
def State.dramCe (s : State) (tier unit row : Nat) (e : Err) : State :=
  let now := e.stamp.toNat
  let same (r : Nat × Nat × Nat × List (Nat × Nat)) : Bool := r.1 == tier && r.2.1 == unit && r.2.2.1 == row
  let seen := ((s.repair.ceRows.filter same).flatMap fun r => r.2.2.2).filter fun a =>
    a.1 != e.addr.toNat && decide (now < a.2 + dayHc)
  let rest := s.repair.ceRows.filter fun r => !same r
  if seen.isEmpty then
    { s with repair := { s.repair with ceRows := rest ++ [(tier, unit, row, [(e.addr.toNat, now)])] } }
  else
    let s := { s with repair := { s.repair with ceRows := rest } }.repairRow tier unit row e.addr
    if tier = 1 then s.channelDue unit else s

/-! ## Pantry channels (R165) -/

/-- Retire a channel, once: the stack is evacuated first. -/
def State.retireChannel (s : State) (unit : Nat) : State :=
  let stack := unit / 256
  if (mapGet [] s.chanLost stack).contains (unit % 256) || mapGet 0 s.stackCh stack = 0 || s.moves.any fun m => m.why == .retire unit then s
  else s.evacuate (.retire unit) (fun f => f.1 == 5 || (f.1 == 1 && f.2 % 8 == stack)) (elsewhere (some stack))

/-- Lane repair: the channel retrains, with its traffic held. -/
def State.holdChannel (s : State) (unit : Nat) : State :=
  { s with repair := { s.repair with held := s.repair.held ++ [(3, unit / 256 * 32 + unit % 256, 0)] } }

/-! ## SRAM rows and columns -/

/-- Record a row or column for repair at the next start. -/
def State.recordSram (s : State) (kind unit idx row : Nat) (addr : W64) : State :=
  if s.repair.sram.contains (kind, unit, idx) then s
  else { s with repair := { s.repair with sram := s.repair.sram ++ [(kind, unit, idx)] } }.memoryEvent 0 5 unit addr.toNat row

/-- Number of the patrol pass of a Shelf or a Larder at a time (R174). -/
def State.passOf (s : State) (kind unit hc : Nat) : Nat :=
  if kind = 1 then s.tc1536 (unit / 256) hc / 1536 / 2 ^ 28 else hc / 2 ^ 27

/-- One more word of a row or column with a corrected error in this pass: a second one records it. -/
def State.sramCe (s : State) (kind unit idx word row : Nat) (e : Err) : State :=
  let pass := s.passOf kind unit e.stamp.toNat
  let same (r : Nat × Nat × Nat × List (Nat × Nat)) : Bool := r.1 == kind && r.2.1 == unit && r.2.2.1 == idx
  let seen := ((s.repair.sramRows.filter same).flatMap fun r => r.2.2.2).filter fun a => a.1 != word && a.2 == pass
  let rest := s.repair.sramRows.filter fun r => !same r
  if seen.isEmpty then { s with repair := { s.repair with sramRows := rest ++ [(kind, unit, idx, [(word, pass)])] } }
  else { s with repair := { s.repair with sramRows := rest } }.recordSram kind unit idx row e.addr

/-! ## By class -/

/-- What a memory error counts for, or repairs: `now` where it repairs without waiting for a trigger. -/
def State.memoryRepair (s : State) (e : Err) (now : Bool) : State :=
  let row := e.detail.toNat % 2 ^ 32
  let bit := e.detail.toNat / 2 ^ 32 % 2 ^ 16
  let kind := if e.src = 0 then 1 else 2
  match e.cls with
  | 0x18 =>
    if now then s.recordSram kind e.unit row row e.addr
    else
      let s := s.sramCe kind e.unit row (bit / 72) row e
      s.sramCe kind e.unit (2 ^ 20 + 8192 * (row / 512) + bit) row row e
  | 0x19 => s.recordSram kind e.unit row row e.addr
  | 0x1A => if now then s.repairRow 1 e.unit row e.addr else s.dramCe 1 e.unit row e
  | 0x1B => s.dramUe 1 e.unit row e
  | 0x1C => s.holdChannel e.unit
  | 0x1D => s.retireChannel e.unit
  | 0x1E => if now then s.repairRow 2 e.unit row e.addr else s.dramCe 2 e.unit row e
  | 0x1F => s.dramUe 2 e.unit row e
  | _ => s

end Sys2Proof.Machine
end

