-- ==== Sys2Proof/Machine/Error.lean ====
section
/-! DEFINITION. The error queue, handling episodes, escalation, the sweep and the fatal path (15 R470 to R477). -/

namespace Sys2Proof.Machine

/-! ## What an error does (R470, R476; 13 R438) -/

/-- CAUSE, FAIL_ID and FAIL_CODE of a context that a class fails (R438). Classes whose UNIT is the context note the Room or
stream in the model's own part of DETAIL. -/
def failureOf (e : Err) : Nat × Nat × Nat :=
  if 1 ≤ e.cls && e.cls ≤ 7 then (1, e.unit, e.code.toNat)
  else match e.cls with
    | 0x08 => (4, bitsOf e.detail.toNat 16 16, 0)
    | 0x09 => (6, e.detail.toNat, 9)
    | 0x0B => (2, e.detail.toNat, 0)
    | 0x0E => (3, e.unit, e.code.toNat)
    | 0x2C => (5, 0, 0)
    | _ => (7, 0, e.cls)

/-- Contexts that an error of base CONTEXT fails: the one it names, or those of its job. -/
def State.errCtxs (s : State) (e : Err) : List CtxId :=
  if e.src = 8 then
    ((List.range 64).map fun c => BitVec.ofNat 6 c).filter fun c => (s.ctx c).st != .free && (s.ctx c).job.setWidth 64 == e.addr
  else e.ctx.toList

/-- Fail the contexts of an error; a Room of ROOM_HW is marked failed (R494). -/
def State.failFor (s : State) (e : Err) : State :=
  let f := failureOf e
  let s := if e.cls = 7 then s.updRoom (BitVec.ofNat 10 e.unit) fun x => { x with hwFailed := true } else s
  (s.errCtxs e).foldl (fun s c => s.failContext c f.1 f.2.1 f.2.2 (if e.cls = 8 then e.detail.toNat % 2 ^ 16 else 0)) s

/-- Frames that a context's pages use, as physical tier (5 a spread frame) and frame. -/
def State.ctxFrames (s : State) (c : CtxId) : List (Nat × Nat) :=
  (s.allLeaves.filter fun e => e.1.1 == c).flatMap fun e => s.framesOf e.2

/-- A context holds the unit of an error (R476). -/
def State.holdsUnit (s : State) (e : Err) (c : CtxId) : Bool :=
  let x := s.ctx c
  if x.st = .free then false
  else match e.src with
    | 0 => (s.ownRooms c).contains (BitVec.ofNat 10 e.unit)
    | 1 => (s.ownWings c).contains (BitVec.ofNat 6 e.unit)
    | 4 => (s.ctxFrames c).any fun f => f.1 == 5 || (f.1 == 1 && f.2 % 8 == e.unit / 256)
    | 5 => (s.ctxFrames c).any fun f => f.1 == 2 && f.2 % 4 == e.unit / 4
    | 6 => (s.ctxFrames c).any fun f => f.1 == 3 && f.2 / 2 ^ 23 == e.unit
    | 7 =>
      let axis := (if e.unit < 0x100 then (s.port e.unit).dir.toNat else e.unit - 0x100) / 2
      match s.job? x.job with
      | some j => decide (axis < 3) && decide (1 < j.size.getD axis 1)
      | none => false
    | 14 => s.windows.any fun w => w.2.ctx == c
    | _ => false

/-- DEGRADED escalated to CONTEXT: every Room of each context that holds the unit faults, and the context fails. -/
def State.failHolders (s : State) (e : Err) : State :=
  (((List.range 64).map fun c => (BitVec.ofNat 6 c : CtxId)).filter fun c => s.holdsUnit e c).foldl (fun s c =>
    if (s.ctx c).st = .failed then s
    else
      let s := (s.ownRooms c).foldl (fun s r => s.updRoom r fun x =>
        { x with runst := .fault, cause := some (e.cls, e.code.toNat), firePending := false, switching := none }) s
      s.failContext c 1 e.unit e.cls 0) s

/-- An error attributed to a context that has failed (R473). -/
def State.absorbs (s : State) (e : Err) : Bool :=
  match e.ctx with
  | some c => (s.ctx c).st == .failed
  | none => false

/-- The episode that an entry is nested in: the same class and unit, and a stamp within it (R475). -/
def State.nestedIn (s : State) (e : Err) : Option Episode :=
  if severity e.cls = 4 then none
  else s.episodes.find? fun p => p.cls == e.cls && p.unit == e.unit && decide (p.start ≤ e.stamp) && decide (e.stamp ≤ p.stop)

/-- Classes of lasting states, which the sweep looks for (R474). -/
def lasting (cls : Nat) : Bool := decide (cls ≤ 7) || cls == 0x0E || cls == 0x0F || cls == 0x1D || cls == 0x29 || cls == 0x2A || cls == 0x49

def reportKey (cls unit : Nat) : Nat := cls * 2 ^ 16 + unit

/-- The actions of an entry at its effective severity. -/
def State.actOn (s : State) (e : Err) (sev : Nat) : State :=
  let base := severity e.cls
  if base = 3 then s.failFor e
  else if sev = 3 then (s.memoryRepair e false).failHolders e
  else if sev = 2 && base = 1 then s.memoryRepair e true
  else s.memoryRepair e false

/-- ERROR_EPISODE: the Study takes the head of the queue; the episode lasts `took` hc. Its record is written, and every action
of its effective severity is started; an escalation to FATAL sets the latch. In FATAL the boot ROM's handler writes records
only. -/
def execErrorEpisode (took : W64) (s : State) : Host.Outcome State Fault Refusal :=
  .next <|
    let busy := match s.episodes.getLast? with
      | some p => decide (s.hc < p.stop)
      | none => false
    match s.errQ with
    | [] => s
    | e :: rest =>
      if s.romWait = .reset || s.fatalLatch || busy then s
      else
        let due := s.errOvf.any fun o => decide (0 < o.2.toNat)
        let s := { s with errQ := rest, sweepDue := s.sweepDue || due }
        let nest := s.nestedIn e
        let ep : Episode := { cls := e.cls, unit := e.unit, start := s.hc, stop := s.hc + took, seq := s.evr.next }
        let s := { s with
          episodes := (s.episodes ++ [ep]).drop ((s.episodes.length + 1) - 64)
          reported := if lasting e.cls then unitAdd s.reported (reportKey e.cls e.unit) else s.reported }
        let act (s : State) (sev : Nat) : State := if s.devSt = .fatal then s else s.actOn e sev
        if s.absorbs e then s.writeRecord e (severity e.cls) false true
        else match nest with
          | some p =>
            if severity e.cls = 3 then { s with fatalLatch := true, fatalErr := some e }
            else act (s.writeRecord e (severity e.cls + 1) true false (some p.seq)) (severity e.cls + 1)
          | none => act (s.writeRecord e (severity e.cls)) (severity e.cls)

/-- ERROR_ARRIVAL: an error that a unit outside the model's other commands reports. Its hardware effect takes place: a Room
with ROOM_HW faults, and an uncorrectable error poisons its unit (05 R175). -/
def execErrorArrival (e : Err) (s : State) : Host.Outcome State Fault Refusal :=
  .next <|
    if s.romWait = .reset then s
    else
      let a := e.addr.toNat
      let s := match e.cls with
        | 0x07 => s.updRoom (BitVec.ofNat 10 e.unit) fun x =>
            { x with runst := .fault, cause := some (7, e.code.toNat), firePending := false, switching := none }
        | 0x19 => s.markPoison (tier0Key (a % 2 ^ 45) / 64)
        | 0x1B => s.markPoison (pantryKey (e.unit / 256) a / 64)
        | 0x1F => s.markPoison (cellarKey (e.unit / 4) a / 64)
        | _ => s
      s.raise e

/-! ## The sweep (R474) -/

/-- Every lasting abnormal state, as the error that reports it. -/
def State.lastingErrors (s : State) : List Err :=
  (s.rooms.filterMap fun x => match x.2.runst, x.2.cause with
    | .fault, some f => some { cls := f.1, code := BitVec.ofNat 8 f.2, src := 0, unit := x.1, ctx := s.roomCtx (BitVec.ofNat 10 x.1) }
    | _, _ => none) ++
  (s.streams.filterMap fun x => if x.2.st = .fault then
      some { cls := if x.2.chainKind then 0x0E else 0x0F, code := x.2.fault, src := 2, unit := x.1, ctx := some x.2.ctx }
    else none) ++
  (s.ports.filterMap fun x =>
    if x.2.st = .down && x.2.reason != 8 then some { cls := 0x2A, code := x.2.reason, src := 7, unit := x.1 } else none) ++
  (s.ports.filterMap fun x =>
    if x.2.st = .degraded || x.2.lanesBad != 0 then some { cls := 0x29, src := 7, unit := x.1 } else none) ++
  (s.chanLost.flatMap fun x => x.2.map fun ch => { cls := 0x1D, src := 4, unit := x.1 * 256 + ch }) ++
  ((pick 8 fun i => bitOf s.ident.mem.toNat i && (mapGet [] s.chanLost i).isEmpty).map fun i => { cls := 0x1D, src := 4, unit := 256 * i }) ++
  (s.wings.filterMap fun x => if x.2.retired then some { cls := 0x49, src := 1, unit := x.1 } else none)

/-- OVERFLOW_SWEEP: a record for each class that overflowed, then each lasting state not reported is raised once. -/
def execOverflowSweep (s : State) : Host.Outcome State Fault Refusal :=
  .next <|
    if !s.sweepDue || s.fatalLatch || s.romWait == .reset then s
    else
      let lost := s.errOvf.filter fun o => decide (0 < o.2.toNat)
      let s := lost.foldl (fun s o =>
        s.writeRecord { cls := 0x4A, code := BitVec.ofNat 8 o.1, src := 9, unit := Config.unitOf 0x4A, count := o.2, stamp := s.hc } 0) s
      let s := { s with errOvf := [], sweepDue := false }
      let now := s.lastingErrors
      let kept := s.reported.filter fun k => k / 2 ^ 16 == 0x1D || now.any fun e => reportKey e.cls e.unit == k
      let todo := now.filter fun e => !(kept.contains (reportKey e.cls e.unit) || s.errQ.any fun q => q.cls == e.cls && q.unit == e.unit)
      todo.foldl (fun s e => s.raise e) { s with reported := kept }

/-! ## The fatal path (R477) -/

/-- Step 1: every port sends DOWN and is DISABLED; the rest stops with the state (Rooms, streams, Porch and Inflow run only in
RUNNING). -/
def State.stopUnits (s : State) : State :=
  { s with ports := s.ports.map fun x : Nat × Port => (x.1, { x.2 with st := .disabled, width := 0 }) }

/-- Step 2: records of the queue but for the latching error, then the fatal record, and the freeze. -/
def State.fatalRecords (s : State) (e : Err) : State :=
  let same (q : Err) : Bool := q.cls == e.cls && q.unit == e.unit && q.code == e.code && q.stamp == e.stamp && severity q.cls == 4
  let queue := match s.errQ.findIdx? same with
    | some i => s.errQ.eraseIdx i
    | none => s.errQ
  let s := queue.foldl (fun s q => s.writeRecord q (severity q.cls) false (s.absorbs q)) s
  let s := match s.nestedIn e with
    | some p => s.writeRecord e 4 (severity e.cls != 4) false (some p.seq)
    | none => s.writeRecord e 4
  { s with errQ := [], errOvf := [], sweepDue := false }.updEvr fun x => { x with frozen := true }

/-- FATAL_LATCH: the fatal procedure. A latch within the first 10 s of RUNNING fails the start (14 R461 to R463); while the
Recorder is frozen there is no new snapshot and no second push. -/
def execFatalLatch (hostOk : Bool) (s : State) : Host.Outcome State Fault Refusal :=
  .next <|
    match s.fatalErr with
    | none => s
    | some e =>
      if !s.fatalLatch || s.romWait = .reset then s
      else
        let again := s.evr.frozen
        let s : State := { s.stopUnits.fatalRecords e with fatalLatch := false, fatalErr := none }
        let s : State := if s.early && s.devSt != .fatal then s.startFail 0x0B (s.evr.next - 1) 12 else s
        let s : State := if s.devSt = .minimal then s else { s with devSt := .fatal, romWait := .none }
        let s := s.raiseVec 0 2
        if again then s
        else ((s.hostPush hostOk).updI3c fun x => { x with pushReady := true }).ibi 1

end Sys2Proof.Machine
end

