-- ==== Sys2Proof/Machine/Register.lean ====
section
/-! DEFINITION. The register interface (12 R386 to R410): the map, reads and writes by requester, shadows, masked and
key-locked writes, triplicated fields, violations, and what each register's write does. -/

namespace Sys2Proof.Machine

/-! ## The map (R400, R401, R408) -/

/-- The registers; those of a Letterbox page carry its Letterbox, and a window word its offset in the window. -/
inductive Reg where
  | idVendor | idPart | idVariant | idSerial | idWingret | idActive | idMem | idCellar | idFwver | idNode
  | keySetup | keyUnlock | keyStatus
  | devState | devReset | devIstat | devSideband | devHcCount | devFwAddr | devFwLen | devFwGo
  | evrCtrl | evrStat | evrNext | evrHostbuf
  | window (off : Nat)
  | lbxId (l : Nat) | lbxCtrl (l : Nat) | lbxStat (l : Nat) | lbxReqBase (l : Nat) | lbxRspBase (l : Nat) | lbxSize (l : Nat)
  | lbxReqProd (l : Nat) | lbxReqCons (l : Nat) | lbxRspProd (l : Nat) | lbxRspCons (l : Nat) | bltHostop (l : Nat)
  deriving DecidableEq, Repr

/-- A register found at an offset: whether it has 64 bits, and whether the offset is that of its high word. -/
structure RegAt where
  reg : Reg
  wide : Bool := false
  high : Bool := false
  deriving DecidableEq, Repr

/-- A page of R408. -/
def pageAt (l off : Nat) : Option RegAt :=
  match off with
  | 0x00 => some { reg := .lbxId l }
  | 0x04 => some { reg := .lbxCtrl l }
  | 0x08 => some { reg := .lbxStat l }
  | 0x10 => some { reg := .lbxReqBase l, wide := true }
  | 0x14 => some { reg := .lbxReqBase l, wide := true, high := true }
  | 0x18 => some { reg := .lbxRspBase l, wide := true }
  | 0x1C => some { reg := .lbxRspBase l, wide := true, high := true }
  | 0x20 => some { reg := .lbxSize l }
  | 0x24 => some { reg := .lbxReqProd l }
  | 0x28 => some { reg := .lbxReqCons l }
  | 0x2C => some { reg := .lbxRspProd l }
  | 0x30 => some { reg := .lbxRspCons l }
  | 0x38 => if l = 0 then none else some { reg := .bltHostop l, wide := true }
  | 0x3C => if l = 0 then none else some { reg := .bltHostop l, wide := true, high := true }
  | _ => none

/-- PF BAR 0 and TIER 5. -/
def pfAt (off : Nat) : Option RegAt :=
  match off with
  | 0x0000 => some { reg := .idVendor }
  | 0x0004 => some { reg := .idPart }
  | 0x0008 => some { reg := .idVariant }
  | 0x0010 => some { reg := .idSerial, wide := true }
  | 0x0014 => some { reg := .idSerial, wide := true, high := true }
  | 0x0018 => some { reg := .idWingret, wide := true }
  | 0x001C => some { reg := .idWingret, wide := true, high := true }
  | 0x0020 => some { reg := .idActive }
  | 0x0024 => some { reg := .idMem }
  | 0x0028 => some { reg := .idCellar }
  | 0x002C => some { reg := .idFwver }
  | 0x0030 => some { reg := .idNode }
  | 0x1000 => some { reg := .keySetup }
  | 0x1004 => some { reg := .keyUnlock }
  | 0x1008 => some { reg := .keyStatus }
  | 0x2000 => some { reg := .devState }
  | 0x2004 => some { reg := .devReset }
  | 0x2008 => some { reg := .devIstat }
  | 0x200C => some { reg := .devSideband }
  | 0x2010 => some { reg := .devHcCount, wide := true }
  | 0x2014 => some { reg := .devHcCount, wide := true, high := true }
  | 0x2018 => some { reg := .devFwAddr, wide := true }
  | 0x201C => some { reg := .devFwAddr, wide := true, high := true }
  | 0x2020 => some { reg := .devFwLen }
  | 0x2024 => some { reg := .devFwGo }
  | 0x3000 => some { reg := .evrCtrl }
  | 0x3004 => some { reg := .evrStat }
  | 0x3008 => some { reg := .evrNext, wide := true }
  | 0x300C => some { reg := .evrNext, wide := true, high := true }
  | 0x3010 => some { reg := .evrHostbuf, wide := true }
  | 0x3014 => some { reg := .evrHostbuf, wide := true, high := true }
  | _ =>
    if 0x10000 ≤ off && off < 0x20000 then pageAt 0 (off - 0x10000)
    else if 0x40000 ≤ off && off < 0x80000 then some { reg := .window (off - 0x40000) }
    else none

/-- The register a requester finds at a word offset. -/
def regAt (who : Who) (off : Nat) : Option RegAt :=
  match who with
  | .vf v => pageAt v off
  | .other => none
  | _ => pfAt off

/-- Live in minimal mode (R398). -/
def minimalLive (who : Who) (off : Nat) : Bool :=
  match who with
  | .vf _ => false
  | _ => decide (off < 0x2000) || off == 0x2000 || off == 0x200C || (decide (0x3000 ≤ off) && decide (off < 0x4000)) ||
    (decide (0x10000 ≤ off) && decide (off < 0x20000)) || (decide (0x40000 ≤ off) && decide (off < 0x80000))

/-- The access reaches the register block: a function needs the host link, a virtual function to be one of NumVFs, and the
block to be out of reset (R386; 11 R365). -/
def State.reaches (s : State) (who : Who) : Bool :=
  s.romWait != .reset &&
    match who with
    | .pf => s.hostUp
    | .vf v => s.hostUp && decide (1 ≤ v) && decide (v ≤ s.numVfs)
    | _ => true

/-- Key of a requester's shadow of a register. -/
def shadowKey (who : Who) (off : Nat) : Nat :=
  (match who with
    | .pf => 0
    | .vf v => v
    | .study => 100
    | .other => 101) * 2 ^ 24 + off

/-! ## Reads (R389, R396, R402 to R404, R409) -/

/-- All three copies of a value, bits [11:0] clear. -/
def pageTv (v : W64) : Tv :=
  let w := v &&& ~~~(0xFFF : W64)
  { a := w, b := w, c := w }

def w32 (n : Nat) : W64 := BitVec.ofNat 64 n

/-- The value of a register as a read finds it. -/
def State.regValue (s : State) (r : Reg) : State × W64 :=
  match r with
  | .idVendor => (s, 0x494D4658)
  | .idPart => (s, w32 s.ident.part.toNat)
  | .idVariant => s.readTv s.ident.variant fun t s => s.updIdent fun x => { x with variant := t }
  | .idSerial => (s, s.ident.serial)
  | .idWingret => (s, s.ident.wingret)
  | .idActive => (s, w32 s.ident.active.toNat)
  | .idMem => (s, w32 s.ident.mem.toNat)
  | .idCellar => (s, w32 s.ident.cellar.toNat)
  | .idFwver => (s, w32 s.ident.fwver.toNat)
  | .idNode => (s, w32 s.idNode.toNat)
  | .keyStatus => (s, w32 (boolNat s.lock.set + 2 * boolNat s.lock.armed + 4 * boolNat s.lock.lockout + 256 * s.lock.fails))
  | .devState => (s, w32 (devStNum s.devSt + 16 * s.startRec.fails + 256 * s.devReason.toNat + 2 ^ 16 * boolNat s.devWarm))
  | .devIstat => (s, w32 s.devIstat.toNat)
  | .devSideband => (s, w32 (boolNat s.brake.level + 2 * boolNat s.latch.level + 4 * boolNat s.thermTrip))
  | .devHcCount => (s, s.hc)
  | .devFwAddr => s.readTv s.fwAddr fun t s => { s with fwAddr := t }
  | .devFwLen => (s, w32 s.fwLen.toNat)
  | .evrCtrl => (s, w32 (boolNat s.evr.pushHost))
  | .evrStat =>
    (s, w32 (boolNat s.evr.frozen + 2 * boolNat s.evr.hostDone + 4 * boolNat s.evr.bmcDone + 8 * boolNat s.evr.hostFail))
  | .evrNext => (s, s.evr.next)
  | .evrHostbuf => s.readTv s.evr.hostbuf fun t s => s.updEvr fun x => { x with hostbuf := t }
  | .window off => (s, w32 (leNat (s.windowBytes off 4)))
  | .lbxId l => (s, w32 (if l = 0 then 64 else l - 1))
  | .lbxCtrl l => (s, w32 (boolNat (s.lbx l).enable + 4 * boolNat (s.lbx l).rspIrq + 8 * boolNat (s.lbx l).evtIrq))
  | .lbxStat l =>
    (s, w32 (boolNat (s.lbx l).ready + 2 * boolNat (s.lbx l).resetting + 4 * boolNat (s.lbx l).fault + 256 * (s.lbx l).fcode.toNat))
  | .lbxReqBase l => s.readTv (s.lbx l).reqBase fun t s => s.updLbx l fun b => { b with reqBase := t }
  | .lbxRspBase l => s.readTv (s.lbx l).rspBase fun t s => s.updLbx l fun b => { b with rspBase := t }
  | .lbxSize l => (s, w32 (s.lbx l).size.toNat)
  | .lbxReqProd l => (s, w32 (s.lbx l).reqProd.toNat)
  | .lbxReqCons l => (s, w32 (s.lbx l).reqCons.toNat)
  | .lbxRspProd l => (s, w32 (s.lbx l).rspProd.toNat)
  | .lbxRspCons l => (s, w32 (s.lbx l).rspCons.toNat)
  | .keySetup | .keyUnlock | .devReset | .devFwGo | .bltHostop _ => (s, 0)

/-- A word of the map, with the checks of R397 and R398. -/
def State.wordAt (s : State) (who : Who) (off : Nat) : Nat ⊕ RegAt :=
  if s.devSt = .minimal && !minimalLive who off then .inl 8
  else match regAt who off with
    | some r => .inr r
    | none => .inl 1

/-- A 4-byte read: a low word latches the high word into the requester's shadow; a high word reads the shadow. -/
def State.read4 (s : State) (who : Who) (off : Nat) : State × W64 :=
  match s.wordAt who off with
  | .inl c => (s.violation who off false c, 0)
  | .inr r =>
    if r.high then (s, w32 (mapGet 0 s.rdShadow (shadowKey who (off - 4))).toNat)
    else
      let (s, v) := s.regValue r.reg
      if r.wide then
        ({ s with rdShadow := mapSet s.rdShadow (shadowKey who off) (v.extractLsb' 32 32) }, w32 (v.toNat % 2 ^ 32))
      else (s, v)

/-- Checks of the whole access (R386, R387). -/
def accessBad (who : Who) (off size : Nat) : Option Nat :=
  if who = .other then some 7
  else if (size ≠ 4 && size ≠ 8) || off % size ≠ 0 then some 2
  else none

/-- A register read; the value is answered in readData. -/
def State.regRead (s : State) (who : Who) (off size : Nat) : State :=
  if !s.reaches who then s
  else match accessBad who off size with
    | some c => { s.violation who off false c with readData := 0 }
    | none =>
      let p : State × W64 :=
        if size = 4 then s.read4 who off
        else match s.wordAt who off, s.wordAt who (off + 4) with
          | .inr r, _ =>
            if r.wide then s.regValue r.reg
            else
              let (s, a) := s.read4 who off
              let (s, b) := s.read4 who (off + 4)
              (s, a ||| (b <<< 32))
          | .inl c, .inl _ => (s.violation who off false c, 0)
          | .inl _, .inr _ =>
            let (s, a) := s.read4 who off
            let (s, b) := s.read4 who (off + 4)
            (s, a ||| (b <<< 32))
      { p.1 with readData := p.2 }

/-! ## Writes (R390 to R395, R403, R404, R409, R410) -/

/-- Bit n of a masked write (R391). -/
def maskBit (old : Bool) (v : Nat) (n : Nat) : Bool := if bitOf v (n + 16) then bitOf v n else old
/-- A pulse field is written 1 under its mask. -/
def pulse (v n : Nat) : Bool := bitOf v (n + 16) && bitOf v n

/-- Registers whose every field is RO, and those with KL in their access code. -/
def regRo : Reg → Bool
  | .idVendor | .idPart | .idVariant | .idSerial | .idWingret | .idActive | .idMem | .idCellar | .idFwver | .idNode => true
  | .keyStatus | .devState | .devSideband | .devHcCount | .evrStat | .evrNext | .window _ => true
  | .lbxId _ | .lbxStat _ | .lbxReqCons _ | .lbxRspProd _ => true
  | _ => false
def regKl : Reg → Bool
  | .devReset | .devFwGo | .evrCtrl => true
  | _ => false

/-- A write that the current state does not allow (R403, R404, R409). -/
def State.writeState (s : State) (r : Reg) (v : W64) : Bool :=
  match r with
  | .keySetup => s.lock.set || v == 0
  | .devReset => bitOf v.toNat 1 && s.devSt == .running
  | .devFwAddr | .devFwLen => s.devSt != .awaitFw
  | .devFwGo =>
    s.devSt != .awaitFw ||
      (bitOf v.toNat 0 && (s.fwLen.toNat % 4096 != 0 || s.fwLen.toNat == 0 || decide (67108864 < s.fwLen.toNat)))
  | .evrHostbuf => s.evr.frozen && !s.evr.hostDone
  | .lbxReqBase l | .lbxRspBase l | .lbxSize l => (s.lbx l).enable
  | .lbxReqProd l => !(s.lbx l).ready
  | _ => false

/-- A write to KEY_UNLOCK (R394, R395). -/
def State.unlock (s : State) (who : Who) (v : W64) : State :=
  if s.lock.lockout then s.violation who 0x1004 true 5
  else if s.lock.set && v == w32 s.lock.key.toNat then
    if who = .pf then s.updLock fun x => { x with armed := true } else s
  else
    let s := (s.updLock fun x => { x with armed := false, fails := min 16 (x.fails + 1) }).violation who 0x1004 true 5
    if s.lock.fails = 16 then
      (s.updLock fun x => { x with lockout := true }).raise { cls := 0x30, src := 10, unit := 0 }
    else s

/-- A ring index is out of range: the Letterbox faults (13 R421). -/
def State.checkIndex (s : State) (l : Nat) : State :=
  if (s.lbx l).ready && !(s.lbx l).fault && indexBad (s.lbx l) then s.lbxFault l 2 else s

/-- A posted Bolt operation of a context page (R410). The operation goes to the Bolt engine, or is refused as BOLT. -/
def State.hostop (s : State) (who : Who) (l : Nat) (v : W64) : State :=
  let c : CtxId := BitVec.ofNat 6 (l - 1)
  let x := s.ctx c
  let i := bitsOf v.toNat 0 15
  let arrive := bitOf v.toNat 15
  let n : W32 := BitVec.ofNat 32 (v.toNat / 2 ^ 32)
  let b : BoltId := x.boltBase + BitVec.ofNat 15 i
  if x.st = .free || x.bolts ≤ i || (s.bolt b).barrier ≠ arrive || (arrive && (n = 0 || 65535 < n.toNat)) then
    s.violation who 0x38 true 9
  else s.boltAsk { who := .host c, ctx := c, bolt := b, op := if arrive then 1 else 3, cond := 0, operand := n }

/-- What a write of a register's whole value does. -/
def State.regEffect (s : State) (who : Who) (r : Reg) (v : W64) (t : Training) : State :=
  match r with
  | .keySetup => s.updLock fun x => { x with key := v.setWidth 32, set := true }
  | .keyUnlock => s.unlock who v
  | .devReset =>
    let s := if bitOf v.toNat 1 then s.putStartRec { s.startRec with fails := 0 } else s
    if bitOf v.toNat 0 then s.warmReset 3 t else s
  | .devIstat => { s with devIstat := s.devIstat &&& ~~~(v.setWidth 5) }
  | .devFwAddr => { s with fwAddr := pageTv v }
  | .devFwLen => { s with fwLen := v.setWidth 27 }
  | .devFwGo => if bitOf v.toNat 0 then s.openAttempt else s
  | .evrCtrl =>
    let s := s.updEvr fun x => { x with pushHost := maskBit x.pushHost v.toNat 0 }
    if pulse v.toNat 1 then s.unfreeze else s
  | .evrHostbuf => s.updEvr fun x => { x with hostbuf := pageTv v }
  | .lbxCtrl l =>
    let s := s.updLbx l fun b =>
      { b with enable := maskBit b.enable v.toNat 0, rspIrq := maskBit b.rspIrq v.toNat 2, evtIrq := maskBit b.evtIrq v.toNat 3
               ready := b.ready && maskBit b.enable v.toNat 0 }
    if pulse v.toNat 1 then s.lbxReset l else s
  | .lbxReqBase l => s.updLbx l fun b => { b with reqBase := pageTv v }
  | .lbxRspBase l => s.updLbx l fun b => { b with rspBase := pageTv v }
  | .lbxSize l => s.updLbx l fun b => { b with size := v.setWidth 32 &&& 0x0F0F }
  | .lbxReqProd l => (s.updLbx l fun b => { b with reqProd := v.setWidth 32 }).checkIndex l
  | .lbxRspCons l => (s.updLbx l fun b => { b with rspCons := v.setWidth 32 }).checkIndex l
  | .bltHostop l => s.hostop who l v
  | _ => s

/-- A write of a register's whole value, after the checks that name the register: read-only, key lock, state. -/
def State.writeReg (s : State) (who : Who) (off : Nat) (r : Reg) (v : W64) (t : Training) : State :=
  if regRo r then s.violation who off true 3
  else if regKl r && who == .pf && !s.lock.armed then s.violation who off true 4
  else
    let s := if regKl r && who == .pf then s.updLock fun x => { x with armed := false } else s
    if s.writeState r v then s.violation who off true 6 else s.regEffect who r v t

/-- A write to a KL register that is otherwise ignored (its size, minimal mode) still takes the arming (R394). -/
def State.consume (s : State) (who : Who) (off : Nat) : State :=
  match regAt who off with
  | some r => if regKl r.reg && who == .pf then s.updLock fun x => { x with armed := false } else s
  | none => s

/-- A 4-byte write: a low word of a 64-bit register is held, a high word applies both. -/
def State.write4 (s : State) (who : Who) (off : Nat) (v : W32) (t : Training) : State :=
  match s.wordAt who off with
  | .inl c => (s.consume who off).violation who off true c
  | .inr r =>
    if !r.wide then s.writeReg who off r.reg (v.setWidth 64) t
    else if regRo r.reg then s.violation who off true 3
    else if s.writeState r.reg 0 then s.violation who off true 6
    else if !r.high then { s with wrShadow := mapSet s.wrShadow (shadowKey who off) v }
    else
      let k := shadowKey who (off - 4)
      let held := mapFind s.wrShadow k
      let p := if held.isSome then (s, 0) else s.regValue r.reg
      let low : W32 := held.getD (p.2.setWidth 32)
      { p.1 with wrShadow := mapDel s.wrShadow k }.writeReg who (off - 4) r.reg (v ++ low) t

/-- A register write. -/
def State.regWrite (s : State) (who : Who) (off size : Nat) (v : W64) (t : Training) : State :=
  if !s.reaches who then s
  else match accessBad who off size with
    | some c => (s.consume who (off / 4 * 4)).violation who off true c
    | none =>
      if size = 4 then s.write4 who off (v.setWidth 32) t
      else
        let both (s : State) : State :=
          let s := s.write4 who off (v.setWidth 32) t
          s.write4 who (off + 4) (v.extractLsb' 32 32) t
        match s.wordAt who off, s.wordAt who (off + 4) with
        | .inr r, _ =>
          if r.wide then { s with wrShadow := mapDel s.wrShadow (shadowKey who off) }.writeReg who off r.reg v t else both s
        | .inl c, .inl _ => (s.consume who off).violation who off true c
        | .inl _, .inr _ => both s

/-! ## The rows -/

/-- Offset of a Letterbox register as its requester names it (R408). -/
def lbxOff (who : Who) (o : Nat) : Nat :=
  match who with
  | .vf _ => o
  | _ => 0x10000 + o

/-- KEY_SETUP_WRITE. -/
def execKeySetupWrite (who : Who) (v : W32) (s : State) : Host.Outcome State Fault Refusal :=
  .next (s.regWrite who 0x1000 4 (v.setWidth 64) {})
/-- KEY_UNLOCK_WRITE. -/
def execKeyUnlockWrite (who : Who) (v : W32) (s : State) : Host.Outcome State Fault Refusal :=
  .next (s.regWrite who 0x1004 4 (v.setWidth 64) {})
/-- DEV_RESET_WARM: a write of DEV_RESET with WARM. -/
def execDevResetWarm (who : Who) (v : W32) (t : Training) (s : State) : Host.Outcome State Fault Refusal :=
  .next (if bitOf v.toNat 0 then s.regWrite who 0x2004 4 (v.setWidth 64) t else s)
/-- DEV_RESET_CLR_FAILS: a write of DEV_RESET without WARM. -/
def execDevResetClrFails (who : Who) (v : W32) (s : State) : Host.Outcome State Fault Refusal :=
  .next (if bitOf v.toNat 0 then s else s.regWrite who 0x2004 4 (v.setWidth 64) {})
/-- DEV_FW_GO. -/
def execDevFwGo (who : Who) (v : W32) (s : State) : Host.Outcome State Fault Refusal :=
  .next (s.regWrite who 0x2024 4 (v.setWidth 64) {})
/-- EVR_UNFREEZE: a write of EVR_CTRL. -/
def execEvrUnfreeze (who : Who) (v : W32) (s : State) : Host.Outcome State Fault Refusal :=
  .next (s.regWrite who 0x3000 4 (v.setWidth 64) {})
/-- LBX_CTRL_RESET: a write of LBX_CTRL. -/
def execLbxCtrlReset (who : Who) (v : W32) (s : State) : Host.Outcome State Fault Refusal :=
  .next (s.regWrite who (lbxOff who 0x04) 4 (v.setWidth 64) {})
/-- LBX_DOORBELL. -/
def execLbxDoorbell (who : Who) (v : W32) (s : State) : Host.Outcome State Fault Refusal :=
  .next (s.regWrite who (lbxOff who 0x24) 4 (v.setWidth 64) {})
/-- LBX_RSP_CONS_WRITE. -/
def execLbxRspConsWrite (who : Who) (v : W32) (s : State) : Host.Outcome State Fault Refusal :=
  .next (s.regWrite who (lbxOff who 0x30) 4 (v.setWidth 64) {})
/-- BLT_HOSTOP_ADD: an 8-byte write of BLT_HOSTOP with OP = 0, by the virtual function of a context. -/
def execBltHostopAdd (c : CtxId) (v : W64) (s : State) : Host.Outcome State Fault Refusal :=
  .next (if bitOf v.toNat 15 then s else s.regWrite (.vf (c.toNat + 1)) 0x38 8 v {})
/-- BLT_HOSTOP_ARRIVE: the same with OP = 1. -/
def execBltHostopArrive (c : CtxId) (v : W64) (s : State) : Host.Outcome State Fault Refusal :=
  .next (if bitOf v.toNat 15 then s.regWrite (.vf (c.toNat + 1)) 0x38 8 v {} else s)
/-- REG_LOW_WORD_READ: a read of a register. -/
def execRegLowWordRead (who : Who) (off : BitVec 24) (size : Nat) (s : State) : Host.Outcome State Fault Refusal :=
  .next (s.regRead who off.toNat size)
/-- REG_LOW_WORD_WRITE: a 4-byte write of the low word of a 64-bit register. -/
def execRegLowWordWrite (who : Who) (off : BitVec 24) (v : W32) (s : State) : Host.Outcome State Fault Refusal :=
  .next <|
    match regAt who off.toNat with
    | some r => if r.wide && !r.high then s.regWrite who off.toNat 4 (v.setWidth 64) {} else s
    | none => s
/-- REGISTER_WRITE: any write of a register. -/
def execRegisterWrite (who : Who) (off : BitVec 24) (size : Nat) (v : W64) (t : Training) (s : State) :
    Host.Outcome State Fault Refusal :=
  .next (s.regWrite who off.toNat size v t)

/-- TV_PATROL: the Study reads every TV field (R396). -/
def execTvPatrol (s : State) : Host.Outcome State Fault Refusal :=
  .next <|
    if !s.live && s.devSt != .minimal && s.devSt != .fatal then s
    else
      let s := [Reg.idVariant, .devFwAddr, .evrHostbuf].foldl (fun s r => (s.regValue r).1) s
      (List.range 65).foldl (fun s l => (((s.regValue (.lbxReqBase l)).1).regValue (.lbxRspBase l)).1) s

/-- Requester numbers of the diagnostics record: 0 PF, 1 a VF, 2 Study, 3 other (13 R434). -/
def whoClass : Who → Nat
  | .pf => 0
  | .vf _ => 1
  | .study => 2
  | .other => 3

/-- VIOLATION_QUEUE_DRAIN: each captured violation is counted by code and by requester (R397). -/
def execViolationQueueDrain (s : State) : Host.Outcome State Fault Refusal :=
  .next <|
    if !s.live && s.devSt != .minimal && s.devSt != .fatal then s
    else
      let up (m : Map W32) (i : Nat) : Map W32 := mapSet m i (satAdd 32 (mapGet 0 m i) 1)
      let d := s.violQ.foldl (fun d q => { d with viol := up d.viol q.code, byReq := up d.byReq (whoClass q.who) }) s.diag
      { s with violQ := [], diag := d }

end Sys2Proof.Machine
end

