-- ==== Sys2Proof/Machine/Study.lean ====
section
/-! DEFINITION. The device commands of the Study (13 R429 to R437; 14 R466, R467; 15 R499). -/

namespace Sys2Proof.Machine

/-! ## HELLO (R429 to R431) -/

/-- The two versions as a word: HMINOR, HMAJOR, FMINOR, FMAJOR. -/
def State.versions (s : State) (q : Req) : W64 :=
  BitVec.ofNat 64 (reqNat q 16 1 + 2 ^ 8 * reqNat q 17 1 + 2 ^ 16 * s.fw.minor.toNat + 2 ^ 24 * s.fw.major.toNat)

/-- HELLO. -/
def execHello (q : Req) (s : State) : Host.Outcome State Fault Refusal :=
  .next <|
    s.commandWith q 0x0001 [(16, 0, 8), (17, 0, 8), (18, 0, 16)] [] fun s =>
      let res := [(16, 1, s.fw.minor.toNat), (17, 1, s.fw.major.toNat), (18, 2, s.fw.build.toNat)]
      let start := q.lbx == 0 && s.devSt == .handshake
      if (s.lbx q.lbx).hello then s.reply q 0x14 (devStNum s.devSt)
      else
        let s := s.updLbx q.lbx fun b => { b with dbuild := BitVec.ofNat 16 (reqNat q 18 2) }
        if reqNat q 17 1 ≠ s.fw.major.toNat || s.fw.minor.toNat < reqNat q 16 1 then
          let s := s.reply q 0x23 0 res
          if start then (State.ringFlush 64 0 s).startFail 9 (s.versions q) 10 else s
        else
          let s := (s.updLbx q.lbx fun b => { b with hello := true }).reply q 0 0 res
          if start then
            { s with devSt := .running, early := true
                     ident := { s.ident with fwver := s.ident.fwver ||| BitVec.ofNat 32 (256 * s.fw.major.toNat) } }
          else s

/-! ## Parameters (R433) -/

/-- Parameters of the device, of a context, and of a model. -/
def pidDevice (p : Nat) : Bool := decide (0x10 ≤ p) && decide (p ≤ 0x14)
def pidCtx (p : Nat) : Bool := decide (1 ≤ p) && decide (p ≤ 3)
def pidModel (p : Nat) : Bool := decide (0x20 ≤ p) && decide (p ≤ 0x22)

/-- The model that QUAL names, if it has a routed layer. -/
def State.paramModel (s : State) (c : CtxId) (i : Nat) : Option Model :=
  (mapFind (s.ctx c).models i).bind fun m => if s.routedE c m = 0 then none else some m

/-- The value in force. -/
def State.paramValue (s : State) (pid : Nat) (c : CtxId) (qual : Nat) : Nat :=
  let x := s.ctx c
  let m := s.paramModel c qual
  match pid with
  | 0x01 => x.stallK
  | 0x02 => x.hangLimit
  | 0x03 => x.preemptMs
  | 0x10 => s.scrubPantry
  | 0x11 => s.scrubCellar
  | 0x12 => mapGet 16 s.annexMs qual
  | 0x13 => s.handoffT
  | 0x14 => s.tjTarget
  | 0x20 => (m.map fun m => m.reviseSteps).getD 0
  | 0x21 => (m.map fun m => m.instanceBudget.getD (s.routedE c m)).getD 0
  | _ => (m.map fun m => m.minGain).getD 0

/-- Least and greatest value. -/
def State.paramRange (s : State) (pid : Nat) (c : CtxId) (qual : Nat) : Nat × Nat :=
  let e := ((s.paramModel c qual).map fun m => s.routedE c m).getD 0
  match pid with
  | 0x01 => (12, 30)
  | 0x02 => (0, 255)
  | 0x03 => (1, 10000)
  | 0x10 | 0x11 => (1, 48)
  | 0x12 => (1, 64)
  | 0x13 => (1, 1000)
  | 0x14 => (70, 100)
  | 0x20 => (16, 65535)
  | 0x21 => (e, 8 * e)
  | _ => (0, 100)

def State.setParam (s : State) (pid : Nat) (c : CtxId) (qual v : Nat) : State :=
  let model (f : Model → Model) : State :=
    s.updCtx c fun x => { x with models := x.models.map fun e : Nat × Model => if e.1 = qual then (e.1, f e.2) else e }
  match pid with
  | 0x01 => s.updCtx c fun x => { x with stallK := v }
  | 0x02 => s.updCtx c fun x => { x with hangLimit := v }
  | 0x03 => s.updCtx c fun x => { x with preemptMs := v }
  | 0x10 => { s with scrubPantry := v }
  | 0x11 => { s with scrubCellar := v }
  | 0x12 => { s with annexMs := mapSet s.annexMs qual v }
  | 0x13 => { s with handoffT := v }
  | 0x14 => { s with tjTarget := v }
  | 0x20 => model fun m => { m with reviseSteps := v }
  | 0x21 => model fun m => { m with instanceBudget := some v }
  | _ => model fun m => { m with minGain := v }

/-- A parameter command: the parameter must exist and be in reach; a write's value must be in range. -/
def State.paramCmd (s : State) (q : Req) (op : Nat) (set : Bool) : State :=
  let pid := reqNat q 16 2
  let qual := reqNat q 20 4
  let v := reqNat q 24 8
  let c := reqCtx q
  s.commandWith q op ([(16, 0, 16), (20, 0, 32)] ++ if set then [(24, 0, 64)] else [])
    [(16, !(pidDevice pid || pidCtx pid || pidModel pid)),
      (20, if pid = 0x12 then decide (1 < qual) else !pidModel pid && qual != 0)] fun s =>
    if set && pidDevice pid && q.lbx ≠ 0 then s.reply q 0x13
    else if !pidDevice pid && (s.ctx c).st == .free then s.reply q 0x14
    else if pidModel pid && (s.paramModel c qual).isNone then s.reply q 0x14 (ctxStNum (s.ctx c).st)
    else if set then
      let r := s.paramRange pid c qual
      if v < r.1 || r.2 < v then s.badReq q 24
      else
        let s := s.setParam pid c qual v
        s.reply q 0 0 [(24, 8, s.paramValue pid c qual)]
    else s.reply q 0 0 [(24, 8, s.paramValue pid c qual)]

/-- PARAM_GET. -/
def execParamGet (q : Req) (s : State) : Host.Outcome State Fault Refusal := .next (s.paramCmd q 0x0002 false)
/-- PARAM_SET. -/
def execParamSet (q : Req) (s : State) : Host.Outcome State Fault Refusal := .next (s.paramCmd q 0x0003 true)

/-! ## Reports (R434, R436) -/

/-- DIAG_READ. -/
def execDiagRead (q : Req) (s : State) : Host.Outcome State Fault Refusal :=
  .next <|
    s.commandWith q 0x0004 [] [] fun s =>
      let d := s.diag
      let n (m : Map W32) (i : Nat) : Nat := (mapGet 0 m i).toNat
      s.reply q 0 0
        (((List.range 9).map fun i => (16 + 4 * i, 4, n d.viol (i + 1))) ++ ((List.range 4).map fun i => (52 + 4 * i, 4, n d.byReq i)) ++
          [(68, 4, d.overflow.toNat), (72, 4, d.tvCorr.toNat), (76, 4, d.lbxFault.toNat), (80, 4, d.evtLost.toNat)])

/-- START_REPORT. -/
def execStartReport (q : Req) (s : State) : Host.Outcome State Fault Refusal :=
  .next <|
    s.commandWith q 0x000A [] [] fun s =>
      let r := s.startRec
      let e (i : Nat) (x : StartEntry) := (24 + 24 * i, 24, leNat (startEntryBytes x))
      s.reply q 0 0 [(16, 1, r.fails), e 0 r.e0, e 1 r.e1, e 2 r.e2]

/-! ## Host buffers (R437) -/

def bufAddr (q : Req) : Nat := reqNat q 16 8
def bufLen (q : Req) : Nat := reqNat q 24 4

/-- A command with a host buffer. -/
def State.bufCmd (s : State) (q : Req) (op : Nat) (more : List (Nat × Nat × Nat)) (f : State → State) : State :=
  s.commandWith q op ([(16, 0, 64), (24, 0, 32)] ++ more) [(16, bufAddr q % 4096 != 0)] f

/-! ## The repair list, in the model's own form (assumption 55) -/

/-- Serial number of the part that holds a DRAM row's channel or a frame (15 R499). -/
def State.partSerialOf (s : State) (tier unit : Nat) : W64 := if tier = 2 then Config.moduleSerial unit else s.ident.serial

/-- An entry: 1 DRAM row, 2 SRAM row or column, 3 retired frame, 4 stack or group whose frames are lost; tier or kind, unit, value, code, serial. -/
def repairEntry (kind tier unit v code : Nat) (serial : W64) : List Byte :=
  layout 24 [(0, 1, kind), (1, 1, tier), (2, 2, unit), (4, 4, v), (8, 1, code), (16, 8, serial.toNat)]

/-- Cellar channel whose module stands for a frame: the first of its group. -/
def frameUnit (tier f : Nat) : Nat := if tier = 2 then 4 * (f % 4) else 0

def State.repairBytes (s : State) : List Byte :=
  let r := s.repair
  let body := (r.rows.flatMap fun e => repairEntry 1 e.1 e.2.1 e.2.2.1 e.2.2.2 (s.partSerialOf e.1 e.2.1)) ++
    (r.sram.flatMap fun e => repairEntry 2 e.1 e.2.1 e.2.2 0 s.ident.serial) ++
    (r.retiredFrames.flatMap fun e => repairEntry 3 e.1 (frameUnit e.1 e.2) e.2 0 (s.partSerialOf e.1 (frameUnit e.1 e.2))) ++
    r.lost.flatMap fun e => repairEntry 4 e.1 e.2 0 0 s.ident.serial
  let b := natLe 4 (body.length / 24) ++ body
  b ++ natLe 4 (crc32c b)

/-- REPAIR_LIST_GET. -/
def execRepairListGet (q : Req) (hostOk : Bool) (s : State) : Host.Outcome State Fault Refusal :=
  .next <|
    s.bufCmd q 0x0007 [] fun s =>
      let b := s.repairBytes
      if bufLen q < b.length then s.reply q 0x27
      else if !hostOk || !s.hostUp then s.reply q 0x22
      else (s.write (hostKey (bufAddr q)) b).reply q 0 0 [(16, 4, b.length)]

/-- Apply one entry of the list; false where its serial does not match the fitted part. -/
def State.applyEntry (s : State) (b : List Byte) : State × Bool :=
  let f (off n : Nat) := leNat ((b.drop off).take n)
  let tier := f 1 1
  let unit := f 2 2
  let r := s.repair
  let fits := BitVec.ofNat 64 (f 16 8) == s.partSerialOf tier unit
  match f 0 1 with
  | 1 =>
    if !fits then (s, false)
    else
      let bank := bankKey tier unit (Config.bankOf tier unit (f 4 4))
      ({ s with repair := { r with rows := r.rows ++ [(tier, unit, f 4 4, 3)], spares := mapAdd r.spares bank 1 } }, true)
  | 2 => ({ s with repair := { r with sram := r.sram ++ [(tier, unit, f 4 4)] } }, true)
  | 3 =>
    if !fits then (s, false) else ({ s with repair := { r with retiredFrames := r.retiredFrames ++ [(tier, f 4 4)] } }, true)
  | _ => (s, true)

/-- REPAIR_LIST_PUT: accepted in RUNNING after a cold start and before the first CTX_CREATE. -/
def execRepairListPut (q : Req) (hostOk : Bool) (s : State) : Host.Outcome State Fault Refusal :=
  .next <|
    s.bufCmd q 0x0008 [] fun s =>
      if s.devSt ≠ .running || s.devWarm || s.createdCtx then s.reply q 0x14 (devStNum s.devSt)
      else if !hostOk || !s.hostUp then s.reply q 0x22
      else
        let n := s.readNat (hostKey (bufAddr q)) 4
        let size := 4 + 24 * n
        let b := s.read (hostKey (bufAddr q)) (if size + 4 ≤ bufLen q then size else 0)
        if bufLen q < size + 4 || crc32c b ≠ s.readNat (hostKey (bufAddr q + size)) 4 then s.badReq q (size % 256)
        else
          let (s, lost) := (List.range n).foldl (fun (p : State × Nat) i =>
            let r := p.1.applyEntry ((b.drop (4 + 24 * i)).take 24)
            (r.1, if r.2 then p.2 else p.2 + 1)) (s, 0)
          let s := s.applySram.raise { cls := 0x49, src := 1, unit := Config.unitOf 0x49, detail := BitVec.ofNat 64 lost }
          s.reply q 0

/-! ## ATTEST (14 R466, R467) -/

/-- Bytes of a free value by index. -/
def bytesOf (n : Nat) (f : Nat → Byte) : List Byte := (List.range n).map f

/-- Bytes 0 to 543 of the report, which the attestation key signs. -/
def State.attestBody (s : State) (q : Req) : List Byte :=
  let i := s.ident
  let w := s.fw
  let top := layout 64 [(0, 4, 0x47415454), (4, 1, 1), (8, 8, i.serial.toNat), (16, 4, i.part.toNat),
    (20, 4, (vote i.variant).toNat), (24, 8, s.hc.toNat), (32, 32, reqNat q 32 32)]
  let mid := natBe 48 w.measure.toNat ++ natBe 48 w.keyHash.toNat ++
    layout 32 [(0, 4, w.svn), (4, 4, s.fuseSvn), (8, 4, i.fwver.toNat), (12, 1, w.keyIndex.toNat), (13, 1, s.startRec.fails),
      (14, 1, boolNat s.devWarm), (16, 8, i.wingret.toNat), (24, 4, i.mem.toNat), (28, 4, i.cellar.toNat)]
  let key := bytesOf 97 (Config.akPub w.measure w.keyHash)
  let signed := (top.drop 8).take 8 ++ mid.take 100 ++ key
  let pad (n : Nat) (b : List Byte) : List Byte := b ++ List.replicate (n - b.length) 0
  top ++ mid ++ pad 128 key ++ bytesOf 96 (Config.devIdSign signed) ++ pad 128 (bytesOf 97 Config.devIdPub)

/-- ATTEST: the 640-byte report goes to the host buffer. -/
def execAttest (q : Req) (hostOk : Bool) (s : State) : Host.Outcome State Fault Refusal :=
  .next <|
    s.bufCmd q 0x0009 [(32, 0, 256)] fun s =>
      if s.devSt ≠ .running then s.reply q 0x14 (devStNum s.devSt)
      else if bufLen q < 640 then s.reply q 0x27
      else if !hostOk || !s.hostUp then s.reply q 0x22
      else
        let b := s.attestBody q
        let b := b ++ bytesOf 96 (Config.akSign s.fw.measure s.fw.keyHash b)
        (s.write (hostKey (bufAddr q)) b).reply q 0 0 [(16, 4, 640)]

end Sys2Proof.Machine
end

