-- ==== Sys2Proof/Machine/Tensor.lean ====
section
/-! DEFINITION. The tensor engine (03 R98 to R128): checks, operands, FP32 and INT32 accumulation, exact-sum and slice
accumulation, drains, loads and clears. -/

namespace Sys2Proof.Machine

/-! ## The head of the queue -/

def setBank (t : Tensor) (b : Nat) (c : BankClass) : Tensor :=
  match b with
  | 0 => { t with cls0 := c }
  | 1 => { t with cls1 := c }
  | 2 => { t with cls2 := c }
  | _ => { t with cls3 := c }

def bankCls (t : Tensor) (b : Nat) : BankClass :=
  match b with
  | 0 => t.cls0
  | 1 => t.cls1
  | 2 => t.cls2
  | _ => t.cls3

def bankSat (t : Tensor) (b : Nat) : Nat :=
  match b with
  | 0 => t.sat0
  | 1 => t.sat1
  | 2 => t.sat2
  | _ => t.sat3

def setSat (t : Tensor) (b n : Nat) : Tensor :=
  match b with
  | 0 => { t with sat0 := n }
  | 1 => { t with sat1 := n }
  | 2 => { t with sat2 := n }
  | _ => { t with sat3 := n }

def State.updTe (s : State) (r : RoomId) (f : Tensor → Tensor) : State := s.updRoom r fun x => { x with te := f x.te }

/-- What a tensor instruction does. -/
inductive TOut where
  | done (s : State)
  /-- begun, completed by later block starts -/
  | begun (s : State)
  | encoding
  | bounds
  /-- poison at a DVA -/
  | poison (dva : W64)

/-! ## Shapes and checks (R99 to R106, R123) -/

def isInt (f : Nat) : Bool := f == 0x00 || f == 0x01
def isFloatOperand (f : Nat) : Bool := decide (2 ≤ f) && decide (f ≤ 0x0B)
def shapeM (w : Nat) : Nat := 64 * 2 ^ tMT w
def shapeN (w : Nat) : Nat := 64 * 2 ^ tNT w
def shapeK (w : Nat) : Nat := 64 * (tKT w + 1)
def shapeOk (w : Nat) : Bool :=
  decide (tMT w ≤ 2) && decide (tNT w ≤ 2) && decide (tMT w + tNT w ≤ 2) && tAccb w % 2 ^ (tMT w + tNT w) == 0
def longShape (w : Nat) : Bool := tMT w == 0 && tNT w == 0 && tAccb w == 0
/-- Banks an instruction uses. -/
def banksOf (w : Nat) : List Nat := (List.range (2 ^ (tMT w + tNT w))).map (tAccb w + ·)

def rowBytes (fmt n : Nat) : Nat := n * fmtBits fmt / 8
def spaceOfA (w : Nat) : Nat := if tAsrc w then 1 else 0

/-- (space, byte, length) ranges an MMA reads: rows of A and of B, scale planes or σ and τ. -/
def mmaRanges (w : Nat) : List (Nat × Nat × Nat) :=
  let op := w % 256
  let planes := if op = 3 then 7 else 1
  let a := (List.range (planes * shapeM w)).map fun i =>
    (spaceOfA w, (tAaddr w + i * tAstride w) * 64, rowBytes (tAfmt w) (shapeK w))
  let b := if tBsrc w then []
    else if tTransb w then (List.range (shapeK w)).map fun i =>
      (0, (tBaddr w + i * tBstride w) * 64, rowBytes (tBfmt w) (shapeN w))
    else (List.range (planes * shapeN w)).map fun i => (0, (tBaddr w + i * tBstride w) * 64, rowBytes (tBfmt w) (shapeK w))
  let sa := if op = 3 then [(spaceOfA w, tAscl w * 64, 128)]
    else if fmtIsMx (tAfmt w) then [(spaceOfA w, tAscl w * 64, shapeM w * shapeK w / 32)] else []
  let sb := if op = 3 then [(0, tBscl w * 64, 128)]
    else if fmtIsMx (tBfmt w) && !tBsrc w then [(0, tBscl w * 64, shapeN w * shapeK w / 32)] else []
  a ++ b ++ sa ++ sb

def destSpace (w : Nat) : Nat := if dDest w then 1 else 0

/-- (space, byte, length) ranges of a drain or load: data rows, scale plane, status or flag plane. -/
def drainRanges (w : Nat) : List (Nat × Nat × Nat) :=
  let row := if dRaw w then 1024 else rowBytes (dFmt w) (shapeN w)
  (List.range (shapeM w)).map (fun i => (destSpace w, (dAddr w + i * dStride w) * 64, row)) ++
    (if !dRaw w && fmtIsMx (dFmt w) then [(destSpace w, dScl w * 64, shapeM w * shapeN w / 32)] else []) ++
    (if dRaw w then [(0, dSaddr w * 64, 4096 + 64)] else if w % 256 = 8 && dStat w then [(0, dSaddr w * 64, 64)] else [])

def isLongDrain (t : Tensor) (w : Nat) : Bool := (banksOf w).any fun b => bankCls t b == .long

/-! ## The queue and its interlocks (R101, R125) -/

/-- Banks an instruction touches: the long accumulator takes all four. -/
def banksTouched (t : Tensor) (w : Nat) : List Nat :=
  let long := if w % 256 = 1 then false else w % 256 == 2 || w % 256 == 3 || (w % 256 != 0x0A && dRaw w) || isLongDrain t w
  if long then [0, 1, 2, 3] else banksOf w

/-- Ranges an instruction reads or writes. -/
def rangesTouched (w : Nat) : List (Nat × Nat × Nat) :=
  if w % 256 ≤ 3 then mmaRanges w else if w % 256 = 0x0A then [] else drainRanges w

/-- Two instructions touch no bank and no byte in common. -/
def apart (t : Tensor) (v w : Nat) : Bool :=
  (banksTouched t v).all (fun b => !(banksTouched t w).contains b) &&
    (rangesTouched v).all fun x => (rangesTouched w).all fun y =>
      x.1 != y.1 || decide (x.2.1 + x.2.2 ≤ y.2.1) || decide (y.2.1 + y.2.2 ≤ x.2.1)

/-- The instruction that may execute, with its place in the queue, in a Room that runs: the head; while the head waits for a B
block, the first drain, load or clear behind it, apart from everything before it (R125). -/
def State.tensorHead (s : State) (r : RoomId) : Option (Nat × TItem) :=
  let x := s.room r
  let q := x.te.queue
  if !s.live || x.runst == .fault then none
  else if !x.te.waiting then q.head?.map fun i => (0, i)
  else
    let k := q.findIdx fun i => decide (8 ≤ i.word.toNat % 256)
    match q[k]? with
    | some i => if 0 < k && (q.take k).all fun j => apart x.te j.word.toNat i.word.toNat then some (k, i) else none
    | none => none

/-- The instruction at a place of the queue has completed (R101). -/
def State.tensorPop (s : State) (r : RoomId) (k : Nat := 0) : State :=
  match (s.room r).te.queue[k]? with
  | some i =>
    ((s.updRoom r fun x =>
      { x with te := { x.te with queue := x.te.queue.eraseIdx k, waiting := x.te.waiting && k != 0
                                 blockNo := if k = 0 then 0 else x.te.blockNo }
               firings := setFiring x.firings i.set fun f => { f with tensor := f.tensor - 1 } }).dropDone r).settle r
  | none => s

def State.tensorOut (s : State) (r : RoomId) (k : Nat) : TOut → State
  | .done t => t.tensorPop r k
  | .begun t => t
  | .encoding => s.faultRoom r 0x03 0x11
  | .bounds => s.faultRoom r 0x03 0x12
  | .poison d => s.faultRoom r 0x05 0x08 none d

/-- Execute the next instruction if it has opcode `op`. -/
def State.tensorStep (s : State) (r : RoomId) (op : Nat) (f : Nat → State → TOut) : State :=
  match s.tensorHead r with
  | some (k, i) => if i.word.toNat % 256 = op then s.tensorOut r k (f i.word.toNat s) else s
  | none => s

/-! ## Checks of an MMA (R100 to R106, R121, R123) -/

/-- TE_ENCODING of an MMA, apart from the classes of its banks. Rows that overlap are read as stored (R105). -/
def mmaBad (w : Nat) : Bool :=
  let op := w % 256
  let fa := tAfmt w
  let fb := tBfmt w
  let okFmt := if op = 1 then (isInt fa && isInt fb) || (isFloatOperand fa && isFloatOperand fb)
    else if op = 2 then [2, 3, 0x0A].contains fa && [2, 3, 0x0A].contains fb
    else fa == 1 && fb == 1
  let okShape := if op = 1 then shapeOk w else longShape w
  let okTrans := if tTransb w then op != 3 && !tBsrc w && decide (8 ≤ fmtBits fb) && !fmtIsMx fb else true
  !(okFmt && okShape && okTrans && (op != 3 || !tBsrc w) && (op == 2 || bitsOf w 116 10 == 0) &&
    !bitOf w 37 && !bitOf w 39 && bitsOf w 126 2 == 0)

/-- Bank classes of an instruction with INIT = 0 (R121), and the anchor of the tile (R111). -/
def classBad (t : Tensor) (w : Nat) : Bool :=
  let op := w % 256
  if tInit w then false
  else if op = 1 then
    let c := if isInt (tAfmt w) then BankClass.integer else BankClass.float
    (banksOf w).any fun b => bankCls t b != .none && bankCls t b != c
  else
    let all (c : BankClass) := (List.range 4).all fun b => bankCls t b == c
    if all .none then false else if all .long then op == 2 && tAnchor w != t.anchor else true

/-- The first range outside its space, and the first poisoned Shelf byte read. -/
def rangesOut (l : List (Nat × Nat × Nat)) : Bool := l.any fun e => !inSpace e.1 e.2.1 e.2.2
def State.rangesPoison (s : State) (r : RoomId) (l : List (Nat × Nat × Nat)) : Option W64 :=
  (l.find? fun e => e.1 == 0 && s.poisoned (shelfKey r.toNat e.2.1) e.2.2).map fun e =>
    dvaOf 0 (2 ^ 30 + r.toNat * 2 ^ 20 + e.2.1)

/-! ## Operands (R91, R105, R106) -/

/-- Element i of a row that begins at key `base`. -/
def elemAt (m : Memory) (base bits i : Nat) : Nat :=
  bitsOf (leNat (memReads m (base + bits * i / 8) 2)) (bits * i % 8) bits

/-- Value of an element under its format and scale byte. -/
def operandVal (fmt bits scale : Nat) : Val :=
  if fmtIsMx fmt then mxScaled scale (decodeFmt fmt bits) else decodeFmt fmt bits

def aVal (s : State) (r : RoomId) (w m k : Nat) : Val :=
  let base := spaceKey r 0 (spaceOfA w) ((tAaddr w + m * tAstride w) * 64)
  let sc := (memRead s.mem (spaceKey r 0 (spaceOfA w) (tAscl w * 64 + m * (shapeK w / 32) + k / 32))).toNat
  operandVal (tAfmt w) (elemAt s.mem base (fmtBits (tAfmt w)) k) sc

def bVal (s : State) (r : RoomId) (w n k : Nat) : Val :=
  let fb := tBfmt w
  let sc := (memRead s.mem (shelfKey r.toNat (tBscl w * 64 + n * (shapeK w / 32) + k / 32))).toNat
  if tTransb w then operandVal fb (elemAt s.mem (shelfKey r.toNat ((tBaddr w + k * tBstride w) * 64)) (fmtBits fb) n) 0
  else operandVal fb (elemAt s.mem (shelfKey r.toNat ((tBaddr w + n * tBstride w) * 64)) (fmtBits fb) k) sc

/-- Element (n, k) of a chain block of 64 N × 64 K, its scale bytes after the elements (R106). -/
def chainVal (b : ChainBlock) (fmt n k : Nat) : Val :=
  let sc := (memRead b.data (4096 * fmtBits fmt / 8 + 2 * n + k / 32)).toNat
  operandVal fmt (elemAt b.data (n * 8 * fmtBits fmt) (fmtBits fmt) k) sc

/-! ## FP32 and INT32 accumulation (R108 to R110) -/

/-- One K-group of 32 into an FP32 accumulator; `fresh` replaces the bank value. -/
def groupFloat (a b : Nat → Val) (fresh : Bool) (acc : Nat) : Nat :=
  let sum := fpRound 0x0C (valSum ((List.range 32).map fun k => valMul (a k) (b k)))
  if fresh then sum else fpAdd 0x0C acc sum

/-- One K-group into an INT32 accumulator with saturation: value and whether it saturated. -/
def groupInt (a b : Nat → Val) (fresh : Bool) (acc : Nat) : Nat × Bool :=
  let dot := ((List.range 32).map fun k => valInt 0 (a k) * valInt 0 (b k)).sum
  let t := (if fresh then 0 else signedOf acc 32) + dot
  if t < -2 ^ 31 then (2 ^ 31, true) else if 2 ^ 31 - 1 < t then (2 ^ 31 - 1, true) else (wrapInt t 32, false)

/-- Groups `gs` of K into one element: value and saturations. -/
def accumulate (int init : Bool) (a b : Nat → Val) (gs : List Nat) (acc : Nat) : Nat × Nat :=
  gs.foldl (fun v g =>
    let fresh := init && g == 0
    let a' := fun k => a (32 * g + k)
    let b' := fun k => b (32 * g + k)
    if int then
      let (x, sat) := groupInt a' b' fresh v.1
      (x, v.2 + boolNat sat)
    else (groupFloat a' b' fresh v.1, v.2)) (acc, 0)

def accAddr (bank i j : Nat) : Nat := bank * 16384 + (i * 64 + j) * 4
def State.accRead (s : State) (r : RoomId) (bank i j : Nat) : Nat := s.readNat (accKey r.toNat (accAddr bank i j)) 4

/-- Update the sub-tile of one bank: rows `mb`, columns `nb`, K-groups `gs`. -/
def State.bankUpdate (s : State) (r : RoomId) (w mb nb : Nat) (gs : List Nat) (b : Nat → Nat → Val) : State :=
  let bank := tAccb w + mb * 2 ^ tNT w + nb
  let int := isInt (tAfmt w)
  let cells := (List.range 4096).map fun c =>
    accumulate int (tInit w) (aVal s r w (64 * mb + c / 64)) (b (c % 64)) gs (s.accRead r bank (c / 64) (c % 64))
  let s := s.write (accKey r.toNat (accAddr bank 0 0)) (cells.flatMap fun c => natLe 4 c.1)
  s.updTe r fun t => setSat t bank (bankSat t bank + (cells.map (·.2)).sum)

/-- The class an MMA gives its banks. -/
def State.mmaClass (s : State) (r : RoomId) (w : Nat) : State :=
  let c := if isInt (tAfmt w) then BankClass.integer else BankClass.float
  s.updTe r fun t => (banksOf w).foldl (fun t b => setBank t b c) t

/-- All blocks of an MMA whose B lies in the Shelf. -/
def State.mmaAll (s : State) (r : RoomId) (w : Nat) : State :=
  let tiles := (List.range (2 ^ tMT w)).flatMap fun mb => (List.range (2 ^ tNT w)).map fun nb => (mb, nb)
  tiles.foldl (fun t mn => t.bankUpdate r w mn.1 mn.2 (List.range (shapeK w / 32)) (fun j => bVal s r w (64 * mn.2 + j))) s

/-- Checks common to the three MMAs. -/
def State.mmaCheck (s : State) (r : RoomId) (w : Nat) : Option TOut :=
  if mmaBad w || classBad (s.room r).te w then some .encoding
  else if rangesOut (mmaRanges w) then some .bounds
  else (s.rangesPoison r (mmaRanges w)).map .poison

/-- The instruction waits for its next B block, late when the block is not in the buffer yet. -/
def State.awaitBlock (s : State) (r : RoomId) (n : Nat) : State :=
  s.updRoom r fun x => { x with te := { x.te with waiting := true, blockNo := n, late := (x.chain[x.chainUsed]?).isNone } }

/-- Bytes of a B block of a format (06 R215). -/
def blockBytes (fmt : Nat) : Nat := fmtBits fmt * 512 + if fmtIsMx fmt then 128 else 0

/-- MMA (R108). -/
def execMma (r : RoomId) (s : State) : Host.Outcome State Fault Refusal :=
  .next (s.tensorStep r 0x01 fun w s =>
    match s.mmaCheck r w with
    | some o => o
    | none =>
      if tBsrc w then .begun ((s.mmaClass r w).awaitBlock r 0)
      else .done ((s.mmaAll r w).mmaClass r w))

/-! ## Long accumulation (R111 to R119) -/

def longAddr (i j : Nat) : Nat := (i * 64 + j) * 16
def State.longRead (s : State) (r : RoomId) (c : Nat) : Nat := s.readNat (accKey r.toNat (16 * c)) 16
def State.flagRead (s : State) (r : RoomId) (c : Nat) : Nat := (memRead s.mem (accFlagKey r.toNat c)).toNat

/-- Store S and flags of every element. -/
def State.longStore (s : State) (r : RoomId) (cells : List (Nat × Nat)) : State :=
  (s.write (accKey r.toNat 0) (cells.flatMap fun c => natLe 16 c.1)).write (accFlagKey r.toNat 0)
    (cells.map fun c => BitVec.ofNat 8 c.2)

/-- One product into (S, flags, inexact) at an anchor (R112). -/
def exactAdd (anchor : Int) (acc : Nat × Nat × Bool) (p : Val) : Nat × Nat × Bool :=
  match p with
  | .nan => (acc.1, acc.2.1 ||| 1, acc.2.2)
  | .inf n => (acc.1, acc.2.1 ||| (if n then 4 else 2), acc.2.2)
  | .fin n m e =>
    if m != 0 && decide (anchor + 104 ≤ (Nat.log2 m : Int) + e) then (acc.1, acc.2.1 ||| 8 ||| (if n then 4 else 2), acc.2.2)
    else
      let u := roundUnits m e anchor false
      let exact := decide (anchor ≤ e) || m % 2 ^ (anchor - e).toNat == 0
      (wrapInt ((acc.1 : Int) + (if n then -(u : Int) else u)) 128, acc.2.1, acc.2.2 || !exact)

/-- The tile begins: INIT = 1, or banks of class none. -/
def tileFresh (t : Tensor) (w : Nat) : Bool := tInit w || (List.range 4).all fun b => bankCls t b == .none

/-- Bookkeeping of a long tile: class, anchor, mode, product count and KLIMIT (R113). An MMA_EXACT with INIT = 0 on a slice tile,
or MMA_SLICE on an exact one, is accepted and sets the mode (assumption 78, DESIGN CHOICE). -/
def State.longTile (s : State) (r : RoomId) (w : Nat) (fresh slice : Bool) (n : Nat) (inexact : Bool) : State :=
  let t := (s.room r).te
  let products := (if fresh then 0 else t.products) + n
  let past := decide (2 ^ 23 < products)
  let s := s.updTe r fun t =>
    { t with cls0 := .long, cls1 := .long, cls2 := .long, cls3 := .long, slice, products
             anchor := if fresh then tAnchor w else t.anchor
             inexact := (!fresh && t.inexact) || inexact, klimit := (!fresh && t.klimit) || past }
  if past then
    s.write (accFlagKey r.toNat 0) ((List.range 4096).map fun c => BitVec.ofNat 8 (s.flagRead r c ||| 8))
  else s

/-- K indices `ks` of an MMA_EXACT into the tile. -/
def State.exactUpdate (s : State) (r : RoomId) (w : Nat) (fresh : Bool) (ks : List Nat) (b : Nat → Nat → Val) : State :=
  let cells := (List.range 4096).map fun c =>
    let start := if fresh then (0, 0, false) else (s.longRead r c, s.flagRead r c, false)
    ks.foldl (fun acc k => exactAdd (tAnchor w) acc (valMul (aVal s r w (c / 64) k) (b (c % 64) k))) start
  let s := s.longStore r (cells.map fun c => (c.1, c.2.1))
  s.longTile r w fresh false ks.length (cells.any fun c => c.2.2)

/-- MMA_EXACT (R112). -/
def execMmaExact (r : RoomId) (s : State) : Host.Outcome State Fault Refusal :=
  .next (s.tensorStep r 0x02 fun w s =>
    match s.mmaCheck r w with
    | some o => o
    | none =>
      if tBsrc w then .begun (s.awaitBlock r 0)
      else .done (s.exactUpdate r w (tileFresh (s.room r).te w) (List.range (shapeK w)) (fun n k => bVal s r w n k)))

/-- Digit (row, k) of slice plane p. -/
def sliceDigit (s : State) (key : Nat → Nat) (addr stride p row k : Nat) : Int :=
  signedOf (memRead s.mem (key ((addr + (p * 64 + row) * stride) * 64 + k))).toNat 8

/-- The 28 slice products of one K index, in units of 2⁻⁵⁶ (R118). -/
def slicePairs : List (Nat × Nat) :=
  (List.range 7).flatMap fun p => ((List.range 7).filter fun q => decide (p + q ≤ 6)).map fun q => (p, q)

/-- MMA_SLICE (R118): σ and τ are kept for the drain. -/
def execMmaSlice (r : RoomId) (s : State) : Host.Outcome State Fault Refusal :=
  .next (s.tensorStep r 0x03 fun w s =>
    match s.mmaCheck r w with
    | some o => o
    | none =>
      let fresh := tileFresh (s.room r).te w
      let ka := fun a => spaceKey r 0 (spaceOfA w) a
      let kb := fun a => shelfKey r.toNat a
      let cells := (List.range 4096).map fun c =>
        let sum := ((List.range (shapeK w)).map fun k => (slicePairs.map fun pq =>
          sliceDigit s ka (tAaddr w) (tAstride w) pq.1 (c / 64) k *
            sliceDigit s kb (tBaddr w) (tBstride w) pq.2 (c % 64) k * 2 ^ (7 * (6 - pq.1 - pq.2))).sum).sum
        (wrapInt ((if fresh then 0 else (s.longRead r c : Int)) + sum) 128, if fresh then 0 else s.flagRead r c)
      let sig := s.read (ka (tAscl w * 64)) 128 ++ s.read (kb (tBscl w * 64)) 128
      let s := (s.longStore r cells).write (sliceKey r.toNat 0) sig
      .done (s.longTile r w fresh true (28 * shapeK w) false))

/-- Ranges of A that a weight-chain block reads: 64 elements of each row at K-block kb, and their scale bytes. -/
def blockRanges (w kb : Nat) : List (Nat × Nat × Nat) :=
  let fa := tAfmt w
  (List.range (shapeM w)).flatMap fun m =>
    (spaceOfA w, (tAaddr w + m * tAstride w) * 64 + rowBytes fa (64 * kb), rowBytes fa 64) ::
      if fmtIsMx fa then [(spaceOfA w, tAscl w * 64 + m * (shapeK w / 32) + 2 * kb, 2)] else []

/-- TENSOR_BLOCK_START: the whole next B block of a weight-chain instruction is in the chain buffer; it is used for all
row blocks (R106, R107), and the last one completes the instruction. -/
def execTensorBlockStart (r : RoomId) (s : State) : Host.Outcome State Fault Refusal :=
  .next <|
    let x := s.room r
    match x.te.queue with
    | i :: _ =>
      let w := i.word.toNat
      match x.chain[x.chainUsed]? with
      | some blk =>
        if s.live && x.runst != .fault && x.te.waiting then
          let s := if x.te.late then s.updStream blk.stream fun t => { t with underrun := t.underrun + 1 } else s
          let kb := x.te.blockNo / 2 ^ tNT w
          if blk.len ≠ blockBytes (tBfmt w) then s.faultRoom r 0x03 0x11
          else if !blk.poison.isEmpty then s.faultRoom r 0x05 0x08
          else match s.rangesPoison r (blockRanges w kb) with
          | some d => s.faultRoom r 0x05 0x08 none d
          | none =>
            let nb := x.te.blockNo % 2 ^ tNT w
            let b := fun n k => chainVal blk (tBfmt w) n (k % 64)
            let s := if w % 256 = 1 then
                (List.range (2 ^ tMT w)).foldl (fun s mb => s.bankUpdate r w mb nb [2 * kb, 2 * kb + 1] b) s
              else s.exactUpdate r w (tileFresh x.te w && kb == 0) ((List.range 64).map (64 * kb + ·)) b
            let s := s.updRoom r fun x => { x with chainUsed := x.chainUsed + 1 }
            if x.te.blockNo + 1 = (tKT w + 1) * 2 ^ tNT w then s.tensorPop r else s.awaitBlock r (x.te.blockNo + 1)
        else s
      | none => s
    | [] => s

/-! ## Drains, loads and clears (R114, R119 to R122) -/

/-- Clear banks, the element flags, the tile flags and the product count (R120). -/
def State.clearBanks (s : State) (r : RoomId) (bs : List Nat) : State :=
  let s := bs.foldl (fun s b => s.clear (accKey r.toNat (accAddr b 0 0)) 16384) s
  let s := s.clear (accFlagKey r.toNat 0) 4096
  s.updTe r fun t => { bs.foldl (fun t b => setBank t b .none) t with products := 0, inexact := false, klimit := false }

/-- ACC_ZERO (R120). Bits it does not use count as reserved (assumption 60). -/
def execAccZero (r : RoomId) (s : State) : Host.Outcome State Fault Refusal :=
  .next (s.tensorStep r 0x0A fun w s =>
    if !shapeOk w || bitsOf w 8 10 != 0 || bitsOf w 24 104 != 0 then .encoding
    else .done (s.clearBanks r (banksOf w)))

/-- Reserved bits of the drain and load layout. -/
def drainResv (w : Nat) : Bool := bitsOf w 13 5 != 0 || bitsOf w 30 10 != 0 || bitsOf w 78 10 != 0 || bitsOf w 102 26 != 0
/-- TE_ENCODING of a drain (R104, R120, R121). Banks of class none allow every output format 0x02 to 0x0E and no RAW (assumption
80, DESIGN CHOICE). -/
def drainBad (t : Tensor) (w : Nat) : Bool :=
  let f := dFmt w
  let long := isLongDrain t w
  drainResv w || !shapeOk w ||
    (if dRaw w then !long || !longShape w
     else if long then !longShape w || !(if t.slice then [0x0C, 0x0D].contains f else [0x0A, 0x0C, 0x0D].contains f)
     else (banksOf w).any fun b => match bankCls t b with
       | .float => !(decide (2 ≤ f) && decide (f ≤ 0x0D))
       | .integer => !(f == 0x0C || f == 0x0E)
       | _ => !(decide (2 ≤ f) && decide (f ≤ 0x0E)))

/-- Value a drain converts for element (i, j): 32-bit banks by class, the exact tile, the slice tile. σ and τ of a slice tile are
those of the last MMA_SLICE in the Room, after a RAW ACC_LOAD too, whose image holds none (assumption 77, DESIGN CHOICE). -/
def State.drainVal (s : State) (r : RoomId) (w i j : Nat) : Val :=
  let t := (s.room r).te
  let bank := tAccb w + i / 64 * 2 ^ tNT w + j / 64
  match bankCls t bank with
  | .none => .fin false 0 0
  | .integer => valOfInt (signedOf (s.accRead r bank (i % 64) (j % 64)) 32) 0
  | .float => decodeFmt 0x0C (s.accRead r bank (i % 64) (j % 64))
  | .long =>
    let c := i * 64 + j
    let v := signedOf (s.longRead r c) 128
    if t.slice then
      let sg := s.readNat (sliceKey r.toNat (2 * i)) 2
      let tu := s.readNat (sliceKey r.toNat (128 + 2 * j)) 2
      if sg = 0x7FFF || tu = 0x7FFF then .nan else valOfInt v (signedOf sg 16 + signedOf tu 16 - 56)
    else
      let f := s.flagRead r c
      if bitOf f 0 || (bitOf f 1 && bitOf f 2) then .nan
      else if bitOf f 1 then .inf false
      else if bitOf f 2 then .inf true
      else valOfInt v t.anchor

/-- An infinity drained by a flag of the long accumulator stays one, whatever SAT says (R114). -/
def satOf (sat long : Bool) (v : Val) : Bool :=
  sat && !(long && match v with
    | .inf _ => true
    | _ => false)

/-- Output of one drained row: packed bytes, scale bytes, (NaN, Inf, SAT) counts. -/
def drainRow (fmt : Nat) (rtz sat long : Bool) (vs : List Val) : List Byte × List Byte × Nat × Nat × Nat :=
  if fmtIsMx fmt then
    let blocks := (List.range (vs.length / 32)).map fun b => mxBlock fmt rtz ((vs.drop (32 * b)).take 32)
    (packElems (fmtBits fmt) (blocks.flatMap fun b => b.2.1), blocks.map fun b => BitVec.ofNat 8 b.1,
      (blocks.filter fun b => b.2.2.1).length, 0, (blocks.map fun b => b.2.2.2).sum)
  else
    let es := vs.map fun v => toFmt fmt rtz (satOf sat long v) v
    (packElems (fmtBits fmt) (es.map (·.1)), [], (es.filter fun e => e.2.nan || e.2.nan0).length,
      (es.filter fun e => e.2.inf).length, (es.filter fun e => e.2.sat).length)

/-- The RAW flag plane and its trailer (R121). -/
def State.rawPlane (s : State) (r : RoomId) : List Byte :=
  let t := (s.room r).te
  s.read (accFlagKey r.toNat 0) 4096 ++
    layout 64 [(0, 4, t.products), (4, 2, wrapInt t.anchor 16), (6, 1, if t.slice then 2 else 1)]

/-- ACC_DRAIN (R121, R122). SAT applies where the conversion is to a narrower format (R95). A RAW drain has the flag plane at SADDR and writes no status record (assumption 15). -/
def execAccDrain (r : RoomId) (s : State) : Host.Outcome State Fault Refusal :=
  .next (s.tensorStep r 0x08 fun w s =>
    let t := (s.room r).te
    if drainBad t w then .encoding
    else if rangesOut (drainRanges w) then .bounds
    else
      let key := fun a => spaceKey r 0 (destSpace w) a
      let rowAddr := fun i => key ((dAddr w + i * dStride w) * 64)
      let src := s
      let long := isLongDrain t w
      let s := if dRaw w then
          ((List.range 64).foldl (fun s i => s.write (rowAddr i) (src.read (accKey r.toNat (longAddr i 0)) 1024)) s).write
            (shelfKey r.toNat (dSaddr w * 64)) (src.rawPlane r)
        else
          let rows := (List.range (shapeM w)).map fun i =>
            drainRow (dFmt w) (dRtz w) (dSat w && (long || decide (fmtBits (dFmt w) < 32))) long
              ((List.range (shapeN w)).map (src.drainVal r w i))
          let s := rows.zipIdx.foldl (fun s e =>
            (s.write (rowAddr e.2) e.1.1).write (key (dScl w * 64 + e.2 * (shapeN w / 32))) e.1.2.1) s
          if dStat w then
            let sats := ((if long then [0, 1, 2, 3] else banksOf w).map (bankSat t)).sum + (rows.map fun e => e.2.2.2.2).sum
            let range := if long then (pick 4096 fun c => bitOf (src.flagRead r c) 3).length else 0
            s.write (shelfKey r.toNat (dSaddr w * 64))
              (layout 64 [(0, 4, (rows.map fun e => e.2.2.1).sum), (4, 4, (rows.map fun e => e.2.2.2.1).sum), (8, 4, sats),
                (12, 4, range), (16, 1, if long then boolNat t.inexact + 2 * boolNat t.klimit else 0)])
          else s
      let bs := if long then [0, 1, 2, 3] else banksOf w
      let s := if dStat w then s.updTe r fun t => bs.foldl (fun t b => setSat t b 0) t else s
      .done (if dKeep w then s else s.clearBanks r bs))

/-- ACC_LOAD (R121): FP32 or INT32 into 32-bit banks, RAW into the long accumulator. A RAW load takes a mode byte other than 2 as
exact, and clears INEXACT and KLIMIT (assumption 79, DESIGN CHOICE). -/
def execAccLoad (r : RoomId) (s : State) : Host.Outcome State Fault Refusal :=
  .next (s.tensorStep r 0x09 fun w s =>
    if drainResv w || !shapeOk w || (if dRaw w then !longShape w else !(dFmt w == 0x0C || dFmt w == 0x0E)) then .encoding
    else if rangesOut (drainRanges w) then .bounds
    else match s.rangesPoison r (drainRanges w) with
    | some d => .poison d
    | none =>
      let src := s
      let row := fun i => spaceKey r 0 (destSpace w) ((dAddr w + i * dStride w) * 64)
      if dRaw w then
        let plane := shelfKey r.toNat (dSaddr w * 64)
        let s := (List.range 64).foldl (fun s i => s.write (accKey r.toNat (longAddr i 0)) (src.read (row i) 1024)) s
        let s := s.write (accFlagKey r.toNat 0) ((src.read plane 4096).map (· &&& 15))
        .done (s.updTe r fun t =>
          { t with cls0 := .long, cls1 := .long, cls2 := .long, cls3 := .long, products := src.readNat (plane + 4096) 4
                   anchor := signedOf (src.readNat (plane + 4100) 2) 16, slice := src.readNat (plane + 4102) 1 == 2
                   inexact := false, klimit := false })
      else
        let s := (List.range (shapeM w)).foldl (fun s i => (List.range (2 ^ tNT w)).foldl (fun s nb =>
          s.write (accKey r.toNat (accAddr (tAccb w + i / 64 * 2 ^ tNT w + nb) (i % 64) 0))
            (src.read (row i + 256 * nb) 256)) s) s
        .done (s.updTe r fun t => (banksOf w).foldl (fun t b =>
          setBank t b (if dFmt w = 0x0C then .float else .integer)) t))

end Sys2Proof.Machine
end

