-- ==== Sys2Proof/Machine/VecFp.lean ====
section
/-! DEFINITION. Lane-wise FP32 and FP64 arithmetic, special functions, conversions and broadcasts (04 R137, R142, R143,
R145, R527). -/

namespace Sys2Proof.Machine

/-! ## Lanes -/

/-- A lane result: bits, and what it adds to INVALID, INF and SAT. -/
structure LaneRes where
  bits : Nat
  invalid : Nat := 0
  inf : Nat := 0
  sat : Nat := 0
  deriving DecidableEq, Repr

/-- A floating result with its counts (R152). -/
def fpLane (f : Nat) (ins : List Nat) (out : Nat) : LaneRes :=
  { bits := out, invalid := boolNat (opNan f ins out), inf := boolNat (opInf f ins out) }

/-- Count the lanes of a list of results. -/
def countLanes (x : Room) (rs : List LaneRes) : Room :=
  x.count (rs.map (·.invalid)).sum (rs.map (·.inf)).sum (rs.map (·.sat)).sum 0 0

/-- Write the active lanes of VD with 32-bit results, the others unchanged. -/
def lanewise (r : RoomId) (w : Nat) (f : Room → Nat → LaneRes) (s : State) : VOut :=
  let x := s.room r
  let rs := (List.range 64).map fun i => if x.active? w i then f x i else { bits := x.lane (wVD w) i }
  .ok (s.updRoom r fun x => countLanes (x.setV (wVD w) (rs.map (·.bits))) rs)

/-- The same on FP64 pairs. -/
def lanewise64 (r : RoomId) (w : Nat) (f : Room → Nat → LaneRes) (s : State) : VOut :=
  let x := s.room r
  let rs := (List.range 64).map fun i => if x.active? w i then f x i else { bits := (x.lanes64 (wVD w)).getD i 0 }
  .ok (s.updRoom r fun x => countLanes (x.setV64 (wVD w) (rs.map (·.bits))) rs)

/-- Lane i of an FP64 pair. -/
def Room.lane64 (x : Room) (n i : Nat) : Nat := x.lane n i + 2 ^ 32 * x.lane (n + 1) i

/-- FP32 operations of one and two operands. -/
def fp1 (r : RoomId) (g : Nat → Nat) (w : Nat) (s : State) : VOut :=
  lanewise r w (fun x i => fpLane 0x0C [x.lane (wVA w) i] (g (x.lane (wVA w) i))) s
def fp2 (r : RoomId) (g : Nat → Nat → Nat) (w : Nat) (s : State) : VOut :=
  lanewise r w (fun x i =>
    let a := x.lane (wVA w) i
    let b := x.lane (wVB w) i
    fpLane 0x0C [a, b] (g a b)) s

/-- FP64 operations of one and two operands. -/
def fd1 (r : RoomId) (g : Nat → Nat) (w : Nat) (s : State) : VOut :=
  lanewise64 r w (fun x i => fpLane 0x0D [x.lane64 (wVA w) i] (g (x.lane64 (wVA w) i))) s
def fd2 (r : RoomId) (g : Nat → Nat → Nat) (w : Nat) (s : State) : VOut :=
  lanewise64 r w (fun x i =>
    let a := x.lane64 (wVA w) i
    let b := x.lane64 (wVB w) i
    fpLane 0x0D [a, b] (g a b)) s

/-- A compare writes PD: one bit per active lane, inactive bits clear (R137). -/
def compareLanes (r : RoomId) (w : Nat) (p : Room → Nat → Bool) (s : State) : VOut :=
  let x := s.room r
  let bits := ((List.range 64).map fun i => if x.active? w i && p x i then 2 ^ i else 0).sum
  .ok (s.updRoom r fun x => x.setP (wPD w) bits)

/-! ## FP32 -/

/-- VADD. -/
def execVadd (r : RoomId) (s : State) : Host.Outcome State Fault Refusal :=
  .next <| s.vecStep r 0x30 fun w _ s => fp2 r (fpAdd 0x0C) w s

/-- VSUB. -/
def execVsub (r : RoomId) (s : State) : Host.Outcome State Fault Refusal :=
  .next <| s.vecStep r 0x31 fun w _ s => fp2 r (fpSub 0x0C) w s

/-- VMUL. -/
def execVmul (r : RoomId) (s : State) : Host.Outcome State Fault Refusal :=
  .next <| s.vecStep r 0x32 fun w _ s => fp2 r (fpMul 0x0C) w s

/-- VFMA: VA × VB + VC, rounded once. -/
def execVfma (r : RoomId) (s : State) : Host.Outcome State Fault Refusal :=
  .next <| s.vecStep r 0x33 fun w _ s => lanewise r w (fun x i =>
    let a := x.lane (wVA w) i
    let b := x.lane (wVB w) i
    let c := x.lane (wVC w) i
    fpLane 0x0C [a, b, c] (fpFma 0x0C a b c)) s

/-- VMIN. -/
def execVmin (r : RoomId) (s : State) : Host.Outcome State Fault Refusal :=
  .next <| s.vecStep r 0x34 fun w _ s => fp2 r (fpMin 0x0C) w s

/-- VMAX. -/
def execVmax (r : RoomId) (s : State) : Host.Outcome State Fault Refusal :=
  .next <| s.vecStep r 0x35 fun w _ s => fp2 r (fpMax 0x0C) w s

/-- VABS. -/
def execVabs (r : RoomId) (s : State) : Host.Outcome State Fault Refusal :=
  .next <| s.vecStep r 0x36 fun w _ s => fp1 r (fpAbs 0x0C) w s

/-- VNEG. -/
def execVneg (r : RoomId) (s : State) : Host.Outcome State Fault Refusal :=
  .next <| s.vecStep r 0x37 fun w _ s => fp1 r (fpNeg 0x0C) w s

/-- VCMP. -/
def execVcmp (r : RoomId) (s : State) : Host.Outcome State Fault Refusal :=
  .next <| s.vecStep r 0x38 fun w _ s => compareLanes r w (fun x i => fpCmp 0x0C (wSub w) (x.lane (wVA w) i) (x.lane (wVB w) i)) s

/-- VSEL: VA where PM is set, VB elsewhere. -/
def execVsel (r : RoomId) (s : State) : Host.Outcome State Fault Refusal :=
  .next <| s.vecStep r 0x39 fun w _ s =>
    let x := s.room r
    let out := (List.range 64).map fun i => if x.active? w i then x.lane (wVA w) i else x.lane (wVB w) i
    .ok (s.updRoom r fun x => x.setV (wVD w) out)

/-- VDIV. -/
def execVdiv (r : RoomId) (s : State) : Host.Outcome State Fault Refusal :=
  .next <| s.vecStep r 0x3A fun w _ s => fp2 r (fpDiv 0x0C) w s

/-- VSQRT. -/
def execVsqrt (r : RoomId) (s : State) : Host.Outcome State Fault Refusal :=
  .next <| s.vecStep r 0x3B fun w _ s => fp1 r (fpSqrt 0x0C) w s

/-- VSFU0: RCP, RSQRT, EXP2, LOG2, EXP, LN, TANH, SIGMOID by SUB. -/
def execVsfu0 (r : RoomId) (s : State) : Host.Outcome State Fault Refusal :=
  .next <| s.vecStep r 0x3C fun w _ s => fp1 r (sfuResult (wSub w)) w s

/-- VSFU1: ERF, SIN, COS by SUB. -/
def execVsfu1 (r : RoomId) (s : State) : Host.Outcome State Fault Refusal :=
  .next <| s.vecStep r 0x3D fun w _ s => fp1 r (sfuResult (8 + wSub w)) w s

/-! ## Conversions (R143, R527) -/

/-- A lane of VCVT, MX formats apart. -/
def cvtLane (w a : Nat) : LaneRes :=
  if wSub w = 0 then
    let (x, fl) := toInt 32 (wRtz w) (decodeFmt 0x0C a)
    { bits := x, invalid := boolNat fl.nan0, sat := boolNat fl.sat }
  else if wSub w = 1 then { bits := (toFloat 0x0C (wRtz w) false (valOfInt (signedOf a 32) 0)).1 }
  else
    let v := decodeFmt 0x0C a
    let (x, fl) := toFmt (wFmt w) (wRtz w) (wSat w) v
    { bits := fpRound 0x0C (decodeFmt (wFmt w) x), invalid := boolNat fl.nan0, inf := boolNat (fl.inf && valIsFin v)
      sat := boolNat fl.sat }

/-- A block of 32 lanes from lane `b` rounded to an MX format: the active lanes' results, in their order. -/
def cvtBlock (x : Room) (w b : Nat) : List LaneRes :=
  let act := pick 32 fun i => x.active? w (b + i)
  let (scale, es, nan, sat) := mxBlock (wFmt w) (wRtz w) (act.map fun i => decodeFmt 0x0C (x.lane (wVA w) (b + i)))
  (List.range 32).map fun i =>
    if !act.contains i then { bits := x.lane (wVD w) (b + i) }
    else if nan then fpLane 0x0C [x.lane (wVA w) (b + i)] fp32Nan
    else
      { bits := fpRound 0x0C (mxScaled scale (decodeFmt (wFmt w) (es.getD (act.idxOf i) 0)))
        sat := if act.head? = some i then sat else 0 }

/-- VCVT. -/
def execVcvt (r : RoomId) (s : State) : Host.Outcome State Fault Refusal :=
  .next <| s.vecStep r 0x3E fun w _ s =>
    if wSub w = 2 && fmtIsMx (wFmt w) then
      let x := s.room r
      let rs := cvtBlock x w 0 ++ cvtBlock x w 32
      .ok (s.updRoom r fun x => countLanes (x.setV (wVD w) (rs.map (·.bits))) rs)
    else lanewise r w (fun x i => cvtLane w (x.lane (wVA w) i)) s

/-- VBCAST: a lane of VA, G[GA], or IMM32 by SUB. -/
def execVbcast (r : RoomId) (s : State) : Host.Outcome State Fault Refusal :=
  .next <| s.vecStep r 0x3F fun w _ s =>
    lanewise r w (fun x _ =>
      { bits := if wSub w = 0 then x.lane (wVA w) (x.gReg (wGA w) % 64) else if wSub w = 1 then x.gReg (wGA w) else wImm w }) s

/-! ## FP64 pairs -/

/-- DADD. -/
def execDadd (r : RoomId) (s : State) : Host.Outcome State Fault Refusal :=
  .next <| s.vecStep r 0x40 fun w _ s => fd2 r (fpAdd 0x0D) w s

/-- DSUB. -/
def execDsub (r : RoomId) (s : State) : Host.Outcome State Fault Refusal :=
  .next <| s.vecStep r 0x41 fun w _ s => fd2 r (fpSub 0x0D) w s

/-- DMUL. -/
def execDmul (r : RoomId) (s : State) : Host.Outcome State Fault Refusal :=
  .next <| s.vecStep r 0x42 fun w _ s => fd2 r (fpMul 0x0D) w s

/-- DFMA, rounded once. -/
def execDfma (r : RoomId) (s : State) : Host.Outcome State Fault Refusal :=
  .next <| s.vecStep r 0x43 fun w _ s => lanewise64 r w (fun x i =>
    let a := x.lane64 (wVA w) i
    let b := x.lane64 (wVB w) i
    let c := x.lane64 (wVC w) i
    fpLane 0x0D [a, b, c] (fpFma 0x0D a b c)) s

/-- DMIN. -/
def execDmin (r : RoomId) (s : State) : Host.Outcome State Fault Refusal :=
  .next <| s.vecStep r 0x44 fun w _ s => fd2 r (fpMin 0x0D) w s

/-- DMAX. -/
def execDmax (r : RoomId) (s : State) : Host.Outcome State Fault Refusal :=
  .next <| s.vecStep r 0x45 fun w _ s => fd2 r (fpMax 0x0D) w s

/-- DCMP. -/
def execDcmp (r : RoomId) (s : State) : Host.Outcome State Fault Refusal :=
  .next <| s.vecStep r 0x46 fun w _ s => compareLanes r w (fun x i => fpCmp 0x0D (wSub w) (x.lane64 (wVA w) i) (x.lane64 (wVB w) i)) s

/-- DDIV. -/
def execDdiv (r : RoomId) (s : State) : Host.Outcome State Fault Refusal :=
  .next <| s.vecStep r 0x47 fun w _ s => fd2 r (fpDiv 0x0D) w s

/-- DSQRT. -/
def execDsqrt (r : RoomId) (s : State) : Host.Outcome State Fault Refusal :=
  .next <| s.vecStep r 0x48 fun w _ s => fd1 r (fpSqrt 0x0D) w s

/-- DEXP. -/
def execDexp (r : RoomId) (s : State) : Host.Outcome State Fault Refusal :=
  .next <| s.vecStep r 0x49 fun w _ s => fd1 r (sfuDResult 0) w s

/-- DLN. -/
def execDln (r : RoomId) (s : State) : Host.Outcome State Fault Refusal :=
  .next <| s.vecStep r 0x4A fun w _ s => fd1 r (sfuDResult 1) w s

/-- DCVT: FP32 to FP64 (SUB 0), FP64 to FP32 under RMODE and SAT (SUB 1). -/
def execDcvt (r : RoomId) (s : State) : Host.Outcome State Fault Refusal :=
  .next <| s.vecStep r 0x4B fun w _ s =>
    if wSub w = 0 then lanewise64 r w (fun x i => { bits := fpRound 0x0D (decodeFmt 0x0C (x.lane (wVA w) i)) }) s
    else
      lanewise r w (fun x i =>
        let v := decodeFmt 0x0D (x.lane64 (wVA w) i)
        let (b, fl) := toFloat 0x0C (wRtz w) (wSat w) v
        { bits := b, inf := boolNat (fl.inf && valIsFin v), sat := boolNat fl.sat }) s

end Sys2Proof.Machine
end

