-- ==== Sys2Proof/Machine/VecInt.lean ====
section
/-! DEFINITION. INT32 lanes, 128-bit adds, predicates, reductions, scans, compaction and permutes (04 R137, R141 to R144,
R147, R149, R150). -/

namespace Sys2Proof.Machine

/-! ## INT32 lanes (R143) -/

/-- A lane-wise operation on two INT32 lanes. -/
def int2 (r : RoomId) (g : Nat → Nat → Nat) (w : Nat) (s : State) : VOut :=
  lanewise r w (fun x i => { bits := g (x.lane (wVA w) i) (x.lane (wVB w) i) }) s

/-- Saturating signed sum, and whether it saturated. -/
def addSat32 (a b : Nat) : Nat × Bool :=
  let t := signedOf a 32 + signedOf b 32
  if t < -2 ^ 31 then (2 ^ 31, true) else if 2 ^ 31 - 1 < t then (2 ^ 31 - 1, true) else (wrapInt t 32, false)

/-- SHR: logical (SUB 0) or arithmetic (SUB 1); a count of 32 or more gives 0, or the sign. -/
def shr32 (sub a n : Nat) : Nat :=
  if sub = 0 then (if n < 32 then a / 2 ^ n else 0)
  else wrapInt (signedOf a 32 / (2 ^ (min n 31) : Nat)) 32

/-- ICMP: EQ, LT, LE signed, LTU, LEU by SUB. -/
def intCmp (sub a b : Nat) : Bool :=
  match sub with
  | 0 => a == b
  | 1 => decide (signedOf a 32 < signedOf b 32)
  | 2 => decide (signedOf a 32 ≤ signedOf b 32)
  | 3 => decide (a < b)
  | _ => decide (a ≤ b)

/-- IADD. -/
def execIadd (r : RoomId) (s : State) : Host.Outcome State Fault Refusal :=
  .next <| s.vecStep r 0x50 fun w _ s => int2 r (fun a b => (a + b) % 2 ^ 32) w s

/-- ISUB. -/
def execIsub (r : RoomId) (s : State) : Host.Outcome State Fault Refusal :=
  .next <| s.vecStep r 0x51 fun w _ s => int2 r (fun a b => (a + 2 ^ 32 - b) % 2 ^ 32) w s

/-- IMUL: the low 32 bits. -/
def execImul (r : RoomId) (s : State) : Host.Outcome State Fault Refusal :=
  .next <| s.vecStep r 0x52 fun w _ s => int2 r (fun a b => a * b % 2 ^ 32) w s

/-- IADDS: saturates and counts. -/
def execIadds (r : RoomId) (s : State) : Host.Outcome State Fault Refusal :=
  .next <| s.vecStep r 0x53 fun w _ s => lanewise r w (fun x i =>
    let (v, sat) := addSat32 (x.lane (wVA w) i) (x.lane (wVB w) i)
    { bits := v, sat := boolNat sat }) s

/-- IMIN. -/
def execImin (r : RoomId) (s : State) : Host.Outcome State Fault Refusal :=
  .next <| s.vecStep r 0x54 fun w _ s => int2 r (fun a b => if signedOf b 32 < signedOf a 32 then b else a) w s

/-- IMAX. -/
def execImax (r : RoomId) (s : State) : Host.Outcome State Fault Refusal :=
  .next <| s.vecStep r 0x55 fun w _ s => int2 r (fun a b => if signedOf a 32 < signedOf b 32 then b else a) w s

/-- AND. -/
def execIand (r : RoomId) (s : State) : Host.Outcome State Fault Refusal :=
  .next <| s.vecStep r 0x56 fun w _ s => int2 r (fun a b => a &&& b) w s

/-- OR. -/
def execIor (r : RoomId) (s : State) : Host.Outcome State Fault Refusal :=
  .next <| s.vecStep r 0x57 fun w _ s => int2 r (fun a b => a ||| b) w s

/-- XOR. -/
def execIxor (r : RoomId) (s : State) : Host.Outcome State Fault Refusal :=
  .next <| s.vecStep r 0x58 fun w _ s => int2 r (fun a b => a ^^^ b) w s

/-- SHL. -/
def execShl (r : RoomId) (s : State) : Host.Outcome State Fault Refusal :=
  .next <| s.vecStep r 0x59 fun w _ s => int2 r (fun a n => if n < 32 then a * 2 ^ n % 2 ^ 32 else 0) w s

/-- SHR. -/
def execShr (r : RoomId) (s : State) : Host.Outcome State Fault Refusal :=
  .next <| s.vecStep r 0x5A fun w _ s => int2 r (shr32 (wSub w)) w s

/-- ICMP. -/
def execIcmp (r : RoomId) (s : State) : Host.Outcome State Fault Refusal :=
  .next <| s.vecStep r 0x5B fun w _ s => compareLanes r w (fun x i => intCmp (wSub w) (x.lane (wVA w) i) (x.lane (wVB w) i)) s

/-- A group of four lanes as one 128-bit value (R150). -/
def group128 (x : Room) (n j : Nat) : Nat := ((List.range 4).map fun k => x.lane n (4 * j + k) * 2 ^ (32 * k)).sum

/-- VADD128: VA + VB group by group, modulo 2¹²⁸. -/
def execVadd128 (r : RoomId) (s : State) : Host.Outcome State Fault Refusal :=
  .next <| s.vecStep r 0x5C fun w _ s =>
    let x := s.room r
    let out := (List.range 64).map fun i => bitsOf (group128 x (wVA w) (i / 4) + group128 x (wVB w) (i / 4)) (32 * (i % 4)) 32
    .ok (s.updRoom r fun x => x.setV (wVD w) out)

/-- VIOTA: G[GA] + i. -/
def execViota (r : RoomId) (s : State) : Host.Outcome State Fault Refusal :=
  .next <| s.vecStep r 0x5D fun w _ s => lanewise r w (fun x i => { bits := (x.gReg (wGA w) + i) % 2 ^ 32 }) s

/-- PMOV: predicate logic and moves by SUB; PA and PB are the low 3 bits of VA and VB. -/
def execPmov (r : RoomId) (s : State) : Host.Outcome State Fault Refusal :=
  .next <| s.vecStep r 0x5E fun w _ s =>
    let x := s.room r
    let pa := x.pReg (wVA w % 8)
    let pb := x.pReg (wVB w % 8)
    .ok <| s.updRoom r fun x =>
      match wSub w with
      | 0 => x.setP (wPD w) (pa &&& pb)
      | 1 => x.setP (wPD w) (pa ||| pb)
      | 2 => x.setP (wPD w) (pa &&& (2 ^ 64 - 1 - pb))
      | 3 => x.setP (wPD w) (pa ^^^ pb)
      | 4 => x.setP (wPD w) (2 ^ 64 - 1 - pa)
      | 5 => x.setP (wPD w) (x.gReg (wGA w) + 2 ^ 32 * x.gReg (wGB w))
      | 6 => (x.setG (wGA w) (pa % 2 ^ 32)).setG (wGB w) (pa / 2 ^ 32)
      | _ => x.setG (wGA w) (pick 64 (bitOf pa)).length

/-! ## Reductions and scans (R144, R149) -/

def setLane (x : Room) (n i v : Nat) : Room := x.setV n ((x.lanes n).set i v)

/-- Combining step and identity of a floating reduction: 0 SUM, 1 MAX, 2 MIN. -/
def redOp (sub : Nat) : Nat → Nat → Nat :=
  match sub with
  | 0 => fpAdd 0x0C
  | 1 => fpMax 0x0C
  | _ => fpMin 0x0C
def redIdentity (sub : Nat) : Nat :=
  match sub with
  | 1 => fp32NegInf
  | 2 => fp32Inf
  | _ => 0x80000000

/-- The reduction of 64 FP32 values: the pairwise tree, or the exact sum rounded once (SUMX). -/
def reduce32 (sumx : Bool) (sub : Nat) (vs : List Nat) : Nat :=
  if sumx then fpRound 0x0C (valSum (vs.map (decodeFmt 0x0C))) else (treeFold (redOp sub) 6 vs).headD 0

/-- VRED: SUM, MAX, MIN, ISUM, SUMX, DSUM by SUB. -/
def execVred (r : RoomId) (s : State) : Host.Outcome State Fault Refusal :=
  .next <| s.vecStep r 0x60 fun w _ s =>
    let x := s.room r
    let lanes (ident : Nat) := (List.range 64).map fun i => if x.active? w i then x.lane (wVA w) i else ident
    match wSub w with
    | 3 => .ok (s.updRoom r fun x => x.setG (wGA w) ((lanes 0).sum % 2 ^ 32))
    | 5 =>
      let vs := (List.range 64).map fun i => if x.active? w i then x.lane64 (wVA w) i else fmtSign 0x0D
      let res := fpLane 0x0D vs ((treeFold (fpAdd 0x0D) 6 vs).headD 0)
      .ok (s.updRoom r fun x =>
        countLanes (setLane (setLane x (wVD w) 0 (res.bits % 2 ^ 32)) (wVD w + 1) 0 (res.bits / 2 ^ 32)) [res])
    | sub =>
      let vs := lanes (redIdentity sub)
      let res := fpLane 0x0C vs (reduce32 (sub == 4) sub vs)
      .ok (s.updRoom r fun x => countLanes (setLane x (wVD w) 0 res.bits) [res])

/-- VSCAN: exclusive prefix sums from G[GA]; the total to G[GB]. -/
def execVscan (r : RoomId) (s : State) : Host.Outcome State Fault Refusal :=
  .next <| s.vecStep r 0x61 fun w _ s =>
    let x := s.room r
    let g := x.gReg (wGA w)
    let ls := x.lanes (wVA w)
    let out := (List.range 64).map fun i => (g + (ls.take i).sum) % 2 ^ 32
    .ok (s.updRoom r fun x => (x.setV (wVD w) out).setG (wGB w) ((g + ls.sum) % 2 ^ 32))

/-! ## Compress, expand, permute (R141, R147) -/

/-- VCOMPRESS: the active lanes to the low lanes of VD (SUB 0), or to memory at G[GA] (SUB 1); their number to G[GB]. -/
def execVcompress (r : RoomId) (s : State) : Host.Outcome State Fault Refusal :=
  .next <| s.vecStep r 0x62 fun w f s =>
    let x := s.room r
    let sel := (pick 64 (x.active? w)).map (x.lane (wVA w))
    let n := sel.length
    if wSub w = 0 then .ok (s.updRoom r fun x => (x.setV (wVD w) sel).setG (wGB w) n)
    else
      let a := x.gReg (wGA w)
      if wSpace w = 2 then .encoding
      else if a % 4 ≠ 0 then .bounds
      else match writeBad (s.header r x.active) (wSpace w) a (4 * n) with
        | some e => e
        | none =>
          .ok ((s.spaceWrite r f.set (wSpace w) a (sel.flatMap (natLe 4))).updRoom r fun x =>
            (x.setG (wGA w) ((a + 4 * n) % 2 ^ 32)).setG (wGB w) n)

/-- VEXPAND: active lane i takes lane k of VA, k the number of active lanes below i. -/
def execVexpand (r : RoomId) (s : State) : Host.Outcome State Fault Refusal :=
  .next <| s.vecStep r 0x63 fun w _ s =>
    lanewise r w (fun x i => { bits := x.lane (wVA w) (pick i (x.active? w)).length }) s

/-- VPERM: VD[i] = VA[VB[i] mod 64]. -/
def execVperm (r : RoomId) (s : State) : Host.Outcome State Fault Refusal :=
  .next <| s.vecStep r 0x64 fun w _ s => lanewise r w (fun x i => { bits := x.lane (wVA w) (x.lane (wVB w) i % 64) }) s

end Sys2Proof.Machine
end

