-- ==== Sys2Proof/Machine/VecMem.lean ====
section
/-! DEFINITION. Vector accesses to the Shelf, the operand cache and staging (04 R134, R135, R140, R141). -/

namespace Sys2Proof.Machine

/-! ## VLD and VST (R140) -/

/-- Alignment of an access by the bits of its format. -/
def vAlign (bits : Nat) : Nat := if bits = 4 then 32 else if bits = 6 then 16 else 64

/-- Byte address, size, and address of the two scale bytes. -/
def vAddr (x : Room) (w : Nat) : Nat := (x.gReg (wGA w) + wImm w) % 2 ^ 32
def vSize (w : Nat) : Nat := 8 * fmtBits (wFmt w)
def vScaleAddr (x : Room) (w : Nat) : Nat := (x.gReg (wGB w) + wImm2 w) % 2 ^ 32
/-- Format code of the lanes: FP32 or INT32 by SUB[0]. -/
def laneFmt (w : Nat) : Nat := if wSub w = 1 then 0x0E else 0x0C

/-- A loaded element as a lane: the same bits when the formats agree, else converted (R94, R95); counters INVALID, INF,
SAT. -/
def loadLane (w bits scale : Nat) : Nat × Nat × Nat × Nat :=
  let f := wFmt w
  if f = laneFmt w then (bits, 0, 0, 0)
  else
    let v := if fmtIsMx f then mxScaled scale (decodeFmt f bits) else decodeFmt f bits
    let (x, fl) := toFmt (laneFmt w) (wRtz w && !(fmtIsMx f && wSub w == 0)) false v
    (x, boolNat fl.nan0, boolNat (fl.inf && valIsFin v), boolNat fl.sat)

/-- VLD. -/
def execVld (r : RoomId) (s : State) : Host.Outcome State Fault Refusal :=
  .next <| s.vecStep r 0x20 fun w fi s =>
    let x := s.room r
    let f := wFmt w
    let a := vAddr x w
    let sa := vScaleAddr x w
    if a % vAlign (fmtBits f) ≠ 0 then .bounds
    else match s.spaceBad r (wSpace w) a (vSize w), if fmtIsMx f then s.spaceBad r (wSpace w) sa 2 else none with
      | some e, _ => e
      | none, some e => e
      | none, none =>
        let bs := s.read (spaceKey r fi.set (wSpace w) a) (vSize w)
        if f = 0x0D then
          .ok (s.updRoom r fun x => x.setV64 (wVD w)
            ((List.range 64).map fun i => if x.active? w i then elemOf bs 64 i else (x.lanes64 (wVD w)).getD i 0))
        else
          let scale (i : Nat) := (memRead s.mem (spaceKey r fi.set (wSpace w) (sa + i / 32))).toNat
          let out := (List.range 64).map fun i =>
            if x.active? w i then loadLane w (elemOf bs (fmtBits f) i) (scale i) else (x.lane (wVD w) i, 0, 0, 0)
          .ok (s.updRoom r fun x => (x.setV (wVD w) (out.map (·.1))).count
            (out.map (·.2.1)).sum (out.map (·.2.2.1)).sum (out.map (·.2.2.2)).sum 0 0)

/-- Maximal runs of bytes to write, with the address of each. -/
def runsOf : Nat → List (Option Byte) → List (Nat × List Byte)
  | _, [] => []
  | a, none :: l => runsOf (a + 1) l
  | a, some b :: l =>
    match runsOf (a + 1) l with
    | (a', bs) :: rest => if a' = a + 1 then (a, b :: bs) :: rest else (a, [b]) :: (a', bs) :: rest
    | [] => [(a, [b])]

/-- Write the listed bytes of a range of a space, leaving the others. -/
def State.spaceWriteSome (s : State) (r : RoomId) (set space a : Nat) (bs : List (Option Byte)) : State :=
  (runsOf a bs).foldl (fun s e => s.spaceWrite r set space e.1 e.2) s

/-- Merge packed elements of the active lanes into old bytes: a byte no active lane touches is not written. -/
def maskedBytes (bits : Nat) (active : Nat → Bool) (old : List Byte) (xs : List Nat) : List (Option Byte) :=
  let n := xs.length
  let m := packElems bits ((List.range n).map fun i => if active i then 2 ^ bits - 1 else 0)
  let v := packElems bits ((List.range n).map fun i => if active i then xs.getD i 0 else 0)
  (List.range m.length).map fun k =>
    let mk := m.getD k 0
    if mk = 0 then none else some ((old.getD k 0 &&& ~~~mk) ||| v.getD k 0)

/-- A stored lane in a non-MX format; counters INVALID, INF, SAT. -/
def storeLane (w bits : Nat) : Nat × Nat × Nat × Nat :=
  let f := wFmt w
  if f = laneFmt w then (bits, 0, 0, 0)
  else
    let v := decodeFmt (laneFmt w) bits
    let (x, fl) := toFmt f (wRtz w) (wSat w) v
    (x, boolNat fl.nan0, boolNat (fl.inf && valIsFin v), boolNat fl.sat)

/-- One block of 32 lanes from lane `b` into an MX format, written whole with its scale when a lane is active. -/
def State.storeBlock (s : State) (r : RoomId) (set w b : Nat) (x : Room) : State :=
  let f := wFmt w
  let act := pick 32 fun i => x.active? w (b + i)
  if act.isEmpty then s
  else
    let (scale, es, _, sat) := mxBlock f (wRtz w) (act.map fun i => decodeFmt (laneFmt w) (x.lane (wVA w) (b + i)))
    let all := (List.range 32).map fun i => if act.contains i then es.getD (act.idxOf i) 0 else 0
    let s := s.spaceWrite r set (wSpace w) (vAddr x w + b * fmtBits f / 8) (packElems (fmtBits f) all)
    let s := s.spaceWrite r set (wSpace w) (vScaleAddr x w + b / 32) [BitVec.ofNat 8 scale]
    s.updRoom r fun x => x.count 0 0 sat 0 0

/-- VST. -/
def execVst (r : RoomId) (s : State) : Host.Outcome State Fault Refusal :=
  .next <| s.vecStep r 0x21 fun w fi s =>
    let x := s.room r
    let h := s.header r x.active
    let f := wFmt w
    let a := vAddr x w
    if wSpace w = 2 then .encoding
    else if a % vAlign (fmtBits f) ≠ 0 then .bounds
    else match writeBad h (wSpace w) a (vSize w), if fmtIsMx f then writeBad h (wSpace w) (vScaleAddr x w) 2 else none with
      | some e, _ => e
      | none, some e => e
      | none, none =>
        if fmtIsMx f then .ok ((s.storeBlock r fi.set w 0 x).storeBlock r fi.set w 32 x)
        else
          let old := s.read (spaceKey r fi.set (wSpace w) a) (vSize w)
          let out := if f = 0x0D then (x.lanes64 (wVA w)).map fun v => (v, 0, 0, 0)
            else (List.range 64).map fun i => if x.active? w i then storeLane w (x.lane (wVA w) i) else (0, 0, 0, 0)
          let bs := maskedBytes (fmtBits f) (x.active? w) old (out.map (·.1))
          .ok ((s.spaceWriteSome r fi.set (wSpace w) a bs).updRoom r fun x =>
            x.count (out.map (·.2.1)).sum (out.map (·.2.2.1)).sum (out.map (·.2.2.2)).sum 0 0)

/-! ## Gather and scatter (R141) -/

/-- Byte address of an element or row at a signed index, when it lies in its space with `n` bytes. -/
def indexed (space base : Nat) (index : Nat) (stride n : Nat) : Option Nat :=
  let a : Int := base + signedOf index 32 * stride
  if 0 ≤ a ∧ a + n ≤ spaceSize space then some a.toNat else none

/-- First error among checks. -/
def firstBad (l : List (Option VOut)) : Option VOut := l.findSome? id

/-- VGATHER: an index outside the space gives a zero lane and counts. -/
def execVgather (r : RoomId) (s : State) : Host.Outcome State Fault Refusal :=
  .next <| s.vecStep r 0x22 fun w fi s =>
    let x := s.room r
    let at? (i : Nat) := indexed (wSpace w) (x.gReg (wGA w)) (x.lane (wVB w) i) 4 4
    let act := pick 64 (x.active? w)
    match firstBad (act.map fun i => (at? i).bind fun a => s.spaceBad r (wSpace w) a 4) with
    | some e => e
    | none =>
      let out := (List.range 64).map fun i =>
        if x.active? w i then
          match at? i with
          | some a => s.readNat (spaceKey r fi.set (wSpace w) a) 4
          | none => 0
        else x.lane (wVD w) i
      .ok (s.updRoom r fun x => (x.setV (wVD w) out).count 0 0 0 (act.filter fun i => (at? i).isNone).length 0)

/-- VSCATTER: lanes in ascending order, so the higher lane is the one written. -/
def execVscatter (r : RoomId) (s : State) : Host.Outcome State Fault Refusal :=
  .next <| s.vecStep r 0x23 fun w fi s =>
    let x := s.room r
    let h := s.header r x.active
    let at? (i : Nat) := indexed (wSpace w) (x.gReg (wGA w)) (x.lane (wVB w) i) 4 4
    let act := pick 64 (x.active? w)
    if wSpace w = 2 then .encoding
    else match firstBad (act.map fun i => (at? i).bind fun a => writeBad h (wSpace w) a 4) with
      | some e => e
      | none =>
        let t := act.foldl (fun s i =>
          match at? i with
          | some a => s.spaceWrite r fi.set (wSpace w) a (natLe 4 (x.lane (wVA w) i))
          | none => s) s
        .ok (t.updRoom r fun x => x.count 0 0 0 (act.filter fun i => (at? i).isNone).length 0)

/-! ## Special entries (R135) -/

/-- Mark one output-staging entry with a kind and write its 64 bytes. -/
def putEntry (r : RoomId) (a kind : Nat) (bs : List Byte) (fi : Firing) (s : State) : VOut :=
  let h := s.header r (s.room r).active
  if a % 64 ≠ 0 then .bounds
  else match writeBad h 3 a 64 with
    | some e => e
    | none =>
      .ok ((s.write (stageOutKey r.toNat fi.set a) bs).updRoom r fun x =>
        { x with firings := setFiring x.firings fi.set fun f => markKinds f a 64 kind })

/-- VTOKEN: a TOKEN entry, bit 0 of byte 0 from G[GA], bytes 1 to 63 from VA. -/
def execVtoken (r : RoomId) (s : State) : Host.Outcome State Fault Refusal :=
  .next <| s.vecStep r 0x26 fun w fi s =>
    let x := s.room r
    let va := ((x.lanes (wVA w)).take 16).flatMap (natLe 4)
    putEntry r ((x.gReg (wGB w) + wImm w) % 2 ^ 32) 1 (natLe 1 (x.gReg (wGA w) % 2) ++ va.drop 1) fi s

/-- VENDM: an END entry with a zero payload. -/
def execVendm (r : RoomId) (s : State) : Host.Outcome State Fault Refusal :=
  .next <| s.vecStep r 0x27 fun w fi s =>
    putEntry r (((s.room r).gReg (wGB w) + wImm w) % 2 ^ 32) 2 (List.replicate 64 0) fi s

/-! ## Row moves (R141) -/

/-- Copy rows one lane after another; each row is read before it is written. A row whose index leaves its space moves
nothing and counts. `src` and `dst` give the row addresses of lane t. -/
def moveRows (r : RoomId) (w set : Nat) (h : Header) (src dst : Nat → Option Nat) : List Nat → Nat → State → VOut
  | [], n, s => .ok (s.updRoom r fun x => x.count 0 0 0 n 0)
  | t :: ts, n, s =>
    let len := 256 * shC w
    match src t, dst t with
    | some a, some b =>
      match s.spaceBad r (wSpace w) a len, writeBad h (shDspace w) b len with
      | some e, _ => e
      | none, some e => e
      | none, none =>
        moveRows r w set h src dst ts n
          (s.spaceWrite r set (shDspace w) b (s.read (spaceKey r set (wSpace w) a) len))
    | _, _ => moveRows r w set h src dst ts (n + 1) s

/-- Source and destination base addresses of a tile instruction (R136). -/
def tileSrc (x : Room) (w : Nat) : Nat := (x.gReg (wGA w) + wImm w) % 2 ^ 32
def tileDst (x : Room) (w : Nat) : Nat := x.gReg (wGB w)

/-- Active lanes below ROWS. -/
def tileLanes (x : Room) (w : Nat) : List Nat := (pick 64 (x.active? w)).filter fun t => decide (t < shRows w)

/-- TROWG: source row VA[t] to destination row t. -/
def execTrowg (r : RoomId) (s : State) : Host.Outcome State Fault Refusal :=
  .next <| s.vecStep r 0x28 fun w fi s =>
    let x := s.room r
    let st := 64 * shStride w
    if shDspace w = 2 then .encoding
    else moveRows r w fi.set (s.header r x.active)
      (fun t => indexed (wSpace w) (tileSrc x w) (x.lane (wVA w) t) st (256 * shC w))
      (fun t => some (tileDst x w + t * st)) (tileLanes x w) 0 s

/-- TROWS: source row t to destination row VA[t]. -/
def execTrows (r : RoomId) (s : State) : Host.Outcome State Fault Refusal :=
  .next <| s.vecStep r 0x29 fun w fi s =>
    let x := s.room r
    let st := 64 * shStride w
    if shDspace w = 2 then .encoding
    else moveRows r w fi.set (s.header r x.active) (fun t => some (tileSrc x w + t * st))
      (fun t => indexed (shDspace w) (tileDst x w) (x.lane (wVA w) t) st (256 * shC w)) (tileLanes x w) 0 s

end Sys2Proof.Machine
end

