-- ==== Sys2Proof/Machine/VecScalar.lean ====
section
/-! DEFINITION. The words of the sequencer and the scalar registers (04 R131 to R135, R142, R143, R151 to R153). -/

namespace Sys2Proof.Machine

/-! ## END_FIRE and control flow -/

/-- Entries of the output parcel that END_FIRE sends from an output, with the kinds the program wrote (R135). -/
def State.outParcel (s : State) (r : RoomId) (f : Firing) (o : Bool) : List (Entry × Bool) :=
  let h := s.header r (s.room r).active
  let n := boolNat o
  if hOutEn h n then
    (List.range (hPlenOut h n)).map fun e =>
      ({ kind := mapGet 0 f.outKinds (16 * n + e)
         payload := bytesUnit (s.read (stageOutKey r.toNat f.set (1024 * n + 64 * e)) 64), src := r, out := o }, true)
  else []

/-- END_FIRE: the parcel of each enabled output is queued to leave, the firing has ended, and the program of a second
firing starts (R132, R135, 02 R55). -/
def execEndFire (r : RoomId) (s : State) : Host.Outcome State Fault Refusal :=
  .next <|
    match s.seqWord r with
    | none => s
    | some (w, f) =>
      if wOp w ≠ 0x10 then s
      else if vecBad w then s.faultRoom r 0x04 0x21
      else
        let p0 := s.outParcel r f false
        let p1 := s.outParcel r f true
        let t := s.updRoom r fun x =>
          { x with out0 := { x.out0 with leaving := x.out0.leaving ++ p0 }
                   out1 := { x.out1 with leaving := x.out1.leaving ++ p1 }
                   firings := setFiring x.firings f.set fun g =>
                     { g with ended := true, left0 := p0.length, left1 := p1.length } }
        (t.dropDone r).startProgram r

/-- NOP. -/
def execVnop (r : RoomId) (s : State) : Host.Outcome State Fault Refusal :=
  .next (s.vecStep r 0x11 fun _ _ s => .ok s)

/-- LOOP: G[GA] ← G[GA] − 1, and on at word IMM32 if the result is not zero. -/
def execVloop (r : RoomId) (s : State) : Host.Outcome State Fault Refusal :=
  .next <| s.vecStep r 0x12 fun w _ s =>
    let v := ((s.room r).gReg (wGA w) + 2 ^ 32 - 1) % 2 ^ 32
    let t := s.updRoom r fun x => x.setG (wGA w) v
    if v = 0 then .ok t else .jump t (wImm w)

/-- BR_Z. -/
def execBrZ (r : RoomId) (s : State) : Host.Outcome State Fault Refusal :=
  .next <| s.vecStep r 0x13 fun w _ s => if (s.room r).gReg (wGA w) = 0 then .jump s (wImm w) else .ok s

/-- BR_NZ. -/
def execBrNz (r : RoomId) (s : State) : Host.Outcome State Fault Refusal :=
  .next <| s.vecStep r 0x14 fun w _ s => if (s.room r).gReg (wGA w) = 0 then .ok s else .jump s (wImm w)

/-! ## Fences (R151) -/

/-- A VLDM or VSTM of the Room whose result, or acceptance, is still to come. -/
def State.memPending (s : State) (r : RoomId) : Bool :=
  s.accesses.any fun a => match a.who, a.st with
    | .vldm r' _, _ => r' == r
    | .vstm _, .done _ _ _ => false
    | .vstm r', _ => r' == r
    | _, _ => false

/-- The conditions the SUB bits select hold: TE, and MEM; VS holds at once, since vector writes take effect in order. -/
def State.fenceMet (s : State) (r : RoomId) (sub : Nat) : Bool :=
  (!bitOf sub 0 || (s.room r).te.queue.isEmpty) && (!bitOf sub 2 || !s.memPending r)

/-- FENCE: goes on at once, or holds the sequencer. -/
def execFence (r : RoomId) (s : State) : Host.Outcome State Fault Refusal :=
  .next <| s.vecStep r 0x15 fun w _ s =>
    if s.fenceMet r (wSub w) then .ok s
    else .hold (s.updRoom r fun x => { x with ve := { x.ve with wait := .fence (BitVec.ofNat 3 (wSub w)) } })

/-- FENCE_SATISFIED: the conditions of the FENCE that holds the sequencer are met. -/
def execFenceSatisfied (r : RoomId) (s : State) : Host.Outcome State Fault Refusal :=
  .next <|
    let x := s.room r
    match x.ve.wait with
    | .fence sub =>
      if s.live && x.runst == .run && s.fenceMet r sub.toNat then
        (s.updRoom r fun x => { x with ve := { x.ve with wait := .none } }).goTo r (x.ve.pc + 1)
      else s
    | _ => s

/-! ## Status (R152) -/

/-- The record of VSTAT. -/
def vstatRecord (c : VCounters) : List Byte :=
  layout 64 [(0, 4, c.invalid.toNat), (4, 4, c.inf.toNat), (8, 4, c.sat.toNat), (12, 4, c.ignored.toNat),
    (16, 4, c.range.toNat)]

/-- VSTAT: the counters go to the Shelf and are cleared. -/
def execVstat (r : RoomId) (s : State) : Host.Outcome State Fault Refusal :=
  .next <| s.vecStep r 0x17 fun w f s =>
    let x := s.room r
    let a := (x.gReg (wGA w) + wImm w) % 2 ^ 32
    if a % 64 ≠ 0 || !inSpace 0 a 64 then .bounds
    else .ok ((s.spaceWrite r f.set 0 a (vstatRecord x.ve.cnt)).updRoom r fun x => { x with ve := { x.ve with cnt := {} } })

/-! ## Scalars (R142, R143) -/

/-- G[GA] ← G[GB] op IMM32 (SUB 0), or G[GA] op G[GB] (SUB 1). -/
def scalarOp (op : Nat → Nat → Nat) (r : RoomId) (w : Nat) (s : State) : VOut :=
  let x := s.room r
  let v := if wSub w = 0 then op (x.gReg (wGB w)) (wImm w) else op (x.gReg (wGA w)) (x.gReg (wGB w))
  .ok (s.updRoom r fun x => x.setG (wGA w) v)

/-- A left shift by an unsigned count; 32 or more gives 0 (R143). -/
def shl32 (a n : Nat) : Nat := if n < 32 then a * 2 ^ n % 2 ^ 32 else 0

/-- SMOV. -/
def execSmov (r : RoomId) (s : State) : Host.Outcome State Fault Refusal :=
  .next <| s.vecStep r 0x18 fun w _ s => .ok (s.updRoom r fun x => x.setG (wGA w) (wImm w))

/-- SADD. -/
def execSadd (r : RoomId) (s : State) : Host.Outcome State Fault Refusal :=
  .next <| s.vecStep r 0x19 fun w _ s => scalarOp (fun a b => (a + b) % 2 ^ 32) r w s

/-- SSUB. -/
def execSsub (r : RoomId) (s : State) : Host.Outcome State Fault Refusal :=
  .next <| s.vecStep r 0x1A fun w _ s => scalarOp (fun a b => (a + 2 ^ 32 - b) % 2 ^ 32) r w s

/-- SSHL. -/
def execSshl (r : RoomId) (s : State) : Host.Outcome State Fault Refusal :=
  .next <| s.vecStep r 0x1B fun w _ s => scalarOp shl32 r w s

/-- SAND. -/
def execSand (r : RoomId) (s : State) : Host.Outcome State Fault Refusal :=
  .next <| s.vecStep r 0x1C fun w _ s => scalarOp (fun a b => a &&& b) r w s

/-- SEXT: G[GA] ← lane IMM32[5:0] of VA. -/
def execSext (r : RoomId) (s : State) : Host.Outcome State Fault Refusal :=
  .next <| s.vecStep r 0x1D fun w _ s => .ok (s.updRoom r fun x => x.setG (wGA w) (x.lane (wVA w) (wImm w % 64)))

/-- SLD: G[GA] ← the word at byte G[GB] + IMM32 of SPACE. -/
def execSld (r : RoomId) (s : State) : Host.Outcome State Fault Refusal :=
  .next <| s.vecStep r 0x1E fun w f s =>
    let a := ((s.room r).gReg (wGB w) + wImm w) % 2 ^ 32
    if a % 4 ≠ 0 then .bounds
    else match s.spaceBad r (wSpace w) a 4 with
      | some e => e
      | none => .ok (s.updRoom r fun x => x.setG (wGA w) (s.readNat (spaceKey r f.set (wSpace w) a) 4))

/-! ## The runaway guard (R153) -/

/-- VE_RUNAWAY: the firing has issued 2²⁴ words. -/
def execVeRunaway (r : RoomId) (s : State) : Host.Outcome State Fault Refusal :=
  .next <|
    let x := s.room r
    if s.live && x.runst == .run && x.running.isSome && decide (2 ^ 24 ≤ x.ve.issued) then s.faultRoom r 0x04 0x23 else s

end Sys2Proof.Machine
end

