-- ==== Sys2Proof/Machine/VecTile.lean ====
section
/-! DEFINITION. Tile instructions, routing primitives and the support for exact-sum and FP64-equivalent modes
(04 R136, R146, R148 to R150). -/

namespace Sys2Proof.Machine

/-! ## Tiles in a space -/

/-- Bytes of a tile row in a format. -/
def tileRowBytes (fmt w : Nat) : Nat := 8 * shC w * fmtBits fmt

/-- The first row of a tile that lies outside its space or in poisoned Shelf units. -/
def State.tileBad (s : State) (r : RoomId) (w : Nat) : Option VOut :=
  let a := tileSrc (s.room r) w
  firstBad ((List.range (shRows w)).map fun i => s.spaceBad r (wSpace w) (a + i * 64 * shStride w) (tileRowBytes (wFmt w) w))

/-- Row i of the source tile, as element bits in FMT. -/
def State.tileRow (s : State) (r : RoomId) (w set i : Nat) : List Nat :=
  let bs := s.read (spaceKey r set (wSpace w) (tileSrc (s.room r) w + i * 64 * shStride w)) (tileRowBytes (wFmt w) w)
  (List.range (64 * shC w)).map (elemOf bs (fmtBits (wFmt w)))

/-- The same row widened to FP32. -/
def State.tileRow32 (s : State) (r : RoomId) (w set i : Nat) : List Nat :=
  (s.tileRow r w set i).map fun b => if wFmt w = 0x0C then b else fpRound 0x0C (decodeFmt (wFmt w) b)

/-! ## TILEOP (R146) -/

/-- One element: tile value `t`, vectors `v` and `c`. -/
def tileElem (w t v c : Nat) : LaneRes :=
  match wSub w with
  | 0 => fpLane 0x0C [t, v] (fpAdd 0x0C t v)
  | 1 => fpLane 0x0C [t, v] (fpSub 0x0C t v)
  | 2 => fpLane 0x0C [t, v] (fpMul 0x0C t v)
  | 3 => fpLane 0x0C [t, v] (fpMax 0x0C t v)
  | 4 => fpLane 0x0C [t, v] (fpMin 0x0C t v)
  | 5 => fpLane 0x0C [t, v, c] (fpFma 0x0C t v c)
  | _ => fpLane 0x0C [t, v] (fpSub 0x0C v t)

/-- The element narrowed to DFMT, with what the narrowing counts. -/
def tileStore (w : Nat) (x : LaneRes) : LaneRes :=
  if shDfmt w = 0x0C then x
  else
    let v := decodeFmt 0x0C x.bits
    let (b, fl) := toFloat (shDfmt w) (wRtz w) (wSat w) v
    { x with bits := b, inf := x.inf + boolNat (fl.inf && valIsFin v), sat := boolNat fl.sat }

/-- Operand vector of row `i`, column `j`: row broadcast (MODE 0) or column broadcast (MODE 1). -/
def tileVec (x : Room) (w n i j : Nat) : Nat := if shMode w then x.lane n i else x.lane (n + j / 64) (j % 64)

/-- Rows from `i` on, in ascending order; each is read before it is written. -/
def tileRows (r : RoomId) (w set : Nat) : List Nat → State → State
  | [], s => s
  | i :: is, s =>
    let x := s.room r
    let out := (s.tileRow32 r w set i).zipIdx.map fun e =>
      tileStore w (tileElem w e.1 (tileVec x w (wVB w) i e.2) (tileVec x w (wVC w) i e.2))
    tileRows r w set is
      ((s.spaceWrite r set (shDspace w) (tileDst x w + i * 64 * shStride w)
        (packElems (fmtBits (shDfmt w)) (out.map (·.bits)))).updRoom r fun x => countLanes x out)

/-- TILEOP. -/
def execTileop (r : RoomId) (s : State) : Host.Outcome State Fault Refusal :=
  .next <| s.vecStep r 0x65 fun w fi s =>
    let x := s.room r
    let h := s.header r x.active
    if shDspace w = 2 then .encoding
    else match s.tileBad r w, firstBad ((List.range (shRows w)).map fun i =>
        writeBad h (shDspace w) (tileDst x w + i * 64 * shStride w) (tileRowBytes (shDfmt w) w)) with
      | some e, _ => e
      | none, some e => e
      | none, none => .ok (tileRows r w fi.set (List.range (shRows w)) s)

/-! ## TILERED (R146) -/

/-- Combine FP32 values one after another, in order; a NaN comes out as the default NaN whatever their number (R96). -/
def chain32 (sub : Nat) : List Nat → Nat
  | [] => redIdentity sub
  | v :: vs => vs.foldl (redOp sub) (fpCanon 0x0C v)

/-- The reduction of a row: each chunk as R144, then the chunks in order; SUMX exact throughout. -/
def redRow (sub : Nat) (c : Nat) (row : List Nat) : Nat :=
  if sub = 3 then reduce32 true 0 row
  else chain32 sub ((List.range c).map fun q => reduce32 false sub ((row.drop (64 * q)).take 64))

/-- The reduction of a column over the rows, in ascending order. -/
def redColumn (sub : Nat) (col : List Nat) : Nat := if sub = 3 then reduce32 true 0 col else chain32 sub col

/-- TILERED. -/
def execTilered (r : RoomId) (s : State) : Host.Outcome State Fault Refusal :=
  .next <| s.vecStep r 0x66 fun w fi s =>
    match s.tileBad r w with
    | some e => e
    | none =>
      let rows := (List.range (shRows w)).map (s.tileRow32 r w fi.set)
      if shMode w then
        let res := (List.range (64 * shC w)).map fun j =>
          let col := rows.map fun row => row.getD j 0
          fpLane 0x0C col (redColumn (wSub w) col)
        .ok <| s.updRoom r fun x =>
          countLanes ((List.range (shC w)).foldl (fun x q =>
            x.setV (wVD w + q) (((res.drop (64 * q)).take 64).map (·.bits))) x) res
      else
        let res := rows.map fun row => fpLane 0x0C row (redRow (wSub w) (shC w) row)
        .ok <| s.updRoom r fun x =>
          countLanes (x.setV (wVD w) (res.map (·.bits) ++ (x.lanes (wVD w)).drop res.length)) res

/-! ## Expert selection and counting (R148, R149) -/

/-- Score `a` ranks above score `b` (FP32 bits): by value, NaN below −Inf, signed zeros equal. -/
def ranksAbove (a b : Nat) : Bool :=
  let x := decodeFmt 0x0C a
  let y := decodeFmt 0x0C b
  if valIsNan x then false else valIsNan y || valLt y x

/-- The best of (index, score) pairs in ascending index order: the first that none ranks above. -/
def bestScore : List (Nat × Nat) → Option (Nat × Nat)
  | [] => none
  | p :: ps => some (ps.foldl (fun b q => if ranksAbove q.2 b.2 then q else b) p)

/-- First and second choice of a row of scores. -/
def topTwo (row : List Nat) : (Nat × Nat) × (Nat × Nat) :=
  let ps := row.zipIdx.map fun e => (e.2, fpCanon 0x0C e.1)
  let a := (bestScore ps).getD (0xFFFFFFFF, fp32Nan)
  (a, (bestScore (ps.filter fun p => p.1 != a.1)).getD (0xFFFFFFFF, fp32Nan))

/-- VTOPK: indices of the choices to VD (and VD + 1), scores to VC (and VC + 1). -/
def execVtopk (r : RoomId) (s : State) : Host.Outcome State Fault Refusal :=
  .next <| s.vecStep r 0x68 fun w fi s =>
    match s.tileBad r w with
    | some e => e
    | none =>
      let tops := (List.range (shRows w)).map fun i => topTwo (s.tileRow32 r w fi.set i)
      let two := wSub w = 1
      let pad (v : Nat) (l : List Nat) := l ++ List.replicate (64 - l.length) v
      let nan (t : (Nat × Nat) × (Nat × Nat)) := t.1.2 == fp32Nan || (two && t.2.2 == fp32Nan)
      .ok <| s.updRoom r fun x =>
        let x := (x.setV (wVD w) (pad 0xFFFFFFFF (tops.map (·.1.1)))).setV (wVC w) (pad fp32Nan (tops.map (·.1.2)))
        let x := if two then
            (x.setV (wVD w + 1) (pad 0xFFFFFFFF (tops.map (·.2.1)))).setV (wVC w + 1) (pad fp32Nan (tops.map (·.2.2)))
          else x
        x.count (tops.filter nan).length 0 0 0 0

/-- An index is valid: not negative and below 64 × C. -/
def indexOk (w e : Nat) : Bool := decide (e < 64 * shC w)

/-- VHIST: counts of the indices of the active lanes, added to VD on after SUB 0 has cleared them. -/
def execVhist (r : RoomId) (s : State) : Host.Outcome State Fault Refusal :=
  .next <| s.vecStep r 0x69 fun w _ s =>
    let x := s.room r
    let es := (pick 64 (x.active? w)).map (x.lane (wVA w))
    let good := es.filter (indexOk w)
    .ok <| s.updRoom r fun x =>
      let out (q : Nat) := (List.range 64).map fun j =>
        ((if wSub w = 0 then 0 else x.lane (wVD w + q) j) + (good.filter (· == 64 * q + j)).length) % 2 ^ 32
      ((List.range (shC w)).foldl (fun y q => y.setV (wVD w + q) (out q)) x).count 0 0 0 (es.length - good.length) 0

/-- VPERMIDX, one active lane after another in ascending order. -/
def execVpermidx (r : RoomId) (s : State) : Host.Outcome State Fault Refusal :=
  .next <| s.vecStep r 0x6A fun w _ s =>
    let x := s.room r
    .ok <| s.updRoom r fun y =>
      (pick 64 (x.active? w)).foldl (fun y t =>
        let e := x.lane (wVA w) t
        if indexOk w e then
          let v := y.lane (wVB w + e / 64) (e % 64)
          setLane (setLane y (wVD w) t v) (wVB w + e / 64) (e % 64) ((v + 1) % 2 ^ 32)
        else (setLane y (wVD w) t 0xFFFFFFFF).count 0 0 0 1 0) y

/-! ## Exact-sum and FP64-equivalent support (R117, R150) -/

/-- VEXPMAX: the largest floor(log₂ |x|) of the active lanes and G[GA], to G[GB]. -/
def execVexpmax (r : RoomId) (s : State) : Host.Outcome State Fault Refusal :=
  .next <| s.vecStep r 0x6C fun w _ s =>
    let x := s.room r
    let vs := (pick 64 (x.active? w)).map fun i =>
      if wFmt w = 0x0D then decodeFmt 0x0D (x.lane64 (wVA w) i) else decodeFmt 0x0C (x.lane (wVA w) i)
    let g := signedOf (x.gReg (wGA w)) 32
    let m := (vs.filter fun v => valIsFin v && !valIsZero v).foldl (fun m v => max m (valLog2 v)) g
    let m := if wSub w = 0 && vs.any (fun v => !valIsFin v) then 0x7FFF else m
    .ok (s.updRoom r fun x => x.setG (wGB w) (wrapInt m 32))

/-- Digits d₁ to d_n of a value scaled to |a′| < 1 (R117 step 2): the remainder is ± m × 2^e. -/
def sliceDigits (neg : Bool) : Nat → Nat → Int → List Int
  | 0, _, _ => []
  | n + 1, m, e =>
    let e' := e + 7
    let d := roundUnits m e' 0 true
    let rest := if 0 ≤ e' then 0 else m % 2 ^ (-e').toNat
    (if neg then -(d : Int) else d) :: sliceDigits neg n rest e'

/-- Digits of one lane under row exponent σ, and whether it is out of range. -/
def laneDigits (sigma : Int) (v : Val) : List Int × Bool :=
  match v with
  | .fin n m e => if m = 0 then (List.replicate 7 0, false)
    else if valLog2 v ≥ sigma then (List.replicate 7 0, true) else (sliceDigits n 7 m (e - sigma), false)
  | .inf _ => (List.replicate 7 0, true)
  | .nan => (List.replicate 7 0, false)

/-- VSLICE: seven digit planes of an FP64 pair to the Shelf. The digits of a NaN lane under a finite σ are free
(assumption 3). -/
def execVslice (r : RoomId) (s : State) : Host.Outcome State Fault Refusal :=
  .next <| s.vecStep r 0x6D fun w fi s =>
    let x := s.room r
    let a (p : Nat) := (x.gReg (wGA w) + p * wImm w) % 2 ^ 32
    match firstBad ((List.range 7).map fun p => if inSpace 0 (a p) 64 then none else some VOut.bounds) with
    | some e => e
    | none =>
      let g := x.gReg (wGB w)
      let vs := (List.range 64).map fun i => decodeFmt 0x0D (x.lane64 (wVA w) i)
      let zero := g == 0x7FFF
      let ds := vs.map (laneDigits (signedOf g 32))
      let byte (p i : Nat) : Byte :=
        if zero then 0
        else if vs.getD i .nan == .nan then BitVec.ofNat 8 (Config.freeWord (s.fresh + 64 * p + i)).toNat
        else BitVec.ofNat 8 (wrapInt ((ds.getD i ([], false)).1.getD p 0) 8)
      let t := (List.range 7).foldl (fun s p =>
        s.spaceWrite r fi.set 0 (a p) ((List.range 64).map (byte p))) { s with fresh := s.fresh + 448 }
      .ok (t.updRoom r fun x => x.count 0 0 0 0 (if zero then 0 else (ds.filter (·.2)).length))

end Sys2Proof.Machine
end

