-- ==== Sys2Proof/Machine/Dispatch.lean ====
section
/-! DEFINITION. One arm per command: a direct call of its meaning, or a refusal by name. -/

namespace Sys2Proof.Machine

def exec (i : Instr) (s : State) : Host.Outcome State Fault Refusal :=
  match i with
  | .queueEntryArrival r p src out => Sys2Proof.Machine.execQueueEntryArrival r p src out s
  | .spillMoveBack r => Sys2Proof.Machine.execSpillMoveBack r s
  | .spilledEntryVisible r p => Sys2Proof.Machine.execSpilledEntryVisible r p s
  | .outputSend r o => Sys2Proof.Machine.execOutputSend r o s
  | .creditReturn r p prod o => Sys2Proof.Machine.execCreditReturn r p prod o s
  | .firingConditionsMet r => Sys2Proof.Machine.execFiringConditionsMet r s
  | .firingIssue r => Sys2Proof.Machine.execFiringIssue r s
  | .routeForward r u => Sys2Proof.Machine.execRouteForward r u s
  | .gateDiscard r u => Sys2Proof.Machine.execGateDiscard r u s
  | .stallReport r => Sys2Proof.Machine.execStallReport r s
  | .stallClassify c => Sys2Proof.Machine.execStallClassify c s
  | .hangLimitReached r => Sys2Proof.Machine.execHangLimitReached r s
  | .endTrigger r => Sys2Proof.Machine.execEndTrigger r s
  | .slotRetire r => Sys2Proof.Machine.execSlotRetire r s
  | .loadWaitResume r => Sys2Proof.Machine.execLoadWaitResume r s
  | .switchComplete r => Sys2Proof.Machine.execSwitchComplete r s
  | .cfbCtrlHalt r => Sys2Proof.Machine.execCfbCtrlHalt r s
  | .haltEffect r => Sys2Proof.Machine.execHaltEffect r s
  | .cfbCtrlResume r => Sys2Proof.Machine.execCfbCtrlResume r s
  | .cfbCtrlStart r target => Sys2Proof.Machine.execCfbCtrlStart r target s
  | .cfbCtrlForce r => Sys2Proof.Machine.execCfbCtrlForce r s
  | .cfbPortprofWrite r p v => Sys2Proof.Machine.execCfbPortprofWrite r p v s
  | .slotImageWrite r slot unit data => Sys2Proof.Machine.execSlotImageWrite r slot unit data s
  | .loadRequest w loff slot mask => Sys2Proof.Machine.execLoadRequest w loff slot mask s
  | .loaderTakeRequest w => Sys2Proof.Machine.execLoaderTakeRequest w s
  | .loadCommit w => Sys2Proof.Machine.execLoadCommit w s
  | .mma r => Sys2Proof.Machine.execMma r s
  | .mmaExact r => Sys2Proof.Machine.execMmaExact r s
  | .mmaSlice r => Sys2Proof.Machine.execMmaSlice r s
  | .accDrain r => Sys2Proof.Machine.execAccDrain r s
  | .accLoad r => Sys2Proof.Machine.execAccLoad r s
  | .accZero r => Sys2Proof.Machine.execAccZero r s
  | .tensorBlockStart r => Sys2Proof.Machine.execTensorBlockStart r s
  | .endFire r => Sys2Proof.Machine.execEndFire r s
  | .vnop r => Sys2Proof.Machine.execVnop r s
  | .vloop r => Sys2Proof.Machine.execVloop r s
  | .brZ r => Sys2Proof.Machine.execBrZ r s
  | .brNz r => Sys2Proof.Machine.execBrNz r s
  | .fence r => Sys2Proof.Machine.execFence r s
  | .fenceSatisfied r => Sys2Proof.Machine.execFenceSatisfied r s
  | .vstat r => Sys2Proof.Machine.execVstat r s
  | .smov r => Sys2Proof.Machine.execSmov r s
  | .sadd r => Sys2Proof.Machine.execSadd r s
  | .ssub r => Sys2Proof.Machine.execSsub r s
  | .sshl r => Sys2Proof.Machine.execSshl r s
  | .sand r => Sys2Proof.Machine.execSand r s
  | .sext r => Sys2Proof.Machine.execSext r s
  | .sld r => Sys2Proof.Machine.execSld r s
  | .vld r => Sys2Proof.Machine.execVld r s
  | .vst r => Sys2Proof.Machine.execVst r s
  | .vgather r => Sys2Proof.Machine.execVgather r s
  | .vscatter r => Sys2Proof.Machine.execVscatter r s
  | .vldm r => Sys2Proof.Machine.execVldm r s
  | .vstm r => Sys2Proof.Machine.execVstm r s
  | .memResponseArrival id => Sys2Proof.Machine.execMemResponseArrival id s
  | .vtoken r => Sys2Proof.Machine.execVtoken r s
  | .vendm r => Sys2Proof.Machine.execVendm r s
  | .trowg r => Sys2Proof.Machine.execTrowg r s
  | .trows r => Sys2Proof.Machine.execTrows r s
  | .vadd r => Sys2Proof.Machine.execVadd r s
  | .vsub r => Sys2Proof.Machine.execVsub r s
  | .vmul r => Sys2Proof.Machine.execVmul r s
  | .vfma r => Sys2Proof.Machine.execVfma r s
  | .vmin r => Sys2Proof.Machine.execVmin r s
  | .vmax r => Sys2Proof.Machine.execVmax r s
  | .vabs r => Sys2Proof.Machine.execVabs r s
  | .vneg r => Sys2Proof.Machine.execVneg r s
  | .vcmp r => Sys2Proof.Machine.execVcmp r s
  | .vsel r => Sys2Proof.Machine.execVsel r s
  | .vdiv r => Sys2Proof.Machine.execVdiv r s
  | .vsqrt r => Sys2Proof.Machine.execVsqrt r s
  | .vsfu0 r => Sys2Proof.Machine.execVsfu0 r s
  | .vsfu1 r => Sys2Proof.Machine.execVsfu1 r s
  | .vcvt r => Sys2Proof.Machine.execVcvt r s
  | .vbcast r => Sys2Proof.Machine.execVbcast r s
  | .dadd r => Sys2Proof.Machine.execDadd r s
  | .dsub r => Sys2Proof.Machine.execDsub r s
  | .dmul r => Sys2Proof.Machine.execDmul r s
  | .dfma r => Sys2Proof.Machine.execDfma r s
  | .dmin r => Sys2Proof.Machine.execDmin r s
  | .dmax r => Sys2Proof.Machine.execDmax r s
  | .dcmp r => Sys2Proof.Machine.execDcmp r s
  | .ddiv r => Sys2Proof.Machine.execDdiv r s
  | .dsqrt r => Sys2Proof.Machine.execDsqrt r s
  | .dexp r => Sys2Proof.Machine.execDexp r s
  | .dln r => Sys2Proof.Machine.execDln r s
  | .dcvt r => Sys2Proof.Machine.execDcvt r s
  | .iadd r => Sys2Proof.Machine.execIadd r s
  | .isub r => Sys2Proof.Machine.execIsub r s
  | .imul r => Sys2Proof.Machine.execImul r s
  | .iadds r => Sys2Proof.Machine.execIadds r s
  | .imin r => Sys2Proof.Machine.execImin r s
  | .imax r => Sys2Proof.Machine.execImax r s
  | .iand r => Sys2Proof.Machine.execIand r s
  | .ior r => Sys2Proof.Machine.execIor r s
  | .ixor r => Sys2Proof.Machine.execIxor r s
  | .shl r => Sys2Proof.Machine.execShl r s
  | .shr r => Sys2Proof.Machine.execShr r s
  | .icmp r => Sys2Proof.Machine.execIcmp r s
  | .vadd128 r => Sys2Proof.Machine.execVadd128 r s
  | .viota r => Sys2Proof.Machine.execViota r s
  | .pmov r => Sys2Proof.Machine.execPmov r s
  | .vred r => Sys2Proof.Machine.execVred r s
  | .vscan r => Sys2Proof.Machine.execVscan r s
  | .vcompress r => Sys2Proof.Machine.execVcompress r s
  | .vexpand r => Sys2Proof.Machine.execVexpand r s
  | .vperm r => Sys2Proof.Machine.execVperm r s
  | .tileop r => Sys2Proof.Machine.execTileop r s
  | .tilered r => Sys2Proof.Machine.execTilered r s
  | .vtopk r => Sys2Proof.Machine.execVtopk r s
  | .vhist r => Sys2Proof.Machine.execVhist r s
  | .vpermidx r => Sys2Proof.Machine.execVpermidx r s
  | .vexpmax r => Sys2Proof.Machine.execVexpmax r s
  | .vslice r => Sys2Proof.Machine.execVslice r s
  | .veRunaway r => Sys2Proof.Machine.execVeRunaway r s
  | .memoryAccess id => Sys2Proof.Machine.execMemoryAccess id s
  | .translationLookup id => Sys2Proof.Machine.execTranslationLookup id s
  | .walkReadReturn d k => Sys2Proof.Machine.execWalkReadReturn d k s
  | .migRewalk d k => Sys2Proof.Machine.execMigRewalk d k s
  | .migTimeout id => Sys2Proof.Machine.execMigTimeout id s
  | .patrolScrub unit found => Sys2Proof.Machine.execPatrolScrub unit found s
  | .retrainComplete stack ch => Sys2Proof.Machine.execRetrainComplete stack ch s
  | .repairHoldEnd tier unit row => Sys2Proof.Machine.execRepairHoldEnd tier unit row s
  | .annexTimeout id => Sys2Proof.Machine.execAnnexTimeout id s
  | .annexLinkDown p => Sys2Proof.Machine.execAnnexLinkDown p s
  | .annexLinkUp p => Sys2Proof.Machine.execAnnexLinkUp p s
  | .annexExtentOffer p base len => Sys2Proof.Machine.execAnnexExtentOffer p base len s
  | .annexExtentRelease p base len => Sys2Proof.Machine.execAnnexExtentRelease p base len s
  | .entryFetch sid => Sys2Proof.Machine.execEntryFetch sid s
  | .dwArbitration dw => Sys2Proof.Machine.execDwArbitration dw s
  | .dwReadData sid k => Sys2Proof.Machine.execDwReadData sid k s
  | .dwWriteAck sid k => Sys2Proof.Machine.execDwWriteAck sid k s
  | .xferEntry sid => Sys2Proof.Machine.execXferEntry sid s
  | .chainEntry sid => Sys2Proof.Machine.execChainEntry sid s
  | .layerEnd sid => Sys2Proof.Machine.execLayerEnd sid s
  | .stepEnd sid => Sys2Proof.Machine.execStepEnd sid s
  | .listLoop sid => Sys2Proof.Machine.execListLoop sid s
  | .guardEntry sid => Sys2Proof.Machine.execGuardEntry sid s
  | .listBolt sid => Sys2Proof.Machine.execListBolt sid s
  | .listWait sid => Sys2Proof.Machine.execListWait sid s
  | .listNop sid => Sys2Proof.Machine.execListNop sid s
  | .stopEntry sid => Sys2Proof.Machine.execStopEntry sid s
  | .chainHeadBlockSend w => Sys2Proof.Machine.execChainHeadBlockSend w s
  | .chainBlockDelivered r => Sys2Proof.Machine.execChainBlockDelivered r s
  | .chainBlockFree r => Sys2Proof.Machine.execChainBlockFree r s
  | .freedBytesArrival w => Sys2Proof.Machine.execFreedBytesArrival w s
  | .chainBlockedReport w => Sys2Proof.Machine.execChainBlockedReport w s
  | .gateArmWrite sid step pend hold => Sys2Proof.Machine.execGateArmWrite sid step pend hold s
  | .gateGo sid => Sys2Proof.Machine.execGateGo sid s
  | .gateAbort sid => Sys2Proof.Machine.execGateAbort sid s
  | .streamCreate q => Sys2Proof.Machine.execStreamCreate q s
  | .streamStart q => Sys2Proof.Machine.execStreamStart q s
  | .streamCancel q => Sys2Proof.Machine.execStreamCancel q s
  | .streamSnapshot q => Sys2Proof.Machine.execStreamSnapshot q s
  | .streamFree q => Sys2Proof.Machine.execStreamFree q s
  | .modelLoad q => Sys2Proof.Machine.execModelLoad q s
  | .modelLoadCopiesDone work => Sys2Proof.Machine.execModelLoadCopiesDone work s
  | .modelReplaceInPlace q => Sys2Proof.Machine.execModelReplaceInPlace q s
  | .replaceHoldReached work => Sys2Proof.Machine.execReplaceHoldReached work s
  | .replaceGroupCopied work => Sys2Proof.Machine.execReplaceGroupCopied work s
  | .modelReplaceShadow q => Sys2Proof.Machine.execModelReplaceShadow q s
  | .shadowGatePassed work => Sys2Proof.Machine.execShadowGatePassed work s
  | .modelUnload q => Sys2Proof.Machine.execModelUnload q s
  | .stewardRevision c midx route plan => Sys2Proof.Machine.execStewardRevision c midx route plan s
  | .porchOpen q => Sys2Proof.Machine.execPorchOpen q s
  | .porchDrain q => Sys2Proof.Machine.execPorchDrain q s
  | .porchClose q => Sys2Proof.Machine.execPorchClose q s
  | .porchSeqRead q => Sys2Proof.Machine.execPorchSeqRead q s
  | .porchStats q => Sys2Proof.Machine.execPorchStats q s
  | .porchBuild svc => Sys2Proof.Machine.execPorchBuild svc s
  | .porchPoll svc => Sys2Proof.Machine.execPorchPoll svc s
  | .prefixWalk svc k => Sys2Proof.Machine.execPrefixWalk svc k s
  | .chunkListFillDone seq => Sys2Proof.Machine.execChunkListFillDone seq s
  | .prefixCompaction svc => Sys2Proof.Machine.execPrefixCompaction svc s
  | .handoffCopyDone seq sid => Sys2Proof.Machine.execHandoffCopyDone seq sid s
  | .handoffTimeout seq => Sys2Proof.Machine.execHandoffTimeout seq s
  | .ctxCreate q => Sys2Proof.Machine.execCtxCreate q s
  | .ctxRelease q => Sys2Proof.Machine.execCtxRelease q s
  | .ctxStatus q => Sys2Proof.Machine.execCtxStatus q s
  | .ctxPoints q hostOk => Sys2Proof.Machine.execCtxPoints q hostOk s
  | .ctxPreempt q => Sys2Proof.Machine.execCtxPreempt q s
  | .ctxCheckpoint q => Sys2Proof.Machine.execCtxCheckpoint q s
  | .ctxRestore q => Sys2Proof.Machine.execCtxRestore q s
  | .preemptPointReached c => Sys2Proof.Machine.execPreemptPointReached c s
  | .preemptTimeout c => Sys2Proof.Machine.execPreemptTimeout c s
  | .preemptSaveDone c code => Sys2Proof.Machine.execPreemptSaveDone c code s
  | .restoreCopyDone c code => Sys2Proof.Machine.execRestoreCopyDone c code s
  | .boltopWait d => Sys2Proof.Machine.execBoltopWait d s
  | .boltopArrive d => Sys2Proof.Machine.execBoltopArrive d s
  | .boltopArriveWait d => Sys2Proof.Machine.execBoltopArriveWait d s
  | .boltopAdd d => Sys2Proof.Machine.execBoltopAdd d s
  | .boltopAcquire d => Sys2Proof.Machine.execBoltopAcquire d s
  | .boltopSet d => Sys2Proof.Machine.execBoltopSet d s
  | .boltopRead d => Sys2Proof.Machine.execBoltopRead d s
  | .boltopReadPhase d => Sys2Proof.Machine.execBoltopReadPhase d s
  | .boltopFault d => Sys2Proof.Machine.execBoltopFault d s
  | .boltResponseArrival k => Sys2Proof.Machine.execBoltResponseArrival k s
  | .boltTriggerNotice r => Sys2Proof.Machine.execBoltTriggerNotice r s
  | .boltWaitReport b k => Sys2Proof.Machine.execBoltWaitReport b k s
  | .boltConfig q => Sys2Proof.Machine.execBoltConfig q s
  | .boltRead q => Sys2Proof.Machine.execBoltRead q s
  | .boltAbort q => Sys2Proof.Machine.execBoltAbort q s
  | .flitReceive p f => Sys2Proof.Machine.execFlitReceive p f s
  | .portTrainingDone p t => Sys2Proof.Machine.execPortTrainingDone p t s
  | .laneRetire p lane => Sys2Proof.Machine.execLaneRetire p lane s
  | .portDown p reason => Sys2Proof.Machine.execPortDown p reason s
  | .portRetrainRetry p => Sys2Proof.Machine.execPortRetrainRetry p s
  | .slotReturn dir slot => Sys2Proof.Machine.execSlotReturn dir slot s
  | .rdReq p => Sys2Proof.Machine.execRdReq p s
  | .wrReq p => Sys2Proof.Machine.execWrReq p s
  | .rdRsp p => Sys2Proof.Machine.execRdRsp p s
  | .wrAck p => Sys2Proof.Machine.execWrAck p s
  | .boltReq p => Sys2Proof.Machine.execBoltReq p s
  | .boltRsp p => Sys2Proof.Machine.execBoltRsp p s
  | .treeArrive p => Sys2Proof.Machine.execTreeArrive p s
  | .treeRelease p => Sys2Proof.Machine.execTreeRelease p s
  | .treeAbort p => Sys2Proof.Machine.execTreeAbort p s
  | .treeRefused p => Sys2Proof.Machine.execTreeRefused p s
  | .gwrReq p => Sys2Proof.Machine.execGwrReq p s
  | .gwrAck p => Sys2Proof.Machine.execGwrAck p s
  | .treeSet job index t => Sys2Proof.Machine.execTreeSet job index t s
  | .groupSet e clear => Sys2Proof.Machine.execGroupSet e clear s
  | .detourSet job entries => Sys2Proof.Machine.execDetourSet job entries s
  | .heartbeatMsg job => Sys2Proof.Machine.execHeartbeatMsg job s
  | .hbAckMsg job node => Sys2Proof.Machine.execHbAckMsg job node s
  | .suspectMsg job node sender => Sys2Proof.Machine.execSuspectMsg job node sender s
  | .lostMsg job node => Sys2Proof.Machine.execLostMsg job node s
  | .placeMsg job midx sender route version m => Sys2Proof.Machine.execPlaceMsg job midx sender route version m s
  | .statsMsg job midx route loads dropped invalid => Sys2Proof.Machine.execStatsMsg job midx route loads dropped invalid s
  | .probePkt p => Sys2Proof.Machine.execProbePkt p s
  | .replayEnd p => Sys2Proof.Machine.execReplayEnd p s
  | .replayEndAck p => Sys2Proof.Machine.execReplayEndAck p s
  | .neighbourUnreachable dir => Sys2Proof.Machine.execNeighbourUnreachable dir s
  | .heartbeatTick job => Sys2Proof.Machine.execHeartbeatTick job s
  | .probeTimeout job node => Sys2Proof.Machine.execProbeTimeout job node s
  | .managerLost job => Sys2Proof.Machine.execManagerLost job s
  | .remoteTimeout south rtag => Sys2Proof.Machine.execRemoteTimeout south rtag s
  | .fabConfig q => Sys2Proof.Machine.execFabConfig q s
  | .fabRole q => Sys2Proof.Machine.execFabRole q s
  | .portStatus q => Sys2Proof.Machine.execPortStatus q s
  | .portCtlDisable q => Sys2Proof.Machine.execPortCtlDisable q s
  | .portCtlEnable q => Sys2Proof.Machine.execPortCtlEnable q s
  | .hostWindowRead unit => Sys2Proof.Machine.execHostWindowRead unit s
  | .hostWindowWrite unit data bad => Sys2Proof.Machine.execHostWindowWrite unit data bad s
  | .hwinCreate q => Sys2Proof.Machine.execHwinCreate q s
  | .hwinRemove q => Sys2Proof.Machine.execHwinRemove q s
  | .vfFunctionLevelReset c => Sys2Proof.Machine.execVfFunctionLevelReset c s
  | .pfFunctionLevelReset t => Sys2Proof.Machine.execPfFunctionLevelReset t s
  | .hotReset t => Sys2Proof.Machine.execHotReset t s
  | .hostLinkLoss t => Sys2Proof.Machine.execHostLinkLoss t s
  | .numvfsWrite n => Sys2Proof.Machine.execNumvfsWrite n s
  | .msixVectorUnmask fn vec => Sys2Proof.Machine.execMsixVectorUnmask fn vec s
  | .inflowFlit p f => Sys2Proof.Machine.execInflowFlit p f s
  | .inflowRecordWrite p => Sys2Proof.Machine.execInflowRecordWrite p s
  | .inflowConsRead p => Sys2Proof.Machine.execInflowConsRead p s
  | .inflowAttach q => Sys2Proof.Machine.execInflowAttach q s
  | .inflowDetach q => Sys2Proof.Machine.execInflowDetach q s
  | .inflowDetachEffect p => Sys2Proof.Machine.execInflowDetachEffect p s
  | .keySetupWrite who v => Sys2Proof.Machine.execKeySetupWrite who v s
  | .keyUnlockWrite who v => Sys2Proof.Machine.execKeyUnlockWrite who v s
  | .devResetWarm who v t => Sys2Proof.Machine.execDevResetWarm who v t s
  | .devResetClrFails who v => Sys2Proof.Machine.execDevResetClrFails who v s
  | .devFwGo who v => Sys2Proof.Machine.execDevFwGo who v s
  | .evrUnfreeze who v => Sys2Proof.Machine.execEvrUnfreeze who v s
  | .lbxCtrlReset who v => Sys2Proof.Machine.execLbxCtrlReset who v s
  | .lbxDoorbell who v => Sys2Proof.Machine.execLbxDoorbell who v s
  | .lbxRspConsWrite who v => Sys2Proof.Machine.execLbxRspConsWrite who v s
  | .bltHostopAdd c v => Sys2Proof.Machine.execBltHostopAdd c v s
  | .bltHostopArrive c v => Sys2Proof.Machine.execBltHostopArrive c v s
  | .regLowWordRead who off size => Sys2Proof.Machine.execRegLowWordRead who off size s
  | .regLowWordWrite who off v => Sys2Proof.Machine.execRegLowWordWrite who off v s
  | .registerWrite who off size v t => Sys2Proof.Machine.execRegisterWrite who off size v t s
  | .tvPatrol => Sys2Proof.Machine.execTvPatrol s
  | .violationQueueDrain => Sys2Proof.Machine.execViolationQueueDrain s
  | .letterboxEnableCheck l => Sys2Proof.Machine.execLetterboxEnableCheck l s
  | .letterboxRequestTake l hostOk => Sys2Proof.Machine.execLetterboxRequestTake l hostOk s
  | .responseRingWrite l hostOk => Sys2Proof.Machine.execResponseRingWrite l hostOk s
  | .vectorHoldoffEnd l evt => Sys2Proof.Machine.execVectorHoldoffEnd l evt s
  | .hello q => Sys2Proof.Machine.execHello q s
  | .paramGet q => Sys2Proof.Machine.execParamGet q s
  | .paramSet q => Sys2Proof.Machine.execParamSet q s
  | .diagRead q => Sys2Proof.Machine.execDiagRead q s
  | .powerSet q => Sys2Proof.Machine.execPowerSet q s
  | .powerRead q => Sys2Proof.Machine.execPowerRead q s
  | .repairListGet q hostOk => Sys2Proof.Machine.execRepairListGet q hostOk s
  | .repairListPut q hostOk => Sys2Proof.Machine.execRepairListPut q hostOk s
  | .attest q hostOk => Sys2Proof.Machine.execAttest q hostOk s
  | .startReport q => Sys2Proof.Machine.execStartReport q s
  | .pageMap q => Sys2Proof.Machine.execPageMap q s
  | .pageUnmap q => Sys2Proof.Machine.execPageUnmap q s
  | .pageProt q => Sys2Proof.Machine.execPageProt q s
  | .pageMove q => Sys2Proof.Machine.execPageMove q s
  | .tlbInval q => Sys2Proof.Machine.execTlbInval q s
  | .slotLoad q => Sys2Proof.Machine.execSlotLoad q s
  | .cfbAccessRead q => Sys2Proof.Machine.execCfbAccessRead q s
  | .cfbAccessWrite q => Sys2Proof.Machine.execCfbAccessWrite q s
  | .debugRead q => Sys2Proof.Machine.execDebugRead q s
  | .watchdogExpiry core => Sys2Proof.Machine.execWatchdogExpiry core s
  | .powerLoopPass t => Sys2Proof.Machine.execPowerLoopPass t s
  | .hostRstAssert => Sys2Proof.Machine.execHostRstAssert s
  | .hostRstRelease t => Sys2Proof.Machine.execHostRstRelease t s
  | .fwVerifyDone failed => Sys2Proof.Machine.execFwVerifyDone failed s
  | .verifyTimeout => Sys2Proof.Machine.execVerifyTimeout s
  | .fwServing => Sys2Proof.Machine.execFwServing s
  | .fwInitTimeout detail => Sys2Proof.Machine.execFwInitTimeout detail s
  | .enableTimeout => Sys2Proof.Machine.execEnableTimeout s
  | .helloTimeout => Sys2Proof.Machine.execHelloTimeout s
  | .startSuccess => Sys2Proof.Machine.execStartSuccess s
  | .startRecordTimeout => Sys2Proof.Machine.execStartRecordTimeout s
  | .bmcRecordWriteTimeout => Sys2Proof.Machine.execBmcRecordWriteTimeout s
  | .errorArrival e => Sys2Proof.Machine.execErrorArrival e s
  | .errorEpisode took => Sys2Proof.Machine.execErrorEpisode took s
  | .overflowSweep => Sys2Proof.Machine.execOverflowSweep s
  | .fatalLatch hostOk => Sys2Proof.Machine.execFatalLatch hostOk s
  | .bmcPushInterrupt => Sys2Proof.Machine.execBmcPushInterrupt s
  | .bmcAckPushed => Sys2Proof.Machine.execBmcAckPushed s
  | .bmcAckSupplied => Sys2Proof.Machine.execBmcAckSupplied s
  | .bmcAckStored => Sys2Proof.Machine.execBmcAckStored s
  | .bmcCoolantWrite v => Sys2Proof.Machine.execBmcCoolantWrite v s
  | .coolantAbsent => Sys2Proof.Machine.execCoolantAbsent s
  | .i3cPrivateWrite off data => Sys2Proof.Machine.execI3cPrivateWrite off data s
  | .entdaa addr => Sys2Proof.Machine.execEntdaa addr s
  | .setdasa static addr => Sys2Proof.Machine.execSetdasa static addr s
  | .rstdaa => Sys2Proof.Machine.execRstdaa s
  | .enec events => Sys2Proof.Machine.execEnec events s
  | .disec events => Sys2Proof.Machine.execDisec events s
  | .getstatus => Sys2Proof.Machine.execGetstatus s
  | .getpid => Sys2Proof.Machine.execGetpid s
  | .getbcr => Sys2Proof.Machine.execGetbcr s
  | .getdcr => Sys2Proof.Machine.execGetdcr s
  | .getmxds => Sys2Proof.Machine.execGetmxds s
  | .pwrBrakeAssert => Sys2Proof.Machine.execPwrBrakeAssert s
  | .pwrBrakeRelease => Sys2Proof.Machine.execPwrBrakeRelease s
  | .trayLatchAssert => Sys2Proof.Machine.execTrayLatchAssert s
  | .sidebandChatter pin => Sys2Proof.Machine.execSidebandChatter pin s
  | .chatterEnd pin => Sys2Proof.Machine.execChatterEnd pin s
  | .sidebandHeldReport pin => Sys2Proof.Machine.execSidebandHeldReport pin s
  | .thermTrip d => Sys2Proof.Machine.execThermTrip d s
  | .pwrOkAssert t => Sys2Proof.Machine.execPwrOkAssert t s
  | .pwrOkDeassert => Sys2Proof.Machine.execPwrOkDeassert s
  | .refclkLoss ref => Sys2Proof.Machine.execRefclkLoss ref s
  | .boltop r => Sys2Proof.Machine.execBoltop r s
  | .triggerRegistrationServed r => Sys2Proof.Machine.execTriggerRegistrationServed r s
  | .referenceClockRecovered ref t => Sys2Proof.Machine.execReferenceClockRecovered ref t s
  | .trayLatchRelease => Sys2Proof.Machine.execTrayLatchRelease s

end Sys2Proof.Machine
end

