-- ==== Sys2Proof/Safety.lean ====
section
/-! DEFINITION. What counts as a safe run: every step answers a next state, and the invariants claims use. -/

namespace Sys2Proof.Machine

/-- The step answers a next state. -/
def Steps (s : State) : Prop := ∃ t, step s = .next t

/-- The memory is in its canonical form: keys rising, no zero byte listed. -/
def MemoryCanonical (s : State) : Prop := memWf s.mem = true

/-- The queues of errors and of violations hold no more than their places (15 R474: 16; 12 R397: 8). -/
def QueuesBounded (s : State) : Prop := s.errQ.length ≤ 16 ∧ s.violQ.length ≤ 8

/-- The security version number of the fuses is one that 64 fuses show (14 R456). -/
def SvnShown (s : State) : Prop := s.fuseSvn ≤ 64

/-- The page tables lie apart (05 R177 to R179; places: assumption 28): each namespace has the root of its own number; every word
that is not zero belongs to a root, a leaf table or a subpage table; a directory entry names a leaf table, a leaf entry with
SUB = 1 a subpage table, and no two entries name one table. -/
structure TablesFit (rs : Map Nat) (ws : Map W64) (lt st : List Nat) : Prop where
  roots : ∀ n r, mapFind rs n = some r → n < 192 ∧ r = n
  leafTabs : ∀ t ∈ lt, 192 ≤ t ∧ t < 2 ^ 16
  subTabs : ∀ t ∈ st, 192 ≤ t / 128 ∧ t < 2 ^ 23 ∧ t / 128 ∉ lt
  words : ∀ k, mapGet 0 ws k ≠ 0 → (mapFind rs (k / 4096)).isSome ∨ k / 4096 ∈ lt ∨ k / 32 ∈ st
  dirs : ∀ k, (mapFind rs (k / 4096)).isSome → mapGet 0 ws k ≠ 0 → eValid (mapGet 0 ws k) ∧ eTable (mapGet 0 ws k) ∈ lt
  dirsApart : ∀ k l, (mapFind rs (k / 4096)).isSome → (mapFind rs (l / 4096)).isSome → mapGet 0 ws k ≠ 0 → mapGet 0 ws l ≠ 0 →
    eTable (mapGet 0 ws k) = eTable (mapGet 0 ws l) → k = l
  subs : ∀ k, k / 4096 ∈ lt → eValid (mapGet 0 ws k) → eSub (mapGet 0 ws k) → eSubtab (mapGet 0 ws k) ∈ st
  subsApart : ∀ k l, k / 4096 ∈ lt → l / 4096 ∈ lt → eValid (mapGet 0 ws k) → eSub (mapGet 0 ws k) →
    eValid (mapGet 0 ws l) → eSub (mapGet 0 ws l) → eSubtab (mapGet 0 ws k) = eSubtab (mapGet 0 ws l) → k = l

def TablesApart (s : State) : Prop := TablesFit s.roots s.tables s.leafTabs s.subTabs

/-- What every command keeps from `s` to `t`: the queue of commands, the canonical form of memory, the bounds of the error
and violation queues, the page tables apart, and a fuse never clears. -/
structure Kept (s t : State) : Prop where
  queue : t.pending = s.pending
  memory : MemoryCanonical s → MemoryCanonical t
  errors : s.errQ.length ≤ 16 → t.errQ.length ≤ 16
  violations : s.violQ.length ≤ 8 → t.violQ.length ≤ 8
  fuses : SvnShown s → SvnShown t ∧ s.fuseSvn ≤ t.fuseSvn
  tables : TablesApart s → TablesApart t

/-- The same of an outcome. -/
def OKept (s : State) (o : Host.Outcome State Fault Refusal) : Prop := ∀ t, o = .next t → Kept s t

/-- The same of what a vector word answers. -/
def VKept (s : State) : VOut → Prop
  | .ok t => Kept s t
  | .jump t _ => Kept s t
  | .hold t => Kept s t
  | _ => True

/-- The same of what a tensor instruction answers. -/
def TKept (s : State) : TOut → Prop
  | .done t => Kept s t
  | .begun t => Kept s t
  | _ => True

/-- The same of work of the Porch, whether it stops or not. -/
def PKept (s₀ : State) {α : Type} (m : Pm α) (s : State) : Prop :=
  match m s with
  | .ok _ t => Kept s₀ t
  | .error _ t => Kept s₀ t

end Sys2Proof.Machine
end

