-- ==== Sys2Proof/Safety/Vector.lean ====
section
/-! DEFINITION. What statements about vector words say: a word ready to issue, and what it leaves in the Room, in memory
and everywhere else. -/

namespace Sys2Proof.Machine

/-! ## Frames -/

/-- Memory and poison outside the bytes `inside` are as before. -/
structure MemFrame (s t : State) (inside : Nat → Prop) : Prop where
  bytes : ∀ k, ¬inside k → memRead t.mem k = memRead s.mem k
  units : ∀ u, (∀ k, k / 64 = u → ¬inside k) → (u ∈ t.poison ↔ u ∈ s.poison)

/-- The bytes `bs` stand at key `a`, and every byte outside them reads as before. -/
structure Stored (s t : State) (a : Nat) (bs : List Byte) : Prop where
  value : memReads t.mem a bs.length = bs
  frame : MemFrame s t fun k => a ≤ k ∧ k < a + bs.length

/-- From `s` to `t` only Room `r`, memory, the free values taken, and the error queue (the word behind may fault the Room)
have changed. -/
structure RoomFrame (s t : State) (r : RoomId) : Prop where
  others : ∀ q, q ≠ r → t.room q = s.room q
  rest : t = { s with rooms := t.rooms, mem := t.mem, poison := t.poison, fresh := t.fresh, errQ := t.errQ
                      errOvf := t.errOvf, reported := t.reported }

/-- In the Room itself only the vector engine, the tensor queue, the firings and the fault fields have changed: its ports,
slots, steering, counters and accumulators are as before. -/
def SeqRoom (x y : Room) : Prop :=
  y = { x with ve := y.ve, te := { x.te with queue := y.te.queue }, firings := y.firings, runst := y.runst
               firePending := y.firePending, switching := y.switching, fault := y.fault, cause := y.cause }

/-! ## A word that is ready -/

/-- Vector word `w`, of opcode `op` and firing `fi`, is the next of Room `r`: a program runs and the sequencer is free,
no register it names waits for a load, and its encoding is good (04 R138, R153). -/
structure VecReady (s : State) (r : RoomId) (op w : Nat) (fi : Firing) : Prop where
  word : s.seqWord r = some (w, fi)
  opcode : wOp w = op
  ready : ∀ n ∈ vecRegs w, n ∉ s.pendingRegs r
  good : vecBad w = false

/-! ## Register values after a word -/

/-- Lane values as the Room holds them, for a word that leaves its vector registers alone. -/
def vOld (x : Room) (n i : Nat) : Nat := x.lane n i

/-- Lane values after a write of register `vd` by `f`. -/
def vNew (x : Room) (vd : Nat) (f : Nat → Nat) (n i : Nat) : Nat := if n = vd then f i % 2 ^ 32 else x.lane n i

/-- A write of the active lanes of the destination by `f`, the others unchanged (04 R137). -/
def vMask (x : Room) (w : Nat) (f : Nat → Nat) (n i : Nat) : Nat :=
  if n = wVD w ∧ x.active? w i then f i % 2 ^ 32 else x.lane n i

/-- The same on the FP64 pair VD, VD + 1: low words in VD, high words in VD + 1 (04 R137). -/
def vMask64 (x : Room) (w : Nat) (f : Nat → Nat) (n i : Nat) : Nat :=
  if n = wVD w ∧ x.active? w i then f i % 2 ^ 32
  else if n = wVD w + 1 ∧ x.active? w i then f i / 2 ^ 32 % 2 ^ 32 else x.lane n i

/-- Scalar and predicate registers after a write of register `n`; G0 reads zero and P0 all ones (04 R129). -/
def gNew (x : Room) (n v : Nat) (k : Nat) : Nat := if k = n ∧ n ≠ 0 then v % 2 ^ 32 else x.gReg k
def pNew (x : Room) (n v : Nat) (k : Nat) : Nat := if k = n ∧ n ≠ 0 then v % 2 ^ 64 else x.pReg k

/-- Lanes among the active that a predicate picks: their number. -/
def lanesOf (x : Room) (w : Nat) (f : Nat → Bool) : Nat := (pick 64 fun i => x.active? w i && f i).length

/-- Counters after lane results: INVALID, INF and SAT count the active lanes (04 R152). -/
def cntRes (x : Room) (w : Nat) (f : Nat → LaneRes) : VCounters :=
  let act := pick 64 (x.active? w)
  addCnt x.ve.cnt (act.map fun i => (f i).invalid).sum (act.map fun i => (f i).inf).sum (act.map fun i => (f i).sat).sum 0 0

/-- VPERMIDX lane by lane in ascending order: a lane with a good index takes its cursor and advances it, the others take
0xFFFFFFFF (04 R149). -/
def permIdx (x : Room) (w : Nat) : Nat → Nat → Nat :=
  (pick 64 (x.active? w)).foldl (fun v t n i =>
    let e := x.lane (wVA w) t
    if indexOk w e then
      if n = wVB w + e / 64 ∧ i = e % 64 then (v n i + 1) % 2 ^ 32
      else if n = wVD w ∧ i = t then v (wVB w + e / 64) (e % 64) else v n i
    else if n = wVD w ∧ i = t then 0xFFFFFFFF else v n i) fun n i => x.lane n i

/-! ## What a word leaves -/

/-- Room `r` after a word: lanes `v`, scalars `g`, predicates `p`, counters `c`; nothing outside the Room has changed.
Memory is apart. -/
structure VecRegs (s t : State) (r : RoomId) (v : Nat → Nat → Nat) (g p : Nat → Nat) (c : VCounters) : Prop where
  lanes : ∀ n i, i < 64 → (t.room r).lane n i = v n i
  scalars : ∀ n, (t.room r).gReg n = g n
  preds : ∀ n, (t.room r).pReg n = p n
  counters : (t.room r).ve.cnt = c
  room : SeqRoom (s.room r) (t.room r)
  frame : RoomFrame s t r

/-- The same for a word that touches no memory and takes no free value. -/
structure VecOnly (s t : State) (r : RoomId) (v : Nat → Nat → Nat) (g p : Nat → Nat) (c : VCounters) : Prop where
  regs : VecRegs s t r v g p c
  memory : t.mem = s.mem
  poison : t.poison = s.poison
  free : t.fresh = s.fresh

/-- The command runs as a lane-wise word: each active lane of VD takes its result, every other lane and register stays, and
the counters count. -/
def RunsLanes (c : Instr) (s : State) (r : RoomId) (w : Nat) (f : Nat → LaneRes) : Prop :=
  ∃ t, exec c s = .next t ∧ VecOnly s t r (vMask (s.room r) w fun i => (f i).bits) (s.room r).gReg (s.room r).pReg (cntRes (s.room r) w f)

/-- The same on FP64 pairs. -/
def RunsLanes64 (c : Instr) (s : State) (r : RoomId) (w : Nat) (f : Nat → LaneRes) : Prop :=
  ∃ t, exec c s = .next t ∧ VecOnly s t r (vMask64 (s.room r) w fun i => (f i).bits) (s.room r).gReg (s.room r).pReg (cntRes (s.room r) w f)

/-- The command writes scalar register `n` and nothing else. -/
def RunsScalar (c : Instr) (s : State) (r : RoomId) (n v : Nat) : Prop :=
  ∃ t, exec c s = .next t ∧ VecOnly s t r (vOld (s.room r)) (gNew (s.room r) n v) (s.room r).pReg (s.room r).ve.cnt

/-- The command writes predicate register `n` and nothing else. -/
def RunsPred (c : Instr) (s : State) (r : RoomId) (n v : Nat) : Prop :=
  ∃ t, exec c s = .next t ∧ VecOnly s t r (vOld (s.room r)) (s.room r).gReg (pNew (s.room r) n v) (s.room r).ve.cnt

/-- The command writes vector registers, scalars and counters as said, and nothing else. -/
def RunsRegs (c : Instr) (s : State) (r : RoomId) (v : Nat → Nat → Nat) (g : Nat → Nat) (k : VCounters) : Prop :=
  ∃ t, exec c s = .next t ∧ VecOnly s t r v g (s.room r).pReg k

/-- The sequencer stands at word `p` afterwards, unless that word is a tensor word, which it places at once (04 R138). -/
def GoesTo (s t : State) (r : RoomId) (p : Nat) : Prop :=
  isTensorOp (wOp (s.word r (s.room r).active p)) = false → (t.room r).ve.pc = p

/-- A Room has faulted with a class and code (04 R153, 05 R188): RUNST is FAULT, the error is raised for it, and its
vector registers, memory and everything else stand. -/
structure Faulted (s t : State) (r : RoomId) (cls code : Nat) : Prop where
  runst : (t.room r).runst = .fault
  cause : (t.room r).cause = some (cls, code)
  same : t.room r = { s.room r with runst := .fault, cause := some (cls, code), firePending := false, switching := none
                                    fault := (t.room r).fault }
  raised : ∃ a, t = { (s.roomError r cls code a) with rooms := t.rooms }
  others : ∀ q, q ≠ r → t.room q = s.room q

/-- `c` is the command of the vector words with opcode `op` in Room `r` (R142), BOLTOP, END_FIRE and the accesses among
them. -/
def VecCommand (r : RoomId) (op : Nat) (c : Instr) : Prop :=
  (op, c) ∈ [(0x10, .endFire r), (0x11, .vnop r), (0x12, .vloop r), (0x13, .brZ r), (0x14, .brNz r), (0x15, .fence r), (0x16, .boltop r),
    (0x17, .vstat r), (0x18, .smov r), (0x19, .sadd r), (0x1A, .ssub r), (0x1B, .sshl r), (0x1C, .sand r), (0x1D, .sext r),
    (0x1E, .sld r), (0x20, .vld r), (0x21, .vst r), (0x22, .vgather r), (0x23, .vscatter r), (0x24, .vldm r), (0x25, .vstm r),
    (0x26, .vtoken r), (0x27, .vendm r), (0x28, .trowg r), (0x29, .trows r), (0x30, .vadd r), (0x31, .vsub r),
    (0x32, .vmul r), (0x33, .vfma r), (0x34, .vmin r), (0x35, .vmax r), (0x36, .vabs r), (0x37, .vneg r), (0x38, .vcmp r),
    (0x39, .vsel r), (0x3A, .vdiv r), (0x3B, .vsqrt r), (0x3C, .vsfu0 r), (0x3D, .vsfu1 r), (0x3E, .vcvt r),
    (0x3F, .vbcast r), (0x40, .dadd r), (0x41, .dsub r), (0x42, .dmul r), (0x43, .dfma r), (0x44, .dmin r), (0x45, .dmax r),
    (0x46, .dcmp r), (0x47, .ddiv r), (0x48, .dsqrt r), (0x49, .dexp r), (0x4A, .dln r), (0x4B, .dcvt r), (0x50, .iadd r),
    (0x51, .isub r), (0x52, .imul r), (0x53, .iadds r), (0x54, .imin r), (0x55, .imax r), (0x56, .iand r), (0x57, .ior r),
    (0x58, .ixor r), (0x59, .shl r), (0x5A, .shr r), (0x5B, .icmp r), (0x5C, .vadd128 r), (0x5D, .viota r), (0x5E, .pmov r),
    (0x60, .vred r), (0x61, .vscan r), (0x62, .vcompress r), (0x63, .vexpand r), (0x64, .vperm r), (0x65, .tileop r),
    (0x66, .tilered r), (0x68, .vtopk r), (0x69, .vhist r), (0x6A, .vpermidx r), (0x6C, .vexpmax r), (0x6D, Instr.vslice r)]

/-- What moving on to the next word leaves alone: every register and counter of the engine, memory, free values, and
everything outside the Room but the error queue. -/
structure SeqFrame (s t : State) (r : RoomId) : Prop where
  lanes : (t.room r).ve.v = (s.room r).ve.v
  scalars : (t.room r).ve.g = (s.room r).ve.g
  preds : (t.room r).ve.p = (s.room r).ve.p
  counters : (t.room r).ve.cnt = (s.room r).ve.cnt
  memory : t.mem = s.mem
  poison : t.poison = s.poison
  free : t.fresh = s.fresh
  room : SeqRoom (s.room r) (t.room r)
  frame : RoomFrame s t r

end Sys2Proof.Machine
end

