-- ==== Sys2Proof/Safety/Room.lean ====
section
/-! DEFINITION. What statements about a Room's queues, slots and tensor engine say. -/

namespace Sys2Proof.Machine

/-- A Room afterwards is `x`, but for a fault that a queue head may raise (02 R62). -/
def MayFault (x y : Room) : Prop :=
  y = { x with runst := y.runst, cause := y.cause, fault := y.fault, firePending := y.firePending, switching := y.switching }

/-- The command answers a state in which Room `r` has become `x` (or has faulted at a head), and nothing else has changed but
memory, which is apart, and the error queue. -/
def RoomBecomes (c : Instr) (s t : State) (r : RoomId) (x : Room) : Prop :=
  exec c s = .next t ∧ MayFault x (t.room r) ∧ RoomFrame s t r ∧ t.fresh = s.fresh

/-- An event of a code waits for Letterbox `l`, if fewer than 256 waited; otherwise it is counted as lost (13 R447). -/
def EventSent (s t : State) (l code : Nat) : Prop :=
  ((s.lbx l).events < 256 → ∃ e ∈ (t.lbx l).outq, e.event = true ∧ e.opcode = BitVec.ofNat 16 code) ∧
    (256 ≤ (s.lbx l).events → (t.lbx l).lost = satAdd 32 (s.lbx l).lost 1)

/-! ## The tensor engine (03) -/

/-- Tensor instruction `w` of opcode `op` is the one to execute in a Room that runs, at place `k` of the queue: its head; or a
drain, load or clear behind an MMA that waits for its block (03 R101, R125). -/
def TensorReady (s : State) (r : RoomId) (op w k : Nat) : Prop :=
  w % 256 = op ∧ ∃ i, s.tensorHead r = some (k, i) ∧ i.word.toNat = w

/-- The tensor instruction at place `k` has completed in Room `r`: the engine's own fields are those of `te`, but for its queue,
which has lost it and may take further words; vector registers, ports, slots and everything outside the Room stand. -/
structure TensorDone (s t : State) (r : RoomId) (k : Nat) (te : Tensor) : Prop where
  engine : (t.room r).te = { te with queue := (t.room r).te.queue, waiting := te.waiting && k != 0
                                     blockNo := if k = 0 then 0 else te.blockNo }
  queue : ∃ more, (t.room r).te.queue = (s.room r).te.queue.eraseIdx k ++ more
  room : t.room r = { s.room r with te := (t.room r).te, ve := (t.room r).ve, firings := (t.room r).firings
                                    chainUsed := (t.room r).chainUsed, runst := (t.room r).runst
                                    firePending := (t.room r).firePending, switching := (t.room r).switching
                                    fault := (t.room r).fault, cause := (t.room r).cause }
  lanes : ∀ n i, (t.room r).lane n i = (s.room r).lane n i
  scalars : ∀ n, (t.room r).gReg n = (s.room r).gReg n
  frame : ∀ q, q ≠ r → t.room q = s.room q
  free : t.fresh = s.fresh

/-- Bytes of the accumulator banks an instruction names, and of the element flags. -/
def InBanks (r : RoomId) (w k : Nat) : Prop :=
  ∃ b ∈ banksOf w, accKey r.toNat (accAddr b 0 0) ≤ k ∧ k < accKey r.toNat (accAddr b 0 0) + 16384
def InLong (r : RoomId) (k : Nat) : Prop := accKey r.toNat 0 ≤ k ∧ k < accKey r.toNat 65536
def InFlags (r : RoomId) (k : Nat) : Prop := accFlagKey r.toNat 0 ≤ k ∧ k < accFlagKey r.toNat 4096

/-- Bytes of the ranges a drain or a load names. -/
def InRanges (r : RoomId) (l : List (Nat × Nat × Nat)) (k : Nat) : Prop :=
  ∃ e ∈ l, spaceKey r 0 e.1 e.2.1 ≤ k ∧ k < spaceKey r 0 e.1 e.2.1 + e.2.2

/-- Ranges of a drain that do not overlap. -/
def RangesApart (l : List (Nat × Nat × Nat)) : Prop :=
  l.Pairwise fun a b => a.1 ≠ b.1 ∨ a.2.1 + a.2.2 ≤ b.2.1 ∨ b.2.1 + b.2.2 ≤ a.2.1

end Sys2Proof.Machine
end

