-- ==== Sys2Proof/Safety/Stream.lean ====
section
/-! DEFINITION. What statements about streams, Letterbox commands and Bolts say. -/

namespace Sys2Proof.Machine

/-! ## Letterbox commands (13 R419, R423, R427) -/

/-- The state in which a command's own work begins: requests of reserved opcodes before it are answered, and it is taken. -/
def State.begun (s : State) (q : Req) : State :=
  (s.lbxSettle q.lbx).updLbx q.lbx fun b => { b with taken := b.taken.tail, busy := true, busyOp := BitVec.ofNat 16 (reqOp q) }

/-- Request `q` is the next of its Letterbox, the Letterbox is served and has no command unanswered, and its opcode is `op`. -/
structure Next (s : State) (q : Req) (op : Nat) : Prop where
  head : ((s.lbxSettle q.lbx).lbx q.lbx).taken.head? = some q
  idle : ((s.lbxSettle q.lbx).lbx q.lbx).busy = false
  opcode : reqOp q = op
  served : s.serves = true

/-- The same, and it passes the checks that all commands share, its payload fields and their ranges among them. -/
structure Accepted (s : State) (q : Req) (op : Nat) (fields : List (Nat × Nat × Nat)) (bad : List (Nat × Bool)) : Prop extends
    Next s q op where
  passes : (s.begun q).frameRefusal q op = none
  payload : payloadBad q fields bad = none

/-- The command begins, does `t`'s work, and answers OK, with a result. -/
def Answers (c : Instr) (s : State) (q : Req) (u : State) (status : Nat) (detail : Nat := 0)
    (result : List (Nat × Nat × Nat) := []) : Prop := exec c s = .next (u.reply q status detail result)

/-! ## Streams (06) -/

/-- Nothing follows from a stream's state by itself: no fault, cancellation or poison waits, and the entry before it is one
of R199, or the list goes on (06 R199, R206, R207). -/
def Settled (t : Stream) : Prop :=
  (t.st ≠ .run ∧ t.st ≠ .wait) ∨
    (t.pendFault = 0 ∧ t.cancelReq = false ∧ t.poisonAt = none ∧
      match t.fetched with
      | (_, w) :: _ => t.st = .run → opDefined (eOp w.toNat) = true
      | [] => t.entry < t.listLen)

/-- Stream `sid` stands at entry `w` of OP `op`, may execute it, and it is neither skipped nor LIST_BAD. -/
structure EntryReady (s : State) (sid : StreamId) (op : Nat) (t : Stream) (w : Nat) : Prop where
  entry : s.atEntry sid = some (t, w)
  opcode : eOp w = op
  covered : t.guardLeft = 0 ∨ (op ≠ 5 ∧ op ≠ 6)
  kept : skipped? t w = false
  good : s.entryListBad t w = false

/-- The command leaves stream `sid` as `t`, and changes nothing else, if nothing follows from `t` by itself. -/
def StreamBecomes (c : Instr) (s : State) (sid : StreamId) (t : Stream) : Prop :=
  Settled t → exec c s = .next (s.setStream sid t)

/-- The same, and `g` then goes on with what waited for the stream: a gate to arm, a revision, a release. -/
def StreamGoesOn (c : Instr) (s : State) (sid : StreamId) (g : State → State) (t : Stream) : Prop :=
  Settled t → exec c s = .next (g (s.setStream sid t))

/-- Stream `sid` has ended with a state and a fault code; the other streams and the Rooms stand. -/
def StreamEnds (s u : State) (sid : StreamId) (st : StreamSt) (code : Byte) : Prop :=
  (∃ v, u.stream sid = some v ∧ v.st = st ∧ v.fault = code) ∧ (∀ k, k ≠ sid → u.stream k = s.stream k) ∧ u.rooms = s.rooms

/-- The command becomes `StreamBecomes` with a Bolt operation sent. -/
def StreamAsks (c : Instr) (s : State) (sid : StreamId) (t : Stream) (bolt op cond : Nat) (operand : W32) : Prop :=
  Settled t → exec c s = .next ((s.setStream sid t).boltAsk
    { who := .stream sid, ctx := t.ctx, bolt := s.boltAbs t.ctx bolt, op := BitVec.ofNat 4 op, cond := BitVec.ofNat 3 cond, operand })

/-! ## Bolts (09) -/

/-- Only packets have been sent. -/
def Sent (s t : State) : Prop := t = { s with ports := t.ports, slotWait := t.slotWait, arrived := t.arrived }

/-- The operation at the head of a die's Bolt engine, and the state with it taken. -/
structure EngineHead (s : State) (d : DieId) (op : BitVec 4) (q : BoltReq) (u : State) : Prop where
  head : ∃ rest, mapGet [] s.boltQ d.toNat = q :: rest ∧ u = { s with boltQ := mapSet s.boltQ d.toNat rest }
  opcode : q.op = op
  live : s.live = true

/-- The Bolt of an operation allows it and is not in error (09 R304, R312). -/
def OpAllowed (s : State) (q : BoltReq) : Prop := opRefused (s.bolt q.bolt) q = false ∧ (s.bolt q.bolt).error = false

/-- Only Bolt `b`, answers to operations and packets have changed. -/
structure BoltFrame (s t : State) (b : BoltId) : Prop where
  others : ∀ c, c ≠ b → t.bolt c = s.bolt c
  rest : t = { s with bolts := t.bolts, boltRsp := t.boltRsp, ports := t.ports, slotWait := t.slotWait, arrived := t.arrived }

end Sys2Proof.Machine
end

