-- ==== Sys2Proof/Safety/Home.lean ====
section
/-! DEFINITION. What statements about home controllers, errors and events say. -/

namespace Sys2Proof.Machine

/-- The requester waits on this device for the outcome: a Room, a dumbwaiter or the Porch. -/
def Internal : Requester → Prop
  | .vldm _ _ | .vstm _ | .dw _ | .porch _ => True
  | _ => False

/-- No context waits for its release to end (08 R286). -/
def NoRelease (s : State) : Prop := ∀ e ∈ s.ctxs, e.2.releasing = none

/-- No replacement waits to arm its gates, no revision is under way and no release waits (06 R229 to R231; 07 R254; 08 R286). -/
def Quiet (s : State) : Prop :=
  NoRelease s ∧ s.revs = [] ∧ ∀ w ∈ s.modelWork, (∀ i, w.phase ≠ .holdArm i) ∧ w.phase ≠ .shadowArm

/-- Key of an access under its entry (01 R43, 05 R163 to R171, R179). -/
def accessKey (a : Access) (e : W64) (sub : Bool) : Nat :=
  if dvaTier a.dva = 0 then tier0Key (dvaOff a.dva) else entryKey e sub (dvaOff a.dva)

/-- Its permission code under the entry, MEM 03 for an Annex port that is down; TIER 0 has none (05 R181, R189). -/
def accessStop (s : State) (a : Access) (e : W64) (sub : Bool) : Nat :=
  if dvaTier a.dva = 0 then 0
  else if accessCode a s e sub ≠ 0 then accessCode a s e sub
  else match annexPort e sub with
    | some p => if mapGet false s.annexUp p then 0 else 0x03
    | none => 0

/-- Access `id` of an on-chip requester is translated, no older one of its source is on its way to the same home controller, and
its place is not held by a repair. -/
structure AccessReady (s : State) (id : Nat) (a : Access) (e : W64) (sub : Bool) : Prop where
  found : s.access id = some a
  translated : a.st = .translated e sub
  inside : Internal a.who
  first : s.behindOlder a = false
  free : s.keyHeld (accessKey a e sub) = false
  quiet : NoRelease s

/-- Walk `k` of slice `d` is at level `n` and does not wait on MIG = 1 (05 R184, R186). -/
structure WalkAt (s : State) (d : DieId) (k : Nat) (w : Walk) (n : Nat) : Prop where
  found : (mapGet {} s.slices d.toNat).walks[k]? = some w
  level : w.level = n
  moving : w.mig = false
  quiet : NoRelease s

/-- The walk is taken off its slice, and all its waiters stand at `st`; no other access has changed. -/
structure WalkOver (s t : State) (d : DieId) (k : Nat) (w : Walk) (st : AccState) : Prop where
  gone : (mapGet {} t.slices d.toNat).walks = (mapGet {} s.slices d.toNat).walks.eraseIdx k
  waiters : ∀ i ∈ w.waiters, ∀ a, s.access i = some a → t.access i = some { a with st }
  others : ∀ i, i ∉ w.waiters → t.access i = s.access i
  frame : t = { s with accesses := t.accesses, slices := t.slices, tbufs := t.tbufs }

/-- An error of a class waits in the error queue, if it had a place (15 R474). -/
def ErrorNoted (s t : State) (cls unit : Nat) : Prop := s.errQ.length < 16 → ∃ e ∈ t.errQ, e.cls = cls ∧ e.unit = unit

/-- Only errors and events have been added (13 R447, 15 R474). -/
def Noted (s t : State) : Prop :=
  t = { s with errQ := t.errQ, errOvf := t.errOvf, reported := t.reported, fatalLatch := t.fatalLatch, fatalErr := t.fatalErr
               lbxs := t.lbxs, diag := t.diag }

/-- No access waits between its translation and its home controller. -/
def NoneTranslated (s : State) : Prop := ∀ a ∈ s.accesses, ∀ e sub, a.st ≠ .translated e sub

/-- No walk has read a leaf entry with SUB = 1. -/
def NoneRead (s : State) : Prop := ∀ e ∈ s.slices, ∀ w ∈ e.2.walks, w.level ≠ 2

/-- The first page that is to move, if any, is being copied: no move waits to begin. -/
def MoveUnderWay (s : State) : Prop := ∀ m ∈ s.moves.head?, m.sid ≠ none

/-- Nothing of a page-map command is held back: no page of its context moves, and no move waits to begin (13 R423). -/
def PagesFree (s : State) (q : Req) : Prop := s.pageHeld (reqCtx q) = false ∧ MoveUnderWay s ∧ TablesApart s

/-- No buffer and no slice holds a translation that `m` matches (05 R185). -/
def Uncached (t : State) (m : CtxId → Nat → Nat → Bool) : Prop :=
  (∀ b, ∀ e ∈ mapGet [] t.tbufs b, m e.ctx e.ns.toNat e.vpn.toNat = false) ∧
    ∀ d, ∀ e ∈ (mapGet {} t.slices d).entries, m e.ctx e.ns.toNat e.vpn.toNat = false

/-- A final response with a status and DETAIL waits for the Letterbox of request `q`. -/
def AnswerWaits (t : State) (q : Req) (status detail : Nat) : Prop :=
  ∃ p ∈ (t.lbx q.lbx).outq, p.tag = reqTag q ∧ p.fin = true ∧ p.event = false ∧ p.status = BitVec.ofNat 8 status ∧
    p.detail = BitVec.ofNat 8 detail

/-- Pages outside the range, of every context and namespace, keep their entries. -/
def LeavesKept (s t : State) (c : CtxId) (ns vpn n : Nat) : Prop :=
  ∀ (c' : CtxId) (ns' v : Nat), 1 ≤ ns' → ns' ≤ 3 → v < 2 ^ 24 → (c' ≠ c ∨ ns' ≠ ns ∨ v < vpn ∨ vpn + n ≤ v) →
    t.leaf c' ns' v = s.leaf c' ns' v ∧ ∀ j < 32, t.sub c' ns' v j = s.sub c' ns' v j

end Sys2Proof.Machine
end

