-- ==== Sys2Proof/Safety/Porch.lean ====
section
/-! DEFINITION. What statements about the Porch say. -/

namespace Sys2Proof.Machine

/-- Service `i` is CLOSED: nothing of it waits, no sequence is its own, and its context has had the CLOSED event (08 R263). -/
structure ClosedNow (s t : State) (i : Nat) (v : Service) : Prop where
  service : ∃ v', t.service i = some v' ∧ v'.st = .closed ∧ v'.step = none ∧ v'.waitq = [] ∧ v'.pendOut = [] ∧ v'.usedChunks = []
  seqs : ∀ e ∈ t.seqs, e.2.service ≠ i
  event : EventSent s t (v.ctx.toNat + 1) 0x8005
  messages : ∀ m ∈ t.porchOut, m.svc ≠ i

/-- Header of a ring: PROD, then CONS (08 R264). -/
def ringBytes (prod cons : Nat) : List Byte := natLe 4 prod ++ natLe 4 cons

/-- The Porch reads bytes at an address of memory. -/
def PorchSees (s : State) (c : CtxId) (d : Dva) (bs : List Byte) : Prop :=
  s.inRegisters d = false ∧ s.dvaRead c d bs.length = .inl bs

/-- A ring's header holds PROD and CONS, no more than LEN apart (08 R264). -/
def RingHolds (s : State) (c : CtxId) (d : Dva) (len prod cons : Nat) : Prop :=
  prod < 2 ^ 32 ∧ cons < 2 ^ 32 ∧ PorchSees s c d (ringBytes prod cons) ∧ ringUsed (prod, cons) ≤ len

/-- An open service of no pool whose rings hold no control record and have room for two records, whose sequences have nothing
pending, and that may build: only its step and its request ring are work for it. -/
structure Tidy (s : State) (i : Nat) (v : Service) : Prop where
  found : s.service i = some v
  runs : s.svcRuns v = true
  opened : v.st = .opened
  staying : v.closing = false
  pool : svPool v = 0
  flushed : v.pendOut = []
  walked : v.reading = []
  admitted : v.waitq = []
  seqs : ∀ e ∈ s.seqs, e.2.pendToken = false ∧ e.2.pendEnd = false ∧ e.2.endDue = 0 ∧ e.2.joined = false ∧ e.2.st ≠ 4
  control : ∃ k, RingHolds s v.ctx (svVa v 1) (svCtlLen v) k k
  output : ∃ p c, RingHolds s v.ctx (svVa v 2) (svOutLen v) p c ∧ ringUsed (p, c) + 2 ≤ svOutLen v
  quiet : NoRelease s

/-- Where a string ends in a buffer, among its last `n` bytes. -/
def EndsAt (buf str : List Byte) (n k : Nat) : Prop :=
  k ≤ buf.length ∧ buf.length < k + n ∧ str.length ≤ k ∧ (buf.drop (k - str.length)).take str.length = str

end Sys2Proof.Machine
end

