-- ==== Sys2Proof/Safety/Fabric.lean ====
section
/-! DEFINITION. What statements about the Corridor say. -/

namespace Sys2Proof.Machine

/-- Only the ports, the slots and what waits for them, errors and events have changed (10 R332, R341; 13 R447). -/
def LinkNoted (s t : State) : Prop :=
  Noted { s with ports := t.ports, slotTab := t.slotTab, slotBack := t.slotBack, slotWait := t.slotWait, arrived := t.arrived
                 devIstat := t.devIstat, irqs := t.irqs, msixPend := t.msixPend } t

/-- The oldest packet of a kind received on a port, and the state without it, its units freed (10 R330, R335). -/
def Oldest (s u : State) (p : BitVec 5) (kind : Nat) (pk : Packet) : Prop := s.takeArrived p kind = some (pk, u)

/-- The same, of a TREE message type or a LINK type. -/
def OldestOf (s u : State) (p : BitVec 5) (kind ty : Nat) (pk : Packet) : Prop := s.takeArrived p kind (some ty) = some (pk, u)

/-- Port `p` receives flits of the fabric. -/
def Receives (s : State) (p : BitVec 5) : Prop :=
  portLive (s.port p.toNat) = true ∧ (isReserved p.toNat = true → (s.port p.toNat).resRole ≠ 2) ∧ s.devSt ≠ .fatal

/-- The device runs, and holds the job. -/
def OnJob (s : State) (job : W32) (j : Job) : Prop := s.live = true ∧ s.job? job = some j

end Sys2Proof.Machine
end

