-- ==== Sys2Proof/Safety/Study.lean ====
section
/-! DEFINITION. What statements about registers, Letterboxes, the start and the tray say. -/

namespace Sys2Proof.Machine

/-- A requester whose register accesses the block decodes, in full operation (12 R386, R387, R398). -/
structure Reaches (s : State) (who : Who) : Prop where
  reaches : s.reaches who = true
  known : who ≠ .other
  full : s.devSt ≠ .minimal

/-- The requesters of the whole register space (12 R389, R400). -/
def OfDevice (who : Who) : Prop := who = .pf ∨ who = .study

/-- The Letterbox of a requester's page (12 R408). -/
def pageOf : Who → Nat
  | .vf v => v
  | _ => 0

/-- The arming that a write of a KL register takes (12 R394). -/
def State.disarmed (s : State) (who : Who) : State :=
  if who = .pf then { s with lock := { s.lock with armed := false } } else s

/-- A KL register may be written: the Study's writes need no arming (12 R393, R394). -/
def KlOpen (s : State) (who : Who) : Prop := OfDevice who ∧ Reaches s who ∧ (who = .pf → s.lock.armed = true)

/-- Letterbox commands with their opcodes; of two rows for one opcode, the one that its request names (13 R432). -/
def LetterboxCommand (q : Req) (h : Bool) (c : Instr) (op : Nat) : Prop :=
  (c, op) ∈ [(Instr.hello q, 0x0001), (.paramGet q, 0x0002), (.paramSet q, 0x0003), (.diagRead q, 0x0004), (.powerSet q, 0x0005), (.powerRead q, 0x0006),
    (.repairListGet q h, 0x0007), (.repairListPut q h, 0x0008), (.attest q h, 0x0009), (.startReport q, 0x000A)] ++
  [(Instr.ctxCreate q, 0x0101), (.ctxRelease q, 0x0102), (.ctxStatus q, 0x0103), (.ctxPoints q h, 0x0104), (.ctxPreempt q, 0x0105),
    (.ctxCheckpoint q, 0x0106), (.ctxRestore q, 0x0107)] ++
  [(Instr.pageMap q, 0x0201), (.pageUnmap q, 0x0202), (.pageProt q, 0x0203), (.pageMove q, 0x0204), (.tlbInval q, 0x0205),
    (.hwinCreate q, 0x0206), (.hwinRemove q, 0x0207)] ++
  [(Instr.slotLoad q, 0x0301), (if reqBit q 18 0 then .cfbAccessWrite q else .cfbAccessRead q, 0x0302), (.debugRead q, 0x0303),
    (.boltConfig q, 0x0304), (.boltRead q, 0x0305), (.boltAbort q, 0x0306)] ++
  [(Instr.streamCreate q, 0x0401), (.streamStart q, 0x0402), (.streamCancel q, 0x0403), (.streamSnapshot q, 0x0404), (.streamFree q, 0x0405),
    (.modelLoad q, 0x0411), (if reqBit q 17 0 then .modelReplaceShadow q else .modelReplaceInPlace q, 0x0412),
    (.modelUnload q, 0x0413)] ++
  [(Instr.porchOpen q, 0x0501), (.porchDrain q, 0x0502), (.porchClose q, 0x0503), (.porchSeqRead q, 0x0504), (.porchStats q, 0x0505)] ++
  [(Instr.fabConfig q, 0x0601), (.fabRole q, 0x0602), (.portStatus q, 0x0603),
    (if reqBit q 17 0 then .portCtlDisable q else .portCtlEnable q, 0x0604), (.inflowAttach q, 0x0611), (.inflowDetach q, 0x0612)]

/-- Letterbox `l` has faulted with a code, and its error is noted; the other Letterboxes, and everything but the diagnostics
count, stand (13 R421; 12 R409). -/
structure LbxFaulted (s t : State) (l : Nat) (code : Byte) : Prop where
  box : t.lbx l = { s.lbx l with fault := true, fcode := code }
  others : ∀ k, k ≠ l → t.lbx k = s.lbx k
  noted : ErrorNoted s t 0x32 (l + 1)
  count : t.diag = { s.diag with lbxFault := satAdd 32 s.diag.lbxFault 1 }
  frame : Noted s t

/-- A vector of Letterbox `l` (0 responses, 1 events) is raised: sent if it is not masked, else pending (11 R368; 13 R425). -/
def VectorRaised (s t : State) (fn vec : Nat) : Prop :=
  if s.msixOpen.contains (fn * 16 + vec) then t.irqs = s.irqs ++ [fn * 16 + vec] ∧ t.msixPend = s.msixPend
  else t.irqs = s.irqs ∧ fn * 16 + vec ∈ t.msixPend

/-- All three copies of a value agree, at the majority of what they were (12 R396). -/
def Voted (t u : Tv) : Prop := u = { a := vote t, b := vote t, c := vote t }
def Agree (t : Tv) : Prop := t.a = t.b ∧ t.b = t.c

/-! ## Starts and resets (14) -/

/-- The device has gone to MINIMAL: register space, the sideband inputs, the Event Recorder, the errors that wait and the exchange
with the BMC stay, with port counters and what training found; everything else is in reset (14 R464). -/
def LeftMinimal (t : State) : Prop :=
  (∀ k, keyKind k < 12 → memRead t.mem k = 0) ∧
  t = { State.reset with
    devSt := .minimal, romWait := .none, devReason := t.devReason, devWarm := t.devWarm, devIstat := t.devIstat, hc := t.hc
    lock := t.lock, ident := t.ident, idNode := t.idNode, evr := t.evr, fwAddr := t.fwAddr, fwLen := t.fwLen
    rdShadow := t.rdShadow, wrShadow := t.wrShadow, violQ := t.violQ, lbxs := t.lbxs, numVfs := t.numVfs, hostUp := t.hostUp
    msixOpen := t.msixOpen, msixPend := t.msixPend, startRec := t.startRec, startCause := t.startCause, i3c := t.i3c
    coolantAbsent := t.coolantAbsent, thermTrip := t.thermTrip, repair := t.repair, errQ := t.errQ, errOvf := t.errOvf
    sweepDue := t.sweepDue, reported := t.reported, fatalLatch := t.fatalLatch, fatalErr := t.fatalErr, stackCh := t.stackCh
    chanLost := t.chanLost, groupFrames := t.groupFrames, ports := t.ports, diag := t.diag
    pending := t.pending, fresh := t.fresh, mem := t.mem, poison := t.poison, irqs := t.irqs, cxlOut := t.cxlOut
    readData := t.readData, fuseSvn := t.fuseSvn, brake := t.brake, latch := t.latch, rst := t.rst, pwrOk := t.pwrOk
    clockLost := t.clockLost }

/-- A start has failed with a reason at a step: the record has one failure more and a new last entry, is on its way to the BMC, and
the boot ROM has the Letterboxes back (14 R459 to R463). -/
structure StartFailed (s t : State) (reason : Nat) (detail : W64) (step : Nat) : Prop where
  why : t.devReason = BitVec.ofNat 8 reason
  record : t.startRec = { s.startRec with
    fails := min 3 (s.startRec.fails + 1), opened := false, e0 := s.startRec.e1, e1 := s.startRec.e2
    e2 := { reason := BitVec.ofNat 8 reason, warm := s.devWarm, stage := BitVec.ofNat 16 (devStNum s.devSt + 16 * step), hc := s.hc
            detail } }
  stored : t.i3c.record = startRecBytes t.startRec ∧ t.i3c.recUpd = true ∧ (s.i3c.intEn = true → t.i3c.ibis = s.i3c.ibis ++ [3])
  state : t.devSt = if t.startRec.fails = 3 then .minimal else .awaitFw
  taken : t.serving = false ∧ t.ident = { s.ident with fwver := 0 } ∧ ∀ l, (t.lbx l).ready = false ∧ (t.lbx l).hello = false
  frame : t.startRec.fails ≠ 3 → t = { s with
    startRec := t.startRec, i3c := t.i3c, devReason := t.devReason, early := false, serving := t.serving, ident := t.ident
    episodes := [], lbxs := t.lbxs, devSt := t.devSt, romWait := .none }
  minimal : t.startRec.fails = 3 → LeftMinimal t

/-- What no reset touches: the model's own fields, the host's memory and what the device has sent it, fuses and pins (14 R468;
01 R30). -/
def BeyondReset (s t : State) : Prop :=
  t.pending = s.pending ∧ t.fresh = s.fresh ∧ t.irqs = s.irqs ∧ t.cxlOut = s.cxlOut ∧ t.fuseSvn = s.fuseSvn ∧
    (∀ k, 12 ≤ keyKind k → memRead t.mem k = memRead s.mem k)

/-- A start of a device that has lost nothing in training: no reference clock is lost. -/
def StartsCold (s : State) (tr : Training) (t : State) : Prop :=
  t.devSt = .rom ∧ t.romWait = .record ∧ t.i3c.recReq = true ∧ t.hostUp = tr.hostUp ∧
    t.ident.part = BitVec.ofNat 32 (0x0D04 + Config.partStepping.toNat * 2 ^ 16) ∧ t.ident.serial = Config.partSerial ∧
    (∀ i, i < 8 → mapGet 0 t.stackCh i = if bitOf tr.hbm.toNat i then 32 else 0) ∧
    (∀ p, p < 2 → mapGet false t.annexUp p = bitOf tr.annex.toNat p) ∧ t.ctxs = s.ctxs ∧ t.mem = s.mem

/-! ## Errors (15) -/

/-- A record of an entry has been written at the next place of the window (12 R404; 15 R478). -/
def Recorded (s t : State) (e : Err) (sev : Nat) (esc absorbed : Bool) : Prop :=
  (s.evr.frozen = true → t.evr = { s.evr with unwritten := s.evr.unwritten + 1 }) ∧
    (s.evr.frozen = false → t.evr.next = s.evr.next + 1 ∧
      ∃ r, mapFind t.evr.window (s.evr.next.toNat % 4096) = some r ∧ r.seq = s.evr.next ∧ r.hc = e.stamp ∧ r.cls = e.cls ∧
        r.code = e.code ∧ r.base = severity e.cls ∧ r.sev = sev ∧ r.esc = esc ∧ r.absorbed = absorbed ∧ r.src = e.src ∧
        r.unit = e.unit ∧ r.ctx = e.ctx ∧ r.addr = e.addr ∧ r.count = e.count)

/-- The Study may take the head of the error queue. -/
def QueueServed (s : State) : Prop :=
  s.romWait ≠ .reset ∧ s.fatalLatch = false ∧ ∀ p, s.episodes.getLast? = some p → p.stop ≤ s.hc

end Sys2Proof.Machine
end

