-- ==== Sys2Proof/Certificates/Slice0/Obligations.lean ====
section
/-! DEFINITION. The statements for the provers. -/

open Sys2Proof Sys2Proof.Machine

/-- A step takes the command at the front of the queue and is its effect on the state with the queue's rest. On an empty queue the
block idles: DEV_HC_COUNT advances, except while the device is held in reset, and nothing else changes (the model's choice,
assumption 7). Every command runs: the block answers a next state to each, in every state. -/
def Obligations.StepRunsFrontCommand : Prop :=
  (∀ (c : Instr) (s : State) (rest : List Instr), s.pending = c :: rest → step s = exec c { s with pending := rest }) ∧
  (∀ s : State, s.pending = [] →
    (s.romWait ≠ .reset → step s = .next { s with hc := s.hc + 1 }) ∧ (s.romWait = .reset → step s = .next s)) ∧
  (∀ s : State, ∃ t, step s = .next t)

/-- Lane-wise FP32 words: each active lane of VD takes the operation's result, every other lane and register stays, and INVALID
and INF count the lanes R152 names. Lane-wise words on FP64 pairs: the low half of a result goes to VD and the high half to VD
+ 1, under the active lanes; and both directions of DCVT. -/
def Obligations.VectorFloatingPoint : Prop :=
  (∀ (s : State) (r : RoomId) (w : Nat) (fi : Firing),
    let a := fun i => (s.room r).lane (wVA w) i
    let b := fun i => (s.room r).lane (wVB w) i
    let c := fun i => (s.room r).lane (wVC w) i
    let one := fun op k g => VecReady s r op w fi → RunsLanes k s r w fun i => fpLane 0x0C [a i] (g (a i))
    let two := fun op k g => VecReady s r op w fi → RunsLanes k s r w fun i => fpLane 0x0C [a i, b i] (g (a i) (b i))
    two 0x30 (.vadd r) (fpAdd 0x0C) ∧ two 0x31 (.vsub r) (fpSub 0x0C) ∧ two 0x32 (.vmul r) (fpMul 0x0C) ∧
    two 0x34 (.vmin r) (fpMin 0x0C) ∧ two 0x35 (.vmax r) (fpMax 0x0C) ∧ two 0x3A (.vdiv r) (fpDiv 0x0C) ∧
    one 0x36 (.vabs r) (fpAbs 0x0C) ∧ one 0x37 (.vneg r) (fpNeg 0x0C) ∧ one 0x3B (.vsqrt r) (fpSqrt 0x0C) ∧
    one 0x3C (.vsfu0 r) (sfuResult (wSub w)) ∧ one 0x3D (.vsfu1 r) (sfuResult (8 + wSub w)) ∧
    (VecReady s r 0x33 w fi →
      RunsLanes (.vfma r) s r w fun i => fpLane 0x0C [a i, b i, c i] (fpFma 0x0C (a i) (b i) (c i)))) ∧
  (∀ (s : State) (r : RoomId) (w : Nat) (fi : Firing),
    let a := fun i => (s.room r).lane64 (wVA w) i
    let b := fun i => (s.room r).lane64 (wVB w) i
    let c := fun i => (s.room r).lane64 (wVC w) i
    let one := fun op k g => VecReady s r op w fi → RunsLanes64 k s r w fun i => fpLane 0x0D [a i] (g (a i))
    let two := fun op k g => VecReady s r op w fi → RunsLanes64 k s r w fun i => fpLane 0x0D [a i, b i] (g (a i) (b i))
    two 0x40 (.dadd r) (fpAdd 0x0D) ∧ two 0x41 (.dsub r) (fpSub 0x0D) ∧ two 0x42 (.dmul r) (fpMul 0x0D) ∧
    two 0x44 (.dmin r) (fpMin 0x0D) ∧ two 0x45 (.dmax r) (fpMax 0x0D) ∧ two 0x47 (.ddiv r) (fpDiv 0x0D) ∧
    one 0x48 (.dsqrt r) (fpSqrt 0x0D) ∧ one 0x49 (.dexp r) (sfuDResult 0) ∧ one 0x4A (.dln r) (sfuDResult 1) ∧
    (VecReady s r 0x43 w fi →
      RunsLanes64 (.dfma r) s r w fun i => fpLane 0x0D [a i, b i, c i] (fpFma 0x0D (a i) (b i) (c i))) ∧
    (VecReady s r 0x4B w fi → wSub w = 0 →
      RunsLanes64 (.dcvt r) s r w fun i => { bits := fpRound 0x0D (decodeFmt 0x0C ((s.room r).lane (wVA w) i)) }) ∧
    (VecReady s r 0x4B w fi → wSub w ≠ 0 →
      RunsLanes (.dcvt r) s r w fun i =>
        { bits := (toFloat 0x0C (wRtz w) (wSat w) (decodeFmt 0x0D (a i))).1
          inf := boolNat ((toFloat 0x0C (wRtz w) (wSat w) (decodeFmt 0x0D (a i))).2.inf && valIsFin (decodeFmt 0x0D (a i)))
          sat := boolNat (toFloat 0x0C (wRtz w) (wSat w) (decodeFmt 0x0D (a i))).2.sat }))

/-- Lane-wise INT32 words, moves between lanes and conversions. A shift by 32 or more gives 0, or the sign under SUB 1 of SHR;
IADDS saturates and counts. Words that write whole registers or a predicate: selection, compares (inactive bits clear),
128-bit sums, and the predicate moves of PMOV. -/
def Obligations.VectorIntegerAndWhole : Prop :=
  (∀ (s : State) (r : RoomId) (w : Nat) (fi : Firing),
    let x := s.room r
    let a := fun i => x.lane (wVA w) i
    let b := fun i => x.lane (wVB w) i
    let sa := fun i => signedOf (a i) 32
    let sb := fun i => signedOf (b i) 32
    let lanes := fun op k g => VecReady s r op w fi → RunsLanes k s r w fun i => { bits := g i }
    lanes 0x50 (.iadd r) (fun i => (a i + b i) % 2 ^ 32) ∧
    lanes 0x51 (.isub r) (fun i => (a i + 2 ^ 32 - b i) % 2 ^ 32) ∧
    lanes 0x52 (.imul r) (fun i => a i * b i % 2 ^ 32) ∧
    lanes 0x54 (.imin r) (fun i => if sb i < sa i then b i else a i) ∧
    lanes 0x55 (.imax r) (fun i => if sa i < sb i then b i else a i) ∧
    lanes 0x56 (.iand r) (fun i => a i &&& b i) ∧ lanes 0x57 (.ior r) (fun i => a i ||| b i) ∧
    lanes 0x58 (.ixor r) (fun i => a i ^^^ b i) ∧
    lanes 0x59 (.shl r) (fun i => if b i < 32 then a i * 2 ^ b i % 2 ^ 32 else 0) ∧
    lanes 0x5A (.shr r) (fun i => if wSub w = 0 then (if b i < 32 then a i / 2 ^ b i else 0)
      else wrapInt (sa i / (2 ^ (min (b i) 31) : Nat)) 32) ∧
    lanes 0x5D (.viota r) (fun i => (x.gReg (wGA w) + i) % 2 ^ 32) ∧
    lanes 0x64 (.vperm r) (fun i => x.lane (wVA w) (b i % 64)) ∧
    lanes 0x63 (.vexpand r) (fun i => x.lane (wVA w) (pick i (x.active? w)).length) ∧
    lanes 0x3F (.vbcast r) (fun _ => if wSub w = 0 then x.lane (wVA w) (x.gReg (wGA w) % 64)
      else if wSub w = 1 then x.gReg (wGA w) else wImm w) ∧
    (VecReady s r 0x53 w fi → RunsLanes (.iadds r) s r w fun i =>
      if sa i + sb i < -2 ^ 31 then { bits := 2 ^ 31, sat := 1 }
      else if 2 ^ 31 ≤ sa i + sb i then { bits := 2 ^ 31 - 1, sat := 1 } else { bits := (a i + b i) % 2 ^ 32 }) ∧
    (VecReady s r 0x3E w fi → ¬(wSub w = 2 ∧ fmtIsMx (wFmt w) = true) → RunsLanes (.vcvt r) s r w fun i => cvtLane w (a i)) ∧
    (VecReady s r 0x3E w fi → wSub w = 2 → fmtIsMx (wFmt w) = true →
      RunsRegs (.vcvt r) s r (vNew x (wVD w) fun i => ((cvtBlock x w (i / 32 * 32)).map (·.bits)).getD (i % 32) 0) x.gReg
        (countLanes x (cvtBlock x w 0 ++ cvtBlock x w 32)).ve.cnt)) ∧
  (∀ (s : State) (r : RoomId) (w : Nat) (fi : Firing),
    let x := s.room r
    let pa := x.pReg (wVA w % 8)
    let pb := x.pReg (wVB w % 8)
    let compare := fun op k p => VecReady s r op w fi →
      RunsPred k s r (wPD w) ((List.range 64).map fun i => if x.active? w i ∧ p i = true then 2 ^ i else 0).sum
    let logic := fun sub v => VecReady s r 0x5E w fi → wSub w = sub → RunsPred (.pmov r) s r (wPD w) v
    (VecReady s r 0x39 w fi → RunsRegs (.vsel r) s r
      (vNew x (wVD w) fun i => if x.active? w i then x.lane (wVA w) i else x.lane (wVB w) i) x.gReg x.ve.cnt) ∧
    (VecReady s r 0x5C w fi → RunsRegs (.vadd128 r) s r
      (vNew x (wVD w) fun i => bitsOf (group128 x (wVA w) (i / 4) + group128 x (wVB w) (i / 4)) (32 * (i % 4)) 32) x.gReg x.ve.cnt) ∧
    compare 0x38 (.vcmp r) (fun i => fpCmp 0x0C (wSub w) (x.lane (wVA w) i) (x.lane (wVB w) i)) ∧
    compare 0x46 (.dcmp r) (fun i => fpCmp 0x0D (wSub w) (x.lane64 (wVA w) i) (x.lane64 (wVB w) i)) ∧
    compare 0x5B (.icmp r) (fun i => intCmp (wSub w) (x.lane (wVA w) i) (x.lane (wVB w) i)) ∧
    logic 0 (pa &&& pb) ∧ logic 1 (pa ||| pb) ∧ logic 2 (pa &&& (2 ^ 64 - 1 - pb)) ∧ logic 3 (pa ^^^ pb) ∧
    logic 4 (2 ^ 64 - 1 - pa) ∧ logic 5 (x.gReg (wGA w) + 2 ^ 32 * x.gReg (wGB w)) ∧
    (VecReady s r 0x5E w fi → wSub w = 6 → RunsRegs (.pmov r) s r (vOld x)
      (fun n => if n = wGB w ∧ n ≠ 0 then pa / 2 ^ 32 else gNew x (wGA w) (pa % 2 ^ 32) n) x.ve.cnt) ∧
    (VecReady s r 0x5E w fi → wSub w = 7 → RunsScalar (.pmov r) s r (wGA w) (pick 64 (bitOf pa)).length))

/-- Reductions, scans, compaction to a register, and the support for exact-sum modes. Tile reductions, expert selection and
counting, into registers. Scalar words. -/
def Obligations.VectorAcrossLanes : Prop :=
  (∀ (s : State) (r : RoomId) (w : Nat) (fi : Firing),
    let x := s.room r
    let lanes := fun ident => (List.range 64).map fun i => if x.active? w i then x.lane (wVA w) i else ident
    let act := pick 64 (x.active? w)
    let sel := act.map (x.lane (wVA w))
    (VecReady s r 0x60 w fi → wSub w = 3 → RunsScalar (.vred r) s r (wGA w) (sel.sum % 2 ^ 32)) ∧
    (VecReady s r 0x60 w fi → wSub w ≠ 3 → wSub w ≠ 5 →
      let res := fpLane 0x0C (lanes (redIdentity (wSub w))) (reduce32 (wSub w == 4) (wSub w) (lanes (redIdentity (wSub w))))
      RunsRegs (.vred r) s r (fun n i => if n = wVD w ∧ i = 0 then res.bits % 2 ^ 32 else x.lane n i) x.gReg
        (addCnt x.ve.cnt res.invalid res.inf res.sat 0 0)) ∧
    (VecReady s r 0x60 w fi → wSub w = 5 →
      let vs := (List.range 64).map fun i => if x.active? w i then x.lane64 (wVA w) i else fmtSign 0x0D
      let res := fpLane 0x0D vs ((treeFold (fpAdd 0x0D) 6 vs).headD 0)
      RunsRegs (.vred r) s r
        (fun n i => if n = wVD w ∧ i = 0 then res.bits % 2 ^ 32
          else if n = wVD w + 1 ∧ i = 0 then res.bits / 2 ^ 32 % 2 ^ 32 else x.lane n i) x.gReg
        (addCnt x.ve.cnt res.invalid res.inf res.sat 0 0)) ∧
    (VecReady s r 0x61 w fi → RunsRegs (.vscan r) s r
      (vNew x (wVD w) fun i => x.gReg (wGA w) + ((List.range i).map (x.lane (wVA w))).sum)
      (gNew x (wGB w) (x.gReg (wGA w) + ((List.range 64).map (x.lane (wVA w))).sum)) x.ve.cnt) ∧
    (VecReady s r 0x62 w fi → wSub w = 0 → RunsRegs (.vcompress r) s r (vNew x (wVD w) fun i => sel.getD i 0)
      (gNew x (wGB w) act.length) x.ve.cnt) ∧
    (VecReady s r 0x6C w fi →
      let vs := act.map fun i =>
        if wFmt w = 0x0D then decodeFmt 0x0D (x.lane64 (wVA w) i) else decodeFmt 0x0C (x.lane (wVA w) i)
      let m := (vs.filter fun v => valIsFin v && !valIsZero v).foldl (fun m v => max m (valLog2 v)) (signedOf (x.gReg (wGA w)) 32)
      RunsScalar (.vexpmax r) s r (wGB w)
        (wrapInt (if wSub w = 0 ∧ ∃ v ∈ vs, valIsFin v = false then 0x7FFF else m) 32))) ∧
  (∀ (s : State) (r : RoomId) (w : Nat) (fi : Firing),
    let x := s.room r
    let row := fun i => s.tileRow32 r w fi.set i
    let tops := (List.range (shRows w)).map fun i => topTwo (row i)
    let es := (pick 64 (x.active? w)).map (x.lane (wVA w))
    let good := es.filter (indexOk w)
    (VecReady s r 0x66 w fi → s.tileBad r w = none → shMode w = true →
      let res := fun j => fpLane 0x0C ((List.range (shRows w)).map fun i => (row i).getD j 0)
        (redColumn (wSub w) ((List.range (shRows w)).map fun i => (row i).getD j 0))
      RunsRegs (.tilered r) s r
        (fun n i => if wVD w ≤ n ∧ n < wVD w + shC w then (res (64 * (n - wVD w) + i)).bits % 2 ^ 32 else x.lane n i) x.gReg
        (countLanes x ((List.range (64 * shC w)).map res)).ve.cnt) ∧
    (VecReady s r 0x66 w fi → s.tileBad r w = none → shMode w = false →
      let res := fun i => fpLane 0x0C (row i) (redRow (wSub w) (shC w) (row i))
      RunsRegs (.tilered r) s r
        (fun n i => if n = wVD w ∧ i < shRows w then (res i).bits % 2 ^ 32 else x.lane n i) x.gReg
        (countLanes x ((List.range (shRows w)).map res)).ve.cnt) ∧
    (VecReady s r 0x68 w fi → s.tileBad r w = none →
      let two := wSub w = 1
      RunsRegs (.vtopk r) s r
        (fun n i =>
          if two ∧ n = wVC w + 1 then (tops.map (·.2.2)).getD i fp32Nan % 2 ^ 32
          else if two ∧ n = wVD w + 1 then (tops.map (·.2.1)).getD i 0xFFFFFFFF % 2 ^ 32
          else if n = wVC w then (tops.map (·.1.2)).getD i fp32Nan % 2 ^ 32
          else if n = wVD w then (tops.map (·.1.1)).getD i 0xFFFFFFFF % 2 ^ 32 else x.lane n i) x.gReg
        (addCnt x.ve.cnt (tops.filter fun t => decide (t.1.2 = fp32Nan ∨ (two ∧ t.2.2 = fp32Nan))).length 0 0 0 0)) ∧
    (VecReady s r 0x69 w fi → RunsRegs (.vhist r) s r
      (fun n i => if wVD w ≤ n ∧ n < wVD w + shC w then
          ((if wSub w = 0 then 0 else x.lane n i) + (good.filter (· == 64 * (n - wVD w) + i)).length) % 2 ^ 32
        else x.lane n i) x.gReg (addCnt x.ve.cnt 0 0 0 (es.length - good.length) 0)) ∧
    (VecReady s r 0x6A w fi →
      RunsRegs (.vpermidx r) s r (permIdx x w) x.gReg (addCnt x.ve.cnt 0 0 0 (es.length - good.length) 0))) ∧
  (∀ (s : State) (r : RoomId) (w : Nat) (fi : Firing),
    let x := s.room r
    let a := if wSub w = 0 then x.gReg (wGB w) else x.gReg (wGA w)
    let b := if wSub w = 0 then wImm w else x.gReg (wGB w)
    let scalar := fun op k v => VecReady s r op w fi → RunsScalar k s r (wGA w) v
    scalar 0x18 (.smov r) (wImm w) ∧ scalar 0x19 (.sadd r) (a + b) ∧ scalar 0x1A (.ssub r) (a + 2 ^ 32 - b) ∧
    scalar 0x1B (.sshl r) (if b < 32 then a * 2 ^ b else 0) ∧ scalar 0x1C (.sand r) (a &&& b) ∧
    scalar 0x1D (.sext r) (x.lane (wVA w) (wImm w % 64)) ∧
    (VecReady s r 0x1E w fi →
      let ad := (x.gReg (wGB w) + wImm w) % 2 ^ 32
      ad % 4 = 0 → s.spaceBad r (wSpace w) ad 4 = none →
      RunsScalar (.sld r) s r (wGA w) (s.readNat (spaceKey r fi.set (wSpace w) ad) 4)))

/-- Loads from the Shelf, the operand cache and staging. Stores of one range: VSTAT writes the status record and clears the
counters, VCOMPRESS writes the active lanes one after another, VTOKEN and VENDM write an entry of output staging and its kind. -/
def Obligations.VectorLoadsAndStores : Prop :=
  (∀ (s : State) (r : RoomId) (w : Nat) (fi : Firing),
    let x := s.room r
    let f := wFmt w
    let bs := s.read (spaceKey r fi.set (wSpace w) (vAddr x w)) (vSize w)
    let scale := fun i => (memRead s.mem (spaceKey r fi.set (wSpace w) (vScaleAddr x w + i / 32))).toNat
    let at? := fun i => indexed (wSpace w) (x.gReg (wGA w)) (x.lane (wVB w) i) 4 4
    (VecReady s r 0x20 w fi → vAddr x w % vAlign (fmtBits f) = 0 → s.spaceBad r (wSpace w) (vAddr x w) (vSize w) = none →
      (fmtIsMx f = true → s.spaceBad r (wSpace w) (vScaleAddr x w) 2 = none) →
      (f = 0x0D → RunsLanes64 (.vld r) s r w fun i => { bits := elemOf bs 64 i }) ∧
      (f ≠ 0x0D → RunsLanes (.vld r) s r w fun i =>
        let l := loadLane w (elemOf bs (fmtBits f) i) (scale i)
        { bits := l.1, invalid := l.2.1, inf := l.2.2.1, sat := l.2.2.2 })) ∧
    (VecReady s r 0x22 w fi → (∀ i < 64, x.active? w i = true → ∀ a, at? i = some a → s.spaceBad r (wSpace w) a 4 = none) →
      ∃ t, exec (.vgather r) s = .next t ∧
        VecOnly s t r
          (vMask x w fun i => match at? i with
            | some a => s.readNat (spaceKey r fi.set (wSpace w) a) 4
            | none => 0)
          x.gReg x.pReg (addCnt x.ve.cnt 0 0 0 (lanesOf x w fun i => (at? i).isNone) 0))) ∧
  (∀ (s : State) (r : RoomId) (w : Nat) (fi : Firing), MemoryCanonical s →
    let x := s.room r
    let h := s.header r x.active
    let sel := (pick 64 (x.active? w)).map (x.lane (wVA w))
    let ad := (x.gReg (wGB w) + wImm w) % 2 ^ 32
    (VecReady s r 0x17 w fi →
      let a := (x.gReg (wGA w) + wImm w) % 2 ^ 32
      a % 64 = 0 → inSpace 0 a 64 = true →
      ∃ t, exec (.vstat r) s = .next t ∧ VecRegs s t r (vOld x) x.gReg x.pReg {} ∧
        Stored s t (shelfKey r.toNat a) (vstatRecord x.ve.cnt)) ∧
    (VecReady s r 0x62 w fi → wSub w = 1 → wSpace w ≠ 2 →
      let a := x.gReg (wGA w)
      a % 4 = 0 → writeBad h (wSpace w) a (4 * sel.length) = none →
      ∃ t, exec (.vcompress r) s = .next t ∧
        VecRegs s t r (vOld x)
          (fun n => if n = wGB w ∧ n ≠ 0 then sel.length else gNew x (wGA w) (a + 4 * sel.length) n) x.pReg x.ve.cnt ∧
        Stored s t (spaceKey r fi.set (wSpace w) a) (sel.flatMap (natLe 4))) ∧
    (VecReady s r 0x26 w fi → ad % 64 = 0 → writeBad h 3 ad 64 = none →
      ∃ t, exec (.vtoken r) s = .next t ∧ VecRegs s t r (vOld x) x.gReg x.pReg x.ve.cnt ∧
        Stored s t (stageOutKey r.toNat fi.set ad)
          (natLe 1 (x.gReg (wGA w) % 2) ++ (((x.lanes (wVA w)).take 16).flatMap (natLe 4)).drop 1) ∧
        ∀ g ∈ (t.room r).firings, g.set = fi.set → mapGet 0 g.outKinds (ad / 64) = 1) ∧
    (VecReady s r 0x27 w fi → ad % 64 = 0 → writeBad h 3 ad 64 = none →
      ∃ t, exec (.vendm r) s = .next t ∧ VecRegs s t r (vOld x) x.gReg x.pReg x.ve.cnt ∧
        Stored s t (stageOutKey r.toNat fi.set ad) (List.replicate 64 0) ∧
        ∀ g ∈ (t.room r).firings, g.set = fi.set → mapGet 0 g.outKinds (ad / 64) = 2))

/-- Stores of several ranges: masked lanes, scattered words, tile rows and digit planes. Memory outside the bytes each names stays
as it is. -/
def Obligations.VectorManyStores : Prop :=
  ∀ (s : State) (r : RoomId) (w : Nat) (fi : Firing), MemoryCanonical s →
    let x := s.room r
    let h := s.header r x.active
    let f := wFmt w
    let a := vAddr x w
    let key := fun k => spaceKey r fi.set (wSpace w) k
    let dkey := fun k => spaceKey r fi.set (shDspace w) k
    let at? := fun i => indexed (wSpace w) (x.gReg (wGA w)) (x.lane (wVB w) i) 4 4
    let st := 64 * shStride w
    let len := 256 * shC w
    let rows := fun op k (src dst : Nat → Option Nat) =>
      VecReady s r op w fi → shDspace w ≠ 2 →
      (∀ t ∈ tileLanes x w, ∀ a, src t = some a → s.spaceBad r (wSpace w) a len = none) →
      (∀ t ∈ tileLanes x w, ∀ b, dst t = some b → writeBad h (shDspace w) b len = none) →
      ∃ t, exec k s = .next t ∧
        VecRegs s t r (vOld x) x.gReg x.pReg
          (addCnt x.ve.cnt 0 0 0 ((tileLanes x w).filter fun t => (src t).isNone || (dst t).isNone).length 0) ∧
        t.mem = (tileLanes x w).foldl (fun m t => match src t, dst t with
          | some a, some b => memWrites m (dkey b) (memReads m (key a) len)
          | _, _ => m) s.mem ∧
        MemFrame s t fun k => ∃ t ∈ tileLanes x w, ∃ b, dst t = some b ∧ dkey b ≤ k ∧ k < dkey b + len
    (VecReady s r 0x21 w fi → wSpace w ≠ 2 → a % vAlign (fmtBits f) = 0 → writeBad h (wSpace w) a (vSize w) = none →
      (fmtIsMx f = true → writeBad h (wSpace w) (vScaleAddr x w) 2 = none) →
      ∃ t c, exec (.vst r) s = .next t ∧ VecRegs s t r (vOld x) x.gReg x.pReg c ∧
        c = { x.ve.cnt with invalid := c.invalid, inf := c.inf, sat := c.sat } ∧
        (fmtIsMx f = false →
          let vals := (List.range 64).map fun i => if f = 0x0D then x.lane64 (wVA w) i else (storeLane w (x.lane (wVA w) i)).1
          MemFrame s t (fun k => key a ≤ k ∧ k < key a + vSize w) ∧
          (fmtBits f % 8 = 0 → ∀ i < 64, x.active? w i = true →
            memReads t.mem (key a + i * (fmtBits f / 8)) (fmtBits f / 8) = natLe (fmtBits f / 8) (vals.getD i 0)) ∧
          (∀ k < vSize w, (∀ j < 64, fmtBits f * j ≤ 8 * k + 7 ∧ 8 * k < fmtBits f * (j + 1) → x.active? w j = false) →
            memRead t.mem (key a + k) = memRead s.mem (key a + k))) ∧
        (fmtIsMx f = true →
          let sa := vScaleAddr x w
          MemFrame s t (fun k => (key a ≤ k ∧ k < key a + vSize w) ∨ (key sa ≤ k ∧ k < key sa + 2)) ∧
          ∀ b ∈ [0, 32], a + vSize w ≤ sa ∨ sa + 2 ≤ a →
            let act := pick 32 fun i => x.active? w (b + i)
            let blk := mxBlock f (wRtz w) (act.map fun i => decodeFmt (laneFmt w) (x.lane (wVA w) (b + i)))
            act ≠ [] →
            memReads t.mem (key (a + b * fmtBits f / 8)) (4 * fmtBits f) = packElems (fmtBits f)
              ((List.range 32).map fun i => if i ∈ act then blk.2.1.getD (act.idxOf i) 0 else 0) ∧
            memRead t.mem (key (sa + b / 32)) = BitVec.ofNat 8 blk.1)) ∧
    (VecReady s r 0x23 w fi → wSpace w ≠ 2 →
      (∀ i < 64, x.active? w i = true → ∀ a, at? i = some a → writeBad h (wSpace w) a 4 = none) →
      ∃ t, exec (.vscatter r) s = .next t ∧
        VecRegs s t r (vOld x) x.gReg x.pReg (addCnt x.ve.cnt 0 0 0 (lanesOf x w fun i => (at? i).isNone) 0) ∧
        MemFrame s t (fun k => ∃ i < 64, ∃ a, x.active? w i = true ∧ at? i = some a ∧ key a ≤ k ∧ k < key a + 4) ∧
        ∀ i < 64, ∀ a, x.active? w i = true → at? i = some a →
          (∀ j < 64, i < j → x.active? w j = true → x.lane (wVB w) j ≠ x.lane (wVB w) i) →
          memReads t.mem (key a) 4 = natLe 4 (x.lane (wVA w) i)) ∧
    rows 0x28 (.trowg r) (fun t => indexed (wSpace w) (tileSrc x w) (x.lane (wVA w) t) st len) (fun t => some (tileDst x w + t * st)) ∧
    rows 0x29 (.trows r) (fun t => some (tileSrc x w + t * st)) (fun t => indexed (shDspace w) (tileDst x w) (x.lane (wVA w) t) st len) ∧
    (VecReady s r 0x65 w fi → shDspace w ≠ 2 → s.tileBad r w = none →
      (∀ i < shRows w, writeBad h (shDspace w) (tileDst x w + i * st) (tileRowBytes (shDfmt w) w) = none) →
      ∃ t c, exec (.tileop r) s = .next t ∧ VecRegs s t r (vOld x) x.gReg x.pReg c ∧
        (MemFrame s t fun k => ∃ i < shRows w, dkey (tileDst x w + i * st) ≤ k ∧
          k < dkey (tileDst x w + i * st) + tileRowBytes (shDfmt w) w) ∧
        let out := fun i => (s.tileRow32 r w fi.set i).zipIdx.map fun e =>
          tileStore w (tileElem w e.1 (tileVec x w (wVB w) i e.2) (tileVec x w (wVC w) i e.2))
        let n := tileRowBytes (shDfmt w) w
        let m := tileRowBytes (wFmt w) w
        ((∀ i < shRows w, ∀ j < i,
            (dkey (tileDst x w + j * st) + n ≤ key (tileSrc x w + i * st) ∨
              key (tileSrc x w + i * st) + m ≤ dkey (tileDst x w + j * st)) ∧ n ≤ st) →
          (∀ i < shRows w, memReads t.mem (dkey (tileDst x w + i * st)) n = packElems (fmtBits (shDfmt w)) ((out i).map (·.bits))) ∧
          c = ((List.range (shRows w)).foldl (fun y i => countLanes y (out i)) x).ve.cnt)) ∧
    (VecReady s r 0x6D w fi →
      let a := fun p => (x.gReg (wGA w) + p * wImm w) % 2 ^ 32
      (∀ p < 7, inSpace 0 (a p) 64 = true) →
      let out := if x.gReg (wGB w) = 0x7FFF then 0
        else (pick 64 fun i => (laneDigits (signedOf (x.gReg (wGB w)) 32) (decodeFmt 0x0D (x.lane64 (wVA w) i))).2).length
      ∃ t, exec (.vslice r) s = .next t ∧ VecRegs s t r (vOld x) x.gReg x.pReg (addCnt x.ve.cnt 0 0 0 0 out) ∧
        MemFrame s t (fun k => ∃ p < 7, shelfKey r.toNat (a p) ≤ k ∧ k < shelfKey r.toNat (a p) + 64) ∧
        ∀ p < 7, (∀ q < 7, p < q → a p + 64 ≤ a q ∨ a q + 64 ≤ a p) → ∀ i < 64,
          (x.gReg (wGB w) = 0x7FFF → memRead t.mem (shelfKey r.toNat (a p + i)) = 0) ∧
          (x.gReg (wGB w) ≠ 0x7FFF → decodeFmt 0x0D (x.lane64 (wVA w) i) ≠ .nan →
            memRead t.mem (shelfKey r.toNat (a p + i)) = BitVec.ofNat 8
              (wrapInt ((laneDigits (signedOf (x.gReg (wGB w)) 32) (decodeFmt 0x0D (x.lane64 (wVA w) i))).1.getD p 0) 8)))

/-- The words of control flow: NOP, LOOP, the branches and FENCE, and where the sequencer stands afterwards. END_FIRE queues the
parcel of each enabled output and ends the firing, and the next firing's program begins; a firing that has issued 2^24 words
faults the Room with VE_RUNAWAY. A vector word whose encoding is bad has no effect but VE_ENCODING: the Room is in FAULT, with
its registers, counters, memory and ports as they were. A vector word that waits for a load in flight of a register it names
changes nothing at all (04 R138). -/
def Obligations.SequencerControl : Prop :=
  (∀ (s : State) (r : RoomId) (w : Nat) (fi : Firing),
    let x := s.room r
    let next := x.ve.pc + 1
    let runs := fun op k p (g : Nat → Nat) => VecReady s r op w fi →
      ∃ t, exec k s = .next t ∧ VecOnly s t r (vOld x) g x.pReg x.ve.cnt ∧ GoesTo s t r p
    let less := (x.gReg (wGA w) + 2 ^ 32 - 1) % 2 ^ 32
    runs 0x11 (.vnop r) next x.gReg ∧
    (less = 0 → runs 0x12 (.vloop r) next (gNew x (wGA w) 0)) ∧
    (less ≠ 0 → wImm w < s.nWords r → runs 0x12 (.vloop r) (wImm w) (gNew x (wGA w) less)) ∧
    (x.gReg (wGA w) = 0 → wImm w < s.nWords r → runs 0x13 (.brZ r) (wImm w) x.gReg) ∧
    (x.gReg (wGA w) ≠ 0 → runs 0x13 (.brZ r) next x.gReg) ∧
    (x.gReg (wGA w) ≠ 0 → wImm w < s.nWords r → runs 0x14 (.brNz r) (wImm w) x.gReg) ∧
    (x.gReg (wGA w) = 0 → runs 0x14 (.brNz r) next x.gReg) ∧
    (∀ op k, (op = 0x12 ∧ k = .vloop r ∧ less ≠ 0) ∨ (op = 0x13 ∧ k = .brZ r ∧ x.gReg (wGA w) = 0) ∨
        (op = 0x14 ∧ k = .brNz r ∧ x.gReg (wGA w) ≠ 0) →
      VecReady s r op w fi → s.nWords r ≤ wImm w → ∃ t, exec k s = .next t ∧ Faulted s t r 0x04 0x22) ∧
    (s.fenceMet r (wSub w) = true → runs 0x15 (.fence r) next x.gReg) ∧
    (VecReady s r 0x15 w fi → s.fenceMet r (wSub w) = false →
      exec (.fence r) s = .next (s.updRoom r fun x => { x with ve := { x.ve with wait := .fence (BitVec.ofNat 3 (wSub w)) } })) ∧
    (∀ sub, x.ve.wait = .fence sub → s.live = true → x.runst = .run → s.fenceMet r sub.toNat = true →
      ∃ t, exec (.fenceSatisfied r) s = .next t ∧ VecOnly s t r (vOld x) x.gReg x.pReg x.ve.cnt ∧ GoesTo s t r next ∧
        (t.room r).ve.wait = .none)) ∧
  (∀ (s : State) (r : RoomId),
    let x := s.room r
    (∀ w fi, VecReady s r 0x10 w fi →
      ∃ t, exec (.endFire r) s = .next t ∧ RoomFrame s t r ∧ t.mem = s.mem ∧ t.poison = s.poison ∧ t.fresh = s.fresh ∧
        (t.room r).out0.leaving = x.out0.leaving ++ s.outParcel r fi false ∧
        (t.room r).out1.leaving = x.out1.leaving ++ s.outParcel r fi true ∧
        (∀ g ∈ (t.room r).firings, g.set = fi.set → g.ended = true ∧ g.left0 = (s.outParcel r fi false).length ∧
          g.left1 = (s.outParcel r fi true).length) ∧
        (∀ n i, (t.room r).lane n i = x.lane n i) ∧ (∀ n, n ≠ 15 → (t.room r).gReg n = x.gReg n) ∧
        (∀ n, (t.room r).pReg n = x.pReg n) ∧ (t.room r).ve.cnt = x.ve.cnt) ∧
    (s.live = true → x.runst = .run → x.running.isSome = true → 2 ^ 24 ≤ x.ve.issued →
      ∃ t, exec (.veRunaway r) s = .next t ∧ Faulted s t r 0x04 0x23)) ∧
  (∀ (s : State) (r : RoomId) (w : Nat) (fi : Firing) (op : Nat) (c : Instr), VecCommand r op c →
    s.seqWord r = some (w, fi) → wOp w = op → (∀ n ∈ vecRegs w, n ∉ s.pendingRegs r) → vecBad w = true →
    ∃ t, exec c s = .next t ∧ Faulted s t r 0x04 0x21 ∧ t.mem = s.mem) ∧
  (∀ (s : State) (r : RoomId) (w : Nat) (fi : Firing) (op : Nat) (c : Instr), VecCommand r op c →
    s.seqWord r = some (w, fi) → wOp w = op → (∃ n ∈ vecRegs w, n ∈ s.pendingRegs r) → exec c s = .next s)

/-- VLDM, VSTM and BOLTOP: the access or operation goes on its way, the registers stay, and the sequencer goes on, or holds for a
blocking operation. A response reaches its Room: a load writes its 64 words to VD, a store is done, and a failure or poison
faults the Room with the access's code. -/
def Obligations.RoomRequestsAndResponses : Prop :=
  (∀ (s : State) (r : RoomId) (w : Nat) (fi : Firing) (c : CtxId),
    let x := s.room r
    let d : Dva := BitVec.ofNat 64 (x.gReg (wGA w) + 2 ^ 32 * x.gReg (wGA w + 1))
    let next := x.ve.pc + 1
    let access := fun op k who write data => VecReady s r op w fi → s.outstanding r < 32 → d.toNat % 256 = 0 → s.roomCtx r = some c →
      let a : Access := { id := s.nextAcc, who, ctx := c, job := (s.ctx c).job, write, dva := d, len := 256, data }
      (∀ tier, s.place c write d = .here tier → ∃ t st, exec k s = .next t ∧
        t = { s with rooms := t.rooms, accesses := t.accesses, nextAcc := s.nextAcc + 1, tbufs := t.tbufs, errQ := t.errQ
                     errOvf := t.errOvf, reported := t.reported } ∧
        { a with st } ∈ t.accesses ∧ (∀ b ∈ s.accesses, b.id ≠ s.nextAcc → b ∈ t.accesses) ∧
        (tier = 0 → st = .translated 0 false) ∧ (∀ q, q ≠ r → t.room q = s.room q) ∧ SeqRoom x (t.room r) ∧
        (∀ n i, (t.room r).lane n i = x.lane n i) ∧ GoesTo s t r next) ∧
      (s.place c write d = .away ∨ s.place c write d = .group → ∃ t, exec k s = .next t ∧ s.nextAcc < t.nextAcc ∧
        (∀ n i, (t.room r).lane n i = x.lane n i) ∧ (∀ q, q ≠ r → t.room q = s.room q)) ∧
      (∀ code, s.place c write d = .bad code → ∃ t, exec k s = .next t ∧ Faulted s t r 0x05 code) ∧
      (s.place c write d = .config → ∃ t, exec k s = .next t ∧ t.mem = s.mem ∧ ∀ n i, (t.room r).lane n i = x.lane n i) ∧
      (s.place c write d = .register → ∃ t, exec k s = .next t ∧ t.mem = s.mem ∧ (∀ n i, (t.room r).lane n i = x.lane n i) ∧
        { a with st := .done 0 (List.replicate 256 0) [] } ∈ t.accesses)
    let i := wImm2 w
    let idx := bitsOf i 0 15 + x.gReg (wGA w) % 2 ^ 15
    let operand : W32 := BitVec.ofNat 32 (wImm w + x.gReg (wGB w))
    let ret := bitOf i 24
    let blocks := ret = true ∨ imm2Op i = 0 ∨ imm2Op i = 2 ∨ imm2Op i = 4
    let node : NodeId := BitVec.ofNat 16 (x.gReg (wGA w) / 2 ^ 16)
    access 0x24 (.vldm r) (.vldm r (BitVec.ofNat 5 (wVD w))) false [] ∧
    access 0x25 (.vstm r) (.vstm r) true ((x.lanes (wVA w)).flatMap (natLe 4)) ∧
    (VecReady s r 0x16 w fi → roomImm2Bad i = false → s.roomCtx r = some c →
      (imm2Op i = 1 ∨ imm2Op i = 2 → operand ≠ 0 ∧ operand.toNat ≤ 65535) →
      (bitOf i 15 = false ∨ imm2Op i = 8 ∨ node = s.idNode ∨ node = 0xFFFF) → idx < (s.ctx c).bolts →
      ∃ t, exec (.boltop r) s = .next t ∧
        t = { s with rooms := t.rooms, boltQ := t.boltQ, errQ := t.errQ, errOvf := t.errOvf, reported := t.reported } ∧
        mapGet [] t.boltQ (boltDie (s.boltAbs c idx)).toNat = mapGet [] s.boltQ (boltDie (s.boltAbs c idx)).toNat ++
          [{ who := .room r, ctx := c, bolt := s.boltAbs c idx, op := BitVec.ofNat 4 (imm2Op i)
             cond := BitVec.ofNat 3 (imm2Cond i), operand, ret }] ∧
        (∀ n i, (t.room r).lane n i = x.lane n i) ∧ (∀ n, (t.room r).gReg n = x.gReg n) ∧ (∀ q, q ≠ r → t.room q = s.room q) ∧
        (blocks → (t.room r).ve.wait = .bolt (if ret then some (BitVec.ofNat 4 (wGB w)) else none)) ∧
        (¬blocks → (t.room r).ve.wait = .none ∧ GoesTo s t r next)) ∧
    (VecReady s r 0x16 w fi → roomImm2Bad i = false → s.roomCtx r = some c →
      (imm2Op i = 1 ∨ imm2Op i = 2 → operand ≠ 0 ∧ operand.toNat ≤ 65535) →
      bitOf i 15 = true → imm2Op i ≠ 8 → node ≠ s.idNode → node ≠ 0xFFFF → s.nodeOk node = false →
      ∃ t, exec (.boltop r) s = .next t ∧ Faulted s t r 0x05 0x07)) ∧
  (∀ (s : State) (id : Nat) (a : Access) (r : RoomId), s.access id = some a → (s.room r).runst ≠ .fault →
    let gone := { s with accesses := s.accesses.filter fun x => x.id != id }
    (∀ vd data, a.who = .vldm r vd → a.st = .done 0 data [] →
      ∃ t, exec (.memResponseArrival id) s = .next t ∧ t = { gone with rooms := t.rooms } ∧
        (∀ n i, i < 64 → (t.room r).lane n i =
          if n = vd.toNat then leNat ((data.drop (4 * i)).take 4) % 2 ^ 32 else (s.room r).lane n i) ∧
        (∀ n, (t.room r).gReg n = (s.room r).gReg n) ∧ ∀ q, q ≠ r → t.room q = s.room q) ∧
    (∀ data poison, a.who = .vstm r → a.st = .done 0 data poison → exec (.memResponseArrival id) s = .next gone) ∧
    (∀ code data poison, (∃ vd, a.who = .vldm r vd) ∨ a.who = .vstm r → a.st = .done code data poison → code ≠ 0 →
      ∃ t, exec (.memResponseArrival id) s = .next t ∧ Faulted gone t r 0x05 code.toNat) ∧
    (∀ vd data u us, a.who = .vldm r vd → a.st = .done 0 data (u :: us) →
      ∃ t, exec (.memResponseArrival id) s = .next t ∧ Faulted gone t r 0x05 0x08))

/-- An arrival joins its port: on chip while it has room there and nothing is spilled, behind entries on their way back, or in the
Shelf ring. A spilled entry's payload is stored in the Shelf. A port that fills while its Room is not blocked stands at its
capacity from then on. An entry of the reserved kind faults the Room. Entries come back from the Shelf in the rotation's
order, with the poison of their units, and become visible oldest first with the arrivals behind them; one from a poisoned unit
faults the Room with SPILL_ECC. -/
def Obligations.QueueEntries : Prop :=
  (∀ (s : State) (r : RoomId) (p : PortId) (src : RoomId) (out : Bool) (e : Entry), MemoryCanonical s →
    let i := (s.room r).inPort p
    let j := { i with transit := i.transit.erase e }
    let full := fun (k : InPort) => if s.blocked r then k else { k with fullSince := portFull k }
    s.live = true → portFull i = false → i.transit.find? (fun e => e.src == src && e.out == out) = some e →
    (onChipHeld i < 16 → i.spilled = [] → i.moving = [] →
      ∃ t, RoomBecomes (.queueEntryArrival r p src out) s t r ((s.room r).setIn p (full { j with onchip := i.onchip ++ [e] })) ∧
        t.mem = s.mem) ∧
    (onChipHeld i < 16 → i.spilled = [] → i.moving ≠ [] →
      ∃ t, RoomBecomes (.queueEntryArrival r p src out) s t r
          ((s.room r).setIn p (full { j with moving := i.moving ++ [{ entry := e, refill := false }] })) ∧ t.mem = s.mem) ∧
    (16 ≤ onChipHeld i ∨ i.spilled ≠ [] →
      ∃ t, RoomBecomes (.queueEntryArrival r p src out) s t r
          { (s.room r).setIn p (full { j with spilled := i.spilled ++ [(e.kind, e.src, e.out)]
                                              wrPos := (i.wrPos + 1) % spillLimit i
                                              hwm := BitVec.ofNat 11 (max i.hwm.toNat (i.spilled.length + 1)) }) with rotIn := some p } ∧
        Stored s t (shelfKey r.toNat (spillBase i + 64 * i.wrPos)) (unitBytes e.payload)) ∧
    (e.kind = 3 → (s.room r).runst ≠ .fault →
      ∃ t, exec (.queueEntryArrival r p src out) s = .next t ∧ (t.room r).runst = .fault ∧
        (t.room r).cause = some (0x01, 0x01))) ∧
  (∀ (s : State) (r : RoomId) (p : PortId), s.live = true →
    let x := s.room r
    let i := x.inPort p
    (∀ k src out rest, nextInRotation x.rotOut (fun p => canRefill (x.inPort p)) = some p → i.spilled = (k, src, out) :: rest →
      let a := shelfKey r.toNat (spillBase i + 64 * i.rdPos)
      exec (.spillMoveBack r) s = .next (s.updRoom r fun x =>
        { x.setIn p { i with spilled := rest, rdPos := (i.rdPos + 1) % spillLimit i
                             moving := i.moving ++ [{ entry := { kind := k, payload := bytesUnit (s.read a 64), src, out }
                                                      refill := true, bad := s.poisoned a 64 }] } with rotOut := some p })) ∧
    (∀ m rest, i.moving = m :: rest → x.runst ≠ .fault → m.bad = false →
      ∃ t, RoomBecomes (.spilledEntryVisible r p) s t r (x.setIn p
          { i with moving := rest.dropWhile fun y => !y.refill
                   onchip := i.onchip ++ m.entry :: (rest.takeWhile fun y => !y.refill).map (·.entry) }) ∧ t.mem = s.mem) ∧
    (∀ m rest, i.moving = m :: rest → x.runst ≠ .fault → m.bad = true →
      ∃ t, exec (.spilledEntryVisible r p) s = .next t ∧ Faulted s t r 0x02 0x05 ∧ (t.room r).fault = x.fault ||| 16))

/-- An output sends its oldest entry to all its destinations at once when each has a credit, and the firings issued before that of
the entry have sent their last; a credit comes back one at a time; the credit count of a destination is never more than its
port's free places. ROUTE and GATE: the parcel of a token that forwards leaves by its output in order, one that discards is
counted; both consume their parcel, and memory stays (02 R59). -/
def Obligations.QueueOutputs : Prop :=
  (∀ (s : State) (r : RoomId),
    (∀ o e own rest, let x := s.room r
      let ds := hDests (s.header r x.active) (boolNat o)
      (x.outPort o).leaving = (e, own) :: rest → s.live = true → x.runst ≠ .fault →
      (own = true → maySend o x.firings = true) → (∀ d ∈ ds, ds.count d ≤ s.credit d) →
      ∃ t, exec (.outputSend r o) s = .next t ∧ t = { s with rooms := t.rooms } ∧ ((t.room r).outPort o).leaving = rest ∧
        ((t.room r).outPort (!o)).leaving = (x.outPort (!o)).leaving ∧
        (∀ d ∈ ds, e ∈ ((t.room d.1).inPort d.2).transit) ∧
        (∀ q, q ≠ r → (∀ d ∈ ds, d.1 ≠ q) → t.room q = s.room q) ∧
        ∀ q p, (q, p) ∉ ds → (t.room q).inPort p = (s.room q).inPort p) ∧
    (∀ p prod o, let i := (s.room r).inPort p
      let k := prod.toNat * 2 + boolNat o
      0 < mapGet 0 i.freed k →
      exec (.creditReturn r p prod o) s =
        .next (s.updPortIn r p fun i => { i with freed := mapSet i.freed k (mapGet 0 i.freed k - 1) })) ∧
    (∀ d : RoomId × PortId, let i := (s.room d.1).inPort d.2
      s.credit d + portHeld i + i.transit.length ≤ max (portCap i) (portHeld i + i.transit.length))) ∧
  (∀ (s : State) (r : RoomId) (u : Bool) (p : Nat),
    let x := s.room r
    let h := s.header r x.active
    let d := hSteer h (boolNat u)
    let q : PortId := BitVec.ofNat 2 p
    let o := d.fwd == 1
    s.live = true → x.runst = .run → x.trigMet = false → parcelReady (x.inPort q) d.plen = true →
    (unitAct x h (boolNat u) = some (.forward p) → s.creditsFor r o d.plen = true →
      ∃ t, exec (.routeForward r u) s = .next t ∧ RoomFrame s t r ∧ t.mem = s.mem ∧ t.poison = s.poison ∧
        (t.room r).forwards = x.forwards + 1 ∧ (t.room r).discards = x.discards ∧
        ((t.room r).outPort o).leaving = (x.outPort o).leaving ++
          ((x.inPort q).onchip.take d.plen).map (fun e => ({ e with src := r, out := o }, false)) ∧
        (q ≠ BitVec.ofNat 2 d.ctrl → ((t.room r).inPort q).onchip = (x.inPort q).onchip.drop d.plen) ∧
        (t.room r).ve = x.ve ∧ (t.room r).slots = x.slots) ∧
    (unitAct x h (boolNat u) = some (.discard p) →
      ∃ t, exec (.gateDiscard r u) s = .next t ∧ RoomFrame s t r ∧ t.mem = s.mem ∧ t.poison = s.poison ∧
        (t.room r).discards = x.discards + 1 ∧ (t.room r).forwards = x.forwards ∧
        (q ≠ BitVec.ofNat 2 d.ctrl → ((t.room r).inPort q).onchip = (x.inPort q).onchip.drop d.plen) ∧
        (t.room r).out0 = x.out0 ∧ (t.room r).out1 = x.out1 ∧ (t.room r).ve = x.ve ∧ (t.room r).slots = x.slots))

/-- The firing rule: a Room in RUN faults at a head that may not be there; while its conditions hold an issue is due; the issue
consumes the parcels into a free staging set, counts the firing, and starts the program if none ran (02 R54, R55, R62). The
stall watch: a blocked Room's window is counted and reported to its context; an episode without a cycle is reported and leaves
the Rooms alone, one with a cycle, or a Room blocked for HANG_LIMIT windows, halts every Room of the context (02 R66, R69,
R70). -/
def Obligations.FiringAndStalls : Prop :=
  (∀ (s : State) (r : RoomId),
    let x := s.room r
    let set := if ∃ f ∈ x.firings, f.set = 0 then 1 else 0
    let h := s.header r x.active
    (∀ b, s.live = true → x.runst = .run → headFault x h = some b →
      ∃ t, exec (.firingConditionsMet r) s = .next t ∧ Faulted s t r 0x01 (b + 1)) ∧
    (s.canFire r = true → headFault x h = none →
      exec (.firingConditionsMet r) s = .next (s.updRoom r fun x => { x with firePending := true })) ∧
    (s.canFire r = true → x.firePending = true → MemoryCanonical s →
      ∃ t, exec (.firingIssue r) s = .next t ∧ RoomFrame s t r ∧ t.fresh = s.fresh ∧
        (t.room r).slotFires = x.slotFires + 1 ∧ (t.room r).fires = x.fires + 1 ∧ (t.room r).firePending = false ∧
        (t.room r).trigMet = ((hTrigger h == 0 || hTrigger h == 2) && x.slotFires.toNat + 1 == hQuota h) ∧
        (t.room r).firings.map (fun f => (f.slot, f.set, f.index, f.ended)) =
          x.firings.map (fun f => (f.slot, f.set, f.index, f.ended)) ++ [(x.active, set, x.slotFires, false)] ∧
        (∀ n i, (t.room r).lane n i = x.lane n i) ∧ (t.room r).slots = x.slots ∧ (t.room r).out0 = x.out0 ∧
        (t.room r).out1 = x.out1 ∧
        (x.running.isNone = true → (t.room r).gReg 15 = x.slotFires.toNat) ∧
        MemFrame s t fun k => (stageInKey r.toNat set 0 ≤ k ∧ k < stageInKey r.toNat set 8192) ∨
          (stageOutKey r.toNat set 0 ≤ k ∧ k < stageOutKey r.toNat set 2048))) ∧
  (∀ (s : State) (c : CtxId),
    (∀ r, s.live = true → s.blocked r = true → s.roomCtx r = some c →
      ∃ t rep, exec (.stallReport r) s = .next t ∧ t = { s with rooms := t.rooms, ctxs := t.ctxs } ∧
        (t.room r).windows = satAdd 32 (s.room r).windows 1 ∧ (t.ctx c).collecting = true ∧
        (t.ctx c).reports = (s.ctx c).reports ++ [rep] ∧ repRoom rep = r ∧ repReason rep = (s.stallReasonOf r).1 ∧
        (∀ q, q ≠ r → t.room q = s.room q) ∧ ∀ k, k ≠ c → t.ctx k = s.ctx k) ∧
    ((s.ctx c).collecting = true → cycleOf (s.ctx c).reports = [] →
      ∃ t, exec (.stallClassify c) s = .next t ∧
        t = { s with ctxs := t.ctxs, errQ := t.errQ, errOvf := t.errOvf, reported := t.reported, lbxs := t.lbxs, diag := t.diag } ∧
        (t.ctx c).reports = [] ∧ (t.ctx c).collecting = false ∧ EventSent s t (c.toNat + 1) 0x8001) ∧
    ((s.ctx c).collecting = true → cycleOf (s.ctx c).reports ≠ [] →
      ∃ t, exec (.stallClassify c) s = .next t ∧
        t = { s with ctxs := t.ctxs, rooms := t.rooms, errQ := t.errQ, errOvf := t.errOvf, reported := t.reported
                     lbxs := t.lbxs, diag := t.diag } ∧
        (t.ctx c).reports = [] ∧ (t.ctx c).collecting = false ∧ EventSent s t (c.toNat + 1) 0x8001 ∧
        ∀ r ∈ s.ownRooms c, (t.room r).haltReq = true) ∧
    (∀ r, s.live = true → s.blocked r = true → s.roomCtx r = some c → (s.room r).haltReq = false → 0 < (s.ctx c).hangLimit →
      (s.ctx c).hangLimit ≤ (s.room r).windows.toNat →
      ∃ t, exec (.hangLimitReached r) s = .next t ∧
        t = { s with rooms := t.rooms, errQ := t.errQ, errOvf := t.errOvf, reported := t.reported, lbxs := t.lbxs, diag := t.diag } ∧
        EventSent s t (c.toNat + 1) 0x8001 ∧ ∀ r ∈ s.ownRooms c, (t.room r).haltReq = true))

/-- Triggers, retirement and switches: an END trigger is met when every port of END_MASK holds END; a retired slot is READY and
the Room is IDLE, or begins the switch to the next slot if that one is not EMPTY; the switch ends with it ACTIVE. The control
space: HALT, RESUME, START and FORCE, and a port profile write, accepted or refused (02 R76, R77, R82). -/
def Obligations.SlotsAndControlSpace : Prop :=
  (∀ (s : State) (r : RoomId), s.live = true →
    let x := s.room r
    let h := s.header r x.active
    (x.runst = .run → x.trigMet = false → hTrigger h = 1 ∨ hTrigger h = 2 → pick 4 (hEndMask h) ≠ [] →
      (∀ p ∈ pick 4 (hEndMask h), (x.inPort (BitVec.ofNat 2 p)).onchip.head?.any isEnd = true) →
      ∃ t, exec (.endTrigger r) s = .next t ∧ RoomFrame s t r ∧ t.mem = s.mem ∧ (t.room r).trigMet = true ∧
        (∀ p < 4, ((t.room r).inPort (BitVec.ofNat 2 p)).onchip = (x.inPort (BitVec.ofNat 2 p)).onchip.drop (boolNat (hEndMask h p))) ∧
        (t.room r).ve = x.ve ∧ (t.room r).slots = x.slots) ∧
    (x.runst = .run → x.trigMet = true → x.firings = [] → x.out0.leaving = [] → x.out1.leaving = [] → x.haltReq = false →
      let y := { x.setSlot x.active .ready with slotFires := 0, trigMet := false, trig := .none, firePending := false }
      (hStop h = true → exec (.slotRetire r) s = .next (s.updRoom r fun _ => { y with runst := .idle })) ∧
      (hStop h = false → y.slotSt (hNext h) = .empty →
        ∃ t, exec (.slotRetire r) s = .next t ∧ (t.room r).runst = .fault ∧ (t.room r).cause = some (0x01, 0x04)) ∧
      (hStop h = false → y.slotSt (hNext h) ≠ .empty →
        ∃ t, exec (.slotRetire r) s = .next t ∧ t = { s with rooms := t.rooms, ctxs := t.ctxs } ∧
          t.room r = { y with runst := .switch
                              switching := some { target := hNext h, loadWait := decide (y.slotSt (hNext h) = .loading) } } ∧
          ∀ q, q ≠ r → t.room q = s.room q)) ∧
    (∀ w, x.switching = some w → x.runst = .switch → w.loadWait = true → x.slotSt w.target = .ready →
      exec (.loadWaitResume r) s =
        .next (s.updRoom r fun x => restartStall { x with switching := some { w with loadWait := false } })) ∧
    (∀ w, x.switching = some w → x.runst = .switch → w.loadWait = true → x.slotSt w.target = .empty →
      ∃ t, exec (.loadWaitResume r) s = .next t ∧ Faulted s t r 0x01 0x04) ∧
    (∀ w, x.switching = some w → x.runst = .switch → w.loadWait = false →
      ∃ t, exec (.switchComplete r) s = .next t ∧ (t.room r).active = w.target ∧ (t.room r).slotSt w.target = .active ∧
        (t.room r).switches = x.switches + 1 ∧ (t.room r).slotFires = 0 ∧ (t.room r).trigMet = false ∧
        (∀ q, q ≠ r → t.room q = s.room q) ∧ t.mem = s.mem ∧
        t = { s with rooms := t.rooms, boltQ := t.boltQ, errQ := t.errQ, errOvf := t.errOvf, reported := t.reported })) ∧
  (∀ (s : State) (r : RoomId),
    let x := s.room r
    exec (.cfbCtrlHalt r) s = .next (s.updRoom r fun x => { x with haltReq := true }) ∧
    (s.live = true → x.haltReq = true → x.runst = .run → x.firings = [] →
      exec (.haltEffect r) s = .next (s.updRoom r fun x => restartStall { x with runst := .halt, firePending := false })) ∧
    (x.runst ≠ .halt → exec (.cfbCtrlResume r) s = .next (s.updRoom r fun x => { x with haltReq := false })) ∧
    (x.runst = .halt → headFault x (s.header r x.active) = none →
      exec (.cfbCtrlResume r) s = .next (s.updRoom r fun x => { x with haltReq := false, runst := .run })) ∧
    (∀ b, x.runst = .halt → headFault x (s.header r x.active) = some b →
      ∃ t, exec (.cfbCtrlResume r) s = .next t ∧ (t.room r).runst = .fault ∧ (t.room r).cause = some (0x01, b + 1) ∧
        t.mem = s.mem ∧ ∀ q, q ≠ r → t.room q = s.room q) ∧
    (∀ target, x.runst = .idle → x.slotSt target ≠ .empty →
      ∃ t, exec (.cfbCtrlStart r target) s = .next t ∧ t = { s with rooms := t.rooms, ctxs := t.ctxs } ∧
        t.room r = { x with target, runst := .switch
                            switching := some { target, loadWait := decide (x.slotSt target = .loading) } } ∧
        ∀ q, q ≠ r → t.room q = s.room q) ∧
    (∀ target, x.runst = .idle → x.slotSt target = .empty →
      ∃ t, exec (.cfbCtrlStart r target) s = .next t ∧ (t.room r).runst = .fault ∧ (t.room r).cause = some (0x01, 0x04)) ∧
    (∀ target, x.runst ≠ .idle → exec (.cfbCtrlStart r target) s = .next (s.updRoom r fun x => { x with target })) ∧
    (x.runst = .run ∨ x.runst = .halt → hTrigger (s.header r x.active) = 4 → x.trigMet = false →
      exec (.cfbCtrlForce r) s = .next (s.updRoom r fun x => { x with trigMet := true, firePending := false })) ∧
    (∀ p v, s.profRefused r p v.toNat = true →
      exec (.cfbPortprofWrite r p v) s = .next (s.updRoom r fun x => { x with fault := x.fault ||| 32 })) ∧
    (∀ p v, s.profRefused r p v.toNat = false →
      ∃ t, exec (.cfbPortprofWrite r p v) s = .next t ∧ t = { s with rooms := t.rooms } ∧
        (∀ q, q ≠ r → t.room q = s.room q) ∧
        t.room r = x.setIn p { x.inPort p with profile := BitVec.ofNat 16 v.toNat, wrPos := 0, rdPos := 0
                                               freed := ((t.room r).inPort p).freed } ∧
        portCap ((t.room r).inPort p) = 16 + profLimit v.toNat))

/-- Slot images and loads: a unit written to a slot window that is not ACTIVE is stored, one to an ACTIVE slot only sets
ACTIVE_WRITE; a request joins the loader's queue of eight; the loader takes one, and every masked Room's slot is LOADING (02
R72, R74, R83). SLOT_LOAD joins the loader's queue of its Wing; CFB_ACCESS reads a control register of a Room of the context,
or writes one under its access code and reads it back; DEBUG_READ reads bytes of TIER 0 and of TIER 4. -/
def Obligations.SlotImagesAndRoomCommands : Prop :=
  (∀ (s : State),
    (∀ r slot unit data, (s.room r).slotSt slot = .active →
      exec (.slotImageWrite r slot unit data) s = .next (s.updRoom r fun x => { x with fault := x.fault ||| 64 })) ∧
    (∀ r slot (unit : BitVec 10) data, (s.room r).slotSt slot ≠ .active → MemoryCanonical s →
      ∃ t, exec (.slotImageWrite r slot unit data) s = .next t ∧ t = { s with rooms := t.rooms, mem := t.mem, poison := t.poison } ∧
        (unit.toNat < 256 → Stored s t (slotKey r.toNat slot.toNat (64 * unit.toNat)) (unitBytes data)) ∧
        (256 ≤ unit.toNat → t.mem = s.mem) ∧
        t.room r = (if (s.room r).slotSt slot = .ready then (s.room r).setSlot slot .loading else s.room r) ∧
        ∀ q, q ≠ r → t.room q = s.room q) ∧
    (∀ w loff slot mask, (s.wing w).loadQ.length < 8 →
      exec (.loadRequest w loff slot mask) s =
        .next (s.updWing w fun x => { x with loadQ := x.loadQ ++ [{ loff, slot, mask }] })) ∧
    (∀ w q rest, s.live = true → (s.wing w).loading = none → (s.wing w).loadQ = q :: rest →
      (∀ r ∈ maskRooms w q.mask, s.slotBusy r q.slot = false) →
      ∃ t, exec (.loaderTakeRequest w) s = .next t ∧ (t.wing w).loading = some q ∧ t.mem = s.mem ∧
        (∀ r ∈ maskRooms w q.mask, t.room r = (s.room r).setSlot q.slot .loading) ∧
        (∀ r, r ∉ maskRooms w q.mask → t.room r = s.room r) ∧
        (s.work? q.work = none → t = { s with rooms := t.rooms, wings := t.wings } ∧ (t.wing w).loadQ = rest ∧
          ∀ g, g ≠ w → t.wing g = s.wing g)) ∧
    (∀ w q l tag, MemoryCanonical s → s.live = true → (s.wing w).loading = some q → q.lbx = some (l, tag) →
      tag ∉ (s.lbx l).mute →
      ∃ t, exec (.loadCommit w) s = .next t ∧ (t.wing w).loading = none ∧
        (∀ r ∈ maskRooms w q.mask,
          let a := q.loff.toNat + 16384 * (r.toNat % 16)
          let h : Header := { bytes := s.read (larderKey w.toNat a) 64 }
          let img := s.read (larderKey w.toNat a) (hLength h)
          let good := a + 64 ≤ 2 ^ 24 ∧ headerOk h = true ∧ a + hLength h ≤ 2 ^ 24 ∧
            s.poisoned (larderKey w.toNat a) (hLength h) = false ∧ crc32c (img.drop 12) = hNat h 8 4
          (good → (t.room r).slotSt q.slot = .ready ∧ memReads t.mem (slotKey r.toNat q.slot.toNat 0) (hLength h) = img) ∧
          (¬good → (t.room r).slotSt q.slot = .empty)) ∧
        (∀ r, r ∉ maskRooms w q.mask → t.room r = s.room r) ∧
        ∃ p ∈ (t.lbx l).outq, p.tag = tag ∧ p.opcode = 0x0301 ∧ p.fin = true ∧ p.event = false)) ∧
  (∀ (s : State) (q : Req),
    let u := s.begun q
    let x := s.ctx (reqCtx q)
    let g : WingId := BitVec.ofNat 6 (x.first.toNat + reqNat q 16 1)
    let r : RoomId := BitVec.ofNat 10 (reqNat q 16 2)
    let off := reqNat q 20 2
    let access (wr : Bool) := Accepted s q 0x0302 [(16, 0, 10), (18, 0, 1), (20, 0, 16), (24, 0, 64)]
      [(20, (s.cfbReg 0 off).isNone || (wr && !cfbWritable off))] ∧ s.roomCtx r = some (reqCtx q) ∧ reqBit q 18 0 = wr
    (Accepted s q 0x0301 [(16, 0, 6), (17, 0, 3), (18, 0, 16), (20, 0, 24)] [(20, reqNat q 20 3 % 64 != 0)] →
      reqNat q 16 1 < x.wings → x.st ≠ .preempted → (s.wing g).loadQ.length < 8 →
      exec (.slotLoad q) s = .next (u.updWing g fun w => { w with loadQ := w.loadQ ++
        [({ loff := BitVec.ofNat 24 (reqNat q 20 3), slot := BitVec.ofNat 3 (reqNat q 17 1), mask := BitVec.ofNat 16 (reqNat q 18 2)
            lbx := some (q.lbx, reqTag q), ctx := reqCtx q } : LoadReq)] })) ∧
    (access false → ∃ n v, u.cfbReg r off = some (n, v) ∧ Answers (.cfbAccessRead q) s q u 0 0 [(24, 8, v)]) ∧
    (access true → off = 0x68 →
      let f := (s.room r).fault &&& ~~~ (BitVec.ofNat 7 (reqNat q 24 8))
      Answers (.cfbAccessWrite q) s q (u.updRoom r fun x => { x with fault := f }) 0 0 [(24, 8, f.toNat)]) ∧
    (access true → ∀ p : PortId, off = 0x10 + 8 * p.toNat →
      (s.profRefused r p (reqNat q 24 8) = true → ∃ t, exec (.cfbAccessWrite q) s = .next t ∧
        t.room r = { s.room r with fault := (s.room r).fault ||| 32 }) ∧
      (s.profRefused r p (reqNat q 24 8) = false → ∃ t, exec (.cfbAccessWrite q) s = .next t ∧
        ((t.room r).inPort p).profile = BitVec.ofNat 16 (reqNat q 24 8) ∧
        ((t.room r).inPort p).spilled = ((s.room r).inPort p).spilled ∧
        (∀ o, o ≠ p → (t.room r).inPort o = (s.room r).inPort o) ∧ ∀ o, o ≠ r → t.room o = s.room o)) ∧
    (access true → off = 0x50 → ∃ t, exec (.cfbAccessWrite q) s = .next t ∧
      (∀ p : PortId, (t.room r).inPort p =
        { (s.room r).inPort p with hwm := BitVec.ofNat 11 (bitsOf (reqNat q 24 8) (16 * p.toNat) 11) }) ∧
      ∀ o, o ≠ r → t.room o = s.room o) ∧
    (access true → off = 4 → let v := reqNat q 24 8
      ∃ t, exec (.cfbAccessWrite q) s = .next t ∧
        (∀ k < 3, (t.room r).target.getLsbD k = if bitOf v (20 + k) then bitOf v (4 + k) else (s.room r).target.getLsbD k) ∧
        (t.room r).haltReq = (if bitOf v 16 then bitOf v 0 else (s.room r).haltReq && !(bitOf v 17 && bitOf v 1)) ∧
        ∀ o, o ≠ r → t.room o = s.room o) ∧
    (let d : Dva := BitVec.ofNat 64 (reqNat q 16 8)
     let n := reqNat q 24 1
     Accepted s q 0x0303 [(16, 0, 64), (24, 0, 8)]
      [(16, d.toNat % 4 != 0 || (dvaTier d != 0 && dvaTier d != 4) || dvaNode d != 0xFFFF), (24, n < 4 || 224 < n || n % 4 != 0)] →
     (dvaTier d = 0 → bitsOf (dvaOff d) 31 14 = 0 →
       (∀ i, i < n → tier0Key (dvaOff d + i) / 64 ∉ s.poison) →
       Answers (.debugRead q) s q u 0 0 [(32, n, leNat ((List.range n).map fun i => memRead s.mem (tier0Key (dvaOff d + i))))]) ∧
     (dvaTier d = 4 → bitsOf (dvaOff d) 30 15 = 0 →
       Answers (.debugRead q) s q u 0 0 [(32, n, leNat ((List.range n).map fun i => u.tier4Byte (dvaOff d + i)))])))

/-- MMA: every element of the banks takes its K-groups in order, in FP32 or in INT32 with saturation; the banks take the operands'
class; every other byte stays. With B from the weight chain the instruction begins and waits for its block. MMA_EXACT and
MMA_SLICE accumulate into the long tile: the exact sum or the slice products with their flags, the class of all banks, the
anchor, the mode, the product count and KLIMIT. -/
def Obligations.TensorAccumulates : Prop :=
  (∀ (s : State) (r : RoomId) (w p : Nat), MemoryCanonical s → TensorReady s r 0x01 w p → s.mmaCheck r w = none →
    let int := isInt (tAfmt w)
    let cls := if int then BankClass.integer else BankClass.float
    let cell := fun m n => accumulate int (tInit w) (aVal s r w m) (bVal s r w n) (List.range (shapeK w / 32))
      (s.accRead r (tAccb w + m / 64 * 2 ^ tNT w + n / 64) (m % 64) (n % 64))
    (tBsrc w = false → ∃ t te, exec (.mma r) s = .next t ∧ TensorDone s t r p te ∧
      (∀ m < shapeM w, ∀ n < shapeN w,
        t.accRead r (tAccb w + m / 64 * 2 ^ tNT w + n / 64) (m % 64) (n % 64) = (cell m n).1 % 2 ^ 32) ∧
      (∀ b < 4, bankCls te b = if b ∈ banksOf w then cls else bankCls (s.room r).te b) ∧
      (∀ b < 4, b ∉ banksOf w → bankSat te b = bankSat (s.room r).te b) ∧
      MemFrame s t (InBanks r w)) ∧
    (tBsrc w = true → ∃ t, exec (.mma r) s = .next t ∧ t = { s with rooms := t.rooms } ∧ (∀ q, q ≠ r → t.room q = s.room q) ∧
      (t.room r).te.waiting = true ∧ (t.room r).te.blockNo = 0 ∧ (t.room r).te.queue = (s.room r).te.queue ∧
      (∀ b < 4, bankCls (t.room r).te b = if b ∈ banksOf w then cls else bankCls (s.room r).te b))) ∧
  (∀ (s : State) (r : RoomId) (w p : Nat), MemoryCanonical s → s.mmaCheck r w = none →
    let te := (s.room r).te
    let fresh := tileFresh te w
    let past := fun n => decide (2 ^ 23 < (if fresh then 0 else te.products) + n)
    let tile := fun (t : Tensor) (slice : Bool) (n : Nat) =>
      (∀ b < 4, bankCls t b = .long) ∧ t.slice = slice ∧ t.products = (if fresh then 0 else te.products) + n ∧
        t.anchor = (if fresh then tAnchor w else te.anchor) ∧ t.klimit = ((!fresh && te.klimit) || past n)
    (TensorReady s r 0x02 w p → tBsrc w = false →
      let cell := fun c => (List.range (shapeK w)).foldl
        (fun acc k => exactAdd (tAnchor w) acc (valMul (aVal s r w (c / 64) k) (bVal s r w (c % 64) k)))
        (if fresh then (0, 0, false) else (s.longRead r c, s.flagRead r c, false))
      ∃ t te', exec (.mmaExact r) s = .next t ∧ TensorDone s t r p te' ∧ tile te' false (shapeK w) ∧
        (∀ c < 4096, t.longRead r c = (cell c).1 % 2 ^ 128 ∧
          t.flagRead r c = ((cell c).2.1 ||| (if past (shapeK w) then 8 else 0)) % 256) ∧
        te'.inexact = ((!fresh && te.inexact) || (List.range 4096).any fun c => (cell c).2.2) ∧
        MemFrame s t fun k => InLong r k ∨ InFlags r k) ∧
    (TensorReady s r 0x02 w p → tBsrc w = true →
      ∃ t, exec (.mmaExact r) s = .next t ∧ t = { s with rooms := t.rooms } ∧ (∀ q, q ≠ r → t.room q = s.room q) ∧
        t.room r = { s.room r with te := { te with waiting := true, blockNo := 0, late := (t.room r).te.late } }) ∧
    (TensorReady s r 0x03 w p →
      let digit := sliceDigit s
      let sum := fun c => ((List.range (shapeK w)).map fun k => (slicePairs.map fun pq =>
        digit (fun a => spaceKey r 0 (spaceOfA w) a) (tAaddr w) (tAstride w) pq.1 (c / 64) k *
          digit (fun a => shelfKey r.toNat a) (tBaddr w) (tBstride w) pq.2 (c % 64) k * 2 ^ (7 * (6 - pq.1 - pq.2))).sum).sum
      ∃ t te', exec (.mmaSlice r) s = .next t ∧ TensorDone s t r p te' ∧ tile te' true (28 * shapeK w) ∧
        (∀ c < 4096, t.longRead r c = wrapInt ((if fresh then 0 else (s.longRead r c : Int)) + sum c) 128 ∧
          t.flagRead r c = (if fresh then 0 else s.flagRead r c) ||| (if past (28 * shapeK w) then 8 else 0)) ∧
        t.read (sliceKey r.toNat 0) 256 = s.read (spaceKey r 0 (spaceOfA w) (tAscl w * 64)) 128 ++
          s.read (shelfKey r.toNat (tBscl w * 64)) 128 ∧
        MemFrame s t fun k => InLong r k ∨ InFlags r k ∨ (sliceKey r.toNat 0 ≤ k ∧ k < sliceKey r.toNat 256)))

/-- A weight-chain instruction uses the next whole block of its Room's buffer for all its row blocks; the last one completes it,
another leaves it waiting for the next. A block of the wrong length faults the Room, and so does a poisoned one, or poison in
the rows of A that the block reads. ACC_ZERO, ACC_DRAIN and ACC_LOAD: the named banks cleared with their class, and the flags
and counts of the tile; rows converted and stored, the tile kept or cleared; banks loaded from their rows. Memory outside the
ranges a drain names stays. A tensor instruction that fails its checks faults the Room before it changes anything:
TE_ENCODING, TE_BOUNDS, or the poison of an operand. -/
def Obligations.TensorBlocksAndDrains : Prop :=
  (∀ (s : State) (r : RoomId) (i : TItem) (rest : List TItem) (blk : ChainBlock), MemoryCanonical s →
    let x := s.room r
    let w := i.word.toNat
    x.te.queue = i :: rest → x.chain[x.chainUsed]? = some blk → s.live = true → x.runst ≠ .fault → x.te.waiting = true →
    let kb := x.te.blockNo / 2 ^ tNT w
    let nb := x.te.blockNo % 2 ^ tNT w
    let last := x.te.blockNo + 1 = (tKT w + 1) * 2 ^ tNT w
    let b := fun n k => chainVal blk (tBfmt w) n (k % 64)
    let common := fun t => (t.room r).chainUsed = x.chainUsed + 1 ∧ (∀ q, q ≠ r → t.room q = s.room q) ∧
      (∀ n j, (t.room r).lane n j = x.lane n j) ∧
      (last → (t.room r).te.waiting = false ∧ ∃ more, (t.room r).te.queue = rest ++ more) ∧
      (¬last → (t.room r).te.waiting = true ∧ (t.room r).te.blockNo = x.te.blockNo + 1 ∧ (t.room r).te.queue = x.te.queue) ∧
      (x.te.late = true → ∀ st, s.stream blk.stream = some st → t.stream blk.stream = some { st with underrun := st.underrun + 1 }) ∧
      (x.te.late = false → t.streams = s.streams)
    (blk.len = blockBytes (tBfmt w) → blk.poison = [] → s.rangesPoison r (blockRanges w kb) = none → w % 256 = 1 →
      ∃ t, exec (.tensorBlockStart r) s = .next t ∧ common t ∧
        (shapeOk w = true → ∀ m < shapeM w, ∀ n < 64,
          let bank := tAccb w + m / 64 * 2 ^ tNT w + nb
          t.accRead r bank (m % 64) n = (accumulate (isInt (tAfmt w)) (tInit w) (aVal s r w m) (b n) [2 * kb, 2 * kb + 1]
            (s.accRead r bank (m % 64) n)).1 % 2 ^ 32) ∧
        MemFrame s t fun k => ∃ mb < 2 ^ tMT w, accKey r.toNat (accAddr (tAccb w + mb * 2 ^ tNT w + nb) 0 0) ≤ k ∧
          k < accKey r.toNat (accAddr (tAccb w + mb * 2 ^ tNT w + nb) 0 0) + 16384) ∧
    (blk.len = blockBytes (tBfmt w) → blk.poison = [] → s.rangesPoison r (blockRanges w kb) = none → w % 256 ≠ 1 →
      let fresh := tileFresh x.te w && kb == 0
      ∃ t, exec (.tensorBlockStart r) s = .next t ∧ common t ∧
        (∀ c < 4096, t.longRead r c = ((List.range 64).foldl
          (fun acc k => exactAdd (tAnchor w) acc (valMul (aVal s r w (c / 64) (64 * kb + k)) (b (c % 64) (64 * kb + k))))
          (if fresh then (0, 0, false) else (s.longRead r c, s.flagRead r c, false))).1 % 2 ^ 128) ∧
        MemFrame s t fun k => InLong r k ∨ InFlags r k) ∧
    (blk.len ≠ blockBytes (tBfmt w) →
      ∃ t, exec (.tensorBlockStart r) s = .next t ∧ (t.room r).runst = .fault ∧ (t.room r).cause = some (0x03, 0x11) ∧ t.mem = s.mem) ∧
    (blk.len = blockBytes (tBfmt w) → (blk.poison ≠ [] ∨ s.rangesPoison r (blockRanges w kb) ≠ none) →
      ∃ t, exec (.tensorBlockStart r) s = .next t ∧ (t.room r).runst = .fault ∧ (t.room r).cause = some (0x05, 0x08) ∧ t.mem = s.mem)) ∧
  (∀ (s : State) (r : RoomId) (w p : Nat), MemoryCanonical s →
    let te := (s.room r).te
    let long := isLongDrain te w
    let key := fun a => spaceKey r 0 (destSpace w) a
    let row := fun i => key ((dAddr w + i * dStride w) * 64)
    (TensorReady s r 0x0A w p → shapeOk w = true → bitsOf w 8 10 = 0 → bitsOf w 24 104 = 0 →
      ∃ t te', exec (.accZero r) s = .next t ∧ TensorDone s t r p te' ∧
        (∀ b ∈ banksOf w, bankCls te' b = .none ∧ ∀ i < 64, ∀ j < 64, t.accRead r b i j = 0) ∧
        (∀ b < 4, b ∉ banksOf w → bankCls te' b = bankCls te b) ∧ (∀ b < 4, bankSat te' b = bankSat te b) ∧
        te'.products = 0 ∧ te'.inexact = false ∧ te'.klimit = false ∧ (∀ c < 4096, t.flagRead r c = 0) ∧
        MemFrame s t fun k => InBanks r w k ∨ InFlags r k) ∧
    (TensorReady s r 0x08 w p → drainBad te w = false → rangesOut (drainRanges w) = false →
      ∃ t te', exec (.accDrain r) s = .next t ∧ TensorDone s t r p te' ∧
        (dKeep w = true → (∀ b < 4, bankCls te' b = bankCls te b) ∧ MemFrame s t (InRanges r (drainRanges w))) ∧
        (dKeep w = false → (∀ b ∈ banksOf w, bankCls te' b = .none) ∧
          MemFrame s t fun k => InRanges r (drainRanges w) k ∨ InLong r k ∨ InFlags r k) ∧
        (RangesApart (drainRanges w) → dRaw w = false → ∀ i < shapeM w,
          t.read (row i) (rowBytes (dFmt w) (shapeN w)) =
            (drainRow (dFmt w) (dRtz w) (dSat w && (long || decide (fmtBits (dFmt w) < 32))) long
              ((List.range (shapeN w)).map (s.drainVal r w i))).1) ∧
        (RangesApart (drainRanges w) → dRaw w = true → ∀ i < 64,
          t.read (row i) 1024 = s.read (accKey r.toNat (longAddr i 0)) 1024)) ∧
    (TensorReady s r 0x09 w p → drainResv w = false → shapeOk w = true → dRaw w = false → dFmt w = 0x0C ∨ dFmt w = 0x0E →
      rangesOut (drainRanges w) = false → s.rangesPoison r (drainRanges w) = none →
      ∃ t te', exec (.accLoad r) s = .next t ∧ TensorDone s t r p te' ∧
        (∀ b < 4, bankCls te' b = if b ∈ banksOf w then (if dFmt w = 0x0C then .float else .integer) else bankCls te b) ∧
        (∀ i < shapeM w, ∀ j < shapeN w,
          t.accRead r (tAccb w + i / 64 * 2 ^ tNT w + j / 64) (i % 64) (j % 64) = s.readNat (row i + 4 * j) 4) ∧
        MemFrame s t (InBanks r w)) ∧
    (TensorReady s r 0x09 w p → drainResv w = false → shapeOk w = true → dRaw w = true → longShape w = true →
      rangesOut (drainRanges w) = false → s.rangesPoison r (drainRanges w) = none →
      let plane := shelfKey r.toNat (dSaddr w * 64)
      ∃ t te', exec (.accLoad r) s = .next t ∧ TensorDone s t r p te' ∧
        (∀ b < 4, bankCls te' b = .long) ∧ te'.products = s.readNat (plane + 4096) 4 ∧
        te'.anchor = signedOf (s.readNat (plane + 4100) 2) 16 ∧
        (∀ i < 64, t.read (accKey r.toNat (longAddr i 0)) 1024 = s.read (row i) 1024) ∧
        (∀ c < 4096, t.flagRead r c = (memRead s.mem (plane + c)).toNat % 16) ∧
        MemFrame s t fun k => InLong r k ∨ InFlags r k)) ∧
  (∀ (s : State) (r : RoomId) (w p : Nat),
    let mma := fun op c => TensorReady s r op w p →
      (s.mmaCheck r w = some .encoding → ∃ t, exec c s = .next t ∧ Faulted s t r 0x03 0x11 ∧ t.mem = s.mem) ∧
      (s.mmaCheck r w = some .bounds → ∃ t, exec c s = .next t ∧ Faulted s t r 0x03 0x12 ∧ t.mem = s.mem) ∧
      ∀ d, s.mmaCheck r w = some (.poison d) → ∃ t, exec c s = .next t ∧ Faulted s t r 0x05 0x08 ∧ t.mem = s.mem
    mma 0x01 (.mma r) ∧ mma 0x02 (.mmaExact r) ∧ mma 0x03 (.mmaSlice r) ∧
    (TensorReady s r 0x08 w p → drainBad (s.room r).te w = true →
      ∃ t, exec (.accDrain r) s = .next t ∧ Faulted s t r 0x03 0x11 ∧ t.mem = s.mem) ∧
    (TensorReady s r 0x08 w p → drainBad (s.room r).te w = false → rangesOut (drainRanges w) = true →
      ∃ t, exec (.accDrain r) s = .next t ∧ Faulted s t r 0x03 0x12 ∧ t.mem = s.mem) ∧
    (TensorReady s r 0x0A w p → shapeOk w = false →
      ∃ t, exec (.accZero r) s = .next t ∧ Faulted s t r 0x03 0x11 ∧ t.mem = s.mem))

/-- The entries of a block list: what each does to its stream, and the Bolt operation it sends. What waited for the step's end (a
gate to arm, a revision) then goes on. An entry whose mask bit is 0 is skipped and counted; one that R201 to R203 call bad, a
LOOP or GUARD that a GUARD covers among them, faults its stream with LIST_BAD, and runs nothing. -/
def Obligations.BlockListEntries : Prop :=
  (∀ (s : State) (sid : StreamId) (t : Stream) (w : Nat),
    let goOn := fun (u : State) => u.settleArms.settleRevs
    (EntryReady s sid 0 t w → StreamBecomes (.listNop sid) s sid (advance t)) ∧
    (EntryReady s sid 1 t w → StreamBecomes (.xferEntry sid) s sid { t with begun := true, exec := t.exec + 1, pos := 0 }) ∧
    (EntryReady s sid 2 t w → StreamBecomes (.chainEntry sid) s sid { t with begun := true, exec := t.exec + 1, pos := 0 }) ∧
    (EntryReady s sid 3 t w → t.tclass = true →
      StreamBecomes (.layerEnd sid) s sid { advance t with layer := t.layer + 1, held := none }) ∧
    (EntryReady s sid 3 t w → t.tclass = false → s.chainDrained sid t = true →
      StreamAsks (.layerEnd sid) s sid { t with layer := t.layer + 1, held := none, st := .wait, waiting := .layerBolt }
        t.layerBolt.toNat 2 0 1) ∧
    (EntryReady s sid 4 t w → ¬(t.gateArm = true ∧ t.step + 1 = t.gateStep) →
      StreamGoesOn (.stepEnd sid) s sid goOn { advance t with step := t.step + 1, held := none }) ∧
    (EntryReady s sid 4 t w → t.gateArm = true → t.step + 1 = t.gateStep → t.gateGo = false → t.gateAbort = false →
      StreamGoesOn (.stepEnd sid) s sid goOn { t with step := t.step + 1, held := none, st := .wait, waiting := .gate }) ∧
    (EntryReady s sid 5 t w → StreamBecomes (.listLoop sid) s sid (advance t) ∧ (advance t).entry = BitVec.ofNat 24 (eArg w)) ∧
    (∀ mask, EntryReady s sid 6 t w → t.held = some (eSrc w, eMaskAlt w, BitVec.ofNat 15 (eBolt w), mask) →
      StreamBecomes (.guardEntry sid) s sid
        { advance t with st := .run, guardLeft := eArg w, guardMask := mask
                         held := some (eSrc w, eMaskAlt w, BitVec.ofNat 15 (eBolt w), mask) }) ∧
    (EntryReady s sid 6 t w → t.held = none →
      StreamAsks (.guardEntry sid) s sid { t with st := .wait, waiting := .guard } (eBolt w) 0 (imm2Cond (eImm2 w))
        (listOperand t (eImm2 w) (eWaitArg w))) ∧
    (EntryReady s sid 7 t w → s.listDrained sid t = true →
      StreamAsks (.listBolt sid) s sid { advance t with held := none } (eBolt w) (imm2Op (eImm2 w)) (imm2Cond (eImm2 w))
        (listOperand t (eImm2 w) (eArg w))) ∧
    (EntryReady s sid 8 t w →
      StreamAsks (.listWait sid) s sid { t with held := none, st := .wait, waiting := .boltEntry } (eBolt w)
        (imm2Op (eImm2 w)) (imm2Cond (eImm2 w)) (listOperand t (eImm2 w) (eArg w))) ∧
    (EntryReady s sid 0xF t w → s.listDrained sid t = true → t.study = false →
      ∃ u, exec (.stopEntry sid) s = .next u.settleRevs ∧ StreamEnds s u sid .done t.fault)) ∧
  (∀ (s : State) (sid : StreamId) (t : Stream) (w op : Nat) (c : Instr),
    (op, c) ∈ [(0, Instr.listNop sid), (1, .xferEntry sid), (2, .chainEntry sid), (3, .layerEnd sid), (4, .stepEnd sid),
      (5, .listLoop sid), (6, .guardEntry sid), (7, .listBolt sid), (8, .listWait sid), (0xF, .stopEntry sid)] →
    s.atEntry sid = some (t, w) → eOp w = op →
    let goOn := fun (u : State) => if op = 4 then u.settleArms.settleRevs else if op = 0xF then u.settleRevs else u
    (t.guardLeft = 0 ∨ (op ≠ 5 ∧ op ≠ 6) → skipped? t w = true →
      StreamGoesOn c s sid goOn { advance t with skipped := t.skipped + 1 }) ∧
    ((0 < t.guardLeft ∧ (op = 5 ∨ op = 6)) ∨ (skipped? t w = false ∧ s.entryListBad t w = true) → t.grants = [] → t.study = false →
      ∃ u, exec c s = .next (goOn u) ∧ StreamEnds s u sid .fault 0x20))

/-- Fetching, arbitration, data and acknowledgements: an entry is read by an access of its stream, and joins the stream when it
has come; one that the last GUARD skips takes no access (assumption 72), and a failed read faults the stream; a Dumbwaiter's
time advances by one hc whatever it grants; read data of a copy goes on as writes and a failed read ends its request; a write
acknowledged counts its bytes. The commands of a stream: create, start, cancel, snapshot and free (13 R444, 06 R197, R204,
R208). -/
def Obligations.DumbwaitersAndStreamCommands : Prop :=
  (∀ (s : State) (sid : StreamId) (t : Stream), s.stream sid = some t →
    let goOn := fun (u : State) => u.settleReleases.settleRevs
    (∀ i, nextFetch t = some i → s.live = true → t.st = .run ∨ t.st = .wait → streamFree t = true → t.fetched.length ≤ 128 →
      i < t.listLen.toNat →
      let d := t.listBase + BitVec.ofNat 64 (32 * i)
      let gone := fun id => { s with accesses := s.accesses.filter fun a : Access => a.id != id }
      (t.fetching = none → s.skippedAhead t i = none →
        ∃ u a, exec (.entryFetch sid) s = .next u ∧ u.stream sid = some { t with fetching := some s.nextAcc } ∧ a ∈ u.accesses ∧
          a.id = s.nextAcc ∧ a.who = .dw sid ∧ a.ctx = t.ctx ∧ a.dva = d ∧ a.len = 32 ∧ a.write = false ∧ u.rooms = s.rooms ∧
          ∀ k, k ≠ sid → u.stream k = s.stream k) ∧
      (∀ v, t.fetching = none → s.skippedAhead t i = some v →
        StreamBecomes (.entryFetch sid) s sid { t with fetched := t.fetched ++ [(i, BitVec.ofNat 256 v)] }) ∧
      (∀ id a data, t.fetching = some id → s.access id = some a → a.st = .done 0 data [] →
        let v := { t with fetched := t.fetched ++ [(i, BitVec.ofNat 256 (leNat data))], fetching := none }
        Settled v → exec (.entryFetch sid) s = .next ((gone id).setStream sid v)) ∧
      (∀ id a code data bad, t.fetching = some id → s.access id = some a → a.st = .done code data bad → code ≠ 0 →
        t.grants = [] → t.study = false → ∃ u, exec (.entryFetch sid) s = .next u ∧ StreamEnds s u sid .fault code)) ∧
    (∀ dw : BitVec 4, s.live = true → dw.toNat < 10 → (dw.toNat < 8 → mapGet 0 s.stackCh dw.toNat ≠ 0) →
      ∃ u, exec (.dwArbitration dw) s = .next u ∧ (mapGet {} u.dws dw.toNat).t = (mapGet {} s.dws dw.toNat).t + 1 ∧
        u.rooms = s.rooms ∧ (∀ k, k ≠ dw.toNat → mapGet {} u.dws k = mapGet {} s.dws k) ∧
        ((s.markEligible dw.toNat (mapGet {} s.dws dw.toNat).t).winner dw.toNat (mapGet {} s.dws dw.toNat).t = none →
          u.accesses = s.accesses)) ∧
    (∀ k g a data bad, t.grants[k]? = some g → s.access g.read = some a → g.sent = false → a.st = .done 0 data bad →
      g.mask = false → t.chainKind = false →
      ∃ u v, exec (.dwReadData sid k) s = .next (goOn u) ∧ u.stream sid = some v ∧ v.poisonCnt = t.poisonCnt + BitVec.ofNat 32 bad.length ∧
        (∃ h, v.grants[k]? = some h ∧ h = { g with sent := true, writes := h.writes }) ∧ v.bytes = t.bytes ∧
        (∀ j, j ≠ sid → u.stream j = s.stream j) ∧ u.rooms = s.rooms) ∧
    (∀ k g a data bad, t.grants[k]? = some g → s.access g.read = some a → g.sent = false → a.st = .done 0 data bad →
      g.mask = false → t.chainKind = true →
      ∃ u v, exec (.dwReadData sid k) s = .next (goOn u) ∧ u.stream sid = some v ∧ v.poisonCnt = t.poisonCnt + BitVec.ofNat 32 bad.length ∧
        (∃ h, v.grants[k]? = some h ∧ h = { g with sent := true }) ∧
        ((s.wing t.wing).ingress.map fun i => (i.missing : Int) - if i.block.stream = sid ∧ i.exec = g.exec then
            min (i.missing : Int) g.len else 0) = (u.wing t.wing).ingress.map fun i => (i.missing : Int)) ∧
    (∀ k g a data, t.grants[k]? = some g → s.access g.read = some a → g.sent = false → a.st = .done 0 data [] →
      g.mask = true → streamFree t = true →
      let w := g.word.toNat
      let m : W64 := BitVec.ofNat 64 (leNat ((data.drop ((eSrc w).toNat % 64)).take 8))
      Settled { takeMask t w m with grants := t.grants.eraseIdx k } →
      exec (.dwReadData sid k) s = .next (goOn (({ s with accesses := s.accesses.filter fun a => a.id != g.read }).setStream sid
        { takeMask t w m with grants := t.grants.eraseIdx k }))) ∧
    (∀ k g a code data bad, t.grants[k]? = some g → s.access g.read = some a → g.sent = false → a.st = .done code data bad →
      code ≠ 0 → t.pendFault = 0 → t.st = .run ∨ t.st = .wait → t.grants.eraseIdx k = [] → t.study = false →
      ∃ u, exec (.dwReadData sid k) s = .next (goOn u) ∧ StreamEnds s u sid .fault code ∧
        ∀ v, u.stream sid = some v → v.faultDva = a.dva) ∧
    (∀ k g, t.grants[k]? = some g → g.sent = true →
      (∀ id ∈ g.writes, ∃ a data bad, s.access id = some a ∧ a.st = .done 0 data bad) →
      let v := { t with grants := t.grants.eraseIdx k, bytes := t.bytes + BitVec.ofNat 64 g.len }
      Settled v → exec (.dwWriteAck sid k) s =
        .next (goOn ((g.writes.foldl (fun s id => s.dropAccess id) s).setStream sid v)))) ∧
  (∀ (s : State) (q : Req),
    let u := s.begun q
    let c := reqCtx q
    let sid := reqNat q 16 2
    (Accepted s q 0x0401 [(16, 0, 512)] [] → (s.ctx c).st = .active → descReserved (reqNat q 16 64) = false →
      let t := { streamOf c (reqNat q 16 64) with hostMade := true }
      let dw := bitsOf (reqNat q 16 64) 8 4
      s.descStatus c dw t s.heldStreams = 0 → ∀ n, freeStream s.heldStreams dw = some n →
      exec (.streamCreate q) s = .next ((u.setStream n t).reply q 0 0 [(16, 2, n)])) ∧
    (∀ t, s.stream sid = some t → t.ctx = c → t.study = false →
      (Accepted s q 0x0402 [(16, 0, 16)] [] → t.st = .created → (s.ctx c).st = .active → Settled { t with st := .run } →
        exec (.streamStart q) s = .next (((u.setStream sid { t with st := .run }).updCtx c fun x => { x with fresh := false }).reply q 0)) ∧
      (Accepted s q 0x0403 [(16, 0, 16)] [] → t.model = none → t.st = .run ∨ t.st = .wait → t.grants = [] → t.pendFault = 0 →
        ∃ v w, exec (.streamCancel q) s = .next v ∧ v.stream sid = some w ∧ w.st = .cancelled ∧ v.rooms = s.rooms) ∧
      (Accepted s q 0x0404 [(16, 0, 16)] [] →
        exec (.streamSnapshot q) s = .next ((u.writeStatus sid).reply q 0 0 [(16, 64, leNat (statusRecord t))])) ∧
      (Accepted s q 0x0405 [(16, 0, 16)] [] → t.model = none → t.st ≠ .run → t.st ≠ .wait →
        exec (.streamFree q) s = .next ({ u with streams := mapDel s.streams sid }.reply q 0))))

/-- The weight chain: a whole block leaves when every Room of its mask has space, lies in each, in the order of the chain, is
freed in each, and then leaves the stream's occupancy; a block that waits a whole window is counted and reported. The step
gate: arming is accepted while STEP is below GATE_STEP and counted as late otherwise; at the gate GO takes the pending list or
goes on, under a hold if there is one, and ABORT goes on without either. What waits for a step's end (a gate to arm, a
revision, a release) goes on by itself, and nothing does when nothing waits. -/
def Obligations.WeightChainAndStepGate : Prop :=
  (∀ (s : State), s.live = true →
    (∀ w i rest, (s.wing w).ingress = i :: rest → i.missing = 0 → s.lacking w i.block = [] →
      exec (.chainHeadBlockSend w) s = .next (s.updWing w fun x => { x with ingress := rest, sent := x.sent ++ [i.block] })) ∧
    (∀ r b, let n := r.toNat % 16
      (s.wing (wingOf r)).sent.find? (fun b => bitOf b.mask.toNat n && !bitOf b.arrived.toNat n) = some b →
      chainPassed b n = true →
      ∃ t, exec (.chainBlockDelivered r) s = .next t ∧ t = { s with rooms := t.rooms, wings := t.wings } ∧
        t.room r = { s.room r with chain := (s.room r).chain ++ [b] } ∧ (∀ q, q ≠ r → t.room q = s.room q) ∧
        (∀ g, g ≠ wingOf r → t.wing g = s.wing g) ∧
        { b with arrived := b.arrived ||| BitVec.ofNat 16 (2 ^ n) } ∈ (t.wing (wingOf r)).sent ∧
        (t.wing (wingOf r)).sent.length = (s.wing (wingOf r)).sent.length) ∧
    (∀ r, 0 < (s.room r).chainUsed →
      ∃ t, exec (.chainBlockFree r) s = .next t ∧ t = { s with rooms := t.rooms, wings := t.wings } ∧
        t.room r = { s.room r with chain := (s.room r).chain.tail, chainUsed := (s.room r).chainUsed - 1 } ∧
        (∀ q, q ≠ r → t.room q = s.room q) ∧ (∀ g, g ≠ wingOf r → t.wing g = s.wing g) ∧
        (t.wing (wingOf r)).sent.length = (s.wing (wingOf r)).sent.length) ∧
    (∀ w b, (s.wing w).sent.find? (fun b => b.freed == b.mask) = some b →
      ∃ t, exec (.freedBytesArrival w) s = .next t ∧ t = { s with wings := t.wings, streams := t.streams } ∧
        (t.wing w).sent = (s.wing w).sent.erase b ∧ (∀ g, g ≠ w → t.wing g = s.wing g) ∧
        (∀ st, s.stream b.stream = some st → t.stream b.stream = some { st with occ := st.occ - b.len }) ∧
        ∀ k, k ≠ b.stream → t.stream k = s.stream k) ∧
    (∀ w i rest r rs st, (s.wing w).ingress = i :: rest → i.missing = 0 → s.lacking w i.block = r :: rs →
      s.stream i.block.stream = some st →
      ∃ t, exec (.chainBlockedReport w) s = .next t ∧ t.stream i.block.stream = some { st with blocked := st.blocked + 1 } ∧
        EventSent s t (st.ctx.toNat + 1) 0x8002 ∧
        t = { s with streams := t.streams, errQ := t.errQ, errOvf := t.errOvf, reported := t.reported, lbxs := t.lbxs, diag := t.diag })) ∧
  (∀ (s : State) (sid : StreamId) (t : Stream), s.stream sid = some t →
    let goOn := fun (u : State) => u.settleArms.settleRevs
    (∀ step pend hold, t.step < step →
      exec (.gateArmWrite sid step pend hold) s = .next (s.setStream sid
        { t with gateArm := true, gateStep := step, pendValid := pend.isSome, holdEn := hold.isSome
                 pendBase := (pend.map (·.1)).getD t.pendBase, pendLen := (pend.map (·.2)).getD t.pendLen
                 holdBolt := hold.getD t.holdBolt })) ∧
    (∀ step pend hold, ¬t.step < step →
      exec (.gateArmWrite sid step pend hold) s = .next (s.setStream sid { t with late := t.late + 1 })) ∧
    (¬(t.st = .wait ∧ t.waiting = .gate) →
      exec (.gateGo sid) s = .next (s.setStream sid { t with gateGo := true }) ∧
      exec (.gateAbort sid) s = .next (goOn (s.setStream sid { t with gateAbort := true }))) ∧
    (t.st = .wait → t.waiting = .gate →
      let moved := { t with listBase := t.pendBase, listLen := t.pendLen, entry := 0, fetched := [], fetching := none, guardLeft := 0
                            begun := false }
      (t.gateAbort = false → t.holdEn = false → t.pendValid = true →
        let v := { clearGate moved with st := .run, waiting := .none }
        Settled v → exec (.gateGo sid) s = .next ((s.dropFetch sid).setStream sid v)) ∧
      (t.gateAbort = false → t.holdEn = false → t.pendValid = false →
        StreamBecomes (.gateGo sid) s sid { clearGate (advance t) with st := .run, waiting := .none }) ∧
      (t.gateAbort = false → t.holdEn = true → t.pendValid = false →
        StreamAsks (.gateGo sid) s sid { advance t with gateGo := true, st := .wait, waiting := .hold } t.holdBolt.toNat 2 0 1) ∧
      (t.gateAbort = false → t.holdEn = true → t.pendValid = true →
        let v := { moved with gateGo := true, st := .wait, waiting := .hold }
        Settled v → exec (.gateGo sid) s = .next (((s.dropFetch sid).setStream sid v).streamAsk sid t t.holdBolt.toNat 2 0 1)) ∧
      StreamGoesOn (.gateAbort sid) s sid goOn { clearGate (advance t) with st := .run }) ∧
    (Quiet s → s.settleArms = s ∧ s.settleRevs = s ∧ s.settleReleases = s))

/-- Operations of a Bolt engine that read or wait: READ and READ_PHASE answer a Bolt in error too; a WAIT whose condition holds
answers at once, any other registers while the table has room; an operation on a Bolt in error changes nothing and answers the
error. An arrival at a root barrier: VALUE grows by the count, and the barrier releases as often as COUNT goes into it, PHASE
advancing once for each; no other Bolt changes. A barrier that stays under COUNT, with no waiter that now holds, only counts.
ADD, SET and ACQUIRE on a counter with no waiters: the new VALUE, and PHASE one further exactly when VALUE comes from below
COUNT to COUNT or above; an ACQUIRE of more than VALUE waits. FAULT fails its context with a software code. -/
def Obligations.BoltEngineOperations : Prop :=
  (∀ (s u : State) (d : DieId) (q : BoltReq),
    let x := s.bolt q.bolt
    (EngineHead s d 6 q u → exec (.boltopRead d) s = .next (u.boltAnswer q false 0 x.value)) ∧
    (EngineHead s d 7 q u → exec (.boltopReadPhase d) s = .next (u.boltAnswer q false 0 x.phase)) ∧
    (EngineHead s d 0 q u → OpAllowed s q → condHolds x q.cond q.operand = true →
      exec (.boltopWait d) s = .next (u.boltAnswer q false 0 (if x.barrier then x.phase else x.value))) ∧
    (EngineHead s d 0 q u → OpAllowed s q → condHolds x q.cond q.operand = false → s.tableFull q.bolt = false →
      exec (.boltopWait d) s = .next (u.setBolt q.bolt
        { x with waiters := x.waiters ++ [{ who := q.who, op := 0, cond := q.cond, operand := q.operand, phase0 := x.phase }] })) ∧
    (∀ op c, (op, c) ∈ [(0, Instr.boltopWait d), (1, .boltopArrive d), (2, .boltopArriveWait d), (3, .boltopAdd d),
        (4, .boltopAcquire d), (5, .boltopSet d)] →
      EngineHead s d op q u → opRefused x q = false → x.error = true →
      exec c s = .next (u.boltAnswer q true x.err 0) ∧ (u.boltAnswer q true x.err 0).bolts = s.bolts)) ∧
  (∀ (s u : State) (d : DieId) (q : BoltReq),
    let x := s.bolt q.bolt
    let v := x.value.toNat + q.operand.toNat
    let quiet := ∀ w ∈ x.waiters, waitHolds { x with value := x.value + q.operand } w = false
    OpAllowed s q → (∀ w ∈ x.waiters, w.op ≠ 4) → v < 2 ^ 32 → 0 < x.count.toNat → x.held = false →
    (∀ c, s.boltCtx q.bolt = some c → (s.ctx c).pre = none) →
    (EngineHead s d 1 q u → x.root = true →
      ∃ t, exec (.boltopArrive d) s = .next t ∧ BoltFrame u t q.bolt ∧ (t.bolt q.bolt).value.toNat = v % x.count.toNat ∧
        (t.bolt q.bolt).phase = x.phase + BitVec.ofNat 32 (v / x.count.toNat) ∧ (t.bolt q.bolt).error = false ∧
        (t.bolt q.bolt).count = x.count) ∧
    (EngineHead s d 1 q u → x.root = false → v < x.count.toNat → quiet →
      ∃ t, exec (.boltopArrive d) s = .next t ∧ BoltFrame u t q.bolt ∧
        t.bolt q.bolt = { x with value := x.value + q.operand }) ∧
    (EngineHead s d 2 q u → v < x.count.toNat → quiet → s.tableFull q.bolt = false →
      exec (.boltopArriveWait d) s = .next (u.setBolt q.bolt
        { x with value := x.value + q.operand
                 waiters := x.waiters ++ [{ who := q.who, op := 2, cond := q.cond, operand := q.operand, phase0 := x.phase }] })) ∧
    (EngineHead s d 2 q u → x.root = true → x.count.toNat ≤ v → v < 2 * x.count.toNat →
      ∃ t, exec (.boltopArriveWait d) s = .next t ∧ BoltFrame u t q.bolt ∧ (t.bolt q.bolt).value.toNat = v - x.count.toNat ∧
        (t.bolt q.bolt).phase = x.phase + 1)) ∧
  (∀ (s u : State) (d : DieId) (q : BoltReq),
    let x := s.bolt q.bolt
    let set : W32 → Bolt := fun v => { x with value := v, phase := if x.value < x.count ∧ x.count ≤ v then x.phase + 1 else x.phase }
    (OpAllowed s q → x.waiters = [] →
      (EngineHead s d 3 q u → ∃ t, exec (.boltopAdd d) s = .next t ∧ BoltFrame u t q.bolt ∧ t.bolt q.bolt = set (x.value + q.operand)) ∧
      (EngineHead s d 5 q u → ∃ t, exec (.boltopSet d) s = .next t ∧ BoltFrame u t q.bolt ∧ t.bolt q.bolt = set q.operand) ∧
      (EngineHead s d 4 q u → q.operand ≤ x.value →
        ∃ t, exec (.boltopAcquire d) s = .next t ∧ BoltFrame u t q.bolt ∧ t.bolt q.bolt = set (x.value - q.operand)) ∧
      (EngineHead s d 4 q u → x.value < q.operand → s.tableFull q.bolt = false →
        exec (.boltopAcquire d) s = .next (u.setBolt q.bolt
          { x with waiters := [{ who := q.who, op := 4, cond := q.cond, operand := q.operand, phase0 := x.phase }] }))) ∧
    (EngineHead s d 8 q u →
      ∃ t, exec (.boltopFault d) s = .next t ∧ t.bolts = s.bolts ∧
        let e : Err := { cls := 0x08, src := 3, unit := q.ctx.toNat, ctx := some q.ctx
                         detail := BitVec.ofNat 64 (q.operand.toNat % 2 ^ 16 + 2 ^ 16 * issuerId q.who) }
        t = { (u.raise e) with boltRsp := t.boltRsp, fresh := t.fresh, ports := t.ports, slotWait := t.slotWait, arrived := t.arrived }))

/-- A result or a notice reaches its requester: a Room's sequencer goes on with the result in its register, or faults with
BOLT_ABORT; a stream goes on, one that waited at a GUARD by reading its mask; a service of the Porch sees its step done, in
the order of the releases. A gate that waits to be armed and a revision then go on. Slot triggers: the engine records the
phase it registers a Room's trigger at; its notice meets the trigger of a Room in RUN or HALT, or faults the Room with
BOLT_ABORT. A wait that lasts a window is reported. BOLT_CONFIG sets mode, COUNT and VALUE of a Bolt that is in no tree, has
no waiter and no error, PHASE 0; BOLT_READ answers its record; BOLT_ABORT puts it into error with HOST_ABORT and wakes its
waiters. -/
def Obligations.BoltOutcomesAndCommands : Prop :=
  (∀ (s : State) (k : Nat) (q : BoltRsp), s.boltRsp[k]? = some q →
    let u := { s with boltRsp := s.boltRsp.eraseIdx k }
    let goOn := fun (v : State) => v.settleArms.settleRevs
    (∀ r ret, q.who = .room r → (s.room r).ve.wait = .bolt ret → (s.room r).runst ≠ .fault → q.error = false →
      ∃ t, exec (.boltResponseArrival k) s = .next (goOn t) ∧ (t.room r).ve.wait = .none ∧
        (∀ g n, ret = some g → (t.room r).gReg n = if n = g.toNat ∧ n ≠ 0 then q.result.toNat else (s.room r).gReg n) ∧
        (ret = none → ∀ n, (t.room r).gReg n = (s.room r).gReg n) ∧ (∀ n i, (t.room r).lane n i = (s.room r).lane n i) ∧
        (∀ p, p ≠ r → t.room p = s.room p) ∧ t.mem = s.mem) ∧
    (∀ r ret, q.who = .room r → (s.room r).ve.wait = .bolt ret → (s.room r).runst ≠ .fault → q.error = true →
      ∃ t, exec (.boltResponseArrival k) s = .next (goOn t) ∧ Faulted u t r 0x06 0x32) ∧
    (∀ sid t, q.who = .stream sid → q.error = false → s.stream sid = some t → t.st = .wait →
      t.waiting = .boltEntry ∨ t.waiting = .layerBolt → Settled { advance t with st := .run } →
      exec (.boltResponseArrival k) s = .next (goOn (u.setStream sid { advance t with st := .run }))) ∧
    (∀ sid t i w rest, q.who = .stream sid → q.error = false → s.stream sid = some t → t.st = .wait → t.waiting = .guard →
      t.fetched = (i, w) :: rest →
      ∃ v x g, exec (.boltResponseArrival k) s = .next (goOn v) ∧ v.stream sid = some x ∧ x.grants = t.grants ++ [g] ∧
        g.mask = true ∧ g.word = w ∧ g.read = s.nextAcc ∧ v.rooms = s.rooms ∧ ∀ j, j ≠ sid → v.stream j = s.stream j) ∧
    (∀ sid t, q.who = .stream sid → q.error = false → s.stream sid = some t → t.st = .wait → t.waiting = .hold →
      Settled { clearGate t with st := .run, waiting := .none } →
      exec (.boltResponseArrival k) s = .next (goOn (u.setStream sid { clearGate t with st := .run, waiting := .none }))) ∧
    (∀ svc, q.who = .porch svc → q.error = false → (∀ r ∈ s.boltRsp.take k, isPorch r.who = false) →
      exec (.boltResponseArrival k) s = .next (goOn
        ({ u with nextDone := s.nextDone + 1 }.updService svc fun v => { v with doneSeen := true, doneNo := s.nextDone })))) ∧
  (∀ (s : State), s.live = true →
    (∀ r d q rest,
      (List.range 4).find? (fun d => (mapGet [] s.boltQ d).head?.any fun q => q.op == opTrigger && q.who == .trigger r) = some d →
      mapGet [] s.boltQ d = q :: rest → (s.bolt q.bolt).error = false → s.tableFull q.bolt = false →
      let x := s.bolt q.bolt
      exec (.triggerRegistrationServed r) s = .next ((({ s with boltQ := mapSet s.boltQ d rest }).setBolt q.bolt
        { x with waiters := x.waiters ++ [({ who := q.who, op := q.op, cond := q.cond, operand := q.operand, phase0 := x.phase } : Wait)] }).updRoom r
          fun y => { y with trig := .recorded x.phase })) ∧
    (∀ r q, s.boltRsp.find? (fun q : BoltRsp => q.who == .trigger r) = some q → (s.room r).trig ≠ .none →
      let u := { s with boltRsp := s.boltRsp.erase q }
      ((s.room r).runst = .run ∨ (s.room r).runst = .halt → q.error = false →
        exec (.boltTriggerNotice r) s = .next (u.updRoom r fun x => { x with trigMet := true, trig := .none, firePending := false })) ∧
      ((s.room r).runst ≠ .fault → q.error = true →
        ∃ t, exec (.boltTriggerNotice r) s = .next t ∧ Faulted u t r 0x06 0x32)) ∧
    (∀ b k w c, (s.bolt b).waiters[k]? = some w → s.boltCtx b = some c → (s.bolt b).held = false →
      ∃ t, exec (.boltWaitReport b k) s = .next t ∧ EventSent s t (c.toNat + 1) 0x8003 ∧
        t = { s with errQ := t.errQ, errOvf := t.errOvf, reported := t.reported, lbxs := t.lbxs, diag := t.diag })) ∧
  (∀ (s : State) (q : Req),
    let u := s.begun q
    let i := reqNat q 16 2
    let b := s.boltAbs (reqCtx q) i
    let x := s.bolt b
    i < (s.ctx (reqCtx q)).bolts →
    (Accepted s q 0x0304 [(16, 0, 15), (18, 0, 3), (20, 0, 32), (24, 0, 32)] [(20, reqBit q 18 0 && reqNat q 20 4 == 0)] →
      x.waiters = [] → x.error = false → isTree x = false →
      exec (.boltConfig q) s = .next ((u.setBolt b { x with barrier := reqBit q 18 0, ppoint := reqBit q 18 1
                                                            remoteOk := reqBit q 18 2, root := true, children := []
                                                            count := BitVec.ofNat 32 (reqNat q 20 4)
                                                            value := BitVec.ofNat 32 (reqNat q 24 4), phase := 0 }).reply q 0)) ∧
    (Accepted s q 0x0304 [(16, 0, 15), (18, 0, 3), (20, 0, 32), (24, 0, 32)] [(20, reqBit q 18 0 && reqNat q 20 4 == 0)] →
      x.waiters ≠ [] ∨ x.error = true ∨ isTree x = true → Answers (.boltConfig q) s q u 0x14) ∧
    (Accepted s q 0x0305 [(16, 0, 15)] [] → Answers (.boltRead q) s q u 0 0 [(16, 32, leNat (boltRecord x))]) ∧
    (Accepted s q 0x0306 [(16, 0, 15)] [] → x.error = false →
      ∃ t, exec (.boltAbort q) s = .next t ∧ (t.bolt b).error = true ∧ (t.bolt b).err = 0x04 ∧ (t.bolt b).waiters = [] ∧
        (∀ c, c ≠ b → t.bolt c = s.bolt c) ∧ (∀ w ∈ x.waiters, ∀ r, w.who = .room r → ({ who := w.who, error := true, result := 0 } : BoltRsp) ∈ t.boltRsp) ∧
        t = { s with bolts := t.bolts, boltRsp := t.boltRsp, ports := t.ports, slotWait := t.slotWait, arrived := t.arrived
                     lbxs := t.lbxs }))

/-- A translated access is performed at its home controller under the permissions of its entry: a read takes the bytes and the
poison of its units, a store leaves its bytes there, and one the entry refuses ends with its code. A lookup that its slice
serves translates the access; a miss joins a walk of the same page, or starts one, at the leaf where the slice holds the
directory entry, while fewer than 32 are in flight and no older miss waits; else it waits in order, while fewer than 256 do. A
walk reads the directory, the leaf and, where SUB = 1, the subpage entry, and checks each: an invalid or malformed one, a
frame that is absent, or a Larder of another context ends it with its code for every waiter; MIG = 1 holds it; a good entry is
installed in the slice and given to every waiter. A walk that waits on MIG = 1 walks again, or its access ends with
MIG_TIMEOUT. -/
def Obligations.MemoryAccessAndTranslation : Prop :=
  (∀ (s : State) (id : Nat) (a : Access) (e : W64) (sub : Bool), MemoryCanonical s → AccessReady s id a e sub →
    let k := accessKey a e sub
    (accessStop s a e sub = 0 → a.write = false →
      exec (.memoryAccess id) s = .next (s.setDone id 0 (s.read k a.len) (s.badUnits k a.len))) ∧
    (accessStop s a e sub = 0 → a.write = true →
      ∃ t, exec (.memoryAccess id) s = .next t ∧ t.accesses = (s.setDone id 0 [] []).accesses ∧
        memReads t.mem k a.data.length = a.data ∧ (∀ u ∈ a.bad, k / 64 + u ∈ t.poison) ∧
        (∀ j, (j < k ∨ k + a.data.length ≤ j) → memRead t.mem j = memRead s.mem j) ∧
        (a.bad = [] → Stored s t k a.data) ∧ t = { s with mem := t.mem, poison := t.poison, accesses := t.accesses }) ∧
    (accessStop s a e sub ≠ 0 → exec (.memoryAccess id) s = .next (s.setDone id (accessStop s a e sub) [] []))) ∧
  (∀ (s : State) (id : Nat) (a : Access), s.access id = some a → a.st = .issued → s.isLocal a.dva = true →
    dvaTier a.dva ≤ 3 →
    let ns := dvaTier a.dva
    let off := dvaOff a.dva
    let d := sliceOf off
    let x := mapGet {} s.slices d
    let q := s.waitingIn x
    let same (w : Walk) := w.ctx == a.ctx && w.ns.toNat == ns && w.vpn.toNat == offVpn off && w.sub == offSub off
    (∀ w ∈ x.walks, id ∉ w.waiters) →
    (∀ e, s.sliceHit a.ctx ns off = some e →
      ∃ t, exec (.translationLookup id) s = .next t ∧ t.access id = some { a with st := .translated e.entry (e.sub != 32) } ∧
        e ∈ mapGet [] t.tbufs (bufOf a.who) ∧ (∀ j, j ≠ id → t.access j = s.access j) ∧
        (∀ i, (mapGet {} t.slices i).walks = (mapGet {} s.slices i).walks) ∧
        t = { s with accesses := t.accesses, tbufs := t.tbufs, slices := t.slices }) ∧
    (s.sliceHit a.ctx ns off = none → x.walks.any same = true →
      ∃ t, exec (.translationLookup id) s = .next t ∧ t = { s with slices := t.slices } ∧
        mapGet {} t.slices d = { x with walks := x.walks.map fun w => if same w then { w with waiters := w.waiters ++ [id] } else w } ∧
        ∀ i, i ≠ d → mapGet {} t.slices i = mapGet {} s.slices i) ∧
    (s.sliceHit a.ctx ns off = none → x.walks.any same = false → x.walks.length < 32 → q = [] ∨ q.head? = some id →
      ∃ t w, exec (.translationLookup id) s = .next t ∧ t = { s with slices := t.slices } ∧
        (mapGet {} t.slices d).walks = x.walks ++ [w] ∧ (mapGet {} t.slices d).entries = x.entries ∧
        (mapGet {} t.slices d).waitq = q.filter (fun i => i != id) ∧ same w = true ∧ w.waiters = [id] ∧ w.mig = false ∧
        (mapFind x.dir (dirKey a.ctx ns (offVpn off)) = none → w.level = 0) ∧
        (∀ e, mapFind x.dir (dirKey a.ctx ns (offVpn off)) = some e → w.level = 1 ∧ w.table = eTable e) ∧
        ∀ i, i ≠ d → mapGet {} t.slices i = mapGet {} s.slices i) ∧
    (s.sliceHit a.ctx ns off = none → x.walks.any same = false → 32 ≤ x.walks.length ∨ (q ≠ [] ∧ q.head? ≠ some id) →
      (id ∉ q → q.length < 256 → exec (.translationLookup id) s = .next (s.updSlice d fun x => { x with waitq := q ++ [id] })) ∧
      (id ∈ q ∨ 256 ≤ q.length → exec (.translationLookup id) s = .next s))) ∧
  (∀ (s : State) (d : DieId) (k : Nat) (w : Walk), (∀ a ∈ s.accesses, Internal a.who) →
    let vpn := w.vpn.toNat
    let dir := s.dirEntry w.ctx w.ns.toNat vpn
    let leaf := s.tableWord (leafWord w.table vpn)
    let sub := s.tableWord (subWord w.subtab w.sub)
    let moved (t : State) (w' : Walk) := t = { s with slices := t.slices } ∧
      (mapGet {} t.slices d.toNat).walks = (mapGet {} s.slices d.toNat).walks.set k w'
    let given (sub : Nat) (e : W64) := ∃ t, exec (.walkReadReturn d k) s = .next t ∧
      WalkOver s t d k w (.translated e (sub != 32)) ∧
      { ctx := w.ctx, ns := w.ns, vpn := w.vpn, sub, entry := e : TpmEntry } ∈ (mapGet {} t.slices (vpn % 4)).entries
    let faults (code : Nat) := ∃ t, exec (.walkReadReturn d k) s = .next t ∧
      WalkOver s t d k w (.done (BitVec.ofNat 8 code) [] [])
    (WalkAt s d k w 0 → dirCode dir = 0 →
      ∃ t, exec (.walkReadReturn d k) s = .next t ∧ moved t { w with level := 1, table := eTable dir } ∧
        mapFind (mapGet {} t.slices d.toNat).dir (dirKey w.ctx w.ns.toNat vpn) = some dir) ∧
    (WalkAt s d k w 0 → dirCode dir ≠ 0 → faults (dirCode dir)) ∧
    (WalkAt s d k w 1 → eValid leaf = true → eMig leaf = true →
      ∃ t, exec (.walkReadReturn d k) s = .next t ∧ moved t { w with mig := true }) ∧
    (WalkAt s d k w 1 → (eValid leaf && eMig leaf) = false → eSub leaf = true → leafSubCode leaf = 0 →
      ∃ t, exec (.walkReadReturn d k) s = .next t ∧ moved t { w with level := 2, subtab := eSubtab leaf }) ∧
    (WalkAt s d k w 1 → (eValid leaf && eMig leaf) = false → eSub leaf = true → leafSubCode leaf ≠ 0 → faults (leafSubCode leaf)) ∧
    (WalkAt s d k w 1 → (eValid leaf && eMig leaf) = false → eSub leaf = false → s.leafCode leaf = 0 → d.toNat = vpn % 4 →
      given 32 leaf) ∧
    (WalkAt s d k w 1 → (eValid leaf && eMig leaf) = false → eSub leaf = false → s.leafCode leaf ≠ 0 → faults (s.leafCode leaf)) ∧
    (WalkAt s d k w 2 → eValid sub = true → eMig sub = true →
      ∃ t, exec (.walkReadReturn d k) s = .next t ∧ moved t { w with mig := true }) ∧
    (WalkAt s d k w 2 → (eValid sub && eMig sub) = false → s.subCode w.ctx sub = 0 → d.toNat = vpn % 4 → given w.sub sub) ∧
    (WalkAt s d k w 2 → (eValid sub && eMig sub) = false → s.subCode w.ctx sub ≠ 0 → faults (s.subCode w.ctx sub))) ∧
  (∀ (s : State),
    (∀ (d : DieId) k w, (mapGet {} s.slices d.toNat).walks[k]? = some w → w.mig = true →
      ∃ t v, exec (.migRewalk d k) s = .next t ∧ t = { s with slices := t.slices } ∧ v.level ≤ 1 ∧
        v = { w with mig := false, level := v.level, table := v.table, subtab := v.subtab } ∧
        (mapGet {} t.slices d.toNat).walks = (mapGet {} s.slices d.toNat).walks.set k v ∧
        (mapGet {} t.slices d.toNat).entries = (mapGet {} s.slices d.toNat).entries ∧
        ∀ i, i ≠ d.toNat → mapGet {} t.slices i = mapGet {} s.slices i) ∧
    (∀ id a, s.access id = some a → Internal a.who → NoRelease s →
      (∃ w ∈ (mapGet {} s.slices (sliceOf (dvaOff a.dva))).walks, w.mig = true ∧ id ∈ w.waiters) ∨ a.st = .mig →
      ∃ t, exec (.migTimeout id) s = .next t ∧ t.access id = some { a with st := .done 5 [] [] } ∧
        (∀ j, j ≠ id → t.access j = s.access j) ∧ t = { s with accesses := t.accesses, slices := t.slices }))

/-- Annex ports: what was outstanding at a timeout or when the link goes down ends with code 09, a read with all its units
poisoned, and is reported; extents of whole frames within the port's window are accepted, and released only when no entry
names a frame of theirs. What the patrol finds: a corrected error is reported with the class of its memory, an uncorrectable
one also poisons the unit, and in the Annex, which the device does not scrub, only that (assumption 75). A hold of a channel,
bank or row ends when its repair does. -/
def Obligations.AnnexScrubAndHolds : Prop :=
  (∀ (s : State),
    (∀ id a e sub p, s.access id = some a → Internal a.who → a.st = .translated e sub → dvaTier a.dva ≠ 0 →
      annexPort e sub = some p →
      ∃ t, exec (.annexTimeout id) s = .next t ∧ ErrorNoted s t 0x20 p ∧ EventSent s t 0 0x800D ∧
        (a.write = false → t.mem = s.mem ∧
          t.access id = some { a with st := .done 9 (List.replicate a.len 0) (List.range (a.len / 64)) }) ∧
        (a.write = true → t.access id = some { a with st := .done 9 [] [] } ∧
          (t.mem = s.mem ∨ t.mem = memWrites s.mem (entryKey e sub (dvaOff a.dva)) a.data)) ∧
        (∀ j, j ≠ id → t.access j = s.access j) ∧
        Noted { s with accesses := t.accesses, mem := t.mem, poison := t.poison, fresh := t.fresh } t) ∧
    (∀ p, (∀ a ∈ s.accesses, Internal a.who) →
      ∃ t, exec (.annexLinkDown p) s = .next t ∧ mapGet true t.annexUp (boolNat p) = false ∧
        mapGet false t.annexUp (boolNat !p) = mapGet false s.annexUp (boolNat !p) ∧
        ErrorNoted s t 0x21 (boolNat p) ∧ EventSent s t 0 0x800D ∧
        (∀ id a e sub, s.access id = some a → a.st = .translated e sub → dvaTier a.dva ≠ 0 → annexPort e sub = some (boolNat p) →
          ∃ v u, t.access id = some { a with st := .done 9 v u }) ∧
        (∀ id, (∀ a ∈ s.accesses, a.id = id → ∀ e sub, a.st = .translated e sub → dvaTier a.dva ≠ 0 →
          annexPort e sub ≠ some (boolNat p)) → t.access id = s.access id) ∧
        Noted { s with accesses := t.accesses, mem := t.mem, poison := t.poison, fresh := t.fresh, annexUp := t.annexUp } t) ∧
    (∀ p, exec (.annexLinkUp p) s = .next { s with annexUp := mapSet s.annexUp (boolNat p) true }) ∧
    (∀ p (base len : W64),
      let good := base.toNat % 2 ^ 21 = 0 ∧ len.toNat % 2 ^ 21 = 0 ∧ 0 < len.toNat ∧ base.toNat + len.toNat ≤ annexWindow
      let e := (boolNat p, base.toNat / 2 ^ 21, len.toNat / 2 ^ 21)
      (good → exec (.annexExtentOffer p base len) s = .next { s with extents := s.extents ++ [e] }) ∧
      (¬good → ∃ t, exec (.annexExtentOffer p base len) s = .next t ∧ Noted s t ∧ ErrorNoted s t 0x21 (boolNat p) ∧
        EventSent s t 0 0x800D) ∧
      let due := base.toNat % 2 ^ 21 = 0 ∧ len.toNat % 2 ^ 21 = 0 ∧ e ∈ s.extents ∧ s.extentNamed e.1 e.2.1 e.2.2 = false
      (due → exec (.annexExtentRelease p base len) s = .next { s with extents := s.extents.erase e }) ∧
      (¬due → exec (.annexExtentRelease p base len) s = .next s))) ∧
  (∀ (s : State),
    (∀ unit, keyKind (unit * 64) = 10 ∨ keyKind (unit * 64) = 11 ∨ keyKind (unit * 64) = 1 ∨ keyKind (unit * 64) = 2 →
      let cls := match keyKind (unit * 64) with
        | 10 => 0x1A
        | 11 => 0x1E
        | _ => 0x18
      exec (.patrolScrub unit .clean) s = .next s ∧
      (∀ bit, ∃ t, exec (.patrolScrub unit (.corrected bit)) s = .next t ∧ Noted s t ∧
        ErrorNoted s t cls (s.errUnit (unit * 64))) ∧
      ∃ t, exec (.patrolScrub unit .uncorrectable) s = .next t ∧ Noted (s.markPoison unit) t ∧ unit ∈ t.poison ∧
        ErrorNoted s t (cls + 1) (s.errUnit (unit * 64))) ∧
    (∀ unit, keyKind (unit * 64) = 12 → exec (.patrolScrub unit .uncorrectable) s = .next (s.markPoison unit) ∧
      exec (.patrolScrub unit .clean) s = .next s ∧ ∀ bit, exec (.patrolScrub unit (.corrected bit)) s = .next s) ∧
    (∀ stack ch, ∃ t, exec (.retrainComplete stack ch) s = .next t ∧ t = { s with repair := { s.repair with held := t.repair.held } } ∧
      ∀ h, h ∈ t.repair.held ↔ h ∈ s.repair.held ∧ h ≠ (3, stack.toNat * 32 + ch.toNat, 0)) ∧
    (∀ tier unit row, ∃ t, exec (.repairHoldEnd tier unit row) s = .next t ∧
      t = { s with repair := { s.repair with held := t.repair.held } } ∧
      ∀ h, h ∈ t.repair.held ↔ h ∈ s.repair.held ∧ h ≠ (tier, unit, row)))

/-- Mapping gives every page of the range its entry, with the permissions and the placement of the request and a frame that was
free, or 32 subpage entries; outside the range nothing is mapped. A range with a mapped page, and one that finds no frames, is
refused and nothing is mapped. Unmapping, changing permissions and invalidating act on every page of the range, and leave no
translation of it in any cache; pages outside keep their entries. A page that moves: PAGE_MOVE takes a free frame, sets MIG,
leaves no translation of the page and starts a stream of the Study that copies the old frame; the end of the stream's list
gives the page its new frame and frees the old one, a failed read leaves it the old one; the command answers with the pages
moved. With no mapped page, no frame or no stream it answers at once; while a page of the context moves its page-map commands
are held back. -/
def Obligations.PageCommands : Prop :=
  (∀ (s : State) (q : Req),
    let u := s.begun q
    let c := reqCtx q
    let sub := reqBit q 16 5
    let p := pmPlace u q
    PagesFree s q →
    Accepted s q 0x0201 [(16, 0, 6), (17, 0, 7), (18, 0, 6), (20, 0, 24), (24, 0, 25)] (pmBad q ++ [(17, placeBad q sub)]) →
    ¬(reqBits q 17 0 2 = 0 ∧ (s.ctx c).wings ≤ reqNat q 18 1) →
    (u.mappedIn c (pmNs q) (pmVpn q) (pmCount q) ≠ [] → Answers (.pageMap q) s q u 0x08) ∧
    (u.mappedIn c (pmNs q) (pmVpn q) (pmCount q) = [] →
      u.mapPages c (pmNs q) (pmPerm q) sub p (pmVpn q) (pmCount q) = none → Answers (.pageMap q) s q u 0x21) ∧
    (∀ m, u.mappedIn c (pmNs q) (pmVpn q) (pmCount q) = [] →
      u.mapPages c (pmNs q) (pmPerm q) sub p (pmVpn q) (pmCount q) = some m →
      Answers (.pageMap q) s q m 0 0 [(16, 4, pmCount q)] ∧
      m = { u with used := m.used, tables := m.tables, leafTabs := m.leafTabs, subTabs := m.subTabs, spreadGroups := m.spreadGroups
                   localGroups := m.localGroups } ∧
      LeavesKept s m c (pmNs q) (pmVpn q) (pmCount q) ∧ (∀ f ∈ s.used, f ∈ m.used) ∧
      ∀ v, pmVpn q ≤ v → v < pmVpn q + pmCount q →
        (sub = false → ∃ f, m.leaf c (pmNs q) v = leafOf (pmPerm q) p.ptier p.spread f ∧ frameTag p.ptier f ∉ s.used ∧
          frameTag p.ptier f ∈ m.used ∧ s.framePresent p.ptier p.spread f = true) ∧
        (sub = true → (∃ t, m.leaf c (pmNs q) v = leafSubEntry t) ∧ ∀ j, j < 32 →
          eValid (m.sub c (pmNs q) v j) = true ∧ permOf (m.sub c (pmNs q) v j) = pmPerm q))) ∧
  (∀ (s : State) (q : Req),
    let u := s.begun q
    let c := reqCtx q
    let ns := pmNs q
    PagesFree s q →
    (Accepted s q 0x0202 [(16, 0, 2), (20, 0, 24), (24, 0, 25)] (pmBad q) → u.pagePinned c ns (pmVpn q) (pmCount q) = false →
      ∃ m, Answers (.pageUnmap q) s q m 0 ∧ Uncached m (inRange c ns (pmVpn q) (pmCount q)) ∧
        LeavesKept s m c ns (pmVpn q) (pmCount q) ∧
        (∀ v, pmVpn q ≤ v → v < pmVpn q + pmCount q → eValid (m.leaf c ns v) = false) ∧ (∀ f ∈ m.used, f ∈ s.used)) ∧
    (Accepted s q 0x0202 [(16, 0, 2), (20, 0, 24), (24, 0, 25)] (pmBad q) → u.pagePinned c ns (pmVpn q) (pmCount q) = true →
      Answers (.pageUnmap q) s q u 0x14) ∧
    (Accepted s q 0x0203 [(16, 0, 5), (20, 0, 24), (24, 0, 25)] (pmBad q) →
      ∃ m, Answers (.pageProt q) s q m 0 0 [(16, 4, (s.mappedIn c ns (pmVpn q) (pmCount q)).length)] ∧
        Uncached m (inRange c ns (pmVpn q) (pmCount q)) ∧ LeavesKept s m c ns (pmVpn q) (pmCount q) ∧ m.used = s.used ∧
        ∀ v, pmVpn q ≤ v → v < pmVpn q + pmCount q → eValid (s.leaf c ns v) = true →
          (eSub (s.leaf c ns v) = false → m.leaf c ns v = withPerm (s.leaf c ns v) (pmPerm q)) ∧
          (eSub (s.leaf c ns v) = true → ∀ j, j < 32 → eValid (s.sub c ns v j) = true →
            m.sub c ns v j = withPerm (s.sub c ns v j) (pmPerm q))) ∧
    (∀ f, f = (fun (c' : CtxId) (ns' vpn' : Nat) => match reqBits q 18 0 2 with
        | 0 => inRange c ns (pmVpn q) 1 c' ns' vpn'
        | 1 => inRange c ns (pmVpn q) (pmCount q) c' ns' vpn'
        | 2 => c' == c && ns' == ns
        | _ => c' == c) →
      Accepted s q 0x0205 [(16, 0, 2), (18, 0, 2), (20, 0, 24), (24, 0, 25)]
        [(16, reqBits q 18 0 2 != 3 && pmNs q == 0),
         (24, reqBits q 18 0 2 == 1 && (pmCount q == 0 || decide (2 ^ 24 < pmVpn q + pmCount q)))] →
      ∃ m, Answers (.tlbInval q) s q m 0 ∧ Uncached m f ∧ m.roots = s.roots ∧ m.tables = s.tables ∧
        (NoneTranslated s → NoneRead s → m = { u with tbufs := m.tbufs, slices := m.slices }))) ∧
  (∀ (s : State) (q : Req),
    let u := (s.begun q).accept q
    let c := reqCtx q
    let ns := pmNs q
    let p := pmPlace (s.begun q) q
    let vs := s.mappedIn c ns (pmVpn q) (pmCount q)
    let taken := Accepted s q 0x0204 [(16, 0, 2), (17, 0, 7), (18, 0, 6), (20, 0, 24), (24, 0, 25)]
        (pmBad q ++ [(17, placeBad q (reqBits q 17 0 2 == 0))]) ∧ ¬(reqBits q 17 0 2 = 0 ∧ (s.ctx c).wings ≤ reqNat q 18 1) ∧
      PagesFree s q ∧ s.moves = []
    (s.pageHeld c = true → ∀ i ∈ [Instr.pageMap q, .pageUnmap q, .pageProt q, .pageMove q, .tlbInval q], exec i s = .next s) ∧
    (taken → vs = [] → Answers (.pageMove q) s q u 0 0 [(16, 4, 0)]) ∧
    (∀ v rest, taken → vs = v :: rest → eValid (s.leaf c ns v) = true → s.studyStream = none →
      Answers (.pageMove q) s q u 0x06 0 [(16, 4, 0)]) ∧
    (∀ v rest, taken → vs = v :: rest → eValid (s.leaf c ns v) = true → s.studyStream ≠ none → s.moveParts c ns v p = none →
      Answers (.pageMove q) s q u 0x21 0 [(16, 4, 0)]) ∧
    (∀ v rest sid f, taken → vs = v :: rest → eValid (s.leaf c ns v) = true → s.studyStream = some sid → eSub (s.leaf c ns v) = false → p.ptier ≠ 0 →
      s.pickFrame p.ptier p.spread p.unit = some f →
      let old := s.leaf c ns v
      let parts := [(32, old, leafOf (permOf old) p.ptier p.spread f)]
      s.ringPart parts = false →
      ∃ t, exec (.pageMove q) s = .next t ∧ t.stream sid = some (copyStream c false (parts.map (partRange ns v))) ∧
        t.moves = [{ why := .command q, todo := vs.map fun v => (c, ns, v), places := [p], sid := some sid, parts }] ∧
        t.leaf c ns v = old ||| 0x20 ∧ frameTag p.ptier f ∉ s.used ∧ frameTag p.ptier f ∈ t.used ∧
        Uncached t (inRange c ns v 1) ∧ LeavesKept s t c ns v 1 ∧ (NoneTranslated s → NoneRead s → t.mem = s.mem)) ∧
    (∀ sid v st w old new m, s.moves = [m] → m.why = .command q → m.sid = some sid → m.todo = [(c, ns, v)] →
      m.parts = [(32, old, new)] → 1 ≤ ns → v < 2 ^ 24 → s.leaf c ns v = old ||| 0x20 → eSub old = false → eSub new = false →
      eValid old = true → s.ringPart m.parts = false → s.ringPart [(32, new, new)] = false → TablesApart s →
      (EntryReady s sid 0xF st w → s.listDrained sid st = true → st.study = true →
        ∃ t, exec (.stopEntry sid) s = .next t.settleRevs ∧ t.leaf c ns v = new ∧ t.moves = [] ∧ t.stream sid = none ∧
          t.mem = s.mem ∧ frameTag (ePtier old) (ePpn old) ∉ t.used ∧ LeavesKept s t c ns v 1 ∧
          (reqTag q ∉ (s.lbx q.lbx).mute → AnswerWaits t q 0 0)) ∧
      (∀ k g a code data bad, s.stream sid = some st → st.study = true → st.grants[k]? = some g → s.access g.read = some a →
        g.sent = false → a.st = .done code data bad → code ≠ 0 → st.pendFault = 0 → st.st = .run → st.grants.eraseIdx k = [] →
        ∃ t, exec (.dwReadData sid k) s = .next t.settleReleases.settleRevs ∧ t.leaf c ns v = old ∧ t.moves = [] ∧
          t.mem = s.mem ∧ frameTag (ePtier new) (ePpn new) ∉ t.used ∧ LeavesKept s t c ns v 1 ∧
          (reqTag q ∉ (s.lbx q.lbx).mute → AnswerWaits t q 0x28 code.toNat))))

/-- A host request decodes through a window, and is an access of the window's context at the DVA it names; one that decodes
through none fails: a write completes with no effect, a read returns poison. Windows are made in ascending numbers where no
window overlaps, take no more requests once they are being removed, and go when no request of theirs is left; NumVFs is at
most 64 and never below a context that is not FREE; unmasking a vector raises it if it is pending. -/
def Obligations.HostWindowsAndRequests : Prop :=
  (∀ (s : State) (unit : BitVec 36), s.hostUp = true → (∀ a ∈ s.accesses, a.id < s.nextAcc) →
    (∀ i w, s.windowAt (unit.toNat * 64) = some (i, w) → w.ns ≠ 0 →
      let d := dvaOf w.ns.toNat ((w.vaBase + (unit.toNat * 64 - w.aperture)) % 2 ^ 45)
      let st := match s.bufHit 74 w.ctx w.ns.toNat (dvaOff d) with
        | some e => AccState.translated e.entry (e.sub != 32)
        | none => .issued
      let a : Access := { id := s.nextAcc, who := .hostWin i, ctx := w.ctx, job := (s.ctx w.ctx).job, write := false, dva := d
                          len := 64, st }
      let bufs := match s.bufHit 74 w.ctx w.ns.toNat (dvaOff d) with
        | some e => (s.installBuf 74 e).tbufs
        | none => s.tbufs
      exec (.hostWindowRead unit) s = .next { s with accesses := s.accesses ++ [a], nextAcc := s.nextAcc + 1, tbufs := bufs } ∧
      ∀ data bad, exec (.hostWindowWrite unit data bad) s = .next { s with
        accesses := s.accesses ++ [({ a with write := true, data := unitBytes data, bad := if bad then [0] else [] } : Access)]
        nextAcc := s.nextAcc + 1, tbufs := bufs }) ∧
    (s.windowAt (unit.toNat * 64) = none →
      exec (.hostWindowRead unit) s = .next { s with cxlOut := s.cxlOut ++ [(List.replicate 64 0, true)] } ∧
      ∀ data bad, exec (.hostWindowWrite unit data bad) s = .next { s with cxlOut := s.cxlOut ++ [([], false)] }) ∧
    (∀ id a i w e sub, s.access id = some a → a.st = .translated e sub → a.who = .hostWin i → dvaTier a.dva ≠ 0 →
      mapFind s.windows i = some w → w.removing = none → NoRelease s → s.behindOlder a = false → s.keyHeld (accessKey a e sub) = false →
      accessStop s a e sub = 0 → a.write = false →
      exec (.memoryAccess id) s = .next { s with
        accesses := s.accesses.filter fun x => x.id != id
        cxlOut := s.cxlOut ++ [(s.read (accessKey a e sub) a.len, !(s.badUnits (accessKey a e sub) a.len).isEmpty)] })) ∧
  (∀ (s : State),
    (∀ q : Req,
      let u := s.begun q
      let a := reqNat q 16 8
      let n := reqNat q 24 8
      let c : CtxId := BitVec.ofNat 6 (reqNat q 32 1)
      let ns := reqBits q 33 0 2
      let va := reqNat q 40 8
      Accepted s q 0x0206 [(16, 0, 42), (24, 0, 43), (32, 0, 6), (33, 0, 3), (40, 0, 45)]
        [(16, a % 2 ^ 21 != 0), (24, n % 2 ^ 21 != 0 || n == 0 || decide (2 ^ 42 < a + n)), (33, ns == 0 || ns == 3),
         (40, va % 2 ^ 21 != 0)] → (s.ctx c).st ≠ .free →
      let apart := ∀ e ∈ s.windows, e.2.aperture + e.2.length ≤ a ∨ a + n ≤ e.2.aperture
      (¬apart → Answers (.hwinCreate q) s q u 0x12 16) ∧
      ∀ i, apart → i < 256 → mapFind s.windows i = none → (∀ j, j < i → mapFind s.windows j ≠ none) →
        let w : HostWin := { aperture := a, length := n, ctx := c, ns := BitVec.ofNat 2 ns, vaBase := va, write := reqBit q 33 2
                             born := s.hc }
        Answers (.hwinCreate q) s q { u with windows := mapSet s.windows i w } 0 0 [(16, 1, i)]) ∧
    (∀ q : Req,
      let i := reqNat q 16 1
      Accepted s q 0x0207 [(16, 0, 8)] [] → ∀ w, mapFind s.windows i = some w → w.removing = none →
      ((∀ a ∈ s.accesses, a.who ≠ .hostWin i) → ∃ m, Answers (.hwinRemove q) s q m 0 ∧
        m = { s.begun q with windows := m.windows } ∧ mapFind m.windows i = none ∧
        ∀ j, j ≠ i → mapFind m.windows j = mapFind s.windows j) ∧
      (∀ a ∈ s.accesses, a.who = .hostWin i → exec (.hwinRemove q) s =
        .next { s.begun q with windows := mapSet s.windows i ({ w with removing := some (some q) } : HostWin) })) ∧
    (∀ n : W16,
      let busy := ∃ c : CtxId, (s.ctx c).st ≠ .free ∧ n.toNat < c.toNat
      (64 < n.toNat ∨ (n.toNat < s.numVfs ∧ busy) → exec (.numvfsWrite n) s = .next s) ∧
      (n.toNat ≤ 64 → (n.toNat < s.numVfs → ¬busy) → exec (.numvfsWrite n) s = .next { s with numVfs := n.toNat })) ∧
    (∀ (fn : BitVec 7) (vec : BitVec 3), let k := fn.toNat * 16 + vec.toNat
      (k ∉ s.msixPend → exec (.msixVectorUnmask fn vec) s = .next { s with msixOpen := unitAdd s.msixOpen k }) ∧
      (k ∈ s.msixPend → exec (.msixVectorUnmask fn vec) s =
        .next { s with msixOpen := unitAdd s.msixOpen k, msixPend := s.msixPend.erase k, irqs := s.irqs ++ [k] })))

/-- A flit in sequence that decodes and whose CRC holds feeds the record in progress, or begins one at its FIRST byte; a flit
lost, out of sequence, or with a bad record header loses the position in the stream; a whole record whose check holds is
staged. The writer puts the staged record into the ring behind PROD, or drops it with RING when CONS leaves no room; while
drops are pending it reads CONS. Attaching checks the port, the context and the ring's pages, starts the ring empty with its
header zeroed, and detaching takes effect at a record boundary. -/
def Obligations.InflowCapture : Prop :=
  (∀ (s : State) (p : Bool) (f : RxFlit), s.live = true → s.inflowLive p = true →
    let x := s.inflow p
    let u := s.fecCount (inflowPort p) f
    let good := f.decodes = true ∧ f.crcOk = true
    let next := x.lastFseq = none ∨ x.lastFseq = some (f.fseq - 1)
    (¬good ∨ ¬next → (x.part = none ∨ ∃ b, x.part = some b ∧ (b.need = none ∨ b.refused ≠ 0)) →
      exec (.inflowFlit p f) s = .next (u.updInflow p fun x => { x with part := none, synced := false, lastFseq := none })) ∧
    (¬good ∨ ¬next → (∃ b, x.part = some b ∧ b.need ≠ none ∧ b.refused = 0) →
      ∃ t, exec (.inflowFlit p f) s = .next t ∧ (t.inflow p).part = none ∧ (t.inflow p).synced = false ∧
        mapGet 0 (t.inflow p).drops 2 = mapGet 0 x.drops 2 + 1 ∧ (t.inflow p).staged = x.staged ∧ t.inflow (!p) = s.inflow (!p)) ∧
    (good → next → f.idle = true →
      exec (.inflowFlit p f) s = .next (u.updInflow p fun x => { x with lastFseq := some f.fseq })) ∧
    (good → next → f.idle = false → x.synced = false → 250 ≤ f.first →
      exec (.inflowFlit p f) s = .next (u.updInflow p fun x => { x with lastFseq := some f.fseq })) ∧
    (good → next → f.idle = false → x.synced = true →
      (∀ b n, x.part = some b → b.need = some n → b.bytes.length + 250 < n →
        exec (.inflowFlit p f) s = .next (u.updInflow p fun x =>
          { x with lastFseq := some f.fseq, part := some { b with bytes := b.bytes ++ f.stream } })) ∧
      (x.part = none → headerBad (f.stream.take 32) = true →
        exec (.inflowFlit p f) s = .next (u.updInflow p fun x =>
          { x with lastFseq := some f.fseq, part := none, synced := false })) ∧
      (∀ d, x.part = none → headerBad (f.stream.take 32) = false → x.desc = some d → x.detaching = none →
        let len := leNat ((f.stream.drop 4).take 4)
        len ≤ adMax d → State.staging x + recordBytes len ≤ 2 ^ 22 → 250 < recordBytes len →
        exec (.inflowFlit p f) s = .next (u.updInflow p fun x =>
          { x with lastFseq := some f.fseq, part := some { bytes := f.stream, need := some (recordBytes len), refused := 0 } })) ∧
      (∀ b n, x.part = some b → b.need = some n → b.refused = 0 → 32 ≤ b.bytes.length → b.bytes.length < n →
        n ≤ b.bytes.length + 250 →
        let bs := b.bytes ++ f.stream.take (n - b.bytes.length)
        let at' (off k : Nat) := leNat ((bs.drop off).take k)
        let pay := (bs.drop 32).take (at' 4 4)
        crc32c (bs.take 28 ++ pay) = at' 28 4 →
        ∃ t more, exec (.inflowFlit p f) s = .next t ∧ (t.inflow p).staged = x.staged ++
          ({ len := at' 4 4, rseq := BitVec.ofNat 32 (at' 8 4), chan := BitVec.ofNat 32 (at' 12 4)
             stamp := BitVec.ofNat 64 (at' 16 8), arrival := s.hc, payload := pay } : InRec) :: more ∧ t.inflow (!p) = s.inflow (!p)))) ∧
  (∀ (s : State) (p : Bool) (d : BitVec 512), MemoryCanonical s → s.live = true → (s.inflow p).desc = some d →
    s.inflowHeld p = false →
    let x := s.inflow p
    (∀ r rest, x.staged = r :: rest → x.gap = [] → (∀ e, x.expect = some e → e = r.rseq) →
      let units := 1 + (r.len + 63) / 64
      x.prod.toNat % adUnits d + units ≤ adUnits d → roomFor x d units = true →
      (∃ key : Nat → Nat, (∀ i, i < units → s.unitKey x d (x.prod.toNat + i) = some (key i)) ∧
        (∀ i j, i < units → j < units → i ≠ j → key i + 64 ≤ key j ∨ key j + 64 ≤ key i) ∧
        (∀ i h, i < units → s.hdrKey x d 0 = some h → h + 64 ≤ key i ∨ key i + 64 ≤ h) ∧ r.payload.length = r.len) →
      ∃ t, exec (.inflowRecordWrite p) s = .next t ∧ (t.inflow p).staged = rest ∧
        (t.inflow p).prod = x.prod + BitVec.ofNat 32 units ∧ (t.inflow p).entries = x.entries + 1 ∧
        (t.inflow p).expect = some (r.rseq + 1) ∧ (t.inflow p).gap = [] ∧ (t.inflow p).drops = x.drops ∧
        (∀ i k, i < units → s.unitKey x d (x.prod.toNat + i) = some k →
          memReads t.mem k 64 = ((dataEntry x.firstNext r).drop (64 * i)).take 64) ∧
        t.inflow (!p) = s.inflow (!p) ∧ t.rooms = s.rooms ∧ t.streams = s.streams ∧ t.ctxs = s.ctxs ∧
        (adBoltEn d = false → t.boltQ = s.boltQ)) ∧
    (∀ r rest k, x.staged = r :: rest → s.hdrKey x d 64 = some k → x.gap = [] → (∀ e, x.expect = some e → e = r.rseq) →
      let units := 1 + (r.len + 63) / 64
      x.prod.toNat % adUnits d + units ≤ adUnits d → roomFor x d units = false →
      roomFor { x with cons := BitVec.ofNat 32 (s.readNat k 4) } d units = false →
      ∃ t, exec (.inflowRecordWrite p) s = .next t ∧ (t.inflow p).staged = rest ∧ (t.inflow p).prod = x.prod ∧
        (t.inflow p).entries = x.entries ∧ mapGet 0 (t.inflow p).drops 1 = mapGet 0 x.drops 1 + 1 ∧
        t.inflow (!p) = s.inflow (!p)) ∧
    (∀ k, x.gap ≠ [] → s.hdrKey x d 64 = some k → (x.prod - BitVec.ofNat 32 (s.readNat k 4)).toNat ≤ adUnits d →
      exec (.inflowConsRead p) s = .next (s.updInflow p fun x => { x with cons := BitVec.ofNat 32 (s.readNat k 4) })) ∧
    (x.gap = [] → exec (.inflowConsRead p) s = .next s)) ∧
  (∀ (s : State) (q : Req), MemoryCanonical s →
    let u := s.begun q
    (let d : BitVec 512 := BitVec.ofNat 512 (reqNat q 16 64)
     let p := bitOf d.toNat 0
     Accepted s q 0x0611 [(16, 0, 1), (17, 0, 7), (18, 0, 15), (20, 0, 32), (24, 0, 64), (32, 0, 64), (40, 0, 6)] (s.attachBad d) →
     let ok := (s.port (inflowPort p)).resRole = 2 ∧ (s.inflow p).desc = none ∧ (s.ctx (adCtx d)).st ≠ .free
     (¬ok → Answers (.inflowAttach q) s q u 0x14) ∧
     (∀ n, ok → s.ringPages (adCtx d) d = .inr n → Answers (.inflowAttach q) s q u 0x28 n) ∧
     (∀ pages, ok → s.ringPages (adCtx d) d = .inl pages →
       (∀ m ∈ s.moves, inRing m.parts { s.inflow p with desc := some d, pages } = false) →
       ∃ m, Answers (.inflowAttach q) s q m 0 ∧
         m.inflow p = { s.inflow p with
                        desc := some d, pages, prod := 0, cons := 0, entries := 0, drops := [], gap := [], unseen := 0
                        expect := none, firstNext := true, ringBad := false, staged := [], detaching := none } ∧
         m = { u with inflow0 := m.inflow0, inflow1 := m.inflow1, mem := m.mem, poison := m.poison } ∧
         m.inflow (!p) = s.inflow (!p) ∧
         (∀ h g, s.hdrKey (m.inflow p) d 0 = some h → s.hdrKey (m.inflow p) d 64 = some g →
           memReads m.mem g 64 = List.replicate 64 0 ∧ memReads m.mem h 64 = List.replicate 64 0 ∧
           ∀ k, (k < h ∨ h + 64 ≤ k) → (k < g ∨ g + 64 ≤ k) → memRead m.mem k = memRead s.mem k))) ∧
    (Accepted s q 0x0612 [(16, 0, 1)] [] →
      let p := reqBit q 16 0
      ((s.inflow p).desc = none ∨ (s.inflow p).detaching ≠ none → Answers (.inflowDetach q) s q u 0x14) ∧
      ((s.inflow p).desc ≠ none → (s.inflow p).detaching = none →
        exec (.inflowDetach q) s = .next ((u.accept q).updInflow p fun x => { x with detaching := some (some q) }))) ∧
    (∀ p d, s.live = true → NoRelease s → (s.inflow p).desc = some d → (s.inflow p).detaching = some (some q) →
      s.inflowHeld p = false →
      (s.inflow p).staged = [] → (s.inflow p).gap = [] → (∀ b, (s.inflow p).part = some b → b.refused ≠ 0) →
      ∃ m : State, exec (.inflowDetachEffect p) s = .next (m.reply q 0) ∧ (m.inflow p).desc = none ∧ (m.inflow p).pages = [] ∧
        (m.inflow p).detaching = none ∧ m.inflow (!p) = s.inflow (!p) ∧
        m = { s with inflow0 := m.inflow0, inflow1 := m.inflow1, mem := m.mem, poison := m.poison }))

/-- A context is made at the lowest free index that NumVFs allows, with a run of free Wings, the lowest run of free Bolts and a
directory table for each namespace; without one of them it is refused. A status answers the context's record; a point table is
taken whole from the host buffer, or refused. Releasing a context that no Inflow port, window, open request or copy serves
ends its streams and requests, empties its Rooms, clears its page map and its Bolts, gives its Wings back, makes it FREE, and
answers. -/
def Obligations.ContextLife : Prop :=
  (∀ (s : State) (q : Req),
    let u := s.begun q
    let n := reqNat q 16 1
    let first := if reqBit q 17 0 then some (reqNat q 18 1) else none
    let nb := reqNat q 20 2
    let ms := reqNat q 28 4
    let va : Dva := BitVec.ofNat 64 (reqNat q 32 8)
    let bytes := reqNat q 40 8
    Accepted s q 0x0101 [(16, 0, 7), (17, 0, 1), (18, 0, 6), (20, 0, 16), (24, 0, 32), (28, 0, 14), (32, 0, 64), (40, 0, 64)]
      [(16, n == 0 || decide (64 < n)), (20, nb == 0 || decide (32768 < nb)), (24, reqNat q 24 4 == 0),
       (28, ms == 0 || decide (10000 < ms)), (32, !([1, 2].contains (dvaTier va)) || dvaNode va != 0xFFFF || va.toNat % 2 ^ 21 != 0),
       (40, bytes == 0 || bytes % 2 ^ 22 != 0)] →
    ((∀ c : CtxId, c.toNat < s.numVfs → (s.ctx c).st ≠ .free) → Answers (.ctxCreate q) s q u 0x16) ∧
    ∀ c : CtxId, c.toNat < s.numVfs → (s.ctx c).st = .free → (∀ e : CtxId, e.toNat < c.toNat → (s.ctx e).st ≠ .free) →
      (s.wingRun n first = none → Answers (.ctxCreate q) s q u 0x03) ∧
      (∀ g, s.wingRun n first = some g → s.boltRun nb = none → Answers (.ctxCreate q) s q u 0x07) ∧
      ∀ g b, s.wingRun n first = some g → s.boltRun nb = some b →
        ∃ m, Answers (.ctxCreate q) s q m 0 0 [(16, 1, c.toNat), (17, 1, g), (20, 4, b)] ∧
          m = { u with ctxs := m.ctxs, wings := m.wings, roots := m.roots, createdCtx := true } ∧
          (∀ ns, 1 ≤ ns → ns ≤ 3 → mapFind m.roots (nsKey c ns) = some (nsKey c ns)) ∧
          (∀ k, k / 3 ≠ c.toNat → mapFind m.roots k = mapFind s.roots k) ∧
          m.ctx c = { st := .active, first := BitVec.ofNat 6 g, wings := n, boltBase := BitVec.ofNat 15 b, bolts := nb
                      job := BitVec.ofNat 32 (reqNat q 24 4), saveVa := va, saveBytes := bytes, preemptMs := ms } ∧
          (∀ e, e ≠ c → m.ctx e = s.ctx e) ∧ g + n ≤ 64 ∧ b + nb ≤ 32768 ∧ (∀ k, first = some k → g = k) ∧
          (∀ i, i < n → (s.wing (BitVec.ofNat 6 (g + i))).ctx = none ∧ (s.wing (BitVec.ofNat 6 (g + i))).retired = false ∧
            m.wing (BitVec.ofNat 6 (g + i)) = { s.wing (BitVec.ofNat 6 (g + i)) with ctx := some c }) ∧
          (∀ w : WingId, (w.toNat < g ∨ g + n ≤ w.toNat) → m.wing w = s.wing w) ∧
          ∀ e ∈ s.ctxs, e.2.st ≠ .free → b + nb ≤ e.2.boltBase.toNat ∨ e.2.boltBase.toNat + e.2.bolts ≤ b) ∧
  (∀ (s : State) (q : Req),
    let u := s.begun q
    let x := s.ctx (reqCtx q)
    let n := reqNat q 28 1
    let es := (List.range n).map fun i => s.readNat (hostKey (reqNat q 16 8 + 16 * i)) 16
    (Accepted s q 0x0103 [] [] → Answers (.ctxStatus q) s q u 0 0
      [(16, 1, ctxStNum x.st), (17, 1, x.first.toNat), (18, 1, x.wings), (19, 1, x.cause), (20, 4, x.boltBase.toNat),
       (24, 4, x.bolts), (28, 4, x.job.toNat), (32, 2, x.failId.toNat), (34, 1, x.failCode.toNat), (36, 2, x.swCode.toNat),
       (40, 4, x.gen.toNat), (44, 1, boolNat x.genValid), (48, 8, x.routeDropped.toNat), (56, 8, x.routeInvalid.toNat)]) ∧
    (∀ ok, Accepted s q 0x0104 [(16, 0, 64), (24, 0, 32), (28, 0, 8)]
        [(16, reqNat q 16 8 % 4096 != 0), (24, decide (reqNat q 24 4 < 16 * n)), (28, n == 0 || decide (64 < n))] →
      (x.st ≠ .active ∨ x.pre ≠ none → Answers (.ctxPoints q ok) s q u 0x14 (ctxStNum x.st)) ∧
      (x.st = .active → x.pre = none → ok = false → Answers (.ctxPoints q ok) s q u 0x22) ∧
      (x.st = .active → x.pre = none → ok = true →
        (∀ v ∈ es, pointBad x.bolts v = none) →
        Answers (.ctxPoints q ok) s q (u.updCtx (reqCtx q) fun x => { x with
          points := es.map fun v => (BitVec.ofNat 15 (bitsOf v 0 15), BitVec.ofNat 32 (bitsOf v 32 32), BitVec.ofNat 64 (bitsOf v 64 64)) }) 0))) ∧
  (∀ (s : State) (q : Req), Accepted s q 0x0102 [] [] →
    let c := reqCtx q
    let x := s.ctx c
    (x.releasing ≠ none → Answers (.ctxRelease q) s q (s.begun q) 0x14 (ctxStNum x.st)) ∧
    (x.releasing = none → (∀ e ∈ s.windows, e.2.ctx ≠ c) → (∀ d, s.inflow0.desc = some d → adCtx d ≠ c) →
      (∀ d, s.inflow1.desc = some d → adCtx d ≠ c) → (∀ e ∈ s.services, e.2.ctx ≠ c) →
      (∀ e ∈ s.streams, e.2.ctx = c → e.2.study = false ∧ e.2.grants = []) →
      ∃ t, exec (.ctxRelease q) s = .next t ∧ t.ctx c = {} ∧
        (∀ g ∈ s.ownWings c, (t.wing g).ctx = none ∧ (t.wing g).loadQ = [] ∧ (t.wing g).loading = none ∧ (t.wing g).sent = []) ∧
        (∀ r ∈ s.ownRooms c, (t.room r).runst = .idle ∧ (t.room r).slots = [] ∧ (t.room r).in0 = {} ∧
          (t.room r).firings = []) ∧
        (∀ e ∈ t.streams, e.2.ctx ≠ c) ∧ (∀ w ∈ t.modelWork, w.ctx ≠ c) ∧
        (∀ ns v, 1 ≤ ns → ns ≤ 3 → v < 2 ^ 24 → eValid (t.leaf c ns v) = false) ∧
        (∀ b : BoltId, x.boltBase.toNat ≤ b.toNat → b.toNat < x.boltBase.toNat + x.bolts → t.bolt b = {}) ∧
        (reqTag q ∉ (s.lbx q.lbx).mute → AnswerWaits t q 0 0)))

/-- Pre-emption and checkpointing begin with the checks in their order, and wait for the context's point; at the time limit the
context goes on. At its point a context's copy is written with its generation one above that of the copy it replaces; when the
copy is complete a checkpoint goes on and a pre-emption leaves its Wings free; a copy that fails, and a point that is not
reached in time, leave the context ACTIVE. -/
def Obligations.Preemption : Prop :=
  (∀ (s : State) (q : Req) (op : Nat) (checkpoint : Bool) (c : Instr),
    (c = .ctxPreempt q ∧ op = 0x0105 ∧ checkpoint = false) ∨ (c = .ctxCheckpoint q ∧ op = 0x0106 ∧ checkpoint = true) →
    Accepted s q op [(16, 0, 15), (20, 0, 32)] [] →
    let u := s.begun q
    let k := reqCtx q
    let x := s.ctx k
    let bi := reqNat q 16 2
    let phase : W32 := BitVec.ofNat 32 (reqNat q 20 4)
    let any := phase = 0xFFFFFFFF
    let b := s.bolt (s.boltAbs k bi)
    let past := (b.phase - phase).toNat
    let room := 2 * s.copyBytes k (s.saveL k (if phase == 0xFFFFFFFF then none else some (BitVec.ofNat 15 bi))) ≤ x.saveBytes
    (x.st = .preempting → Answers c s q u 0x15) ∧
    (x.st ≠ .preempting → x.st ≠ .active → Answers c s q u 0x14 (ctxStNum x.st)) ∧
    (x.st = .active → x.bolts ≤ bi → Answers c s q u 0x13) ∧
    (x.st = .active → bi < x.bolts → ¬any → ¬(b.barrier = true ∧ b.ppoint = true) → Answers c s q u 0x12 16) ∧
    (x.st = .active → bi < x.bolts → ¬any → b.barrier = true → b.ppoint = true → past ≠ 0 → past < 2 ^ 31 → Answers c s q u 0x17) ∧
    (x.st = .active → bi < x.bolts → any ∨ (b.barrier = true ∧ b.ppoint = true ∧ (past = 0 ∨ 2 ^ 31 ≤ past)) →
      (¬room → Answers c s q u 0x19) ∧
      (room → exec c s = .next ((((if checkpoint then u else u.abandonRevs k).accept q).updCtx k fun x => { x with
        st := .preempting, pre := some { checkpoint, bolt := BitVec.ofNat 15 bi, phase, req := q } }).holdCopies k true)))) ∧
  (∀ (s : State) (c : CtxId) (p : Preempt), (s.ctx c).pre = some p → (∀ w ∈ s.modelWork, w.ctx ≠ c) →
    let x := s.ctx c
    let quiet := ∀ b ∈ s.ctxBolts c, (s.bolt b).held = false
    let on (t : State) (status detail : Nat) (y : Ctx → Ctx) (res : List (Nat × Nat × Nat)) :=
      ((t.updCtx c fun x => { y x with st := .active, pre := none }).holdCopies c false).reply p.req status detail res
    (p.saving = false → quiet → exec (.preemptTimeout c) s = .next (on s 0x18 0 id [])) ∧
    (∀ code, p.saving = true → p.err ≠ 0 ∨ code ≠ 0 → quiet →
      exec (.preemptSaveDone c code) s = .next (on s 0x1A (if p.err ≠ 0 then p.err else code).toNat id [])) ∧
    (p.saving = true → p.err = 0 → p.checkpoint = true → quiet →
      exec (.preemptSaveDone c 0) s = .next (on (s.dvaWrite c (copyVa x p.copy + 5) [1]).1 0 0
        (fun x => { x with gen := p.gen, genValid := true, genCopy := p.copy }) [(16, 4, p.gen.toNat), (24, 8, p.bytes)])) ∧
    (p.saving = true → p.err = 0 → p.checkpoint = false →
      ∃ m : State, exec (.preemptSaveDone c 0) s = .next (m.reply p.req 0 0 [(16, 4, p.gen.toNat), (24, 8, p.bytes)]) ∧
        (m.ctx c).st = .preempted ∧ (m.ctx c).gen = p.gen ∧ (m.ctx c).genValid = true ∧ (m.ctx c).genCopy = p.copy ∧
        (∀ g ∈ s.ownWings c, (m.wing g).ctx = none ∧ (m.wing g).lastCtx = some c) ∧
        (∀ e ∈ m.streams, e.2.ctx = c → e.2.study = true) ∧ ∀ r ∈ s.ownRooms c, (m.room r).slots = []) ∧
    (∀ b l, p.saving = false → s.live = true → s.atPoint c = some b → s.rangesOf c (BitVec.ofNat 15 (s.boltRel c b)) = .inl l →
      (∀ e ∈ s.streams, e.2.ctx = c → e.2.study = false) →
      ∃ t p', exec (.preemptPointReached c) s = .next t ∧ (t.ctx c).pre = some p' ∧ p'.saving = true ∧ (t.ctx c).st = x.st ∧
        (s.newestCopy c = none → p'.copy = false ∧ p'.gen = 1) ∧
        (∀ k g, s.newestCopy c = some (k, g) → p'.copy = !k ∧ p'.gen = g + 1) ∧
        let copy := s.writeCopy c p'.copy p'.gen b (l ++ s.spillRanges c ++ s.kvRanges c)
        p'.err = BitVec.ofNat 8 copy.2 ∧ t = { s with mem := copy.1.mem, poison := copy.1.poison, ctxs := t.ctxs }))

/-- A restore needs a complete copy of the context's shape, its Wings and stream contexts, and holds the Wings while it copies; a
copy that fails leaves the context where it was; one that is complete makes it ACTIVE with its saved Rooms and streams. -/
def Obligations.Restores : Prop :=
  ∀ (s : State),
    (∀ q : Req, Accepted s q 0x0107 [] [] →
      let u := s.begun q
      let c := reqCtx q
      let x := s.ctx c
      let may := x.st = .preempted ∨ x.st = .failed ∨ (x.st = .active ∧ x.fresh = true)
      let taken (w : WingId) := (s.wing w).retired = true ∨ ((s.wing w).ctx ≠ none ∧ (s.wing w).ctx ≠ some c)
      (¬may → Answers (.ctxRestore q) s q u 0x14 (ctxStNum x.st)) ∧
      (may → s.newestCopy c = none → Answers (.ctxRestore q) s q u 0x1B) ∧
      ∀ k g f sts bolts, may → s.newestCopy c = some (k, g) → s.copyHead c k = some f → s.copyStreams c k (f 20 1) (f 22 2) = .inl sts →
        s.copyBolts c k (f 20 1) (f 22 2) (f 24 4) = .inl bolts →
        let same := f 20 1 = x.wings ∧ f 24 4 = x.bolts
        let places := streamPlaces (s.heldStreams.filter fun e => e.2.ctx != c) sts
        (¬same → Answers (.ctxRestore q) s q u 0x1B) ∧
        (same → (∃ w ∈ ctxWings x, taken w) → Answers (.ctxRestore q) s q u 0x1C) ∧
        (same → (∀ w ∈ ctxWings x, ¬taken w ∧ ∀ r ∈ wingRooms w, (s.room r).hwFailed = false) →
          (places = none → Answers (.ctxRestore q) s q u 0x06) ∧
          (places ≠ none → x.st = .preempted →
            ∃ t, exec (.ctxRestore q) s = .next t ∧ t = { u.accept q with ctxs := t.ctxs, wings := t.wings } ∧
              t.ctx c = { x with st := .restoring, restore := some (q, .preempted), gen := g, genValid := true, genCopy := k } ∧
              (∀ w ∈ ctxWings x, t.wing w = { s.wing w with ctx := some c }) ∧ ∀ w, w ∉ ctxWings x → t.wing w = s.wing w))) ∧
    (∀ (c : CtxId) q st code, (s.ctx c).restore = some (q, st) →
      let x := s.ctx c
      let back (n : Nat) := Host.Outcome.next ((s.updCtx c fun x => { x with st, restore := none }).reply q 0x28 n)
      (code ≠ 0 → st ≠ .preempted → exec (.restoreCopyDone c code) s = back code.toNat) ∧
      (code ≠ 0 → st = .preempted → ∃ m : State, exec (.restoreCopyDone c code) s = .next (m.reply q 0x28 code.toNat) ∧
        (m.ctx c).st = .preempted ∧ (m.ctx c).restore = none ∧ ∀ g ∈ s.ownWings c, (m.wing g).ctx = none) ∧
      (∀ n, st ≠ .preempted → s.readCopy c x.genCopy = .inr n → exec (.restoreCopyDone c 0) s = back n) ∧
      (∀ y, s.readCopy c x.genCopy = .inl y → x.wings ≤ 64 → x.models = [] → y.rooms.length = 16 * x.wings →
        let rooms := ((ctxRooms x).zip y.rooms).map fun e => (e.1, roomOf (s.room e.1) e.2)
        y.ranges = [] → spillRangesOf rooms = [] → s.kvRanges c = [] → y.field 32 8 = 0 → s.staleWings c (ctxWings x) = [] →
        (∀ e ∈ s.services, e.2.ctx ≠ c) → (∀ w ∈ s.modelWork, w.ctx ≠ c) → (∀ b ∈ s.ctxBolts c, (s.bolt b).held = false) →
        ∃ t : State, exec (.restoreCopyDone c 0) s = .next (t.reply q 0) ∧ (t.ctx c).st = .active ∧ (t.ctx c).restore = none ∧
          (∀ e ∈ rooms, e.2.trig ≠ .sent → t.room e.1 = { e.2 with ve := (t.room e.1).ve }) ∧
          (∀ e ∈ y.streams, t.stream e.1 = some e.2)))

/-- MODEL_LOAD, MODEL_REPLACE and MODEL_UNLOAD wait behind the context's request in progress, four at most, and only in a context
that is ACTIVE or being pre-empted. A request that begins at once: a load reserves what the manifest asks for, maps its Pantry
range and starts the Study's copies, or is refused with the status of the first check that fails; an unload ends the model; an
in-place replacement arms the gates. -/
def Obligations.ModelRequests : Prop :=
  (∀ (s : State) (q : Req) (c : Instr) (op : Nat) (fields : List (Nat × Nat × Nat)) (bad : List (Nat × Bool)),
    (c = .modelLoad q ∧ op = 0x0411 ∧ fields = [(16, 0, 64), (24, 0, 64), (32, 0, 15), (34, 0, 16)] ∧ bad = [(16, manifestBad q 16)]) ∨
    (∃ shadow, reqBit q 17 0 = shadow ∧ c = (if shadow then .modelReplaceShadow q else .modelReplaceInPlace q) ∧ op = 0x0412 ∧
      fields = [(16, 0, 8), (17, 0, 1), (18, 0, 13), (24, 0, 64), (32, 0, 64)] ∧
      bad = [(18, !shadow && reqBits q 18 0 13 == 0), (24, manifestBad q 24),
        (32, shadow && ((BitVec.ofNat 64 (reqNat q 32 8) : Dva).toNat % 2 ^ 21 != 0 ||
          dvaTier (BitVec.ofNat 64 (reqNat q 32 8)) != 1 || dvaNode (BitVec.ofNat 64 (reqNat q 32 8)) != 0xFFFF))]) ∨
    (c = .modelUnload q ∧ op = 0x0413 ∧ fields = [(16, 0, 8)] ∧ bad = []) →
    Accepted s q op fields bad →
    let u := s.begun q
    let k := reqCtx q
    let st := (s.ctx k).st
    let waiting := (s.modelWork.filter fun w => w.ctx == k && w.phase == .queued).length
    (st ≠ .active → st ≠ .preempting → Answers c s q u 0x14 (ctxStNum st)) ∧
    (st = .active ∨ st = .preempting → 4 ≤ waiting → Answers c s q u 0x0B) ∧
    (st = .active ∨ st = .preempting → waiting < 4 → st = .preempting ∨ (∃ w ∈ s.modelWork, w.ctx = k ∧ w.phase ≠ .queued) →
      exec c s = .next { u with modelWork := s.modelWork ++ [{ id := s.nextWork + 1, ctx := k, req := q }]
                                nextWork := s.nextWork + 1 })) ∧
  (∀ (s : State) (q : Req), (s.ctx (reqCtx q)).st = .active → (∀ w ∈ s.modelWork, w.ctx ≠ reqCtx q) →
    (∀ w ∈ s.modelWork, w.id ≤ s.nextWork ∧ (∀ i, w.phase ≠ .holdArm i) ∧ w.phase ≠ .shadowArm) → TablesApart s → s.moves = [] →
    let c := reqCtx q
    let w : ModelWork := { id := s.nextWork + 1, ctx := c, req := q }
    let u := s.begun q
    let u1 := { u with nextWork := s.nextWork + 1 }
    let u2 := { u1 with modelWork := s.modelWork ++ [w] }
    let copiesRun (t : State) (x : ModelWork) := (∀ sid ∈ x.copies, s.stream sid = none ∧ ∃ y, t.stream sid = some y ∧
      y.study = true ∧ y.st = .run ∧ y.ctx = c) ∧ ∀ sid, sid ∉ x.copies → t.stream sid = s.stream sid
    (Accepted s q 0x0411 [(16, 0, 64), (24, 0, 64), (32, 0, 15), (34, 0, 16)] [(16, manifestBad q 16)] →
      (∀ e, u2.beginLoad w = .inr e → Answers (.modelLoad q) s q u1 e) ∧
      ∀ t, u2.beginLoad w = .inl t → exec (.modelLoad q) s = .next (t.accept q) ∧
        ∃ x m, t.work? (s.nextWork + 1) = some x ∧ x.phase = .copying ∧ x.model = some m ∧
          m.wmask = BitVec.ofNat 64 (reqNat q 24 8) ∧ m.boltBase = BitVec.ofNat 15 (reqNat q 32 2) ∧ m.boltCnt = reqNat q 34 2 ∧
          reqNat q 32 2 + reqNat q 34 2 ≤ (s.ctx c).bolts ∧
          (∀ i, i < pagesOf m.pantryBytes → eValid (t.leaf c 1 (dvaOff m.pantryVa / 2 ^ 21 + i)) = true ∧
            ePtier (t.leaf c 1 (dvaOff m.pantryVa / 2 ^ 21 + i)) = 1) ∧ copiesRun t x ∧
          t.mem = s.mem ∧ t.rooms = s.rooms ∧ t.wings = s.wings ∧ t.ctxs = s.ctxs) ∧
    (Accepted s q 0x0413 [(16, 0, 8)] [] →
      (mapFind (s.ctx c).models (reqNat q 16 1) = none → Answers (.modelUnload q) s q u1 0x0C) ∧
      ∀ m, mapFind (s.ctx c).models (reqNat q 16 1) = some m →
        ((∃ sid ∈ m.streams, ∃ t, s.stream sid = some t ∧ t.st ≠ .created ∧ t.st ≠ .done ∧ t.st ≠ .cancelled) →
          Answers (.modelUnload q) s q u1 0x14) ∧
        ((∀ sid ∈ m.streams, ∀ t, s.stream sid = some t → t.st = .created ∨ t.st = .done ∨ t.st = .cancelled) →
          dvaOff m.pantryVa + m.pantryBytes ≤ 2 ^ 45 →
          ∃ t : State, Answers (.modelUnload q) s q (t.accept q) 0 ∧ mapFind (t.ctx c).models (reqNat q 16 1) = none ∧
            (∀ i, i < pagesOf m.pantryBytes → eValid (t.leaf c 1 (dvaOff m.pantryVa / 2 ^ 21 + i)) = false) ∧
            (∀ sid ∈ m.streams, t.stream sid = none) ∧ t.modelWork = s.modelWork)) ∧
    (Accepted s q 0x0412 [(16, 0, 8), (17, 0, 1), (18, 0, 13), (24, 0, 64), (32, 0, 64)]
        [(18, !(reqBit q 17 0) && reqBits q 18 0 13 == 0), (24, manifestBad q 24),
         (32, reqBit q 17 0 && ((BitVec.ofNat 64 (reqNat q 32 8) : Dva).toNat % 2 ^ 21 != 0 ||
          dvaTier (BitVec.ofNat 64 (reqNat q 32 8)) != 1 || dvaNode (BitVec.ofNat 64 (reqNat q 32 8)) != 0xFFFF))] →
      (∀ e, reqBit q 17 0 = false → u2.replacePair w = .inr e → Answers (.modelReplaceInPlace q) s q u1 e) ∧
      (∀ e, reqBit q 17 0 = true → u2.replacePair w = .inr e → Answers (.modelReplaceShadow q) s q u1 e) ∧
      (∀ m b, reqBit q 17 0 = false → u2.replacePair w = .inl (m, b) → m.layers < reqBits q 18 0 13 →
        Answers (.modelReplaceInPlace q) s q u1 0x12 18) ∧
      (∀ m b, reqBit q 17 0 = false → u2.replacePair w = .inl (m, b) → reqBits q 18 0 13 ≤ m.layers →
        ∃ (t : State) (x : ModelWork), exec (.modelReplaceInPlace q) s = .next (t.accept q) ∧ t.work? (s.nextWork + 1) = some x ∧
          x.midx = reqNat q 16 1 ∧ x.model = some { m with manifest := b.base, modelId := b.modelId, version := b.version } ∧
          (gatesClear (s.chainsOf m) = false → x.phase = .holdArm 0 ∧ t.streams = s.streams) ∧
          (gatesClear (s.chainsOf m) = true → (∀ e ∈ s.chainsOf m, e.2.step < s.gateAt m ∧ ¬(e.2.st = .wait ∧ e.2.waiting = .gate)) →
            x.phase = .holding 0 ∧ ∀ e ∈ s.chainsOf m, ∃ y, t.stream e.1 = some y ∧ y.gateArm = true ∧ y.gateGo = true ∧
              y.holdEn = true ∧ y.gateStep = s.gateAt m)) ∧
      (∀ t, reqBit q 17 0 = true → u2.beginShadow w = .inl t →
        exec (.modelReplaceShadow q) s = .next (t.accept q) ∧ ∃ m b x, u2.replacePair w = .inl (m, b) ∧
          t.work? (s.nextWork + 1) = some x ∧ x.phase = .shadowCopy ∧ copiesRun t x ∧
          x.model = some { m with manifest := b.base, modelId := b.modelId, version := b.version
                                  pantryVa := BitVec.ofNat 64 (reqNat q 32 8), larder := [] } ∧ t.mem = s.mem ∧
          ∀ i, i < pagesOf m.pantryBytes →
            eValid (t.leaf c 1 (dvaOff (BitVec.ofNat 64 (reqNat q 32 8)) / 2 ^ 21 + i)) = true)))

/-- How a request goes on: the slots are loaded once its copies are done, a group's copies start once every chain stands at its
hold, at the last group the new image is the model, and a shadow becomes the model's range at the gate step, when its old
pages go. A copy that fails ends the request. -/
def Obligations.ModelRequestsGoOn : Prop :=
  ∀ (s : State) (id : Nat) (w : ModelWork) (m new : Model), s.work? id = some w →
    (∀ x ∈ s.modelWork, x.ctx = w.ctx ∨ x.id = id → x = w) → (∀ x ∈ s.modelWork, (∀ i, x.phase ≠ .holdArm i) ∧ x.phase ≠ .shadowArm) → TablesApart s → s.moves = [] → w.model = some new →
    dvaOff new.pantryVa + new.pantryBytes ≤ 2 ^ 45 → dvaOff m.pantryVa + m.pantryBytes ≤ 2 ^ 45 →
    let x := s.ctx w.ctx
    let done := ∀ sid ∈ w.copies, ∃ y, s.stream sid = some y ∧ y.st = .done
    let n := reqBits w.req 18 0 13
    ((∃ sid ∈ w.copies, ∃ y, s.stream sid = some y ∧ y.st ≠ .done) → (∀ sid ∈ w.copies, ∀ y, s.stream sid = some y → y.st ≠ .fault) →
      exec (.modelLoadCopiesDone id) s = .next s ∧ exec (.replaceGroupCopied id) s = .next s) ∧
    (w.phase = .copying → done →
      let gs := (pick 64 fun i => bitOf new.wmask.toNat i).map fun i => (BitVec.ofNat 6 (x.first.toNat + i) : WingId)
      let todo := gs.filterMap fun g => (new.larder.find? fun e => e.1 == g).map fun e => (g, e.2.1)
      todo ≠ [] → ∃ v y, exec (.modelLoadCopiesDone id) s = .next v ∧ v.work? id = some y ∧ y.phase = .loadingSlots ∧
        y.left = todo.length ∧ (∀ e ∈ y.todo, e ∈ todo) ∧ v.mem = s.mem ∧ v.rooms = s.rooms ∧ v.ctxs = s.ctxs ∧
        (∀ sid ∈ w.copies, v.stream sid = none) ∧ ∀ sid, sid ∉ w.copies → v.stream sid = s.stream sid) ∧
    (∀ e, w.phase = .copying ∨ w.phase = .shadowCopy → s.copiesEnd w.copies = some (some e) →
      ∃ v : State, exec (.modelLoadCopiesDone id) s = .next (v.reply w.req 0x0A e.1 [(24, 8, e.2.toNat)]) ∧ v.work? id = none ∧
        (∀ sid ∈ w.copies, v.stream sid = none) ∧
        ∀ i, i < pagesOf new.pantryBytes → eValid (v.leaf w.ctx 1 (dvaOff new.pantryVa / 2 ^ 21 + i)) = false) ∧
    (∀ i, w.phase = .holding i → mapFind x.models w.midx = some m →
      (∀ b l t ids, (∀ e ∈ s.chainsOf m, e.2.st = .wait ∧ e.2.waiting = .hold ∧ e.2.occ = 0) →
        s.readManifest w.ctx new.manifest = .inl b → s.layerRanges w.ctx b m.pantryVa i n = some l →
        s.startCopies w.ctx l [] = some (t, ids) →
        exec (.replaceHoldReached id) s = .next (t.updWork id fun w => { w with phase := .groupCopy i, copies := ids }) ∧
          ∀ sid ∈ ids, s.stream sid = none ∧ ∃ y, t.stream sid = some y ∧ y.study = true ∧ y.st = .run) ∧
      ((∃ e ∈ s.chainsOf m, ¬(e.2.st = .wait ∧ e.2.waiting = .hold ∧ e.2.occ = 0)) →
        exec (.replaceHoldReached id) s = .next s)) ∧
    (∀ i, w.phase = .groupCopy i → mapFind x.models w.midx = some m → done →
      (∀ e ∈ s.chainsOf m, e.1 ∉ w.copies ∧ e.2.st = .wait ∧ e.2.waiting = .hold) → s.chainsOf m ≠ [] →
      let released (v : State) := ∀ e ∈ s.chainsOf m, ∃ d, ∃ r ∈ mapGet [] v.boltQ d, r.who = .study ∧ r.op = 1 ∧ r.operand = 1 ∧
        r.bolt = s.boltAbs w.ctx e.2.holdBolt.toNat
      (m.layers ≤ i + n → ∃ v : State, exec (.replaceGroupCopied id) s = .next (v.reply w.req 0) ∧
        mapFind (v.ctx w.ctx).models w.midx = some new ∧ v.work? id = none ∧ v.mem = s.mem ∧ released v) ∧
      (i + n < m.layers → ∃ v, exec (.replaceGroupCopied id) s = .next v ∧ v.mem = s.mem ∧ released v ∧
        v.work? id = some { w with phase := .holdArm (i + n), copies := [] })) ∧
    (∀ i e, w.phase = .groupCopy i → mapFind x.models w.midx = some m → s.copiesEnd w.copies = some (some e) →
      ∃ v : State, exec (.replaceGroupCopied id) s = .next (v.reply w.req 0x0E 0 [(16, 2, i)]) ∧ v.work? id = none ∧
        mapFind (v.ctx w.ctx).models w.midx = some m ∧ v.boltQ = s.boltQ) ∧
    (∀ b t, w.phase = .shadowCopy → done → mapFind x.models w.midx = some m → s.readManifest w.ctx new.manifest = .inl b →
      (s.dropCopies w).shadowLists w.ctx b m.pantryVa new.pantryVa = (t, none) → gatesClear (t.chainsOf m) = true →
      (∀ e ∈ t.chainsOf m, e.2.step < t.gateAt m ∧ ¬(e.2.st = .wait ∧ e.2.waiting = .gate)) →
      ∃ v y, exec (.modelLoadCopiesDone id) s = .next v ∧ v.work? id = some y ∧ y.phase = .shadowGate (t.gateAt m) ∧ v.mem = t.mem ∧
        ∀ e ∈ t.chainsOf m, ∃ z, v.stream e.1 = some z ∧ z.gateArm = true ∧ z.gateGo = true ∧ z.pendValid = true ∧
          z.pendBase = e.2.listBase - m.pantryVa + new.pantryVa ∧ z.gateStep = t.gateAt m) ∧
    (∀ g, w.phase = .shadowGate g → mapFind x.models w.midx = some m → (∀ e ∈ s.chainsOf m, g ≤ e.2.step) →
      ∃ v : State, exec (.shadowGatePassed id) s = .next (v.reply w.req 0) ∧ v.work? id = none ∧
        mapFind (v.ctx w.ctx).models w.midx = some { new with larder := m.larder } ∧
        ∀ i, i < pagesOf m.pantryBytes → eValid (v.leaf w.ctx 1 (dvaOff m.pantryVa / 2 ^ 21 + i)) = false)

/-- A placement that fits gives each instance a Wing of the plan and guard bits of its own: at most 16 of 64, apart from those of
every other instance on the Wing, where no other instance of its expert stands. The Steward's revision: a worker sends what it
has counted; at the Steward, without a placement that fits, or with less than MIN_GAIN to gain, only the loads it read are
kept; otherwise a revision of the other copy of the placement begins, one version on, which with nothing to copy, no other
device and clear gates is valid at once. -/
def Obligations.PlacementRevisions : Prop :=
  (∀ (r : Route) (wings : List (NodeId × WingId)) (loads : List Nat) (k : Nat) (reps reps' : List Nat) (ps : List Placed),
    placement r wings loads k reps = some (reps', ps) →
    reps'.length = reps.length ∧ (∀ i, reps'.getD i 0 ≤ reps.getD i 0) ∧
    (∀ p ∈ ps, (p.node, p.wing) ∈ wings ∧ p.gbase + p.folds ≤ 64 ∧ p.folds ≤ 16 ∧
      p.folds = foldsOf r (reps'.getD p.expert 1)) ∧
    (∀ e, e < reps'.length → (ps.filter fun p => p.expert == e).length = reps'.getD e 0) ∧
    ps.Pairwise fun p q => p.node = q.node → p.wing = q.wing →
      p.expert ≠ q.expert ∧ (p.gbase + p.folds ≤ q.gbase ∨ q.gbase + q.folds ≤ p.gbase ∨ p.folds = 0 ∨ q.folds = 0)) ∧
  (∀ (s : State) (c : CtxId) (midx : Byte) (route : Dva) (plan : RevPlan) (m : Model) (r : Route) (j : Job) (act : Dva × Bool × W32 × W32)
    (cnt : List W32) (dropped invalid : Nat) (n : Nat) (steps : List Nat),
    mapFind (s.ctx c).models midx.toNat = some m → s.routeOf c route = some r → s.job? (s.ctx c).job = some j →
    s.chainSteps m = n :: steps → (∀ k ∈ steps, n ≤ k) → s.activeCopy c r n = some act → s.readLoads c r = some (cnt, dropped, invalid) →
    s.live = true → (s.ctx c).st = .active → j.lost = [] → j.mgrLost = false → (∀ w ∈ s.modelWork, w.ctx ≠ c) →
    s.rev? c midx.toNat = none →
    let loads := intervalLoads r cnt (mapGet [] m.loads route.toNat) (mapGet [] m.sent route.toNat)
    let u := s.updModel c midx.toNat fun m =>
      { m with loads := mapSet m.loads route.toNat cnt, sent := mapDel m.sent route.toNat, revised := mapSet m.revised route.toNat n }
    let v := u.updCtx c fun x =>
      { x with routeDropped := x.routeDropped + BitVec.ofNat 64 dropped, routeInvalid := x.routeInvalid + BitVec.ofNat 64 invalid }
    let budget := min (m.instanceBudget.getD (s.routedE c m)) (8 * r.e)
    let old := (List.range r.e).map fun e =>
      match s.dvaNat c (act.1 + BitVec.ofNat 64 (64 + 64 * e)) 1 with
      | .inl v => v % 16
      | .inr _ => 1
    let new := placement r (wingsInOrder plan.wings) loads (8 * r.e + 1) (replicas loads budget)
    (n < mapGet 0 m.revised route.toNat + m.reviseSteps → exec (.stewardRevision c midx route plan) s = .next s) ∧
    (mapGet 0 m.revised route.toNat + m.reviseSteps ≤ n →
      (j.isManager = false → exec (.stewardRevision c midx route plan) s = .next (u.stew j.tag j.manager 9)) ∧
      (j.isManager = true → new = none → exec (.stewardRevision c midx route plan) s = .next v) ∧
      (j.isManager = true → ∀ reps ps, new = some (reps, ps) →
        let was := predicted loads old m.reviseSteps
        let will := predicted loads reps m.reviseSteps
        let copy := if act.1 = r.placeVa then r.placeVa + 0x10000 else r.placeVa
        (was * 100 < will * 100 + m.minGain * was → exec (.stewardRevision c midx route plan) s = .next v) ∧
        (will * 100 + m.minGain * was ≤ was * 100 →
          ∃ t, exec (.stewardRevision c midx route plan) s = .next t ∧
            (plan.pages = [] → plan.copies = [] → plan.lists = [] → s.revs = [] → s.peers j = [] → s.modelWork = [] →
              gatesClear (s.chainsOf m) = true → (∀ e ∈ s.chainsOf m, ¬(e.2.st = .wait ∧ e.2.waiting = .gate)) →
              let at_ : W32 := BitVec.ofNat 32 ((n :: steps).foldl max 0 + 2)
              (∀ e ∈ s.chainsOf m, e.2.step < at_) →
              let w1 := s.writeRuns c [(copy, placeCopy r.e ps)]
              let w2 := w1.1.writeRuns c (validRuns copy (act.2.2.1 + 1) at_)
              w1.2 = 0 → w2.2 = 0 → EventSent s t (c.toNat + 1) 0x8007 ∧ t.mem = w2.1.mem ∧ t.ctxs = v.ctxs ∧
                ∀ e ∈ s.chainsOf m, ∃ y, t.stream e.1 = some y ∧ y.gateArm = true ∧ y.gateGo = true ∧ y.gateStep = at_)))))

/-- Opening copies a good descriptor to the lowest free index; draining and closing end a service that holds nothing at once, and
one with a step in progress after that step. A service reports its entries and counters to its own context. -/
def Obligations.PorchServices : Prop :=
  (∀ (s : State) (q : Req),
    let u := s.begun q
    let c := reqCtx q
    let i := reqNat q 16 2
    (∀ bs, Accepted s q 0x0501 [(16, 0, 64)] [(16, dvaTier (BitVec.ofNat 64 (reqNat q 16 8)) != 1)] → (s.ctx c).st = .active →
      s.dvaRead c (BitVec.ofNat 64 (reqNat q 16 8)) 256 = .inl bs →
      (∀ o, descBad (s.ctx c).bolts (leNat bs) = some o → Answers (.porchOpen q) s q u 0x12 o) ∧
      (descBad (s.ctx c).bolts (leNat bs) = none → (∀ n, n < 512 → ∃ v, s.service n = some v ∧ v.st ≠ .closed) →
        Answers (.porchOpen q) s q u 0x27) ∧
      ∀ n t, descBad (s.ctx c).bolts (leNat bs) = none → n < 512 → (∀ v, s.service n = some v → v.st = .closed) →
        (∀ k, k < n → ∃ v, s.service k = some v ∧ v.st ≠ .closed) →
        let v : Service := { ctx := c, desc := BitVec.ofNat 2048 (leNat bs), lbx := q.lbx }
        clearIndex v { u with services := mapSet s.services n v } = .ok () t →
        Answers (.porchOpen q) s q (t.updCtx c fun x => { x with fresh := false }) 0 0 [(16, 2, n)] ∧ t.service n = some v ∧
          (svPrefix v = false → t.mem = s.mem)) ∧
    (∀ v, s.service i = some v → v.ctx = c → Accepted s q 0x0502 [(16, 0, 16)] [(16, decide (512 ≤ reqNat q 16 2))] →
      (v.st ≠ .opened → Answers (.porchDrain q) s q u 0x14 (svcStNum v.st)) ∧
      (v.st = .opened → (∃ e ∈ s.svSeqs i, e.2.st ≠ 3) ∨ v.waitq ≠ [] ∨ v.pendOut ≠ [] →
        exec (.porchDrain q) s = .next ((u.updService i fun v => { v with st := .draining, reading := [] }).reply q 0)) ∧
      (v.st = .opened → (∀ e ∈ s.svSeqs i, e.2.st = 3) → v.waitq = [] → v.pendOut = [] → v.closeTag = none →
        ∃ t, exec (.porchDrain q) s = .next t ∧ ∃ v', t.service i = some v' ∧ v'.st = .closed ∧ v'.step = none)) ∧
    (∀ v, s.service i = some v → v.ctx = c → Accepted s q 0x0503 [(16, 0, 16)] [(16, decide (512 ≤ reqNat q 16 2))] →
      (v.st = .closed ∨ v.closing = true → Answers (.porchClose q) s q u 0x14 (svcStNum v.st)) ∧
      (v.st ≠ .closed → v.closing = false → stepRuns v = true →
        exec (.porchClose q) s = .next ((u.accept q).updService i fun v =>
          { v with closing := true, closeTag := some (reqTag q), lbx := q.lbx })) ∧
      (v.st ≠ .closed → v.closing = false → stepRuns v = false → s.svSeqs i = [] → v.waitq = [] → v.pendOut = [] →
        ∃ t : State, exec (.porchClose q) s = .next (t.answer q.lbx (reqTag q) 0x0503 c true 0) ∧
          ClosedNow (u.accept q) t i v))) ∧
  (∀ (s : State) (q : Req),
    let u := s.begun q
    (∀ e v, Accepted s q 0x0504 [(16, 0, 14)] [] → s.seq (reqNat q 16 2) = some e → s.service e.service = some v →
      (v.ctx = reqCtx q → Answers (.porchSeqRead q) s q u 0 0 ((seqRecord e).map fun f => (16 + f.1, f.2.1, f.2.2))) ∧
      (v.ctx ≠ reqCtx q → Answers (.porchSeqRead q) s q u 0x13)) ∧
    (Accepted s q 0x0504 [(16, 0, 14)] [] → s.seq (reqNat q 16 2) = none → Answers (.porchSeqRead q) s q u 0x14) ∧
    (∀ v, Accepted s q 0x0505 [(16, 0, 16)] [(16, decide (512 ≤ reqNat q 16 2))] → s.service (reqNat q 16 2) = some v →
      v.ctx = reqCtx q → Answers (.porchStats q) s q u 0 0
        [(16, 1, svcStNum v.st), (17, 1, v.fcode.toNat), (20, 4, s.heldCount (reqNat q 16 2)), (24, 4, v.waitq.length),
         (32, 8, v.admitted.toNat), (40, 8, v.ended.toNat), (48, 4, v.rejected.toNat), (52, 4, v.lastStep.toNat),
         (56, 8, v.builds.toNat), (64, 8, v.tokens.toNat), (72, 8, v.shared.toNat), (80, 4, v.insertFail.toNat),
         (84, 4, v.evicted.toNat), (88, 4, v.handedOut.toNat), (92, 4, v.received.toNat)]))

/-- A build takes the finished step and leaves the next one, one step on, or none; a step never holds more tokens than
STEP_TOKENS, decodes the sequences that were stepped least recently, and prefills in order of admission. What a token of a
sequence does: one outside the vocabulary ends it, a stop token ends it, and so does the stop string that ends earliest, of
the lowest index, in the bytes the token adds; then MAX_NEW and the context's length. A poll of an idle service passes the
next request of the ring to the walker, or changes nothing; while a step is in progress a poll takes a request whose walk has
returned from the ring: its entry joins the wait queue, and CONS moves on. -/
def Obligations.PorchStepsAndStops : Prop :=
  (∀ (s : State) (i : Nat) (v : Service),
    (∀ e q pos ntok k, Tidy s i v → stepRuns v = true → v.doneSeen = true → s.firstDone v = true → svPrefix v = false →
      v.step = some [{ seq := e, kind := 1, pos, ntok }] → s.seq e = some q → q.service = i →
      RingHolds s v.ctx (svVa v 0) (svReqLen v) k k →
      let u := ((s.updService i fun v => { v with records := 0 }).updSeq e fun q => { q with pos := pos + ntok }).updService i fun v =>
        { v with step := none, doneSeen := false }
      let es := u.compose i v
      (es = [] → exec (.porchBuild i) s = .next u) ∧
      ∀ t, es ≠ [] → composeStep i u = .ok ⟨⟩ t → exec (.porchBuild i) s = .next t ∧ ∃ v', t.service i = some v' ∧ v'.st = .opened ∧
        v'.step = some es ∧ v'.n = v.n + 1 ∧ v'.lastStep = v.n ∧ v'.builds = v.builds + 1 ∧ v'.doneSeen = false ∧
        (∀ x ∈ es, ∃ y, t.seq x.seq = some y ∧ y.lastStep = v.n)) ∧
    (s.service i = some v → NoRelease s →
      v.doneSeen = false ∨ s.firstDone v = false ∨ s.svcRuns v = false → exec (.porchBuild i) s = .next s) ∧
    let es := s.compose i v
    svPrefillMin v ≤ svStepTokens v →
    (es.map fun e => e.ntok).sum ≤ svStepTokens v ∧
      (∀ e ∈ es, ∃ q, (e.seq, q) ∈ s.svSeqs i ∧ q.pause = 0 ∧ q.chlPending = false ∧ q.joined = false ∧ e.pos = q.pos ∧
        (e.kind = 0 → q.st = 2 ∧ e.ntok = 1) ∧ (e.kind = 1 → q.st = 1 ∧ (e.ntok % 32 = 0 ∨ e.ntok = svChunkTokens v)) ∧
        (e.kind = 2 → q.st = 1 ∧ e.pos + e.ntok = max q.promptLen q.pos) ∧ (e.kind ≠ 0 → e.ntok ≤ svChunkTokens v)) ∧
      ((∃ e ∈ s.svSeqs i, e.2.st = 1) → (es.filter fun e => e.kind == 0).length ≤ svStepTokens v - svPrefillMin v) ∧
      ∀ a ∈ s.ready i 2, ∀ b ∈ s.ready i 2, a.2.lastStep < b.2.lastStep → (∃ e ∈ es, e.kind = 0 ∧ e.seq = b.1 ∧
        ∀ c ∈ s.ready i 2, c.1 = b.1 → c = b) → ∃ e ∈ es, e.kind = 0 ∧ e.seq = a.1) ∧
  (∀ (v : Service) (q : Seq) (t new : Nat) (bytes : List Byte),
    let d := q.desc.toNat
    let buf := q.tail ++ bytes
    let strs := stopStrings d q.stops
    let j := judge v q t new bytes
    (svVocab v ≤ t → j.deliver = false ∧ j.code = 7 ∧ j.tail = q.tail) ∧
    (t < svVocab v → j.deliver = true ∧ (j.stopToken = true ↔ q.hostStop = false ∧ (t ∈ svStops v ∨ t ∈ rqStops d)) ∧
      (j.stopToken = true ↔ j.code = 1)) ∧
    (t < svVocab v → q.hostStop = false → j.stopToken = false →
      (j.code = 2 ↔ ∃ str ∈ strs, ∃ k, EndsAt buf str bytes.length k) ∧
      (j.code = 2 → j.after ≤ buf.length ∧ (∃ str, strs[j.str]? = some str ∧ EndsAt buf str bytes.length (buf.length - j.after)) ∧
        ∀ n str k, strs[n]? = some str → EndsAt buf str bytes.length k →
          buf.length - j.after < k ∨ (k = buf.length - j.after ∧ j.str ≤ n)) ∧
      (j.code ≠ 2 → (j.code = 3 ↔ new = q.maxNew) ∧ (j.code = 4 ↔ new ≠ q.maxNew ∧ q.promptLen + new = svMaxCtx v)) ∧
      j.tail.length ≤ 30 ∧ j.tail = buf.drop (buf.length - 30))) ∧
  (∀ (s : State) (i : Nat) (v : Service) (k d : Nat),
    (Tidy s i v → v.step = none → s.svSeqs i = [] →
      (RingHolds s v.ctx (svVa v 0) (svReqLen v) k k → exec (.porchPoll i) s = .next (s.updService i fun v => { v with records := 0 })) ∧
      (RingHolds s v.ctx (svVa v 0) (svReqLen v) (k + 1) k → d < 2 ^ 512 → 0 < svWaitLen v → s.walksInFlight < 64 →
        PorchSees s v.ctx (ringEntry (svVa v 0) (svReqLen v) 64 k) (natLe 64 d) →
        requestBad v d = false → rqLen d < svMaxCtx v → rqChunks v d ≤ svKvChunks v →
        exec (.porchPoll i) s = .next (s.updService i fun v =>
          { v with records := 0, reading := [{ desc := BitVec.ofNat 512 d, walkGen := v.g }] }))) ∧
    ∀ w : WaitReq, s.service i = some v → s.svcRuns v = true → v.st = .opened → v.step ≠ none → NoRelease s → v.closing = false →
      v.reading = [w] → w.walked = true → w.gone = false → w.bad = 0 → v.waitq.length < svWaitLen v → v.pendOut = [] →
      RingHolds s v.ctx (svVa v 0) (svReqLen v) (k + 1) k →
      (∃ p c, RingHolds s v.ctx (svVa v 2) (svOutLen v) p c ∧ ringUsed (p, c) + 2 ≤ svOutLen v) →
      let hd := svVa v 0
      let at_ := waitVa v v.waitNo
      let w1 := s.dvaWrite v.ctx at_ (natLe 64 w.desc.toNat ++ natLe 64 (w.node.getD 0xFFFFFF).toNat)
      let w2 := w1.1.dvaWrite v.ctx (dvaAdd hd 4) (natLe 4 (k + 1))
      s.inRegisters at_ = false → s.inRegisters (dvaAdd hd 4) = false → w1.2 = 0 → w2.2 = 0 →
      RingHolds w2.1 v.ctx hd (svReqLen v) (k + 1) (k + 1) →
      (∃ p c, RingHolds w2.1 v.ctx (svVa v 2) (svOutLen v) p c) →
      exec (.porchPoll i) s = .next (w2.1.updService i fun v =>
        { v with records := 0, reading := [], waitq := v.waitq ++ [{ w with place := v.waitNo }], waitNo := v.waitNo + 1 }))

/-- The walker, the chunk-list fills and compaction finish, and a handoff goes on: its copy is followed by DONE, and what waits
too long is offered to the next peer or ends at the next build. -/
def Obligations.PorchEvents : Prop :=
  ∀ (s : State), s.live = true →
    (∀ i k v w bs, s.service i = some v → v.reading[k]? = some w → w.walked = false → (∀ x ∈ v.reading.take k, x.walked = true) →
      rqStrings w.desc.toNat = 0 → PorchSees s v.ctx (BitVec.ofNat 64 (rqPrompt w.desc.toNat)) bs → bs.length = 4 * rqLen w.desc.toNat →
      let bad := ∃ n, n < rqLen w.desc.toNat ∧ svVocab v ≤ leNat ((bs.drop (4 * n)).take 4)
      (bad → exec (.prefixWalk i k) s = .next (s.updService i fun v =>
        { v with reading := v.reading.set k { w with walked := true, bad := 4 } })) ∧
      (¬bad → rqNoPrefix w.desc.toNat = true ∨ svPrefix v = false → exec (.prefixWalk i k) s = .next (s.updService i fun v =>
        { v with reading := v.reading.set k { w with walked := true, stops := [] } })) ∧
      ∀ n, ¬bad → rqNoPrefix w.desc.toNat = false → svPrefix v = true →
        walkGo v bs ((rqLen w.desc.toNat - 1) / 32) 0 noNode s = .ok n s →
        let w' := { w with walked := true, stops := [], node := if n = noNode then none else some (BitVec.ofNat 24 n) }
        exec (.prefixWalk i k) s = .next (s.updService i fun v => { v with reading := v.reading.set k w' })) ∧
    (∀ n q v cs, s.seq n = some q → q.chlPending = true → s.service q.service = some v →
      pathGo v q.indexed q.deep.toNat [] s = .ok cs s → s.inRegisters (listVa v q.slot) = false →
      let w := s.dvaWrite v.ctx (listVa v q.slot) (cs.flatMap (natLe 4))
      w.2 = 0 → exec (.chunkListFillDone n) s = .next (w.1.updSeq n fun q =>
        { q with chlPending := false, chunks := cs, held := cs.length })) ∧
    (∀ i v t, s.service i = some v → svPrefix v = true → v.inUse < 16 * v.dead → v.st ≠ .closed → v.st ≠ .fault → s.walkBusy = false →
      ((List.range (svBuckets v)).forM (compactBucket v) : Pm PUnit) s = .ok ⟨⟩ t →
      exec (.prefixCompaction i) s = .next (t.updService i fun v =>
        { v with g := v.g + 1, inUse := v.inUse - v.dead, dead := 0 })) ∧
    (∀ i v, s.service i = some v → 16 * v.dead ≤ v.inUse ∨ s.walkBusy = true → exec (.prefixCompaction i) s = .next s) ∧
    (∀ e q v sid y, s.seq e = some q → s.service q.service = some v → q.st = 4 → q.hoPhase = 2 → q.pendEnd = false → q.endDue = 0 →
      q.hoCopy = some sid → s.stream sid = some y → s.porchOut = [] →
      (y.st = .done → ∃ t, exec (.handoffCopyDone e sid) s = .next t ∧ t.seq e = some { q with hoPhase := 3, hoCopy := none } ∧
        t.stream sid = none ∧ ∃ m ∈ t.porchOut, m.svc = q.service ∧ m.peer = q.hoPeer ∧ m.record = sourceRec 4 e q) ∧
      (y.st = .fault → y.fault ≠ 0x0C → ∃ t, exec (.handoffCopyDone e sid) s = .next t ∧
        t.seq e = some { q with endDue := 0x0A, hoCopy := none } ∧ t.stream sid = none ∧
        ∃ m ∈ t.porchOut, m.svc = q.service ∧ m.peer = q.hoPeer ∧ m.record = sourceRec 5 e q) ∧
      (y.st = .run → exec (.handoffCopyDone e sid) s = .next s)) ∧
    (∀ e q v, s.seq e = some q → s.service q.service = some v → q.pendEnd = false → q.endDue = 0 → q.st = 4 → q.hoPhase = 1 →
      (svPeers v ≤ q.hoAsked → exec (.handoffTimeout e) s = .next (s.updSeq e fun q => { q with hoPhase := 4, hoAsked := 0 })) ∧
      ∀ bs, 0 < q.hoAsked → q.hoAsked < svPeers v →
        let p := (q.hoPeer + 1) % svPeers v
        PorchSees s v.ctx (dvaAdd (svVa v 11) (8 * p)) bs → bs.length = 8 →
        exec (.handoffTimeout e) s = .next ((s.updSeq e fun q =>
          { q with hoPhase := 1, hoPeer := p, hoAsked := q.hoAsked + 1, peer := peerNode (leNat bs) }).sendMsg q.service p
            (handoffRec 1 0 e q.gen.toNat 0 q.tag.toNat q.pos q.new q.lastToken.toNat q.held
              (atNode (dvaAdd (svVa v 9) (512 * q.slot)) s.idNode).toNat))) ∧
    (∀ e q, s.seq e = some q → q.pendEnd = false → q.endDue = 0 → (q.st = 4 ∧ q.hoPhase = 3) ∨ q.st = 5 →
      exec (.handoffTimeout e) s = .next (s.updSeq e fun q => { q with endDue := 9 }))

/-- A flit that does not decode, fails its CRC, or is out of sequence begins one NAK episode and is not taken; one in sequence is
taken with its header, and each packet it completes for this device waits to be served; a bad packet is discarded. -/
def Obligations.FlitsReceived : Prop :=
  ∀ (s : State) (p : BitVec 5) (f : RxFlit), Receives s p →
    let n := p.toNat
    let x := s.port n
    let bad := f.decodes = false ∨ f.crcOk = false ∨ (f.idle = false ∧ f.fseq ≠ x.rxNext)
    let counted : Port → Port := fun x => { x with
      fecCorr := x.fecCorr + BitVec.ofNat 64 f.corrected, fecUncorr := if f.decodes then x.fecUncorr else x.fecUncorr + 1 }
    (bad → x.nakOpen = true → exec (.flitReceive p f) s = .next (s.updPort n counted)) ∧
    (bad → x.nakOpen = false → ∃ t, exec (.flitReceive p f) s = .next t ∧ ErrorNoted s t 0x28 n ∧
      t.port n = { counted x with nakOpen := true, replays := x.replays + 1 } ∧ (∀ k, k ≠ n → t.port k = s.port k) ∧
      Noted { s with ports := t.ports } t) ∧
    (¬bad → f.nak = false → f.idle = true →
      exec (.flitReceive p f) s = .next (s.updPort n fun x => flitHeader (counted x) f)) ∧
    (¬bad → f.nak = true → f.idle = true → (flitHeader (counted x) f).naks < 16 →
      exec (.flitReceive p f) s = .next (s.updPort n fun x => flitHeader (counted x) f)) ∧
    (¬bad → f.nak = true → 16 ≤ (flitHeader (counted x) f).naks →
      ∃ t, exec (.flitReceive p f) s = .next t ∧ (t.port n).st = .down ∧ (t.port n).reason = 2) ∧
    (¬bad → f.nak = false → f.idle = false →
      let y := flitHeader (counted x) f
      let r := streamIn y f
      (r.1 = [] → exec (.flitReceive p f) s = .next (s.updPort n fun _ => { y with
        rxNext := f.fseq + 1, nakOpen := false, rxPart := r.2.1, rxStart := r.2.2 })) ∧
      (∃ bs, y.rxPart ++ f.payload.take 250 = bs ++ r.2.1 ∧ bs.length = (r.1.map fun e => 32 + e.1.data.length).sum) ∧
      (r.2.1.length < 32 ∨ r.2.1.length < wireLen r.2.1) ∧
      ∀ pk pos, r.1 = [(pk, pos)] → isReserved n = false →
        (packetBad pk = true ∨ pk.hops = 64 → ∃ t, exec (.flitReceive p f) s = .next t ∧ ErrorNoted s t 0x2D n ∧
          (t.port n).discards = x.discards + 1 ∧ t.arrived = s.arrived ∧ (t.port n).rxNext = f.fseq + 1) ∧
        (packetBad pk = false → pk.hops ≠ 64 → pk.dt = false → pk.replay = false → pk.dst = s.idNode → pk.kind ≠ 0xA →
          ∃ t, exec (.flitReceive p f) s = .next t ∧
            t.arrived = s.arrived ++ [(p, { pk with rfseq := 0, rpos := 0, rport := 0 })] ∧
            (t.port n).rxNext = f.fseq + 1 ∧ (t.port n).nakOpen = false ∧ (t.port n).rxPart = r.2.1 ∧ (t.port n).rxPos = some pos ∧
            mapGet 0 (t.port n).rxUsed (queueOf pk) = mapGet 0 y.rxUsed (queueOf pk) + packetUnits pk ∧
            t = { s with ports := t.ports, arrived := t.arrived }))

/-- Training ends as the lanes, the neighbour and the round trip say, a lane that is retired leaves the port at the width the
lanes that remain give, and a port that leaves service drops its link and tells the host. A slot returns to its port, and with
it the packets that waited for it, in order; LINK packets are answered; and an unusable neighbour is declared unreachable,
which leaves none of its buffers and tells each Steward. -/
def Obligations.PortsAndSlots : Prop :=
  (∀ (s : State) (p : BitVec 5),
    let n := p.toNat
    let x := s.port n
    (∀ tr, x.st = .training → s.trainReason n tr = 0 → x.resRole ≠ 2 →
      let m := laneMap (tr.good &&& ~~~x.lanesBad)
      ∃ t, exec (.portTrainingDone p tr) s = .next t ∧ (t.port n).st = (if m.1 = 8 then .up else .degraded) ∧
        (t.port n).width = BitVec.ofNat 4 m.1 ∧ (t.port n).spare = m.2 ∧ (t.port n).nbrNode = tr.nbrNode ∧
        (t.port n).nbrPort = tr.nbrPort ∧ (t.port n).rttNs = tr.rttNs ∧ EventSent s t 0 0x8008 ∧
        LinkNoted { s with unreachable := t.unreachable } t) ∧
    (∀ tr, x.st = .training → s.trainReason n tr ≠ 0 → x.resRole ≠ 2 →
      ∃ t, exec (.portTrainingDone p tr) s = .next t ∧ (t.port n).st = .down ∧
        (t.port n).reason = BitVec.ofNat 8 (s.trainReason n tr) ∧ (t.port n).width = 0 ∧
        (t.port n).downCnt = x.downCnt + 1 ∧ ErrorNoted s t 0x2A n ∧ EventSent s t 0 0x8008) ∧
    (∀ reason, portLive x = true → reason ≠ 0 → reason.toNat < 8 → x.resRole ≠ 2 →
      ∃ t, exec (.portDown p reason) s = .next t ∧ (t.port n).st = .down ∧ (t.port n).reason = reason ∧ (t.port n).width = 0 ∧
        (t.port n).downCnt = x.downCnt + 1 ∧ (t.port n).rxPart = [] ∧ (t.port n).hostDown = false ∧
        ErrorNoted s t 0x2A n ∧ EventSent s t 0 0x8008 ∧ LinkNoted s t) ∧
    (∀ lane, portLive x = true → lane.toNat ≤ 8 → bitOf x.lanesBad.toNat lane.toNat = false →
      let m := laneMap (~~~(x.lanesBad ||| BitVec.ofNat 9 (2 ^ lane.toNat)))
      ∃ t, exec (.laneRetire p lane) s = .next t ∧ ErrorNoted s t 0x29 n ∧
        (t.port n).lanesBad = x.lanesBad ||| BitVec.ofNat 9 (2 ^ lane.toNat) ∧ (t.port n).laneRet = x.laneRet + 1 ∧
        (m.1 ≠ 0 → (t.port n).st = (if m.1 = 8 then .up else .degraded) ∧ (t.port n).width = BitVec.ofNat 4 m.1 ∧
          (t.port n).spare = m.2 ∧ LinkNoted s t) ∧
        (m.1 = 0 → (t.port n).st = .down ∧ (t.port n).reason = 4)) ∧
    (mayRetrain x = true → x.reason ≠ 8 → s.devSt ≠ .fatal →
      ∃ t, exec (.portRetrainRetry p) s = .next t ∧ t.port n = { x with st := .training, hostDown := false } ∧
        (∀ k, k ≠ n → t.port k = s.port k) ∧ EventSent s t 0 0x8008 ∧ LinkNoted s t) ∧
    (mayRetrain x = false ∨ x.reason = 8 → exec (.portRetrainRetry p) s = .next s)) ∧
  (∀ (s : State),
    (∀ (dir : BitVec 3) (slot : BitVec 6) (q cur : Nat), mapFind s.slotBack (slotKeyOf dir slot.toNat) = some q →
      s.slotPort dir slot.toNat = some cur → holdsSlot (s.port cur) slot.toNat = false →
      ∃ t, exec (.slotReturn dir slot) s = .next t ∧ t.slotPort dir slot.toNat = some q ∧
        mapFind t.slotBack (slotKeyOf dir slot.toNat) = none ∧
        t.slotWait = s.slotWait.filter (fun e => e.1 != slotKeyOf dir slot.toNat) ∧
        (∀ k, k ≠ q → t.port k = s.port k) ∧
        ((s.port q).st = .down → (t.port q).txq =
          (s.port q).txq ++ (s.slotWait.filter fun e => e.1 == slotKeyOf dir slot.toNat).map (·.2)) ∧
        t = { s with ports := t.ports, slotTab := t.slotTab, slotBack := t.slotBack, slotWait := t.slotWait }) ∧
    (∀ p pk u, OldestOf s u p 0xB 1 pk →
      ∃ t, exec (.probePkt p) s = .next t ∧ t = u.send (linkPacket u pk.src 3 (bitsOf pk.arg.toNat 8 5)) ∧ Sent u t) ∧
    (∀ p pk u, OldestOf s u p 0xB 2 pk → portLive (u.port (bitsOf pk.arg.toNat 8 5)) = false →
      let rp := bitsOf pk.arg.toNat 8 5
      let v := u.updPort rp fun x => { x with linkRec := none, replayEndSeen := true }
      exec (.replayEnd p) s = .next (v.send (linkPacket v pk.src 3 (u.port rp).nbrPort.toNat))) ∧
    (∀ p pk u, OldestOf s u p 0xB 2 pk → portLive (u.port (bitsOf pk.arg.toNat 8 5)) = true →
      ∃ t, exec (.replayEnd p) s = .next t ∧ (t.port (bitsOf pk.arg.toNat 8 5)).st = .down ∧
        (t.port (bitsOf pk.arg.toNat 8 5)).reason = 7 ∧ (t.port (bitsOf pk.arg.toNat 8 5)).replayEndSeen = true) ∧
    (∀ p pk u, OldestOf s u p 0xB 3 pk →
      let rp := bitsOf pk.arg.toNat 8 5
      ∃ t, exec (.replayEndAck p) s = .next t ∧ t = { u with jobs := t.jobs, ports := t.ports } ∧
        (∀ j ∈ t.jobs, pk.src ∉ j.probing) ∧
        ((u.port rp).nbrNode = pk.src → (t.port rp).replayWait = false) ∧
        ((u.port rp).nbrNode ≠ pk.src → t.ports = u.ports)) ∧
    (∀ dir : BitVec 3, s.live = true → s.dirUnusable dir = true → dir.toNat ∉ s.unreachable →
      (∃ p ∈ s.dirPorts dir, (s.port p).replayWait = true) → (∀ j ∈ s.jobs, j.isManager = false) →
      ∃ t, exec (.neighbourUnreachable dir) s = .next t ∧ t.unreachable = s.unreachable ++ [dir.toNat] ∧
        (∀ p ∈ s.dirPorts dir, (t.port p).replayWait = false ∧ (t.port p).replayEndSeen = true) ∧
        ErrorNoted s t 0x2B (0x100 + dir.toNat) ∧ t.jobs = s.jobs ∧ (s.jobs.length = 1 → EventSent s t 0 0x8009)))

/-- A remote request is served in the context of its job tag, at the DVA it names and under REM_RD or REM_WR, and answered with
the code of R188 and, for a read, the bytes; without a context it is answered UNKNOWN_JOB. A response is matched by SIOD, RTAG
and E2E_SEQ and completes what asked for it, once; any other is discarded. -/
def Obligations.RemoteAccess : Prop :=
  (∀ (s u : State) (p : BitVec 5) (pk : Packet) (write : Bool) (c : Instr),
    (c = .rdReq p ∧ write = false ∧ Oldest s u p 1 pk) ∨ (c = .wrReq p ∧ write = true ∧ Oldest s u p 2 pk) →
    s.live = true →
    let d := requestDva pk
    let r (code : Nat) := u.respond p.toNat (responseTo u pk code)
    (u.jobCtx pk.job = none → exec c s = .next (r 0x0B)) ∧
    (u.jobCtx pk.job ≠ none → dvaTier d = 0 ∨ 4 ≤ dvaTier d → exec c s = .next (r 0x07)) ∧
    ∀ k, u.jobCtx pk.job = some k → 1 ≤ dvaTier d → dvaTier d ≤ 3 → (∀ a ∈ s.accesses, a.id < s.nextAcc) →
      let b := if p.toNat < 12 then 75 else 76
      let v := { u with nextAcc := s.nextAcc + 1 }
      (∀ a ∈ s.accesses, ∀ n x, a.who = .remote n x → x.src ≠ pk.src) →
      (∀ code, u.bufHit b k (dvaTier d) (dvaOff d) = none → u.sliceHit k (dvaTier d) (dvaOff d) = none →
        sliceBusy (mapGet {} u.slices (sliceOf (dvaOff d))) = false →
        u.walkNow k (dvaTier d) (dvaOff d) = .bad code → exec c s = .next (v.respond p.toNat (responseTo v pk code))) ∧
      ∀ e, u.bufHit b k (dvaTier d) (dvaOff d) = some e →
        let key := entryKey e.entry (e.sub != 32) (dvaOff d)
        let v := { v with tbufs := (u.installBuf b e).tbufs }
        u.keyHeld key = false → (∀ q, annexPort e.entry (e.sub != 32) = some q → mapGet false u.annexUp q = true) →
        ((if write then eRemWr e.entry else eRemRd e.entry) = false →
          exec c s = .next (v.respond p.toNat (responseTo v pk 0x0A))) ∧
        (write = false → eRemRd e.entry = true →
          exec c s = .next (v.respond p.toNat (responseTo v pk 0 (poisonMask (u.badUnits key (pk.len.toNat * 64)))
            (u.read key (pk.len.toNat * 64))))) ∧
        (write = true → eRemWr e.entry = true →
          let w := v.write key pk.data
          exec c s = .next (w.respond p.toNat (responseTo w pk 0)))) ∧
  (∀ (s u : State) (p : BitVec 5) (pk : Packet) (c : Instr) (kind : Nat),
    (c = .rdRsp p ∧ kind = 3) ∨ (c = .wrAck p ∧ kind = 4) ∨ (c = .boltRsp p ∧ kind = 6) ∨ (c = .gwrAck p ∧ kind = 9) →
    (Oldest s u p kind pk → u.remoteOf pk = none → exec c s = .next (u.discardPacket p.toNat)) ∧
    (∀ m a, Oldest s u p kind pk → u.remoteOf pk = some m → m.kind = 0 → u.access m.what = some a → Internal a.who →
      exec c s = .next ((u.dropRemote m).setDone m.what pk.code.toNat (if pk.code = 0 && !a.write then pk.data else [])
        ((List.range 8).filter fun i => bitOf pk.arg.toNat i))) ∧
    (∀ m g, Oldest s u p kind pk → u.remoteOf pk = some m → m.kind = 3 → (u.room (BitVec.ofNat 10 m.what)).ve.wait = .bolt g →
      let r : RoomId := BitVec.ofNat 10 m.what
      (u.room r).runst ≠ .fault →
      (pk.code ≠ 0 ∧ pk.code ≠ 0x0C → ∃ t, exec c s = .next t ∧ Faulted (u.dropRemote m) t r 0x06 0x31) ∧
      (pk.code = 0x0C ∨ (pk.code = 0 ∧ bitsOf pk.arg.toNat 32 8 ≠ 0) →
        ∃ t, exec c s = .next t ∧ Faulted (u.dropRemote m) t r 0x06 0x32)) ∧
    (∀ m ret, Oldest s u p kind pk → u.remoteOf pk = some m → m.kind = 3 → (u.room (BitVec.ofNat 10 m.what)).ve.wait = .bolt ret →
      let r : RoomId := BitVec.ofNat 10 m.what
      (u.room r).runst ≠ .fault → pk.code = 0 → bitsOf pk.arg.toNat 32 8 = 0 →
      ∃ t, exec c s = .next t ∧ (t.room r).ve.wait = .none ∧ t.remotes = (u.dropRemote m).remotes ∧
        (∀ g n, ret = some g → (t.room r).gReg n = if n = g.toNat ∧ n ≠ 0 then bitsOf pk.arg.toNat 0 32 else (u.room r).gReg n) ∧
        (ret = none → ∀ n, (t.room r).gReg n = (u.room r).gReg n) ∧ (∀ n i, (t.room r).lane n i = (u.room r).lane n i) ∧
        (∀ q, q ≠ r → t.room q = s.room q) ∧ t.mem = s.mem) ∧
    (∀ m, Oldest s u p kind pk → u.remoteOf pk = some m → m.kind = 1 → pk.code = 0 ∨ pk.code = 0x0C →
      exec c s = .next (u.dropRemote m)) ∧
    (∀ m g, Oldest s u p kind pk → u.remoteOf pk = some m → m.kind = 2 → (u.gwrites.find? fun g => g.id == m.what) = some g →
      g.ownCode = none →
      exec c s = .next { u.dropRemote m with gwrites := u.gwrites.map fun g => if g.id = m.what then
        { g with kids := g.kids.map fun k => if k.1 = m.node then (k.1, some pk.code) else k } else g }))

/-- A remote access that receives no response within REMOTE_TIMEOUT completes with REMOTE_LOST and is counted, and a response that
comes later answers nothing and is discarded. -/
def Obligations.RemoteTimeouts : Prop :=
  ∀ (s : State) (south : Bool) (rtag : BitVec 12) (m : Remote) (a : Access),
    s.remotes.find? (fun m => m.south == south && m.rtag == rtag) = some m → m.kind = 0 → s.access m.what = some a → Internal a.who →
    (exec (.remoteTimeout south rtag) s = .next (({ s with remoteTimeouts := s.remoteTimeouts + 1 }.dropRemote m).setDone
      m.what 0x0C [] [])) ∧
    ∀ (v u : State) (p : BitVec 5) (pk : Packet), v.remotes = (s.dropRemote m).remotes → pk.siod = south → pk.rtag = rtag →
      pk.seq = m.seq → (∀ x ∈ s.remotes, x.south = south → x.rtag = rtag → x.seq = m.seq → x = m) →
      (Oldest v u p 3 pk → exec (.rdRsp p) v = .next (u.discardPacket p.toNat)) ∧
      (Oldest v u p 4 pk → exec (.wrAck p) v = .next (u.discardPacket p.toNat))

/-- A remote Bolt operation reaches the engine of a Bolt with REMOTE_OK, or is refused and changes nothing; tree messages arrive,
release, or put their Bolt into error; one that names no Bolt is refused. -/
def Obligations.RemoteBoltsAndTrees : Prop :=
  ∀ (s u : State) (p : BitVec 5) (pk : Packet), s.live = true →
    let i := bitsOf pk.arg.toNat 32 32
    let j := bitsOf pk.arg.toNat 0 15
    let refused (ty : Nat) := u.send { dst := pk.src, src := u.idNode, kind := 7, vc := 2, job := pk.job
                                       arg := BitVec.ofNat 64 (j + ty * 2 ^ 16), key := BitVec.ofNat 64 j }
    (Oldest s u p 5 pk →
      (u.jobCtx pk.job = none → exec (.boltReq p) s = .next (u.respond p.toNat (responseTo u pk 0x0B))) ∧
      (u.jobCtx pk.job ≠ none → u.remoteBolt pk.job (bitsOf i 0 15) = none →
        exec (.boltReq p) s = .next (u.respond p.toNat (responseTo u pk 0x0A))) ∧
      ∀ c b, u.remoteBolt pk.job (bitsOf i 0 15) = some (c, b) →
        ((u.bolt b).remoteOk = false ∨ 8 < imm2Op i → exec (.boltReq p) s = .next (u.respond p.toNat (responseTo u pk 0x0A))) ∧
        ((u.bolt b).remoteOk = true → imm2Op i ≤ 8 → exec (.boltReq p) s = .next (u.boltAsk
          { who := .remote p.toNat pk, ctx := c, bolt := b, op := BitVec.ofNat 4 (imm2Op i), cond := BitVec.ofNat 3 (imm2Cond i)
            operand := BitVec.ofNat 32 pk.arg.toNat, ret := bitOf i 24 }))) ∧
    (∀ ty c, (ty, c) ∈ [(1, Instr.treeArrive p), (2, .treeRelease p), (3, .treeAbort p)] → OldestOf s u p 7 ty pk →
      u.remoteBolt pk.job j = none → exec c s = .next (refused 4)) ∧
    (OldestOf s u p 7 4 pk → u.remoteBolt pk.job j = none → exec (.treeRefused p) s = .next u) ∧
    ∀ c b, u.remoteBolt pk.job j = some (c, b) →
      let x := u.bolt b
      (OldestOf s u p 7 1 pk → x.error = false → x.root = false → x.value.toNat + 1 < x.count.toNat →
        (∀ w ∈ x.waiters, waitHolds { x with value := x.value + 1 } w = false) →
        exec (.treeArrive p) s = .next (u.setBolt b { x with value := x.value + 1 })) ∧
      (OldestOf s u p 7 1 pk → x.error = true → exec (.treeArrive p) s = .next u) ∧
      (OldestOf s u p 7 2 pk → x.error = true ∨ x.reported = false → exec (.treeRelease p) s = .next u) ∧
      (OldestOf s u p 7 2 pk → x.error = false → x.reported = true → x.root = false → u.holdsRelease b = true →
        exec (.treeRelease p) s = .next (u.setBolt b { x with held := true })) ∧
      (OldestOf s u p 7 2 pk → x.error = false → x.reported = true → x.root = false → u.holdsRelease b = false →
        x.waiters = [] → x.count.toNat ≤ x.value.toNat → x.value.toNat < 2 * x.count.toNat →
        ∃ t, exec (.treeRelease p) s = .next t ∧ BoltFrame u t b ∧
          t.bolt b = { x with value := x.value - x.count, phase := x.phase + 1, reported := false, held := false }) ∧
      (∀ code ty e, (ty, e) ∈ [(3, Instr.treeAbort p), (4, .treeRefused p)] → OldestOf s u p 7 ty pk → x.error = false →
        code = (if ty = 3 then BitVec.ofNat 8 (bitsOf pk.arg.toNat 24 8) else (3 : Byte)) →
        ∃ t, exec e s = .next t ∧ BoltFrame u t b ∧ t.bolt b = { x with error := true, err := code, waiters := [] })

/-- A group write at a member writes its own copy and goes on to its children, is acknowledged once all is done, is refused
without an entry, and waits for tags. The messages of a Steward set trees, groups and detours, and keep count of heartbeats.
What PLACE says: a worker prepares its copy and answers, arms its gates, makes the copy valid and lets the gates go as it is
asked; its Steward notes each answer, and gives a revision up that a worker cannot carry out. Heartbeats and loss: a worker
counts its manager's silence and a manager each worker's; a suspect is probed, one that does not answer is declared lost, and
a lost device puts the job's contexts on notice and tells the host. -/
def Obligations.JobMessages : Prop :=
  (∀ (s : State),
    (∀ u p pk, Oldest s u p 8 pk → s.live = true →
      let e := u.groupOf pk.job (BitVec.ofNat 8 pk.dst.toNat)
      (e = none → exec (.gwrReq p) s = .next (u.send (responseTo u pk 0x0A))) ∧
      (∀ g, e = some g → u.groupReady (decide (12 ≤ p.toNat)) = false → exec (.gwrReq p) s = .next s) ∧
      (∀ g, e = some g → u.groupReady (decide (12 ≤ p.toNat)) = true → g.isLocal = false → g.children = [] →
        (∀ w ∈ u.gwrites, w.id < u.nextGw) →
        ∃ v, v = { u with nextGw := u.nextGw + 1 } ∧ exec (.gwrReq p) s = .next (v.send (responseTo v pk 0))) ∧
      (∀ g n tag t, e = some g → u.groupReady (decide (12 ≤ p.toNat)) = true → g.isLocal = false → g.children = [n] →
        (∀ w ∈ u.gwrites, w.id < u.nextGw) →
        let w : GroupWrite := { id := u.nextGw, job := g.job, group := g.group, south := decide (12 ≤ p.toNat), parent := some pk
                                access := none, ownCode := some 0, kids := [(n, none)] }
        let x : Packet := { dst := BitVec.ofNat 16 (0x8000 + g.group.toNat), src := u.idNode, kind := 8, vc := 0
                            len := BitVec.ofNat 4 (pk.data.length / 64), job := g.job
                            arg := BitVec.ofNat 64 ((requestDva pk).toNat % 2 ^ 48), key := dvaSlotKey (requestDva pk), data := pk.data }
        { u with gwrites := u.gwrites ++ [w], nextGw := u.nextGw + 1 }.sendRequest n x 2 u.nextGw = some (t, tag) →
        exec (.gwrReq p) s = .next t) ∧
      (∀ g k h, e = some g → u.groupReady (decide (12 ≤ p.toNat)) = true → g.isLocal = true → g.children = [] →
        (∀ w ∈ u.gwrites, w.id < u.nextGw) → (∀ a ∈ s.accesses, a.id < s.nextAcc) → u.jobCtx pk.job = some k →
        let d := requestDva pk
        u.bufHit 75 k (dvaTier d) (dvaOff d) = some h →
        let key := entryKey h.entry (h.sub != 32) (dvaOff d)
        u.keyHeld key = false → (∀ q, annexPort h.entry (h.sub != 32) = some q → mapGet false u.annexUp q = true) →
        eRemWr h.entry = true →
        let v := { u with nextGw := u.nextGw + 1, nextAcc := u.nextAcc + 1, tbufs := (u.installBuf 75 h).tbufs }.write key pk.data
        exec (.gwrReq p) s = .next (v.send (responseTo v pk 0)))) ∧
    (∀ job j index tf c b, OnJob s job j → s.remoteBolt job index.toNat = some (c, b) →
      (s.treeFits j tf = true → ∃ t, exec (.treeSet job index tf) s = .next t ∧ (j.isManager = false → t.ports = s.ports) ∧
        Sent (s.updBolt b fun x => { x with root := tf.root, parent := tf.parent, children := tf.children, count := tf.count }) t) ∧
      (s.treeFits j tf = false → exec (.treeSet job index tf) s = .next s)) ∧
    (∀ (e : Group) j, OnJob s e.job j →
      let rest := s.groups.filter fun g => !(g.job == e.job && g.group == e.group)
      (∃ t, exec (.groupSet e true) s = .next t ∧ Sent { s with groups := rest } t ∧ (j.isManager = false → t.ports = s.ports)) ∧
      (rest.length < 1024 → ∃ t, exec (.groupSet e false) s = .next t ∧ (j.isManager = false → t.ports = s.ports) ∧
        Sent { s with groups := rest ++ [{ e with children := e.children.take 6 }] } t)) ∧
    (∀ job j entries, OnJob s job j → entries.length = 12 →
      exec (.detourSet job entries) s = .next (s.updJob job fun j => { j with detours := entries })) ∧
    (∀ job j, OnJob s job j → j.isManager = false →
      ∃ t, exec (.heartbeatMsg job) s = .next t ∧ Sent (s.updJob job fun j => { j with mgrMissed := 0 }) t) ∧
    (∀ job j node, OnJob s job j → j.isManager = true →
      exec (.hbAckMsg job node) s = .next (s.updJob job fun j => { j with missed := mapSet j.missed node.toNat 0 })) ∧
    (∀ job j midx route loads dropped invalid c m, OnJob s job j → j.isManager = true → s.jobCtx job = some c →
      mapFind (s.ctx c).models midx.toNat = some m →
      ∃ t, exec (.statsMsg job midx route loads dropped invalid) s = .next t ∧ t = { s with ctxs := t.ctxs } ∧
        (∀ k, k ≠ c → t.ctx k = s.ctx k) ∧ (t.ctx c).routeDropped = (s.ctx c).routeDropped + dropped.setWidth 64 ∧
        (t.ctx c).routeInvalid = (s.ctx c).routeInvalid + invalid.setWidth 64 ∧
        ∃ m', mapFind (t.ctx c).models midx.toNat = some m' ∧ ∀ i, i < loads.length →
          (mapGet [] m'.sent route.toNat).getD i 0 = (mapGet [] m.sent route.toNat).getD i 0 + (loads.getD i 0).toNat)) ∧
  (∀ (s : State) (job : W32) (j : Job) (c : CtxId) (midx : Byte) (sender : NodeId) (m : Model), OnJob s job j → s.jobCtx job = some c →
    mapFind (s.ctx c).models midx.toNat = some m →
    let chains := s.chainsOf m
    let atGate := ∃ e ∈ chains, e.2.st = .wait ∧ e.2.waiting = .gate
    (∀ version route copy plan table r act, j.isManager = false → s.revs = [] → s.routeOf c route = some r →
      s.activeCopy c r (s.leastStep m) = some act →
      ((s.ctx c).st ≠ .active → exec (.placeMsg job midx sender route version (.prepare copy plan table)) s =
        .next (s.stew j.tag j.manager 8)) ∧
      ((s.ctx c).st = .active → plan.pages = [] → plan.copies = [] → plan.lists = [] → (∀ n ∈ s.chainSteps m, act.2.2.2.toNat ≤ n) →
        let w := s.writeRuns c [(copy, table)]
        w.2 = 0 → ∃ t, exec (.placeMsg job midx sender route version (.prepare copy plan table)) s = .next t ∧ t.mem = w.1.mem ∧
          t.streams = s.streams ∧ ∃ v, t.revs = [v] ∧ v.ctx = c ∧ v.midx = midx.toNat ∧ v.copy = copy ∧ v.version = version ∧
            v.phase = .ready ∧ v.manager = false)) ∧
    (∀ v at_, j.isManager = false → s.revs = [v] → v.ctx = c → v.midx = midx.toNat → v.manager = false → ¬atGate →
      (v.phase = .ready → v.plan.lists = [] → gatesClear chains = true → (∀ e ∈ chains, e.2.step < at_) →
        ∃ t, exec (.placeMsg job midx sender v.route v.version (.arm at_)) s = .next t ∧ t.mem = s.mem ∧
          t.revs = [{ v with phase := .arming, step := at_, waits := [], again := false }] ∧
          ∀ e ∈ chains, ∃ y, t.stream e.1 = some y ∧ y.gateArm = true ∧ y.gateStep = at_ ∧ y.pendValid = false ∧ y.gateGo = e.2.gateGo) ∧
      (v.phase = .ready → gatesClear chains = true → (∃ e ∈ chains, at_ ≤ e.2.step) →
        ∃ t, exec (.placeMsg job midx sender v.route v.version (.arm at_)) s = .next t ∧ t.mem = s.mem ∧ t.revs = [v] ∧
          ∀ e ∈ chains, e.2.step < at_ → ∃ y, t.stream e.1 = some y ∧ y.gateArm = true ∧ y.gateAbort = true) ∧
      (let w := s.writeRuns c (validRuns v.copy v.version v.step)
       v.phase = .arming → w.2 = 0 → ∃ t, exec (.placeMsg job midx sender v.route v.version .valid) s = .next t ∧ t.mem = w.1.mem ∧
         t.streams = s.streams ∧ t.revs = [{ v with phase := .writing, waits := [], again := false }]) ∧
      (v.phase = .writing → (∃ n ∈ s.chainSteps m, n ≤ v.step.toNat) →
        ∃ t, exec (.placeMsg job midx sender v.route v.version .go) s = .next t ∧ t.mem = s.mem ∧ t.revs = [{ v with phase := .going }] ∧
          ∀ e ∈ chains, ∃ y, t.stream e.1 = some y ∧ y.gateGo = true ∧ y.step = e.2.step)) ∧
    (∀ v n other, j.isManager = true → s.revs = [v] → v.ctx = c → v.midx = midx.toNat → v.manager = true → v.phase = .ready →
      (sender ≠ other → v.waits = [sender, other] → exec (.placeMsg job midx sender v.route v.version (.ready n)) s =
        .next { s with revs := [{ v with waits := [other], most := max v.most n.toNat }] }) ∧
      (v.copies = [] → v.plan.pages = [] → ∃ t, exec (.placeMsg job midx sender v.route v.version .failed) s = .next t ∧ Sent { s with revs := [] } t))) ∧
  (∀ (s : State) (job : W32) (j : Job), OnJob s job j → s.revs = [] →
    let gone (t : State) (node : NodeId) := (∃ k, t.job? job = some k ∧ node ∈ k.lost ∧ node ∉ k.probing) ∧
      ErrorNoted s t 0x2C 0 ∧ EventSent s t 0 0x8009 ∧ t.rooms = s.rooms
    (j.isManager = false → exec (.heartbeatTick job) s = .next (s.updJob job fun j => { j with mgrMissed := j.mgrMissed + 1 })) ∧
    (∀ n, j.isManager = true → s.peers j = [n] → mapGet 0 j.missed n.toNat < 4 →
      ∃ t, exec (.heartbeatTick job) s = .next t ∧
        Sent (s.updJob job fun j => { j with missed := mapSet j.missed n.toNat (mapGet 0 j.missed n.toNat + 1) }) t) ∧
    (∀ n, j.isManager = true → s.peers j = [n] → 4 ≤ mapGet 0 j.missed n.toNat → (∀ m ∈ s.remotes, m.node ≠ n) →
      ∃ t, exec (.heartbeatTick job) s = .next t ∧ gone t n) ∧
    (∀ node sender, j.isManager = true → node ∉ j.lost → s.inBlock j node = true → node ≠ s.idNode → node ≠ sender →
      ∃ t, exec (.suspectMsg job node sender) s = .next t ∧ EventSent s t 0 0x8009 ∧
        (∃ k, t.job? job = some k ∧ node ∈ k.probing ∧ k.lost = j.lost)) ∧
    (∀ node, j.isManager = true → node ∈ j.probing → node ∉ j.lost → (∀ m ∈ s.remotes, m.node ≠ node) →
      ∃ t, exec (.probeTimeout job node) s = .next t ∧ gone t node) ∧
    (∀ node, j.isManager = true → node ∉ j.probing → exec (.probeTimeout job node) s = .next s) ∧
    (∀ node, j.isManager = false → node ∉ j.lost → node ≠ j.manager → (∀ m ∈ s.remotes, m.node ≠ node) →
      ∃ t, exec (.lostMsg job node) s = .next t ∧ gone t node) ∧
    (j.isManager = false → j.mgrLost = false → 4 ≤ j.mgrMissed →
      ∃ t, exec (.managerLost job) s = .next t ∧ (∃ k, t.job? job = some k ∧ k.mgrLost = true ∧ k.lost = j.lost) ∧
        ErrorNoted s t 0x2C 0 ∧ EventSent s t 0 0x8009 ∧
        ∀ c : CtxId, (s.ctx c).job = job → (s.ctx c).st ≠ .free → ∀ b ∈ s.ctxBolts c,
          (s.bolt b).remoteOk = true → (t.bolt b).error = true) ∧
    (j.mgrMissed < 4 → exec (.managerLost job) s = .next s))

/-- The fabric is configured once after a reset, with which its ports begin to train; a job's block is added or removed; ports
report, and the host takes one out of service and puts it back. -/
def Obligations.FabricCommands : Prop :=
  ∀ (s : State) (q : Req),
    let u := s.begun q
    let p := reqNat q 16 1
    let f := bitsOf q.entry.toNat 128 512
    let ext (a : Nat) := bitsOf f (8 * (2 + a)) 5 + 1
    (Accepted s q 0x0601 [(16, 0, 16), (18, 0, 5), (19, 0, 5), (20, 0, 5), (21, 0, 3), (21, 4, 3), (22, 0, 3), (22, 4, 3), (23, 0, 4),
        (24, 0, 10), (32, 0, 288)]
      ([(16, bitOf f 15 || (List.range 3).any fun a => decide (ext a ≤ coord (BitVec.ofNat 16 f) a)),
        (21, bitsOf f 40 3 == 6 || bitsOf f 44 3 == 6), (22, bitsOf f 48 3 == 6 || bitsOf f 52 3 == 6),
        (23, bitsOf f 56 2 == 3 || bitsOf f 58 2 == 3), (24, decide (1000 < bitsOf f 64 10))] ++
        (List.range 12).map fun i => (32 + 3 * i, detourBad (bitsOf f (8 * (16 + 3 * i)) 24))) →
      (s.fabric ≠ none → Answers (.fabConfig q) s q u 0x14) ∧
      (s.fabric = none → ∃ m, Answers (.fabConfig q) s q m 0 ∧ m.fabric = some (BitVec.ofNat 512 f) ∧ m.idNode = BitVec.ofNat 16 f ∧
        m.remoteTimeoutMs = (if bitsOf f 64 10 = 0 then 50 else bitsOf f 64 10) ∧
        ∀ n, n < 24 → isReserved n = false → (m.port n).dir = configDir f n ∧ (m.port n).role = (s.port n).role ∧
          (m.port n).st = (if (configDir f n).toNat < 6 ∧ 1 < ext ((configDir f n).toNat / 2) then .training else (s.port n).st))) ∧
    (let tag : W32 := BitVec.ofNat 32 (reqNat q 16 4)
     let org := (List.range 3).map fun a => reqNat q (20 + a) 1
     let size := (List.range 3).map fun a => reqNat q (23 + a) 1 + 1
     let remove := reqBit q 26 1
     Accepted s q 0x0602 ([(16, 0, 32), (26, 0, 2), (28, 0, 16)] ++ (List.range 6).map fun i => (20 + i, 0, 5))
      ((List.range 3).flatMap fun a =>
        [(20 + a, !remove && decide (s.extent a ≤ org.getD a 0)), (23 + a, !remove && decide (s.extent a < size.getD a 1))]) →
      (remove = true → s.job? tag ≠ none → s.jobCtx tag = none →
        Answers (.fabRole q) s q { u with jobs := s.jobs.filter fun j => j.tag != tag } 0) ∧
      (remove = true → s.job? tag = none ∨ s.jobCtx tag ≠ none → Answers (.fabRole q) s q u 0x14) ∧
      (remove = false → s.fabric = none ∨ s.job? tag ≠ none → Answers (.fabRole q) s q u 0x14) ∧
      (remove = false → s.fabric ≠ none → s.job? tag = none →
        let j : Job := { tag, origin := org, size, manager := BitVec.ofNat 16 (reqNat q 28 2), isManager := reqBit q 26 0
                         detours := (List.range 12).map fun i => BitVec.ofNat 24 (s.detourEntry tag i) }
        (s.inBlock j s.idNode = false → Answers (.fabRole q) s q u 0x12 20) ∧
        (s.inBlock j s.idNode = true → s.jobs.length < 64 → j.isManager = false →
          Answers (.fabRole q) s q { u with jobs := s.jobs ++ [j] } 0))) ∧
    (Accepted s q 0x0603 [(16, 0, 8)] [(16, decide (24 ≤ p))] →
      Answers (.portStatus q) s q u 0 0 [(16, 64, leNat (portRecord p (s.port p)))]) ∧
    (Accepted s q 0x0604 [(16, 0, 8), (17, 0, 1)] [(16, decide (24 ≤ p))] → isReserved p = false → (s.port p).st ≠ .disabled →
      (reqBit q 17 0 = true → (s.port p).st = .down →
        Answers (.portCtlDisable q) s q (u.updPort p fun x => { x with reason := 8, hostDown := true }) 0) ∧
      (reqBit q 17 0 = true → (s.port p).st ≠ .down → ∃ m, Answers (.portCtlDisable q) s q m 0 ∧ (m.port p).st = .down ∧
        (m.port p).reason = 8 ∧ (m.port p).hostDown = true) ∧
      (reqBit q 17 0 = false → (s.port p).st ≠ .down → Answers (.portCtlEnable q) s q u 0) ∧
      (reqBit q 17 0 = false → (s.port p).st = .down → mayRetrain (s.port p) = false → Answers (.portCtlEnable q) s q u 0x14 4) ∧
      (reqBit q 17 0 = false → mayRetrain (s.port p) = true → ∃ m, Answers (.portCtlEnable q) s q m 0 ∧
        m.port p = { s.port p with st := .training, hostDown := false } ∧ ∀ k, k ≠ p → m.port k = s.port k))

/-- A register read answers the value, of a 64-bit register's low word the low half, with the high half latched for the same
requester; a high word reads what was latched; an access that is refused reads zero and is captured. What reads find:
identity, key lock, device state, interrupts, sideband levels, Recorder status and a Letterbox's page; the write-only
registers read as zero. -/
def Obligations.RegisterReadsAndValues : Prop :=
  (∀ (s : State) (who : Who) (off : BitVec 24) (size : Nat),
    let o := off.toNat
    let read := Instr.regLowWordRead who off size
    (s.reaches who = false → exec read s = .next s) ∧
    (∀ c, s.reaches who = true → accessBad who o size = some c →
      exec read s = .next { s.violation who o false c with readData := 0 }) ∧
    (s.reaches who = true → accessBad who o size = none →
      (∀ c, size = 4 → s.wordAt who o = .inl c → exec read s = .next { s.violation who o false c with readData := 0 }) ∧
      ∀ r, s.wordAt who o = .inr r →
        let p := s.regValue r.reg
        (size = 4 → r.high = false → r.wide = false → exec read s = .next { p.1 with readData := p.2 }) ∧
        (size = 4 → r.high = false → r.wide = true → exec read s = .next { p.1 with
          rdShadow := mapSet p.1.rdShadow (shadowKey who o) (p.2.extractLsb' 32 32), readData := (p.2.setWidth 32).setWidth 64 }) ∧
        (size = 4 → r.high = true →
          exec read s = .next { s with readData := (mapGet 0 s.rdShadow (shadowKey who (o - 4))).setWidth 64 }) ∧
        (size = 8 → r.wide = true → exec read s = .next { p.1 with readData := p.2 }))) ∧
  (∀ (s : State) (who : Who), Reaches s who →
    let finds (off : BitVec 24) (v : Nat) : Prop := exec (.regLowWordRead who off 4) s = .next { s with readData := BitVec.ofNat 64 v }
    let l := pageOf who
    let b := s.lbx l
    let at_ (off : Nat) : BitVec 24 := BitVec.ofNat 24 (lbxOff who off)
    (OfDevice who →
      finds 0x0000 0x494D4658 ∧ finds 0x0004 s.ident.part.toNat ∧ finds 0x0020 s.ident.active.toNat ∧ finds 0x0024 s.ident.mem.toNat ∧
      finds 0x0028 s.ident.cellar.toNat ∧ finds 0x002C s.ident.fwver.toNat ∧ finds 0x0030 s.idNode.toNat ∧
      finds 0x1000 0 ∧ finds 0x1004 0 ∧
      finds 0x1008 (boolNat s.lock.set + 2 * boolNat s.lock.armed + 4 * boolNat s.lock.lockout + 256 * s.lock.fails) ∧
      finds 0x2000 (devStNum s.devSt + 16 * s.startRec.fails + 256 * s.devReason.toNat + 2 ^ 16 * boolNat s.devWarm) ∧
      finds 0x2004 0 ∧ finds 0x2008 s.devIstat.toNat ∧
      finds 0x200C (boolNat s.brake.level + 2 * boolNat s.latch.level + 4 * boolNat s.thermTrip) ∧
      finds 0x2020 s.fwLen.toNat ∧ finds 0x2024 0 ∧ finds 0x3000 (boolNat s.evr.pushHost) ∧
      finds 0x3004 (boolNat s.evr.frozen + 2 * boolNat s.evr.hostDone + 4 * boolNat s.evr.bmcDone + 8 * boolNat s.evr.hostFail) ∧
      exec (.regLowWordRead who 0x0010 8) s = .next { s with readData := s.ident.serial } ∧
      exec (.regLowWordRead who 0x0018 8) s = .next { s with readData := s.ident.wingret } ∧
      exec (.regLowWordRead who 0x2010 8) s = .next { s with readData := s.hc } ∧
      exec (.regLowWordRead who 0x3008 8) s = .next { s with readData := s.evr.next }) ∧
    finds (at_ 0x00) (if l = 0 then 64 else l - 1) ∧
    finds (at_ 0x04) (boolNat b.enable + 4 * boolNat b.rspIrq + 8 * boolNat b.evtIrq) ∧
    finds (at_ 0x08) (boolNat b.ready + 2 * boolNat b.resetting + 4 * boolNat b.fault + 256 * b.fcode.toNat) ∧
    finds (at_ 0x20) b.size.toNat ∧ finds (at_ 0x24) b.reqProd.toNat ∧ finds (at_ 0x28) b.reqCons.toNat ∧
    finds (at_ 0x2C) b.rspProd.toNat ∧ finds (at_ 0x30) b.rspCons.toNat)

/-- A register write is checked: its requester, size and alignment, the register's being there, read-only, key-locked or not
written in this state; each refusal is captured with its code and writes nothing, but a refused write of a key-locked register
still takes the arming. Halves of a 64-bit register are held and applied together. -/
def Obligations.RegisterWrites : Prop :=
  ∀ (s : State) (who : Who) (off : BitVec 24) (size : Nat) (v : W64) (tr : Training),
    let o := off.toNat
    let write := Instr.registerWrite who off size v tr
    let low : W64 := (v.setWidth 32).setWidth 64
    (s.reaches who = false → exec write s = .next s) ∧
    (∀ c, s.reaches who = true → accessBad who o size = some c →
      exec write s = .next ((s.consume who (o / 4 * 4)).violation who o true c)) ∧
    (∀ x, s.consume who x = match regAt who x with
      | some r => if regKl r.reg = true ∧ who = .pf then s.disarmed who else s
      | none => s) ∧
    (s.reaches who = true → accessBad who o size = none → size = 4 →
      (∀ c, s.wordAt who o = .inl c → exec write s = .next ((s.consume who o).violation who o true c)) ∧
      ∀ r, s.wordAt who o = .inr r →
        let kl := regKl r.reg = true ∧ who = .pf
        (r.wide = false →
          (regRo r.reg = true → exec write s = .next (s.violation who o true 3)) ∧
          (regRo r.reg = false → kl → s.lock.armed = false → exec write s = .next (s.violation who o true 4)) ∧
          (regRo r.reg = false → kl → s.lock.armed = true → s.writeState r.reg low = true →
            exec write s = .next ((s.disarmed who).violation who o true 6)) ∧
          (regRo r.reg = false → ¬kl → s.writeState r.reg low = true → exec write s = .next (s.violation who o true 6))) ∧
        (r.wide = true → regRo r.reg = true → exec write s = .next (s.violation who o true 3)) ∧
        (r.wide = true → regRo r.reg = false → s.writeState r.reg 0 = true → exec write s = .next (s.violation who o true 6)) ∧
        (r.wide = true → regRo r.reg = false → s.writeState r.reg 0 = false → r.high = false →
          exec write s = .next { s with wrShadow := mapSet s.wrShadow (shadowKey who o) (v.setWidth 32) } ∧
          exec (.regLowWordWrite who off (v.setWidth 32)) s =
            .next { s with wrShadow := mapSet s.wrShadow (shadowKey who o) (v.setWidth 32) })) ∧
    (OfDevice who → Reaches s who → s.devSt = .awaitFw →
      let k := shadowKey who 0x2018
      (∀ low : W32, (mapFind s.wrShadow k = some low ∨ (mapFind s.wrShadow k = none ∧ Agree s.fwAddr ∧ low = s.fwAddr.a.setWidth 32)) →
        exec (.registerWrite who 0x201C 4 v tr) s =
          .next { s with wrShadow := mapDel s.wrShadow k, fwAddr := pageTv ((v.setWidth 32 : W32) ++ low) }) ∧
      exec (.registerWrite who 0x2018 8 v tr) s = .next { s with wrShadow := mapDel s.wrShadow k, fwAddr := pageTv v } ∧
      exec (.registerWrite who 0x2020 4 v tr) s = .next { s with fwLen := v.setWidth 27 }) ∧
    (OfDevice who → Reaches s who →
      exec (.registerWrite who 0x2008 4 v tr) s = .next { s with devIstat := s.devIstat &&& ~~~(v.setWidth 5) } ∧
      (s.evr.frozen = false ∨ s.evr.hostDone = true → exec (.registerWrite who 0x3010 8 v tr) s =
        .next { s with wrShadow := mapDel s.wrShadow (shadowKey who 0x3010), evr := { s.evr with hostbuf := pageTv v } })) ∧
    (Reaches s who → (s.lbx (pageOf who)).enable = false →
      let l := pageOf who
      let at_ (x : Nat) : BitVec 24 := BitVec.ofNat 24 (lbxOff who x)
      let apart (x : Nat) (t : State) : State := { t with wrShadow := mapDel s.wrShadow (shadowKey who (lbxOff who x)) }
      exec (.registerWrite who (at_ 0x10) 8 v tr) s = .next (apart 0x10 (s.updLbx l fun b => { b with reqBase := pageTv v })) ∧
      exec (.registerWrite who (at_ 0x18) 8 v tr) s = .next (apart 0x18 (s.updLbx l fun b => { b with rspBase := pageTv v })) ∧
      exec (.registerWrite who (at_ 0x20) 4 v tr) s =
        .next (s.updLbx l fun b => { b with size := v.setWidth 32 &&& 0x0F0F }))

/-- The key is set once; the right key arms the host's next KL write; a wrong one is counted, and the 16th locks. -/
def Obligations.KeyLockout : Prop :=
  ∀ (s : State) (who : Who) (v : W32), OfDevice who → Reaches s who →
    (s.lock.set = false → v ≠ 0 →
      exec (.keySetupWrite who v) s = .next { s with lock := { s.lock with key := v, set := true } }) ∧
    (s.lock.set = true ∨ v = 0 → exec (.keySetupWrite who v) s = .next (s.violation who 0x1000 true 6)) ∧
    (s.lock.lockout = true → exec (.keyUnlockWrite who v) s = .next (s.violation who 0x1004 true 5)) ∧
    (s.lock.lockout = false → s.lock.set = true → v = s.lock.key →
      exec (.keyUnlockWrite who v) s = .next (if who = .pf then { s with lock := { s.lock with armed := true } } else s)) ∧
    (s.lock.lockout = false → s.lock.set = false ∨ v ≠ s.lock.key →
      let t : State := { s with lock := { s.lock with armed := false, fails := s.lock.fails + 1 } }.violation who 0x1004 true 5
      (s.lock.fails < 15 → exec (.keyUnlockWrite who v) s = .next t) ∧
      (s.lock.fails = 15 → ∃ u, exec (.keyUnlockWrite who v) s = .next u ∧ u.lock = { t.lock with lockout := true } ∧
        ErrorNoted s u 0x30 0 ∧ Noted { t with lock := u.lock } u))

/-- Writes of the KL registers: without arming they are refused; armed, they take the arming and reset the device, clear its
failures, begin an attempt to start the firmware, or end a freeze of the Recorder. -/
def Obligations.DeviceControlWrites : Prop :=
  ∀ (s : State) (who : Who) (v : W32) (tr : Training),
    (Reaches s .pf → s.lock.armed = false →
      (bitOf v.toNat 0 = true → exec (.devResetWarm .pf v tr) s = .next (s.violation .pf 0x2004 true 4)) ∧
      (bitOf v.toNat 0 = false → exec (.devResetClrFails .pf v) s = .next (s.violation .pf 0x2004 true 4)) ∧
      exec (.devFwGo .pf v) s = .next (s.violation .pf 0x2024 true 4) ∧
      exec (.evrUnfreeze .pf v) s = .next (s.violation .pf 0x3000 true 4)) ∧
    (KlOpen s who →
      let d := s.disarmed who
      (bitOf v.toNat 0 = true → bitOf v.toNat 1 = false → exec (.devResetWarm who v tr) s = .next (d.warmReset 3 tr)) ∧
      (bitOf v.toNat 0 = true → bitOf v.toNat 1 = true → s.devSt = .running →
        exec (.devResetWarm who v tr) s = .next (d.violation who 0x2004 true 6)) ∧
      (bitOf v.toNat 0 = false → bitOf v.toNat 1 = true → s.devSt = .running →
        exec (.devResetClrFails who v) s = .next (d.violation who 0x2004 true 6)) ∧
      (bitOf v.toNat 0 = false → bitOf v.toNat 1 = true → s.devSt ≠ .running → ∃ t, exec (.devResetClrFails who v) s = .next t ∧
        t.startRec = { s.startRec with fails := 0 } ∧ t.i3c.record = startRecBytes t.startRec ∧ t.i3c.recUpd = true ∧
        t = { d with startRec := t.startRec, i3c := t.i3c }) ∧
      (bitOf v.toNat 0 = false → bitOf v.toNat 1 = false → exec (.devResetClrFails who v) s = .next d) ∧
      (s.devSt ≠ .awaitFw → exec (.devFwGo who v) s = .next (d.violation who 0x2024 true 6)) ∧
      (let len := s.fwLen.toNat
       s.devSt = .awaitFw →
        (bitOf v.toNat 0 = true → len % 4096 ≠ 0 ∨ len = 0 ∨ 67108864 < len →
          exec (.devFwGo who v) s = .next (d.violation who 0x2024 true 6)) ∧
        (bitOf v.toNat 0 = false → exec (.devFwGo who v) s = .next d) ∧
        (bitOf v.toNat 0 = true → len % 4096 = 0 → 0 < len → len ≤ 67108864 → ∃ t, exec (.devFwGo who v) s = .next t ∧
          t.devSt = .verify ∧ t.romWait = .opening ∧ t.startRec.opened = true ∧ t.startRec.fails = s.startRec.fails ∧
          t.startRec.pending.warm = s.devWarm ∧ t.startRec.pending.hc = s.hc ∧ t.i3c.record = startRecBytes t.startRec ∧
          t.i3c.recUpd = true ∧ (s.i3c.intEn = true → t.i3c.ibis = s.i3c.ibis ++ [3]) ∧
          t = { d with devSt := t.devSt, romWait := t.romWait, startRec := t.startRec, i3c := t.i3c })) ∧
      (let push := maskBit s.evr.pushHost v.toNat 0
       (pulse v.toNat 1 = false → exec (.evrUnfreeze who v) s = .next { d with evr := { s.evr with pushHost := push } }) ∧
       (pulse v.toNat 1 = true → ∃ t, exec (.evrUnfreeze who v) s = .next t ∧ t.evr.frozen = false ∧ t.evr.hostDone = false ∧
        t.evr.bmcDone = false ∧ t.evr.hostFail = false ∧ t.evr.pushHost = push ∧ t.i3c = { s.i3c with pushReady := false } ∧
        t = { d with evr := t.evr, i3c := t.i3c } ∧
        (s.evr.frozen = false → t.evr.next = s.evr.next ∧ t.evr.window = s.evr.window) ∧
        (s.evr.frozen = true → s.evr.departOwed = 0 → t.evr.next = s.evr.next + 1 ∧
          ∃ r, mapFind t.evr.window (s.evr.next.toNat % 4096) = some r ∧ r.cls = 0x4B ∧ r.count = s.evr.unwritten ∧
            r.seq = s.evr.next))))

/-- LBX_CTRL sets the enables and resets the rings; a doorbell moves REQ_PROD and the host's index RSP_CONS, and an index out of
range faults the Letterbox; a posted Bolt operation goes to its engine or is refused. The Study checks a Letterbox's rings,
takes its requests in order, and writes what it owes into the response ring, with at most one vector in its interval; a ring
it cannot reach faults the Letterbox. -/
def Obligations.LetterboxPagesAndRings : Prop :=
  (∀ (s : State) (who : Who) (v : W32), Reaches s who →
    let l := pageOf who
    let b := s.lbx l
    let c := { b with enable := maskBit b.enable v.toNat 0, rspIrq := maskBit b.rspIrq v.toNat 2, evtIrq := maskBit b.evtIrq v.toNat 3
                      ready := b.ready && maskBit b.enable v.toNat 0 }
    let q := { b with reqProd := v }
    let k := { b with rspCons := v }
    (pulse v.toNat 1 = false → exec (.lbxCtrlReset who v) s = .next (s.updLbx l fun _ => c)) ∧
    (pulse v.toNat 1 = true → ∃ t, exec (.lbxCtrlReset who v) s = .next t ∧ (∀ n, n ≠ l → t.lbx n = s.lbx n) ∧
      t.lbx l = { c with ready := false, fault := false, fcode := 0, resetting := false, reqProd := 0, reqCons := 0, rspProd := 0
                         rspCons := 0, busy := false, taken := [], mute := (t.lbx l).mute, long := [], outq := [], events := 0
                         lost := 0, evSeq := 0, rspHeld := false, evtHeld := false } ∧
      (∀ tag ∈ b.mute ++ b.long, tag ∈ (t.lbx l).mute) ∧ t = { s with lbxs := t.lbxs, modelWork := t.modelWork } ∧
      t.modelWork = s.modelWork.filter fun w => !(w.req.lbx == l && w.phase == .queued)) ∧
    (b.ready = false → exec (.lbxDoorbell who v) s = .next (s.violation who (lbxOff who 0x24) true 6)) ∧
    (b.ready = true → b.fault = true ∨ indexBad q = false → exec (.lbxDoorbell who v) s = .next (s.updLbx l fun _ => q)) ∧
    (b.ready = true → b.fault = false → indexBad q = true → ∃ t, exec (.lbxDoorbell who v) s = .next t ∧
      LbxFaulted (s.updLbx l fun _ => q) t l 2) ∧
    (b.ready = false ∨ b.fault = true ∨ indexBad k = false → exec (.lbxRspConsWrite who v) s = .next (s.updLbx l fun _ => k)) ∧
    (b.ready = true → b.fault = false → indexBad k = true → ∃ t, exec (.lbxRspConsWrite who v) s = .next t ∧
      LbxFaulted (s.updLbx l fun _ => k) t l 2) ∧
    ∀ (n : CtxId) (w : W64), who = .vf (n.toNat + 1) →
      let x := s.ctx n
      let i := bitsOf w.toNat 0 15
      let count : W32 := BitVec.ofNat 32 (w.toNat / 2 ^ 32)
      let bt : BoltId := x.boltBase + BitVec.ofNat 15 i
      let u : State := { s with wrShadow := mapDel s.wrShadow (shadowKey who 0x38) }
      let ask (op : Nat) : BoltReq := { who := .host n, ctx := n, bolt := bt, op := BitVec.ofNat 4 op, cond := 0, operand := count }
      (bitOf w.toNat 15 = false →
        (x.st ≠ .free → i < x.bolts → (s.bolt bt).barrier = false → exec (.bltHostopAdd n w) s = .next (u.boltAsk (ask 3))) ∧
        (x.st = .free ∨ x.bolts ≤ i ∨ (s.bolt bt).barrier = true →
          exec (.bltHostopAdd n w) s = .next (u.violation who 0x38 true 9))) ∧
      (bitOf w.toNat 15 = true →
        (x.st ≠ .free → i < x.bolts → (s.bolt bt).barrier = true → count ≠ 0 → count.toNat ≤ 65535 →
          exec (.bltHostopArrive n w) s = .next (u.boltAsk (ask 1))) ∧
        (x.st = .free ∨ x.bolts ≤ i ∨ (s.bolt bt).barrier = false ∨ count = 0 ∨ 65535 < count.toNat →
          exec (.bltHostopArrive n w) s = .next (u.violation who 0x38 true 9)))) ∧
  (∀ (s : State) (l : Nat) (ok : Bool),
    let b := s.lbx l
    let up := s.servesLbx l = true ∧ b.ready = true ∧ b.fault = false
    (s.servesLbx l = true → b.enable = true → b.ready = false → b.fault = false →
      Agree b.reqBase → Agree b.rspBase →
      (ringsBad b = false → exec (.letterboxEnableCheck l) s = .next (s.updLbx l fun b => { b with ready := true })) ∧
      (ringsBad b = true → ∃ t, exec (.letterboxEnableCheck l) s = .next t ∧ LbxFaulted s t l 3)) ∧
    (∃ t, s.reqRing l = (t, ringBase b.reqBase) ∧ Voted b.reqBase (t.lbx l).reqBase ∧ (Agree b.reqBase → t = s)) ∧
    (∃ t, s.rspRing l = (t, ringBase b.rspBase) ∧ Voted b.rspBase (t.lbx l).rspBase ∧ (Agree b.rspBase → t = s)) ∧
    (s.servesLbx l = true → b.enable = true → b.ready = false → b.fault = false → ringsBad b = false →
      ∃ t, exec (.letterboxEnableCheck l) s = .next t ∧ (t.lbx l).ready = true) ∧
    (s.servesLbx l = false ∨ b.enable = false ∨ b.ready = true ∨ b.fault = true →
      exec (.letterboxEnableCheck l) s = .next s) ∧
    (up → b.reqCons ≠ b.reqProd → owed b < 64 →
      (ok = true → s.hostUp = true →
        let a := ringBase b.reqBase + b.reqCons.toNat % reqSlots b * 256
        let q : Req := { lbx := l, entry := BitVec.ofNat 2048 (leNat (memReads s.mem (hostKey a) 256)) }
        exec (.letterboxRequestTake l ok) s =
          .next ((s.reqRing l).1.updLbx l fun b => { b with taken := b.taken ++ [q], reqCons := b.reqCons + 1 })) ∧
      (ok = false ∨ s.hostUp = false → ∃ t, exec (.letterboxRequestTake l ok) s = .next t ∧ LbxFaulted s t l 1)) ∧
    (¬up ∨ b.reqCons = b.reqProd ∨ 64 ≤ owed b → exec (.letterboxRequestTake l ok) s = .next s) ∧
    (∀ r rest, up → b.outq = r :: rest → (b.rspProd - b.rspCons).toNat < rspSlots b →
      (ok = true → s.hostUp = true → MemoryCanonical s → Agree b.rspBase → ∃ t, exec (.responseRingWrite l ok) s = .next t ∧
        let a := hostKey (ringBase b.rspBase + b.rspProd.toNat % rspSlots b * 256)
        t.read a 256 = responseBytes r b.lost.toNat ∧ (∀ k, (k < a ∨ a + 256 ≤ k) → memRead t.mem k = memRead s.mem k) ∧
        (t.lbx l).outq = rest ∧ (t.lbx l).rspProd = b.rspProd + 1 ∧ (t.lbx l).lost = (if r.event then 0 else b.lost) ∧
        (t.lbx l).events = (if r.event then b.events - 1 else b.events) ∧ (∀ n, n ≠ l → t.lbx n = s.lbx n) ∧
        (let irq := if r.event then b.evtIrq else b.rspIrq
         let held := if r.event then b.evtHold else b.rspHold
         (irq = true → held = false → VectorRaised s t l (boolNat r.event) ∧
          (if r.event then (t.lbx l).evtHold else (t.lbx l).rspHold) = true) ∧
         (irq = false ∨ held = true → t.irqs = s.irqs ∧ t.msixPend = s.msixPend)) ∧
        t = { s with mem := t.mem, poison := t.poison, lbxs := t.lbxs, irqs := t.irqs, msixPend := t.msixPend }) ∧
      (ok = false ∨ s.hostUp = false → ∃ t, exec (.responseRingWrite l ok) s = .next t ∧ LbxFaulted s t l 1)) ∧
    (¬up ∨ b.outq = [] ∨ rspSlots b ≤ (b.rspProd - b.rspCons).toNat → exec (.responseRingWrite l ok) s = .next s) ∧
    (b.evtHold = false ∨ b.evtHeld = false → exec (.vectorHoldoffEnd l true) s =
      .next (s.updLbx l fun b => { b with evtHold := false, evtHeld := false })) ∧
    (b.rspHold = false ∨ b.rspHeld = false → exec (.vectorHoldoffEnd l false) s =
      .next (s.updLbx l fun b => { b with rspHold := false, rspHeld := false })) ∧
    (b.evtHold = true → b.evtHeld = true → b.evtIrq = true → ∃ t, exec (.vectorHoldoffEnd l true) s = .next t ∧
      t.lbx l = { b with evtHold := true, evtHeld := false } ∧ VectorRaised s t l 1) ∧
    (b.rspHold = true → b.rspHeld = true → b.rspIrq = true → ∃ t, exec (.vectorHoldoffEnd l false) s = .next t ∧
      t.lbx l = { b with rspHold := true, rspHeld := false } ∧ VectorRaised s t l 0))

/-- What every Letterbox command is refused for before its own work begins: minimal mode and FATAL, no HELLO, a bad entry, the
Letterbox, another context's number, a context that is free. One that is not at the head of its Letterbox does not start.
Captured violations are counted by code and by requester; the patrol corrects every triplicated value to its majority. -/
def Obligations.CommandsAndPatrols : Prop :=
  (∀ (s : State) (q : Req) (h : Bool) (c : Instr) (op : Nat), LetterboxCommand q h c op →
    let u := s.begun q
    let low := s.devSt = .minimal ∨ s.devSt = .fatal
    let ans (status detail : Nat) := exec c s = .next (u.reply q status detail)
    (((s.lbxSettle q.lbx).lbx q.lbx).taken.head? ≠ some q ∨ ((s.lbxSettle q.lbx).lbx q.lbx).busy = true ∨ reqOp q ≠ op ∨
      s.serves = false → exec c s = .next (s.lbxSettle q.lbx)) ∧
    (Next s q op →
      (low → op ≠ 0x04 → op ≠ 0x0A → ans 0x25 0) ∧
      (low → op = 0x04 ∨ op = 0x0A → ∀ o, entryBad q = some o → ans 0x12 o) ∧
      (¬low → (u.lbx q.lbx).hello = false → op ≠ 1 → ans 0x24 0) ∧
      (¬low → (u.lbx q.lbx).hello = true ∨ op = 1 →
        (∀ o, entryBad q = some o → ans 0x12 o) ∧
        (entryBad q = none →
          (q.lbx ≠ 0 → mgmtOnly op = true → ans 0x13 0) ∧
          (q.lbx ≠ 0 → mgmtOnly op = false → (reqCtx q).toNat + 1 ≠ q.lbx → ans 0x13 0) ∧
          (q.lbx = 0 ∨ (mgmtOnly op = false ∧ (reqCtx q).toNat + 1 = q.lbx) → ctxCommand op = true → (s.ctx (reqCtx q)).st = .free →
            ans 0x14 0))))) ∧
  (∀ (s : State),
    (s.live = true ∨ s.devSt = .minimal ∨ s.devSt = .fatal → ∃ t, exec .violationQueueDrain s = .next t ∧ t.violQ = [] ∧
      t = { s with violQ := [], diag := { s.diag with viol := t.diag.viol, byReq := t.diag.byReq } } ∧
      (∀ c, (mapGet 0 t.diag.viol c).toNat = min (2 ^ 32 - 1) ((mapGet 0 s.diag.viol c).toNat + s.violQ.countP fun q => q.code == c)) ∧
      ∀ w, (mapGet 0 t.diag.byReq w).toNat =
        min (2 ^ 32 - 1) ((mapGet 0 s.diag.byReq w).toNat + s.violQ.countP fun q => whoClass q.who == w)) ∧
    (s.live = false → s.devSt ≠ .minimal → s.devSt ≠ .fatal → exec .violationQueueDrain s = .next s) ∧
    (s.live = false → s.devSt ≠ .minimal → s.devSt ≠ .fatal → exec .tvPatrol s = .next s) ∧
    (s.live = true ∨ s.devSt = .minimal ∨ s.devSt = .fatal → ∃ t, exec .tvPatrol s = .next t ∧ Voted s.ident.variant t.ident.variant ∧ Voted s.fwAddr t.fwAddr ∧
      Voted s.evr.hostbuf t.evr.hostbuf ∧
      (∀ l, l < 65 → Voted (s.lbx l).reqBase (t.lbx l).reqBase ∧ Voted (s.lbx l).rspBase (t.lbx l).rspBase) ∧
      t = { s with ident := t.ident, fwAddr := t.fwAddr, evr := t.evr, lbxs := t.lbxs, diag := t.diag, errQ := t.errQ
                   errOvf := t.errOvf, reported := t.reported }) ∧
    (Agree s.ident.variant → Agree s.fwAddr → Agree s.evr.hostbuf →
      (∀ l, l < 65 → Agree (s.lbx l).reqBase ∧ Agree (s.lbx l).rspBase) → exec .tvPatrol s = .next s))

/-- HELLO agrees on a version, with which a start ends in RUNNING, or in its failure; a second one is refused. Parameters are
read, and set within their ranges. The reports and lists of the Study: diagnostics, start report, repair list and attestation
report. -/
def Obligations.StudyCommands : Prop :=
  (∀ (s : State) (q : Req),
    let u := s.begun q
    let res := [(16, 1, s.fw.minor.toNat), (17, 1, s.fw.major.toNat), (18, 2, s.fw.build.toNat)]
    let begins := q.lbx = 0 ∧ s.devSt = .handshake
    let fits := reqNat q 17 1 = s.fw.major.toNat ∧ reqNat q 16 1 ≤ s.fw.minor.toNat
    let build : W16 := BitVec.ofNat 16 (reqNat q 18 2)
    (Accepted s q 0x0001 [(16, 0, 8), (17, 0, 8), (18, 0, 16)] [] →
      ((u.lbx q.lbx).hello = true → Answers (.hello q) s q u 0x14 (devStNum s.devSt)) ∧
      ((u.lbx q.lbx).hello = false →
        (¬fits → ¬begins → Answers (.hello q) s q (u.updLbx q.lbx fun b => { b with dbuild := build }) 0x23 0 res) ∧
        (¬fits → begins → ∃ t, exec (.hello q) s = .next t ∧ t.devReason = 9 ∧ t.startRec.fails = min 3 (s.startRec.fails + 1) ∧
          t.devSt = (if t.startRec.fails = 3 then .minimal else .awaitFw)) ∧
        (fits → ¬begins → Answers (.hello q) s q (u.updLbx q.lbx fun b => { b with dbuild := build, hello := true }) 0 0 res) ∧
        (fits → begins → exec (.hello q) s = .next { (u.updLbx q.lbx fun b => { b with dbuild := build, hello := true }).reply q 0 0 res with
          devSt := .running, early := true
          ident := { s.ident with fwver := s.ident.fwver ||| BitVec.ofNat 32 (256 * s.fw.major.toNat) } }))) ∧
    (let pid := reqNat q 16 2
     let qual := reqNat q 20 4
     let v := reqNat q 24 8
     let c := reqCtx q
     let names := [(16, !(pidDevice pid || pidCtx pid || pidModel pid)),
      (20, if pid = 0x12 then decide (1 < qual) else !pidModel pid && qual != 0)]
     let device : List (Nat × Nat × Nat × State) := [(0x10, 1, 48, { u with scrubPantry := v }), (0x11, 1, 48, { u with scrubCellar := v }),
      (0x12, 1, 64, { u with annexMs := mapSet s.annexMs qual v }), (0x13, 1, 1000, { u with handoffT := v }),
      (0x14, 70, 100, { u with tjTarget := v })]
     let ofCtx : List (Nat × Nat × Nat × State) := [(0x01, 12, 30, u.updCtx c fun x => { x with stallK := v }),
      (0x02, 0, 255, u.updCtx c fun x => { x with hangLimit := v }), (0x03, 1, 10000, u.updCtx c fun x => { x with preemptMs := v })]
     (Accepted s q 0x0002 [(16, 0, 16), (20, 0, 32)] names →
      (pidDevice pid = true ∨ (pidCtx pid = true ∧ (s.ctx c).st ≠ .free) →
        Answers (.paramGet q) s q u 0 0 [(24, 8, s.paramValue pid c qual)]) ∧
      (pidDevice pid = false → (s.ctx c).st = .free → Answers (.paramGet q) s q u 0x14) ∧
      (pidModel pid = true → (s.ctx c).st ≠ .free → u.paramModel c qual = none →
        Answers (.paramGet q) s q u 0x14 (ctxStNum (s.ctx c).st)) ∧
      (pidModel pid = true → (s.ctx c).st ≠ .free → ∀ m, u.paramModel c qual = some m → Answers (.paramGet q) s q u 0 0
        [(24, 8, if pid = 0x20 then m.reviseSteps else if pid = 0x21 then m.instanceBudget.getD (u.routedE c m) else m.minGain)])) ∧
     (Accepted s q 0x0003 [(16, 0, 16), (20, 0, 32), (24, 0, 64)] names →
      (pidDevice pid = true → q.lbx ≠ 0 → Answers (.paramSet q) s q u 0x13) ∧
      (∀ e ∈ device ++ ofCtx, e.1 = pid → (pidDevice pid = true → q.lbx = 0) → (pidCtx pid = true → (s.ctx c).st ≠ .free) →
        (e.2.1 ≤ v → v ≤ e.2.2.1 → Answers (.paramSet q) s q e.2.2.2 0 0 [(24, 8, v)]) ∧
        (v < e.2.1 ∨ e.2.2.1 < v → Answers (.paramSet q) s q u 0x12 24)) ∧
      (pidModel pid = true → (s.ctx c).st ≠ .free → u.paramModel c qual = none →
        Answers (.paramSet q) s q u 0x14 (ctxStNum (s.ctx c).st)) ∧
      (pidModel pid = true → (s.ctx c).st ≠ .free → ∀ m, u.paramModel c qual = some m →
        let least := if pid = 0x20 then 16 else if pid = 0x21 then u.routedE c m else 0
        let most := if pid = 0x20 then 65535 else if pid = 0x21 then 8 * u.routedE c m else 100
        (v < least ∨ most < v → Answers (.paramSet q) s q u 0x12 24) ∧
        (least ≤ v → v ≤ most → ∃ t, exec (.paramSet q) s = .next t ∧ (∀ k, k ≠ c → t.ctx k = s.ctx k) ∧
          ∃ m', mapFind (t.ctx c).models qual = some m' ∧
            m' = (if pid = 0x20 then { m with reviseSteps := v } else if pid = 0x21 then { m with instanceBudget := some v }
              else { m with minGain := v })))))) ∧
  (∀ (s : State) (q : Req) (h : Bool),
    let u := s.begun q
    let n (m : Map W32) (i : Nat) : Nat := (mapGet 0 m i).toNat
    let a := hostKey (reqNat q 16 8)
    let len := reqNat q 24 4
    let aligned := [(16, reqNat q 16 8 % 4096 != 0)]
    (Accepted s q 0x0004 [] [] → Answers (.diagRead q) s q u 0 0
      (((List.range 9).map fun i => (16 + 4 * i, 4, n u.diag.viol (i + 1))) ++
        ((List.range 4).map fun i => (52 + 4 * i, 4, n u.diag.byReq i)) ++
        [(68, 4, u.diag.overflow.toNat), (72, 4, u.diag.tvCorr.toNat), (76, 4, u.diag.lbxFault.toNat), (80, 4, u.diag.evtLost.toNat)])) ∧
    (Accepted s q 0x000A [] [] → Answers (.startReport q) s q u 0 0
      [(16, 1, s.startRec.fails), (24, 24, leNat (startEntryBytes s.startRec.e0)), (48, 24, leNat (startEntryBytes s.startRec.e1)),
        (72, 24, leNat (startEntryBytes s.startRec.e2))]) ∧
    (Accepted s q 0x0007 [(16, 0, 64), (24, 0, 32)] aligned →
      (len < s.repairBytes.length → Answers (.repairListGet q h) s q u 0x27) ∧
      (s.repairBytes.length ≤ len → h = false ∨ s.hostUp = false → Answers (.repairListGet q h) s q u 0x22) ∧
      (s.repairBytes.length ≤ len → h = true → s.hostUp = true →
        Answers (.repairListGet q h) s q (u.write a s.repairBytes) 0 0 [(16, 4, s.repairBytes.length)])) ∧
    (Accepted s q 0x0008 [(16, 0, 64), (24, 0, 32)] aligned →
      let k := s.readNat a 4
      let size := 4 + 24 * k
      let bs := s.read a size
      let good := size + 4 ≤ len ∧ crc32c bs = s.readNat (hostKey (reqNat q 16 8 + size)) 4
      let e (i : Nat) := (bs.drop (4 + 24 * i)).take 24
      let f (i off w : Nat) := leNat (((e i).drop off).take w)
      let fits (i : Nat) := BitVec.ofNat 64 (f i 16 8) = s.partSerialOf (f i 1 1) (f i 2 2)
      (s.devSt ≠ .running ∨ s.devWarm = true ∨ s.createdCtx = true → Answers (.repairListPut q h) s q u 0x14 (devStNum s.devSt)) ∧
      (s.devSt = .running → s.devWarm = false → s.createdCtx = false →
        (h = false ∨ s.hostUp = false → Answers (.repairListPut q h) s q u 0x22) ∧
        (h = true → s.hostUp = true → len < size + 4 → Answers (.repairListPut q h) s q u 0x12 (size % 256)) ∧
        (h = true → s.hostUp = true → good → ∃ m, Answers (.repairListPut q h) s q m 0 ∧ ErrorNoted s m 0x49 (Config.unitOf 0x49) ∧
          (∀ x ∈ s.repair.sram, x ∈ m.repair.sram) ∧ (∀ x ∈ s.repair.retiredFrames, x ∈ m.repair.retiredFrames) ∧
          ∀ i, i < k →
            (f i 0 1 = 1 → fits i → (f i 1 1, f i 2 2, f i 4 4, 3) ∈ m.repair.rows) ∧
            (f i 0 1 = 2 → (f i 1 1, f i 2 2, f i 4 4) ∈ m.repair.sram) ∧
            (f i 0 1 = 3 → fits i → (f i 1 1, f i 4 4) ∈ m.repair.retiredFrames)))) ∧
    (Accepted s q 0x0009 [(16, 0, 64), (24, 0, 32), (32, 0, 256)] aligned →
      let body := u.attestBody q
      (s.devSt ≠ .running → Answers (.attest q h) s q u 0x14 (devStNum s.devSt)) ∧
      (s.devSt = .running →
        (len < 640 → Answers (.attest q h) s q u 0x27) ∧
        (640 ≤ len → h = false ∨ s.hostUp = false → Answers (.attest q h) s q u 0x22) ∧
        (640 ≤ len → h = true → s.hostUp = true → Answers (.attest q h) s q
          (u.write a (body ++ (List.range 96).map (Config.akSign s.fw.measure s.fw.keyHash body))) 0 0 [(16, 4, 640)]))))

/-- HOST_RST# and the loss of power reset everything but fuses and pins; a release, good power or a clock that returns begins the
start. A function level reset of the PF, a hot reset and the loss of the host link reset the device warm: Pantry and Cellar
outside the reserved frames, the start record, the Recorder, the repair list and port counters stay; an attempt in progress
counts as failed. A write on its way to its home controller may have been made or not (the model's choice, assumption 3). A
function level reset of a virtual function releases its context and returns its page, vectors and shadows to reset. The loss
of a reference clock holds a start in ROM, and is fatal later, but for the references of the serial links; that of the North
I/O die takes its ports with it. -/
def Obligations.ResetsAndClocks : Prop :=
  (∀ (s : State) (tr : Training),
    (∃ t, exec .hostRstAssert s = .next t ∧ BeyondReset s t ∧ (∀ k, keyKind k < 12 → memRead t.mem k = 0) ∧
      t.rst = { s.rst with level := true, asserts := s.rst.asserts + 1 } ∧
      t = { State.reset with
        pending := t.pending, fresh := t.fresh, mem := t.mem, poison := t.poison, irqs := t.irqs, cxlOut := t.cxlOut
        readData := t.readData, fuseSvn := t.fuseSvn, brake := s.brake, latch := s.latch, rst := t.rst, pwrOk := s.pwrOk
        clockLost := s.clockLost, startCause := if s.pwrOk then 2 else 1 }) ∧
    (s.pwrOk = true → ∃ t, exec .pwrOkDeassert s = .next t ∧ BeyondReset s t ∧ (∀ k, keyKind k < 12 → memRead t.mem k = 0) ∧
      t.rst = { level := s.rst.level, chatter := s.rst.chatter } ∧ t.brake = { level := s.brake.level, chatter := s.brake.chatter } ∧
      t.latch = { level := s.latch.level, chatter := s.latch.chatter } ∧
      t = { State.reset with
        pending := t.pending, fresh := t.fresh, mem := t.mem, poison := t.poison, irqs := t.irqs, cxlOut := t.cxlOut
        readData := t.readData, fuseSvn := t.fuseSvn, brake := t.brake, latch := t.latch, rst := t.rst, pwrOk := false
        clockLost := s.clockLost, startCause := 1 }) ∧
    (s.pwrOk = false → exec .pwrOkDeassert s = .next s) ∧
    (s.pwrOk = true → exec (.pwrOkAssert tr) s = .next s) ∧
    (s.pwrOk = false → s.rst.level = true → exec (.pwrOkAssert tr) s = .next { s with pwrOk := true }) ∧
    (s.pwrOk = false → s.rst.level = false → s.clockLost = [] → s.devWarm = false →
      ∃ t, exec (.pwrOkAssert tr) s = .next t ∧ StartsCold s tr t ∧ t.pwrOk = true) ∧
    (s.rst.level = false ∨ s.rst.chatter = true → exec (.hostRstRelease tr) s = .next s) ∧
    (s.rst.level = true → s.rst.chatter = false →
      (s.pwrOk = false → exec (.hostRstRelease tr) s = .next { s with rst := { s.rst with level := false } }) ∧
      (s.pwrOk = true → s.clockLost = [] → s.devWarm = false →
        ∃ t, exec (.hostRstRelease tr) s = .next t ∧ StartsCold s tr t ∧ t.rst.level = false ∧
          (s.rst.asserts ≠ 0 → s.evr.frozen = false → ∃ r, mapFind t.evr.window (s.evr.next.toNat % 4096) = some r ∧
            r.cls = 0x43 ∧ r.count = s.rst.asserts ∧ t.rst.asserts = 0)) ∧
      (s.pwrOk = true → s.clockLost ≠ [] → exec (.hostRstRelease tr) s =
        .next { s with rst := { s.rst with level := false }, devSt := .rom, romWait := .clock })) ∧
    (∀ ref, s.romWait = .clock → s.devWarm = false → (∀ n ∈ s.clockLost, n = ref.toNat) →
      ∃ t, exec (.referenceClockRecovered ref tr) s = .next t ∧ StartsCold s tr t ∧ t.clockLost = []) ∧
    (∀ ref, s.romWait ≠ .clock ∨ (∃ n ∈ s.clockLost, n ≠ ref.toNat) → exec (.referenceClockRecovered ref tr) s =
      .next { s with clockLost := s.clockLost.filter fun n => n != ref.toNat })) ∧
  (∀ (s : State) (tr : Training) (c : Instr), c ∈ [Instr.pfFunctionLevelReset tr, .hotReset tr, .hostLinkLoss tr] →
    (s.romWait = .reset ∨ s.hostUp = false → exec c s = .next s) ∧
    (s.romWait ≠ .reset → s.hostUp = true → ∃ t, exec c s = .next t ∧ (NoneTranslated s → BeyondReset s t) ∧
      t.pending = s.pending ∧ t.irqs = s.irqs ∧ t.fuseSvn = s.fuseSvn ∧ t.devWarm = true ∧ t.startCause = 4 ∧
      t.ctxs = [] ∧ t.rooms = [] ∧ t.streams = [] ∧ t.bolts = [] ∧ t.services = [] ∧ t.roots = [] ∧ t.tables = [] ∧ t.accesses = [] ∧
      t.jobs = [] ∧ t.fabric = none ∧
      t.lock = {} ∧ t.numVfs = 0 ∧ t.windows = [] ∧ t.thermTrip = s.thermTrip ∧ t.evr.pushHost = true ∧ t.evr.hostbuf = {} ∧
      t.evr.frozen = s.evr.frozen ∧ t.repair.rows = s.repair.rows ∧ t.repair.retiredFrames = s.repair.retiredFrames ∧
      (∀ k, keyKind k < 10 → memRead t.mem k = 0) ∧ (s.clockLost = [] → ∀ k, keyReserved k = true → memRead t.mem k = 0) ∧
      (tr.lostStacks = 0 → tr.lostGroups = 0 → s.clockLost = [] → t.devSt = .awaitFw → NoneTranslated s → ∀ k, keyKind k = 10 ∨ keyKind k = 11 → keyReserved k = false →
        memRead t.mem k = memRead s.mem k) ∧
      (∀ p, (t.port p).st = .disabled ∧ (t.port p).lanesBad = (s.port p).lanesBad ∧ (t.port p).fecCorr = (s.port p).fecCorr ∧
        (t.port p).downCnt = (s.port p).downCnt ∧ (t.port p).txFlits = (s.port p).txFlits) ∧
      (s.clockLost ≠ [] → t.devSt = .rom ∧ t.romWait = .clock) ∧
      (s.clockLost = [] → t.hostUp = tr.hostUp ∧
        (s.startRec.opened = false → t.startRec = s.startRec) ∧
        (s.startRec.opened = true → t.startRec.fails = min 3 (s.startRec.fails + 1) ∧ t.startRec.opened = false ∧ t.devReason = 1 ∧
          t.startRec.e2 = { s.startRec.pending with reason := 1, detail := 4 }) ∧
        t.devSt = (if t.startRec.fails = 3 then .minimal else .awaitFw) ∧ (t.startRec.fails = 3 → LeftMinimal t)))) ∧
  (∀ (s : State) (c : CtxId),
    (s.romWait = .reset ∨ s.hostUp = false → exec (.vfFunctionLevelReset c) s = .next s) ∧
    (s.romWait ≠ .reset → s.hostUp = true → ∃ t, exec (.vfFunctionLevelReset c) s = .next t ∧
      let l := c.toNat + 1
      t.lbx l = { mute := (t.lbx l).mute } ∧ (∀ k ∈ t.msixOpen, k / 16 ≠ l) ∧ (∀ k ∈ t.msixPend, k / 16 ≠ l) ∧
      (∀ k, k / 16 ≠ l → (k ∈ t.msixOpen ↔ k ∈ s.msixOpen)) ∧
      (∀ e ∈ t.rdShadow, e.1 / 2 ^ 24 ≠ l) ∧ (∀ e ∈ t.wrShadow, e.1 / 2 ^ 24 ≠ l) ∧
      (s.live = false ∨ (s.ctx c).st = .free ∨ (s.ctx c).releasing ≠ none → (∀ n, n ≠ l → t.lbx n = s.lbx n) ∧
        t = { s with lbxs := t.lbxs, modelWork := t.modelWork, msixOpen := t.msixOpen, msixPend := t.msixPend
                     rdShadow := t.rdShadow, wrShadow := t.wrShadow }))) ∧
  (∀ (s : State) (ref : BitVec 5), ref.toNat < 18 → ref.toNat ∉ s.clockLost →
    let n := ref.toNat
    let lost : State := { s with clockLost := unitAdd s.clockLost n }
    (s.romWait = .reset → exec (.refclkLoss ref) s = .next lost) ∧
    (s.romWait ≠ .reset → s.devSt = .rom → exec (.refclkLoss ref) s =
      .next { lost with romWait := .clock, i3c := { s.i3c with recReq := false } }) ∧
    (s.romWait ≠ .reset → s.devSt ≠ .rom →
      (4 ≤ n → n < 8 → exec (.refclkLoss ref) s = .next lost) ∧
      (n < 4 ∨ 8 ≤ n → ∃ t, exec (.refclkLoss ref) s = .next t ∧ t.fatalLatch = true ∧ n ∈ t.clockLost ∧
        ErrorNoted s t 0x3D (if n < 16 then n else n - 12) ∧
        (n ≠ 16 → Noted { s with clockLost := t.clockLost } t) ∧
        (n = 16 → t.hostUp = false ∧ mapGet false t.annexUp 0 = false ∧
          (∀ p, p < 12 → portLive (t.port p) = false ∧ (t.port p).width = 0) ∧
          (∀ p, 12 ≤ p → t.port p = s.port p)))))

/-- The firmware image is checked and begins the handshake, or the start fails with the check's reason. Each bound of a start that
is missed fails it with its reason and step; a watchdog before RUNNING does, and in RUNNING it is an error. 10 s in RUNNING
end a start: no failure is counted, and an image that asks for it raises the fuse SVN. The BMC's record starts the boot, or
its absence does; a record that the BMC does not store is noted. -/
def Obligations.StartAttempts : Prop :=
  (∀ (s : State),
    (s.devSt ≠ .verify ∨ s.romWait ≠ .none → ∀ f, exec (.fwVerifyDone f) s = .next s) ∧
    (s.devSt = .verify → s.romWait = .none → ∃ t, exec (.fwVerifyDone none) s = .next t ∧ Voted s.fwAddr t.fwAddr ∧
      match checkImage (s.read (hostKey (ringBase s.fwAddr)) s.fwLen.toNat) s.fwLen.toNat s.fuseSvn with
      | .inl e => t.devReason = BitVec.ofNat 8 e.1 ∧ t.startRec.fails = min 3 (s.startRec.fails + 1)
      | .inr fw => t.devSt = .handshake ∧ t.fw = fw) ∧
    (s.devSt = .verify → s.romWait = .none → Agree s.fwAddr →
      (∀ a, ∃ t, exec (.fwVerifyDone (some a)) s = .next t ∧ StartFailed s t 2 a 7) ∧
      let img := s.read (hostKey (ringBase s.fwAddr)) s.fwLen.toNat
      (∀ r d, checkImage img s.fwLen.toNat s.fuseSvn = .inl (r, d) → r ≠ 0x0B →
        ∃ t, exec (.fwVerifyDone none) s = .next t ∧ StartFailed s t r (BitVec.ofNat 64 d) 7) ∧
      ∀ fw, checkImage img s.fwLen.toNat s.fuseSvn = .inr fw → s.fuseSvn ≤ fw.svn ∧
        exec (.fwVerifyDone none) s = .next { s with
          devSt := .handshake, fw, serving := false
          ident := { s.ident with fwver := BitVec.ofNat 32 (fw.minor.toNat + fw.build.toNat * 2 ^ 16) } })) ∧
  (∀ (s : State),
    (s.devSt = .verify → ∃ t, exec .verifyTimeout s = .next t ∧ StartFailed s t 2 0 7) ∧
    (s.devSt ≠ .verify → exec .verifyTimeout s = .next s) ∧
    (s.devSt = .handshake → exec .fwServing s = .next { s with serving := true }) ∧
    (s.devSt ≠ .handshake → exec .fwServing s = .next s) ∧
    (∀ d, s.devSt = .handshake → s.serving = false → ∃ t, exec (.fwInitTimeout d) s = .next t ∧ StartFailed s t 8 d 8) ∧
    (∀ d, s.devSt ≠ .handshake ∨ s.serving = true → exec (.fwInitTimeout d) s = .next s) ∧
    (s.devSt = .handshake → s.serving = true → (s.lbx 0).enable = false →
      ∃ t, exec .enableTimeout s = .next t ∧ StartFailed s t 0x0A 0 9) ∧
    (s.devSt ≠ .handshake ∨ s.serving = false ∨ (s.lbx 0).enable = true → exec .enableTimeout s = .next s) ∧
    (s.devSt = .handshake → (s.lbx 0).ready = true → ∃ t, exec .helloTimeout s = .next t ∧ StartFailed s t 0x0A 0 10) ∧
    (s.devSt ≠ .handshake ∨ (s.lbx 0).ready = false → exec .helloTimeout s = .next s) ∧
    (∀ core, s.devSt = .handshake → ∃ t, exec (.watchdogExpiry core) s = .next t ∧ StartFailed s t 8 0 8) ∧
    (∀ core, s.devSt = .running → ∃ t, exec (.watchdogExpiry core) s = .next t ∧ t.fatalLatch = true ∧
      ErrorNoted s t 0x3A core.toNat ∧ Noted s t) ∧
    (∀ core, s.devSt ≠ .handshake → s.devSt ≠ .running → exec (.watchdogExpiry core) s = .next s)) ∧
  (∀ (s : State),
    (s.devSt = .running → s.early = true → s.fatalLatch = false → ∃ t, exec .startSuccess s = .next t ∧ t.early = false ∧
      t.startRec = { s.startRec with fails := 0, opened := false } ∧ t.i3c.record = startRecBytes t.startRec ∧ t.i3c.recUpd = true ∧
      t.fuseSvn = (if s.fw.svnCommit = true ∧ s.fuseSvn < s.fw.svn then min 64 s.fw.svn else s.fuseSvn) ∧
      Noted { s with startRec := t.startRec, i3c := t.i3c, early := false, fuseSvn := t.fuseSvn } t) ∧
    (s.devSt ≠ .running ∨ s.early = false ∨ s.fatalLatch = true → exec .startSuccess s = .next s) ∧
    (s.romWait = .record → ∃ t, exec .startRecordTimeout s = .next t ∧ t.startRec = { serial := s.ident.serial } ∧
      t.devSt = .awaitFw ∧ t.romWait = .none ∧ t.i3c = { s.i3c with recReq := false } ∧
      t = { s with startRec := t.startRec, devSt := t.devSt, romWait := t.romWait, i3c := t.i3c, evr := t.evr }) ∧
    (s.romWait ≠ .record → exec .startRecordTimeout s = .next s) ∧
    (s.i3c.recUpd = true → ∃ t, exec .bmcRecordWriteTimeout s = .next t ∧ t.i3c = { s.i3c with recUpd := false } ∧
      t.romWait = (if s.romWait = .opening then .none else s.romWait) ∧ t = { s with i3c := t.i3c, romWait := t.romWait, evr := t.evr } ∧
      (s.evr.frozen = false → ∃ r, mapFind t.evr.window (s.evr.next.toNat % 4096) = some r ∧ r.cls = 0x48)) ∧
    (s.i3c.recUpd = false → exec .bmcRecordWriteTimeout s = .next s))

/-- An error joins the tail entry that is like it, or the queue, or its class's overflow count; a fatal one sets the latch; one
that poisons memory or faults a Room does so at once. The Study takes the head of the queue, writes its record and starts the
actions of its severity: an error of a context fails the context; one of an earlier episode is escalated, a context's to
FATAL; one of a failed context is only recorded. -/
def Obligations.ErrorQueueAndEpisodes : Prop :=
  (∀ (s : State) (e : Err),
    let d := { e with stamp := s.hc }
    let like (t : Err) := severity e.cls ≤ 1 ∧ t.cls = e.cls ∧ t.unit = e.unit ∧ t.code = e.code ∧ t.addr = e.addr
    let latch : State := if severity e.cls = 4 then
      { s with fatalLatch := true, fatalErr := if s.fatalLatch then s.fatalErr else some d } else s
    (s.romWait = .reset → exec (.errorArrival e) s = .next s) ∧
    (s.romWait ≠ .reset → e.cls ∉ [0x07, 0x19, 0x1B, 0x1F] →
      (∀ q t, s.errQ = q ++ [t] → like t →
        exec (.errorArrival e) s = .next { s with errQ := q ++ [{ t with count := t.count + e.count }] }) ∧
      ((∀ t, s.errQ.getLast? = some t → ¬like t) →
        (s.errQ.length < 16 → exec (.errorArrival e) s = .next { latch with errQ := s.errQ ++ [d] }) ∧
        (16 ≤ s.errQ.length → exec (.errorArrival e) s = .next { latch with
          errOvf := mapSet s.errOvf e.cls (mapGet 0 s.errOvf e.cls + 1)
          reported := s.reported.filter fun k => k != e.cls * 2 ^ 16 + e.unit }))) ∧
    (s.romWait ≠ .reset → s.errQ.length < 16 →
      (∀ key, (e.cls = 0x19 ∧ key = tier0Key (e.addr.toNat % 2 ^ 45)) ∨ (e.cls = 0x1B ∧ key = pantryKey (e.unit / 256) e.addr.toNat) ∨
          (e.cls = 0x1F ∧ key = cellarKey (e.unit / 4) e.addr.toNat) →
        exec (.errorArrival e) s = .next { s with poison := unitAdd s.poison (key / 64), errQ := s.errQ ++ [d] }) ∧
      (e.cls = 0x07 → ∃ t, exec (.errorArrival e) s = .next t ∧ t.errQ = s.errQ ++ [d] ∧ t = { s with rooms := t.rooms, errQ := t.errQ } ∧
        let r : RoomId := BitVec.ofNat 10 e.unit
        (∀ q, q ≠ r → t.room q = s.room q) ∧ t.room r = { s.room r with
          runst := .fault, cause := some (7, e.code.toNat), firePending := false, switching := none }))) ∧
  (∀ (s : State) (took : W64),
    (s.errQ = [] ∨ ¬QueueServed s → exec (.errorEpisode took) s = .next s) ∧
    ∀ e rest, s.errQ = e :: rest → QueueServed s →
      let sev := severity e.cls
      let pure := e.cls ∉ [0x18, 0x19, 0x1A, 0x1B, 0x1C, 0x1D, 0x1E, 0x1F]
      let taken (t : State) := t.errQ = rest ∧
        (∃ p ∈ t.episodes, p.cls = e.cls ∧ p.unit = e.unit ∧ p.start = s.hc ∧ p.stop = s.hc + took ∧ p.seq = s.evr.next) ∧
        t = { s with errQ := t.errQ, sweepDue := t.sweepDue, episodes := t.episodes, reported := t.reported, evr := t.evr }
      (s.absorbs e = true → ∃ t, exec (.errorEpisode took) s = .next t ∧ Recorded s t e sev false true ∧ taken t) ∧
      (s.absorbs e = false → s.nestedIn e = none →
        (sev ≠ 3 → pure ∨ s.devSt = .fatal →
          ∃ t, exec (.errorEpisode took) s = .next t ∧ Recorded s t e sev false false ∧ taken t) ∧
        (∀ c, e.ctx = some c → e.src ≠ 8 → sev = 3 → e.cls ≠ 7 → s.devSt ≠ .fatal →
          (s.ctx c).st ≠ .free → (s.ctx c).st ≠ .failed →
          ∃ t, exec (.errorEpisode took) s = .next t ∧ Recorded s t e 3 false false ∧ (t.ctx c).st = .failed ∧
            (t.ctx c).cause = (failureOf e).1 ∧ (t.ctx c).failId = BitVec.ofNat 16 (failureOf e).2.1 ∧
            (t.ctx c).failCode = BitVec.ofNat 8 (failureOf e).2.2)) ∧
      (∀ p, s.absorbs e = false → s.nestedIn e = some p →
        (sev = 3 → ∃ t, exec (.errorEpisode took) s = .next t ∧ t.fatalLatch = true ∧ t.fatalErr = some e ∧ t.evr = s.evr ∧ t.errQ = rest) ∧
        (sev < 2 → pure → ∃ t, exec (.errorEpisode took) s = .next t ∧ Recorded s t e (sev + 1) true false ∧ taken t)))

/-- An error of a context that has failed is absorbed: its record carries ABSORBED = 1, and it takes no action and is never
escalated. -/
def Obligations.AbsorbedErrors : Prop :=
  ∀ (s : State) (took : W64) (e : Err) (rest : List Err) (c : CtxId), s.errQ = e :: rest → QueueServed s → e.ctx = some c →
    (s.ctx c).st = .failed →
    ∃ t, exec (.errorEpisode took) s = .next t ∧ Recorded s t e (severity e.cls) false true ∧
      t = { s with errQ := rest, sweepDue := t.sweepDue, episodes := t.episodes, reported := t.reported, evr := t.evr }

/-- A class that overflowed is recorded with its count, and lasting states not reported are raised again; a fatal error stops
every port, freezes the Recorder behind the records of the queue, and pushes it. -/
def Obligations.SweepAndFatal : Prop :=
  ∀ (s : State),
    (s.sweepDue = false ∨ s.fatalLatch = true ∨ s.romWait = .reset → exec .overflowSweep s = .next s) ∧
    (∀ cls n, s.sweepDue = true → s.fatalLatch = false → s.romWait ≠ .reset → s.errOvf = [(cls, n)] → n ≠ 0 → s.evr.frozen = false →
      ∃ t, exec .overflowSweep s = .next t ∧ t.sweepDue = false ∧ t.evr.next = s.evr.next + 1 ∧
        (∃ r, mapFind t.evr.window (s.evr.next.toNat % 4096) = some r ∧ r.cls = 0x4A ∧ r.code = BitVec.ofNat 8 cls ∧ r.count = n) ∧
        (s.lastingErrors = [] → t.errQ = s.errQ ∧ t.errOvf = []) ∧
        ∀ e ∈ s.lastingErrors, s.errQ = [] → s.lastingErrors.length ≤ 16 → reportKey e.cls e.unit ∉ s.reported →
          ∃ d ∈ t.errQ, d.cls = e.cls ∧ d.unit = e.unit) ∧
    (∀ h, s.fatalErr = none ∨ s.fatalLatch = false ∨ s.romWait = .reset → exec (.fatalLatch h) s = .next s) ∧
    (∀ h e, s.fatalErr = some e → s.fatalLatch = true → s.romWait ≠ .reset →
      ∃ t, exec (.fatalLatch h) s = .next t ∧ t.fatalLatch = false ∧ t.fatalErr = none ∧
        (Agree s.evr.hostbuf ∨ s.evr.frozen = true → t.errQ = []) ∧ t.errOvf = [] ∧
        let starts := s.early = true ∧ s.devSt ≠ .fatal
        let low := starts ∧ t.startRec.fails = 3
        t.evr.frozen = true ∧ (∀ p, (t.port p).st = .disabled) ∧ t.devIstat = s.devIstat ||| 1 ∧
        (s.early = false ∨ s.devSt = .fatal → t.devSt = (if s.devSt = .minimal then .minimal else .fatal) ∧ t.startRec = s.startRec) ∧
        (s.early = true → s.devSt ≠ .fatal → t.startRec.fails = min 3 (s.startRec.fails + 1) ∧ t.devReason = 0x0B ∧
          t.devSt = (if s.devSt = .minimal ∨ t.startRec.fails = 3 then .minimal else .fatal)) ∧
        (low → LeftMinimal t) ∧
        (s.evr.frozen = true → (¬low → t.mem = s.mem) ∧ t.i3c.pushReady = s.i3c.pushReady) ∧
        (s.evr.frozen = false → t.i3c.pushReady = true ∧
          let base := ringBase s.evr.hostbuf
          let can := s.evr.pushHost = true ∧ base ≠ 0 ∧ h = true ∧ s.hostUp = true
          (can → t.evr.hostDone = true) ∧ (¬can → t.evr.hostFail = true ∧ (¬low → t.mem = s.mem)) ∧
          (s.errQ = [] ∨ (s.errQ = [e] ∧ severity e.cls = 4) → ∃ r, mapFind t.evr.window (s.evr.next.toNat % 4096) = some r ∧
            r.cls = e.cls ∧ r.sev = 4)))

/-- A pass of the power loop reads the telemetry, moves the ladder up at once and down after 1,000 calm passes, steps each die's
clock by its power and temperature, and caps the Pantry grants; a die under the guard or in stage 4 stands at step 15. A
supply that does not answer is read at its maximum and recorded once for each bus (the record's class is the model's choice,
assumption 85). The host sets the package limit within the grade's, and reads limit, powers, temperatures, steps and energy. -/
def Obligations.PowerAndThrottle : Prop :=
  (∀ (s : State) (tel : Telemetry),
    (s.live = false → exec (.powerLoopPass tel) s = .next s) ∧
    (s.live = true → ∃ t, exec (.powerLoopPass tel) s = .next t ∧
      Noted { s with power := t.power, fresh := t.fresh, evr := t.evr } t ∧
      let quiet (i : Nat) : Prop := bitOf tel.silent.toNat i = true
      let r : Telemetry := { tel with
        die := (List.range 4).map fun d => if bitOf tel.silent.toNat d then railMax else tel.die.getD d 0 }
      ((∀ i, i < 6 → quiet i → i ∈ s.power.silent) → t.evr = s.evr) ∧ (∀ i, i < 6 → quiet i → i ∈ t.power.silent) ∧
      (∀ i, i < 6 → i ∉ s.power.silent → (∀ k, k < 6 → (quiet k ∧ k ∉ s.power.silent ↔ k = i)) → s.evr.frozen = false →
        t.evr.next = s.evr.next + 1 ∧ ∃ e, mapFind t.evr.window (s.evr.next.toNat % 4096) = some e ∧
          e.cls = Config.busClass.toNat ∧ e.unit = i) ∧
      let hot := if tel.tj.any fun x => decide (100 ≤ x) then s.power.hot + 1 else 0
      let m : State := { s with power := { s.power with last := r, energy := s.power.energy + tel.energy, hot } }
      t.power.last = r ∧ t.power.energy = s.power.energy + tel.energy ∧ t.power.hot = hot ∧ t.power.limit = s.power.limit ∧
      (∀ n, 1 ≤ n → n ≤ 4 → m.stageHolds n = true → (∀ k, n < k → k ≤ 4 → m.stageHolds k = false) → s.power.stage < n →
        t.power.stage = n ∧ ErrorNoted s t 0x40 (Config.unitOf 0x40)) ∧
      ((∀ k, s.power.stage < k → k ≤ 4 → m.stageHolds k = false) →
        (s.power.stage = 0 → t.power.stage = 0) ∧
        (1 ≤ s.power.stage → s.power.stage ≤ 4 →
          (m.stageHolds s.power.stage = true → t.power.stage = s.power.stage ∧ t.power.calm = 0) ∧
          (m.stageHolds s.power.stage = false → s.power.calm + 1 < 1000 →
            t.power.stage = s.power.stage ∧ t.power.calm = s.power.calm + 1) ∧
          (m.stageHolds s.power.stage = false → 1000 ≤ s.power.calm + 1 → m.coolFalls = true →
            t.power.stage = s.power.stage - 1 ∧ t.power.calm = 0 ∧ ErrorNoted s t 0x40 (Config.unitOf 0x40)))) ∧
      (∀ d, d < 4 →
        let p4 := 4 * r.die.getD d 0
        let lim := t.dieLimit4
        let tj := tel.tj.getD d 0
        let held := t.power.stage = 4 ∨ s.brake.level = true
        (held → t.dieStep d = 15) ∧
        (¬held → lim < p4 ∨ s.tjTarget < tj → 0 < lim →
          t.dieStep d = min 15 (s.dieStep d + min 4 (max 1 ((64 * (p4 - lim) + lim - 1) / lim)))) ∧
        (¬held → p4 ≤ lim → tj ≤ s.tjTarget → 100 * p4 ≤ 95 * lim → tj + 3 ≤ s.tjTarget → t.dieStep d = s.dieStep d - 1) ∧
        (¬held → p4 ≤ lim → tj ≤ s.tjTarget → 95 * lim < 100 * p4 ∨ s.tjTarget < tj + 3 → t.dieStep d = s.dieStep d)) ∧
      (let v := if 240 < tel.pantry then max 4 (s.power.k - 1) else if tel.pantry < 228 then min 16 (s.power.k + 1) else s.power.k
       (t.power.stage = 4 ∨ s.brake.level = true → t.power.k = 4) ∧
       (t.power.stage = 3 → s.brake.level = false → t.power.k = min v 8) ∧
       (t.power.stage < 3 → s.brake.level = false → t.power.k = v) ∧
       (s.power.k = 16 → t.power.k ≠ 16 → (s.lbx 0).events < 256 → ∃ e ∈ (t.lbx 0).outq, e.event = true ∧ e.opcode = 0x800B)))) ∧
  (∀ (s : State) (q : Req),
    let u := s.begun q
    let w := reqNat q 16 2
    let per (f : Nat → Nat × Nat × Nat) := (List.range 4).map f
    (Accepted s q 0x0005 [(16, 0, 16)] [(16, decide (w < 1000) || decide (Config.gradeLimit < w))] →
      Answers (.powerSet q) s q { u with power := { s.power with limit := w } } 0) ∧
    (Next s q 0x0005 → (s.begun q).frameRefusal q 0x0005 = none → w < 1000 ∨ Config.gradeLimit < w →
      payloadBad q [(16, 0, 16)] [] = none → Answers (.powerSet q) s q u 0x12 16) ∧
    (Accepted s q 0x0006 [] [] → Answers (.powerRead q) s q u 0 0
      ([(16, 2, s.pkgLimit), (18, 2, s.pkgW)] ++ per (fun d => (20 + 2 * d, 2, s.power.last.die.getD d 0)) ++
        per (fun d => (28 + d, 1, s.power.last.tj.getD d 0)) ++ per (fun d => (32 + d, 1, s.dieStep d)) ++
        [(36, 2, s.power.last.pantry), (38, 2, s.power.last.io), (40, 2, s.power.last.sram), (42, 1, s.power.k),
          (48, 8, s.power.energy.toNat)])) ∧
    s.pkgLimit ≤ s.power.limit ∧ (s.power.stage = 3 → s.pkgLimit ≤ 1000) ∧ (s.power.stage = 4 → s.pkgLimit ≤ 900))

/-- PWR_BRAKE# guards every die and the Pantry grants at once, TRAY_LATCH tells the jobs that this device leaves and is fatal, and
a junction trip is fatal; a release of the levels undoes nothing else. An input that chatters is treated as held asserted,
with one record an episode, until it has been quiet for 16 ms; an input held long is reported every 60 s. -/
def Obligations.SidebandPins : Prop :=
  (∀ (s : State),
    let guarded (t : State) := ∀ d, d < 4 → t.dieStep d = 15
    (s.brake.level = true → exec .pwrBrakeAssert s = .next s) ∧
    (s.brake.level = false →
      let b : Pin := { s.brake with level := true, held := 0, asserts := s.brake.asserts + 1 }
      (s.romWait = .reset → exec .pwrBrakeAssert s = .next { s with brake := b }) ∧
      (s.romWait ≠ .reset → ∃ t, exec .pwrBrakeAssert s = .next t ∧ t.brake = b ∧ guarded t ∧ t.power.k = 4 ∧
        ErrorNoted s t 0x41 0 ∧ Noted { s with brake := b, power := t.power, fresh := t.fresh } t)) ∧
    (s.brake.chatter = true → exec .pwrBrakeRelease s = .next s) ∧
    (s.brake.chatter = false → exec .pwrBrakeRelease s = .next { s with brake := { s.brake with level := false } }) ∧
    (s.latch.level = true → exec .trayLatchAssert s = .next s) ∧
    (s.latch.level = false →
      let l : Pin := { s.latch with level := true, held := 0, asserts := s.latch.asserts + 1 }
      (s.romWait = .reset → exec .trayLatchAssert s = .next { s with latch := l }) ∧
      (s.romWait ≠ .reset → s.devSt = .fatal → exec .trayLatchAssert s =
        .next { s with latch := l, evr := { s.evr with departOwed := s.evr.departOwed + 1 } }) ∧
      (s.romWait ≠ .reset → s.devSt ≠ .fatal → ∃ t, exec .trayLatchAssert s = .next t ∧ t.latch = l ∧ t.fatalLatch = true ∧
        ErrorNoted s t 0x44 1 ∧ Noted { s with latch := l, ports := t.ports, slotWait := t.slotWait, arrived := t.arrived } t ∧
        ∀ j, s.jobs = [j] → j.isManager = false → ∃ m, Sent { s with latch := l } m ∧
          m = ({ s with latch := l } : State).stew j.tag j.manager 7 ∧ t.ports = m.ports ∧ t.arrived = m.arrived)) ∧
    (s.latch.chatter = true → exec .trayLatchRelease s = .next s) ∧
    (s.latch.chatter = false → exec .trayLatchRelease s = .next { s with latch := { s.latch with level := false } }) ∧
    (∀ d, s.romWait = .reset → exec (.thermTrip d) s = .next s) ∧
    (∀ d, s.romWait ≠ .reset → ∃ t, exec (.thermTrip d) s = .next t ∧ t.thermTrip = true ∧ guarded t ∧ t.fatalLatch = true ∧
      ErrorNoted s t 0x42 3 ∧ Noted { s with thermTrip := true, power := t.power, fresh := t.fresh } t)) ∧
  (∀ (s : State),
    let mark (p : Pin) : Pin := { p with chatter := true, episodes := p.episodes + 1 }
    (s.brake.chatter = true → exec (.sidebandChatter 0) s = .next s) ∧
    (s.latch.chatter = true → exec (.sidebandChatter 1) s = .next s) ∧
    (s.rst.chatter = true → exec (.sidebandChatter 2) s = .next s) ∧
    (s.romWait ≠ .reset → s.brake.chatter = false →
      (s.brake.level = true → ∃ t, exec (.sidebandChatter 0) s = .next t ∧ ErrorNoted s t 0x43 0 ∧
        Noted { s with brake := mark s.brake } t) ∧
      (s.brake.level = false → ∃ t, exec (.sidebandChatter 0) s = .next t ∧ ErrorNoted s t 0x43 0 ∧
        t.brake = { mark s.brake with level := true, held := 0 } ∧ (∀ d, d < 4 → t.dieStep d = 15) ∧ t.power.k = 4)) ∧
    (s.romWait ≠ .reset → s.latch.chatter = false →
      (s.latch.level = true → ∃ t, exec (.sidebandChatter 1) s = .next t ∧ ErrorNoted s t 0x43 1 ∧
        Noted { s with latch := mark s.latch } t) ∧
      (s.latch.level = false → s.devSt ≠ .fatal → ∃ t, exec (.sidebandChatter 1) s = .next t ∧ ErrorNoted s t 0x43 1 ∧
        t.latch = { mark s.latch with level := true, held := 0 } ∧ t.fatalLatch = true)) ∧
    (s.rst.chatter = false →
      (s.rst.level = true → exec (.sidebandChatter 2) s = .next { s with rst := { mark s.rst with level := true } }) ∧
      (s.rst.level = false → ∃ t, exec (.sidebandChatter 2) s = .next t ∧ BeyondReset s t ∧
        t.rst = { mark s.rst with level := true } ∧ t.ctxs = [] ∧ t.romWait = .reset)) ∧
    (let rest (p : Pin) : Pin := if p.chatter then { p with chatter := false, level := false } else p
     exec (.chatterEnd 0) s = .next { s with brake := rest s.brake } ∧
     exec (.chatterEnd 1) s = .next { s with latch := rest s.latch } ∧
     exec (.chatterEnd 2) s = .next { s with rst := { s.rst with chatter := false } }) ∧
    (∀ pin, s.live = false → exec (.sidebandHeldReport pin) s = .next s) ∧
    (s.live = true →
      (s.brake.level = true → ∃ t, exec (.sidebandHeldReport 0) s = .next t ∧ ErrorNoted s t 0x43 0 ∧
        Noted { s with brake := { s.brake with held := s.brake.held + 60 } } t) ∧
      (s.latch.level = true → ∃ t, exec (.sidebandHeldReport 1) s = .next t ∧ ErrorNoted s t 0x43 1 ∧
        Noted { s with latch := { s.latch with held := s.latch.held + 60 } } t) ∧
      (s.brake.level = false → exec (.sidebandHeldReport 0) s = .next s) ∧
      (s.latch.level = false → exec (.sidebandHeldReport 1) s = .next s)))

/-- The BMC acknowledges a push, supplies and stores the start record, and gives the coolant temperature; each goes on with what
waited for it. The I3C target takes and gives up its address, enables its events, answers the common reads, and serves its
registers to private transfers, once it has power and an address. A private write of no bytes reads from its offset; one of
bytes reaches the register it names: BMC_ACK, BMC_COOLANT or BMC_RECORD. -/
def Obligations.TrayBmc : Prop :=
  (∀ (s : State) (v : W32),
    (s.i3c.pushReady = true → exec .bmcPushInterrupt s =
      .next (if s.i3c.intEn then { s with i3c := { s.i3c with ibis := s.i3c.ibis ++ [1] } } else s)) ∧
    (s.i3c.pushReady = false → exec .bmcPushInterrupt s = .next s ∧ exec .bmcAckPushed s = .next s) ∧
    (s.i3c.pushReady = true → exec .bmcAckPushed s =
      .next { s with i3c := { s.i3c with pushReady := false }, evr := { s.evr with bmcDone := true } }) ∧
    (s.i3c.recReq = false → exec .bmcAckSupplied s = .next s) ∧
    (s.i3c.recReq = true → s.romWait ≠ .record → exec .bmcAckSupplied s = .next { s with i3c := { s.i3c with recReq := false } }) ∧
    (s.i3c.recReq = true → s.romWait = .record →
      (∀ r, startRecOf s.ident.serial s.i3c.record = some r → r.opened = false → r.fails < 3 → exec .bmcAckSupplied s =
        .next { s with i3c := { s.i3c with recReq := false }, startRec := r, romWait := .none, devSt := .awaitFw }) ∧
      (∀ r, startRecOf s.ident.serial s.i3c.record = some r → r.opened = true → ∃ t, exec .bmcAckSupplied s = .next t ∧
        t.startRec.fails = min 3 (r.fails + 1) ∧ t.startRec.opened = false ∧ t.devReason = 1 ∧
        t.startRec.e2 = { r.pending with reason := 1, detail := BitVec.ofNat 64 s.startCause } ∧
        t.devSt = (if t.startRec.fails = 3 then .minimal else .awaitFw)) ∧
      (∀ r, startRecOf s.ident.serial s.i3c.record = some r → r.opened = false → r.fails = 3 → ∃ t, exec .bmcAckSupplied s = .next t ∧
        t.startRec = r ∧ LeftMinimal t) ∧
      (startRecOf s.ident.serial s.i3c.record = none → ∃ t, exec .bmcAckSupplied s = .next t ∧
        t.startRec = { serial := s.ident.serial } ∧ t.devSt = .awaitFw ∧ t.romWait = .none)) ∧
    (s.i3c.recUpd = false → exec .bmcAckStored s = .next s) ∧
    (s.i3c.recUpd = true → exec .bmcAckStored s = .next { s with
      i3c := { s.i3c with recUpd := false }, romWait := if s.romWait = .opening then .none else s.romWait }) ∧
    (s.romWait = .reset → exec (.bmcCoolantWrite v) s = .next s ∧ exec .coolantAbsent s = .next s) ∧
    (s.romWait ≠ .reset →
      let w : State := { s with i3c := { s.i3c with coolant := v &&& 0x1FFFF, coolantSeen := true } }
      (bitOf v.toNat 16 = true → exec (.bmcCoolantWrite v) s = .next { w with coolantAbsent := false }) ∧
      (bitOf v.toNat 16 = false → s.coolantAbsent = true → exec (.bmcCoolantWrite v) s = .next w) ∧
      (bitOf v.toNat 16 = false → s.coolantAbsent = false → ∃ t, exec (.bmcCoolantWrite v) s = .next t ∧
        ErrorNoted s t 0x45 4 ∧ Noted { w with coolantAbsent := true } t) ∧
      (s.coolantAbsent = true → exec .coolantAbsent s = .next s) ∧
      (s.coolantAbsent = false → ∃ t, exec .coolantAbsent s = .next t ∧ ErrorNoted s t 0x45 4 ∧
        Noted { s with coolantAbsent := true } t))) ∧
  (∀ (s : State) (a b : BitVec 7) (e : Byte) (off : BitVec 24) (data : List Byte),
    (s.romWait = .reset →
      (∀ c ∈ [Instr.entdaa a, .setdasa b a, .rstdaa, .enec e, .disec e, .getpid, .getbcr, .getdcr, .getmxds, .i3cPrivateWrite off data],
        exec c s = .next s) ∧ exec .getstatus s = .next s.bumpFree) ∧
    (s.romWait ≠ .reset →
      let joined : State := { s with i3c := { s.i3c with addr := some a, hotJoin := false } }
      (s.i3c.addr = none → exec (.entdaa a) s = .next joined ∧ exec (.setdasa 0x4C a) s = .next joined ∧
        (b ≠ 0x4C → exec (.setdasa b a) s = .next s) ∧ exec .getpid s = .next s ∧ exec (.i3cPrivateWrite off data) s = .next s) ∧
      (s.i3c.addr ≠ none → exec (.entdaa a) s = .next s ∧ exec (.setdasa b a) s = .next s) ∧
      exec .rstdaa s = .next { s with i3c := { s.i3c with addr := none } } ∧
      (∀ on c, (on = true ∧ c = .enec e) ∨ (on = false ∧ c = .disec e) → exec c s = .next { s with i3c := { s.i3c with
        intEn := if bitOf e.toNat 0 then on else s.i3c.intEn, hjEn := if bitOf e.toNat 3 then on else s.i3c.hjEn } }) ∧
      (s.i3c.addr ≠ none →
        let answers (l : List Byte) : State := { s with i3c := { s.i3c with reply := l } }
        exec .getstatus s = .next { answers (natLe 2 (Config.freeWord s.fresh).toNat) with fresh := s.fresh + 1 } ∧
        exec .getpid s = .next (answers ((List.range 6).map (Config.i3cBytes 0))) ∧
        exec .getbcr s = .next (answers [Config.i3cBytes 1 0]) ∧ exec .getdcr s = .next (answers [Config.i3cBytes 2 0]) ∧
        exec .getmxds s = .next (answers ((List.range 2).map (Config.i3cBytes 3)))))) ∧
  (∀ (s : State) (off : BitVec 24) (data : List Byte), s.romWait ≠ .reset → s.i3c.addr ≠ none →
    (∃ t, exec (.i3cPrivateWrite off []) s = .next t ∧ t = { s with i3c := { s.i3c with offset := off, reply := t.i3c.reply } } ∧
      t.i3c.reply.length = 256 ∧
      (off = 0 → t.i3c.reply.take 4 = natLe 4 (boolNat s.i3c.pushReady + 2 * boolNat s.i3c.recReq + 4 * boolNat s.i3c.recUpd +
        8 * boolNat s.evr.frozen + 16 * s.power.stage + 256 * devStNum s.devSt)) ∧
      (off = 8 → t.i3c.reply.take 4 = natLe 4 s.i3c.coolant.toNat) ∧
      (off = 12 → t.i3c.reply.take 2 = natLe 2 s.pkgW) ∧
      (off = 0x100 → s.i3c.record.length = 128 → t.i3c.reply.take 128 = s.i3c.record)) ∧
    (∀ v : Byte, bitOf v.toNat 0 = true → bitOf v.toNat 1 = false → bitOf v.toNat 2 = false → s.i3c.pushReady = true →
      ∃ t, exec (.i3cPrivateWrite 4 [v]) s = .next t ∧ t.evr = { s.evr with bmcDone := true } ∧ t.i3c.pushReady = false ∧
        t = { s with evr := t.evr, i3c := t.i3c }) ∧
    (∀ v : W32, bitOf v.toNat 16 = true → ∃ t, exec (.i3cPrivateWrite 8 (natLe 4 v.toNat)) s = .next t ∧
      t.i3c.coolant = v &&& 0x1FFFF ∧ t.coolantAbsent = false ∧ t = { s with i3c := t.i3c, coolantAbsent := false }) ∧
    (data.length = 128 → ∃ t, exec (.i3cPrivateWrite 0x100 data) s = .next t ∧ t.i3c.record = data ∧ t = { s with i3c := t.i3c }) ∧
    (0x180 ≤ off.toNat → ∃ t, exec (.i3cPrivateWrite off data) s = .next t ∧
      t = { s with i3c := { s.i3c with offset := t.i3c.offset, reply := t.i3c.reply } }))

/-- Every step keeps the canonical form of memory. -/
def Obligations.MemoryStaysCanonical : Prop :=
  ∀ (s t : State), step s = .next t → MemoryCanonical s → MemoryCanonical t

/-- Every step keeps the error queue within its 16 entries and the violation queue within its 8, and no fuse of the security
version number clears. A command leaves the commands that wait as they are, in their order. -/
def Obligations.QueuesAndFusesStay : Prop :=
  (∀ (s t : State), step s = .next t → (QueuesBounded s → QueuesBounded t) ∧
    (s.fuseSvn ≤ 64 → t.fuseSvn ≤ 64 ∧ s.fuseSvn ≤ t.fuseSvn)) ∧
  (∀ (c : Instr) (s t : State), exec c s = .next t → t.pending = s.pending)

/-- Every step keeps the page tables apart: no table serves two places, and each lies where its kind does (the model's own
placement, assumption 28). -/
def Obligations.TablesStayApart : Prop :=
  ∀ (s t : State), step s = .next t → TablesApart s → TablesApart t

/-- The state under the first cold reset, as far as the spec gives it: ROM with no reason, no key, no VF, no context, no
violation, ID_NODE 0xFFFF, the Recorder not frozen with PUSH_HOST set, Letterboxes disabled; and the invariants hold there. -/
def Obligations.ResetState : Prop :=
  let s := State.reset
  MemoryCanonical s ∧ QueuesBounded s ∧ TablesApart s ∧ s.pending = [] ∧
  s.devSt = .rom ∧ s.devReason = 0 ∧ s.lock = {} ∧ s.devIstat = 0 ∧ s.hc = 0 ∧ s.idNode = 0xFFFF ∧ s.numVfs = 0 ∧
  s.evr.pushHost = true ∧ s.evr.frozen = false ∧ s.evr.next = 0 ∧ s.power.limit = Config.gradeLimit ∧ s.power.k = 16 ∧
  s.power.stage = 0 ∧ (∀ l, (s.lbx l).enable = false ∧ (s.lbx l).ready = false ∧ (s.lbx l).reqProd = 0) ∧
  (∀ c, (s.ctx c).st = .free) ∧ (∀ p, (s.port p).st = .disabled) ∧ (∀ g, (s.wing g).ctx = none)
end

