-- ==== Sys2Proof/Laws/State.lean ====
section
/-! SUPPORT. One lemma per field per update of the state, true by unfolding, so that no proof opens a record update. -/

namespace Sys2Proof.Machine

variable (s : State)

/-! ### setRoom -/

@[simp] theorem State.setRoom_pending (r : RoomId) (x : Room) : (s.setRoom r x).pending = s.pending := rfl
@[simp] theorem State.setRoom_mem (r : RoomId) (x : Room) : (s.setRoom r x).mem = s.mem := rfl
@[simp] theorem State.setRoom_poison (r : RoomId) (x : Room) : (s.setRoom r x).poison = s.poison := rfl
@[simp] theorem State.setRoom_fresh (r : RoomId) (x : Room) : (s.setRoom r x).fresh = s.fresh := rfl
@[simp] theorem State.setRoom_rooms (r : RoomId) (x : Room) : (s.setRoom r x).rooms = mapSet s.rooms r.toNat x := rfl
@[simp] theorem State.setRoom_wings (r : RoomId) (x : Room) : (s.setRoom r x).wings = s.wings := rfl
@[simp] theorem State.setRoom_accesses (r : RoomId) (x : Room) : (s.setRoom r x).accesses = s.accesses := rfl
@[simp] theorem State.setRoom_nextAcc (r : RoomId) (x : Room) : (s.setRoom r x).nextAcc = s.nextAcc := rfl
@[simp] theorem State.setRoom_slices (r : RoomId) (x : Room) : (s.setRoom r x).slices = s.slices := rfl
@[simp] theorem State.setRoom_tbufs (r : RoomId) (x : Room) : (s.setRoom r x).tbufs = s.tbufs := rfl
@[simp] theorem State.setRoom_roots (r : RoomId) (x : Room) : (s.setRoom r x).roots = s.roots := rfl
@[simp] theorem State.setRoom_tables (r : RoomId) (x : Room) : (s.setRoom r x).tables = s.tables := rfl
@[simp] theorem State.setRoom_leafTabs (r : RoomId) (x : Room) : (s.setRoom r x).leafTabs = s.leafTabs := rfl
@[simp] theorem State.setRoom_subTabs (r : RoomId) (x : Room) : (s.setRoom r x).subTabs = s.subTabs := rfl
@[simp] theorem State.setRoom_used (r : RoomId) (x : Room) : (s.setRoom r x).used = s.used := rfl
@[simp] theorem State.setRoom_spreadGroups (r : RoomId) (x : Room) : (s.setRoom r x).spreadGroups = s.spreadGroups := rfl
@[simp] theorem State.setRoom_localGroups (r : RoomId) (x : Room) : (s.setRoom r x).localGroups = s.localGroups := rfl
@[simp] theorem State.setRoom_stackCh (r : RoomId) (x : Room) : (s.setRoom r x).stackCh = s.stackCh := rfl
@[simp] theorem State.setRoom_groupFrames (r : RoomId) (x : Room) : (s.setRoom r x).groupFrames = s.groupFrames := rfl
@[simp] theorem State.setRoom_chanLost (r : RoomId) (x : Room) : (s.setRoom r x).chanLost = s.chanLost := rfl
@[simp] theorem State.setRoom_annexUp (r : RoomId) (x : Room) : (s.setRoom r x).annexUp = s.annexUp := rfl
@[simp] theorem State.setRoom_decoders (r : RoomId) (x : Room) : (s.setRoom r x).decoders = s.decoders := rfl
@[simp] theorem State.setRoom_extents (r : RoomId) (x : Room) : (s.setRoom r x).extents = s.extents := rfl
@[simp] theorem State.setRoom_dws (r : RoomId) (x : Room) : (s.setRoom r x).dws = s.dws := rfl
@[simp] theorem State.setRoom_streams (r : RoomId) (x : Room) : (s.setRoom r x).streams = s.streams := rfl
@[simp] theorem State.setRoom_modelWork (r : RoomId) (x : Room) : (s.setRoom r x).modelWork = s.modelWork := rfl
@[simp] theorem State.setRoom_revs (r : RoomId) (x : Room) : (s.setRoom r x).revs = s.revs := rfl
@[simp] theorem State.setRoom_moves (r : RoomId) (x : Room) : (s.setRoom r x).moves = s.moves := rfl
@[simp] theorem State.setRoom_nextWork (r : RoomId) (x : Room) : (s.setRoom r x).nextWork = s.nextWork := rfl
@[simp] theorem State.setRoom_ctxs (r : RoomId) (x : Room) : (s.setRoom r x).ctxs = s.ctxs := rfl
@[simp] theorem State.setRoom_bolts (r : RoomId) (x : Room) : (s.setRoom r x).bolts = s.bolts := rfl
@[simp] theorem State.setRoom_boltQ (r : RoomId) (x : Room) : (s.setRoom r x).boltQ = s.boltQ := rfl
@[simp] theorem State.setRoom_boltRsp (r : RoomId) (x : Room) : (s.setRoom r x).boltRsp = s.boltRsp := rfl
@[simp] theorem State.setRoom_services (r : RoomId) (x : Room) : (s.setRoom r x).services = s.services := rfl
@[simp] theorem State.setRoom_seqs (r : RoomId) (x : Room) : (s.setRoom r x).seqs = s.seqs := rfl
@[simp] theorem State.setRoom_seqGen (r : RoomId) (x : Room) : (s.setRoom r x).seqGen = s.seqGen := rfl
@[simp] theorem State.setRoom_heldRot (r : RoomId) (x : Room) : (s.setRoom r x).heldRot = s.heldRot := rfl
@[simp] theorem State.setRoom_nextDone (r : RoomId) (x : Room) : (s.setRoom r x).nextDone = s.nextDone := rfl
@[simp] theorem State.setRoom_porchOut (r : RoomId) (x : Room) : (s.setRoom r x).porchOut = s.porchOut := rfl
@[simp] theorem State.setRoom_nextMsg (r : RoomId) (x : Room) : (s.setRoom r x).nextMsg = s.nextMsg := rfl
@[simp] theorem State.setRoom_handoffT (r : RoomId) (x : Room) : (s.setRoom r x).handoffT = s.handoffT := rfl
@[simp] theorem State.setRoom_ports (r : RoomId) (x : Room) : (s.setRoom r x).ports = s.ports := rfl
@[simp] theorem State.setRoom_slotTab (r : RoomId) (x : Room) : (s.setRoom r x).slotTab = s.slotTab := rfl
@[simp] theorem State.setRoom_slotBack (r : RoomId) (x : Room) : (s.setRoom r x).slotBack = s.slotBack := rfl
@[simp] theorem State.setRoom_slotWait (r : RoomId) (x : Room) : (s.setRoom r x).slotWait = s.slotWait := rfl
@[simp] theorem State.setRoom_fabric (r : RoomId) (x : Room) : (s.setRoom r x).fabric = s.fabric := rfl
@[simp] theorem State.setRoom_unreachable (r : RoomId) (x : Room) : (s.setRoom r x).unreachable = s.unreachable := rfl
@[simp] theorem State.setRoom_jobs (r : RoomId) (x : Room) : (s.setRoom r x).jobs = s.jobs := rfl
@[simp] theorem State.setRoom_groups (r : RoomId) (x : Room) : (s.setRoom r x).groups = s.groups := rfl
@[simp] theorem State.setRoom_gwrites (r : RoomId) (x : Room) : (s.setRoom r x).gwrites = s.gwrites := rfl
@[simp] theorem State.setRoom_nextGw (r : RoomId) (x : Room) : (s.setRoom r x).nextGw = s.nextGw := rfl
@[simp] theorem State.setRoom_remotes (r : RoomId) (x : Room) : (s.setRoom r x).remotes = s.remotes := rfl
@[simp] theorem State.setRoom_e2e (r : RoomId) (x : Room) : (s.setRoom r x).e2e = s.e2e := rfl
@[simp] theorem State.setRoom_remoteTimeoutMs (r : RoomId) (x : Room) : (s.setRoom r x).remoteTimeoutMs = s.remoteTimeoutMs := rfl
@[simp] theorem State.setRoom_remoteTimeouts (r : RoomId) (x : Room) : (s.setRoom r x).remoteTimeouts = s.remoteTimeouts := rfl
@[simp] theorem State.setRoom_arrived (r : RoomId) (x : Room) : (s.setRoom r x).arrived = s.arrived := rfl
@[simp] theorem State.setRoom_numVfs (r : RoomId) (x : Room) : (s.setRoom r x).numVfs = s.numVfs := rfl
@[simp] theorem State.setRoom_hostUp (r : RoomId) (x : Room) : (s.setRoom r x).hostUp = s.hostUp := rfl
@[simp] theorem State.setRoom_windows (r : RoomId) (x : Room) : (s.setRoom r x).windows = s.windows := rfl
@[simp] theorem State.setRoom_cxlOut (r : RoomId) (x : Room) : (s.setRoom r x).cxlOut = s.cxlOut := rfl
@[simp] theorem State.setRoom_msixOpen (r : RoomId) (x : Room) : (s.setRoom r x).msixOpen = s.msixOpen := rfl
@[simp] theorem State.setRoom_msixPend (r : RoomId) (x : Room) : (s.setRoom r x).msixPend = s.msixPend := rfl
@[simp] theorem State.setRoom_irqs (r : RoomId) (x : Room) : (s.setRoom r x).irqs = s.irqs := rfl
@[simp] theorem State.setRoom_inflow0 (r : RoomId) (x : Room) : (s.setRoom r x).inflow0 = s.inflow0 := rfl
@[simp] theorem State.setRoom_inflow1 (r : RoomId) (x : Room) : (s.setRoom r x).inflow1 = s.inflow1 := rfl
@[simp] theorem State.setRoom_lock (r : RoomId) (x : Room) : (s.setRoom r x).lock = s.lock := rfl
@[simp] theorem State.setRoom_ident (r : RoomId) (x : Room) : (s.setRoom r x).ident = s.ident := rfl
@[simp] theorem State.setRoom_evr (r : RoomId) (x : Room) : (s.setRoom r x).evr = s.evr := rfl
@[simp] theorem State.setRoom_idNode (r : RoomId) (x : Room) : (s.setRoom r x).idNode = s.idNode := rfl
@[simp] theorem State.setRoom_devSt (r : RoomId) (x : Room) : (s.setRoom r x).devSt = s.devSt := rfl
@[simp] theorem State.setRoom_devReason (r : RoomId) (x : Room) : (s.setRoom r x).devReason = s.devReason := rfl
@[simp] theorem State.setRoom_devWarm (r : RoomId) (x : Room) : (s.setRoom r x).devWarm = s.devWarm := rfl
@[simp] theorem State.setRoom_devIstat (r : RoomId) (x : Room) : (s.setRoom r x).devIstat = s.devIstat := rfl
@[simp] theorem State.setRoom_hc (r : RoomId) (x : Room) : (s.setRoom r x).hc = s.hc := rfl
@[simp] theorem State.setRoom_fwAddr (r : RoomId) (x : Room) : (s.setRoom r x).fwAddr = s.fwAddr := rfl
@[simp] theorem State.setRoom_fwLen (r : RoomId) (x : Room) : (s.setRoom r x).fwLen = s.fwLen := rfl
@[simp] theorem State.setRoom_rdShadow (r : RoomId) (x : Room) : (s.setRoom r x).rdShadow = s.rdShadow := rfl
@[simp] theorem State.setRoom_wrShadow (r : RoomId) (x : Room) : (s.setRoom r x).wrShadow = s.wrShadow := rfl
@[simp] theorem State.setRoom_violQ (r : RoomId) (x : Room) : (s.setRoom r x).violQ = s.violQ := rfl
@[simp] theorem State.setRoom_readData (r : RoomId) (x : Room) : (s.setRoom r x).readData = s.readData := rfl
@[simp] theorem State.setRoom_lbxs (r : RoomId) (x : Room) : (s.setRoom r x).lbxs = s.lbxs := rfl
@[simp] theorem State.setRoom_diag (r : RoomId) (x : Room) : (s.setRoom r x).diag = s.diag := rfl
@[simp] theorem State.setRoom_scrubPantry (r : RoomId) (x : Room) : (s.setRoom r x).scrubPantry = s.scrubPantry := rfl
@[simp] theorem State.setRoom_scrubCellar (r : RoomId) (x : Room) : (s.setRoom r x).scrubCellar = s.scrubCellar := rfl
@[simp] theorem State.setRoom_annexMs (r : RoomId) (x : Room) : (s.setRoom r x).annexMs = s.annexMs := rfl
@[simp] theorem State.setRoom_tjTarget (r : RoomId) (x : Room) : (s.setRoom r x).tjTarget = s.tjTarget := rfl
@[simp] theorem State.setRoom_power (r : RoomId) (x : Room) : (s.setRoom r x).power = s.power := rfl
@[simp] theorem State.setRoom_createdCtx (r : RoomId) (x : Room) : (s.setRoom r x).createdCtx = s.createdCtx := rfl
@[simp] theorem State.setRoom_romWait (r : RoomId) (x : Room) : (s.setRoom r x).romWait = s.romWait := rfl
@[simp] theorem State.setRoom_startRec (r : RoomId) (x : Room) : (s.setRoom r x).startRec = s.startRec := rfl
@[simp] theorem State.setRoom_startCause (r : RoomId) (x : Room) : (s.setRoom r x).startCause = s.startCause := rfl
@[simp] theorem State.setRoom_fw (r : RoomId) (x : Room) : (s.setRoom r x).fw = s.fw := rfl
@[simp] theorem State.setRoom_fuseSvn (r : RoomId) (x : Room) : (s.setRoom r x).fuseSvn = s.fuseSvn := rfl
@[simp] theorem State.setRoom_serving (r : RoomId) (x : Room) : (s.setRoom r x).serving = s.serving := rfl
@[simp] theorem State.setRoom_early (r : RoomId) (x : Room) : (s.setRoom r x).early = s.early := rfl
@[simp] theorem State.setRoom_errQ (r : RoomId) (x : Room) : (s.setRoom r x).errQ = s.errQ := rfl
@[simp] theorem State.setRoom_errOvf (r : RoomId) (x : Room) : (s.setRoom r x).errOvf = s.errOvf := rfl
@[simp] theorem State.setRoom_sweepDue (r : RoomId) (x : Room) : (s.setRoom r x).sweepDue = s.sweepDue := rfl
@[simp] theorem State.setRoom_episodes (r : RoomId) (x : Room) : (s.setRoom r x).episodes = s.episodes := rfl
@[simp] theorem State.setRoom_fatalLatch (r : RoomId) (x : Room) : (s.setRoom r x).fatalLatch = s.fatalLatch := rfl
@[simp] theorem State.setRoom_fatalErr (r : RoomId) (x : Room) : (s.setRoom r x).fatalErr = s.fatalErr := rfl
@[simp] theorem State.setRoom_reported (r : RoomId) (x : Room) : (s.setRoom r x).reported = s.reported := rfl
@[simp] theorem State.setRoom_i3c (r : RoomId) (x : Room) : (s.setRoom r x).i3c = s.i3c := rfl
@[simp] theorem State.setRoom_coolantAbsent (r : RoomId) (x : Room) : (s.setRoom r x).coolantAbsent = s.coolantAbsent := rfl
@[simp] theorem State.setRoom_brake (r : RoomId) (x : Room) : (s.setRoom r x).brake = s.brake := rfl
@[simp] theorem State.setRoom_latch (r : RoomId) (x : Room) : (s.setRoom r x).latch = s.latch := rfl
@[simp] theorem State.setRoom_rst (r : RoomId) (x : Room) : (s.setRoom r x).rst = s.rst := rfl
@[simp] theorem State.setRoom_pwrOk (r : RoomId) (x : Room) : (s.setRoom r x).pwrOk = s.pwrOk := rfl
@[simp] theorem State.setRoom_thermTrip (r : RoomId) (x : Room) : (s.setRoom r x).thermTrip = s.thermTrip := rfl
@[simp] theorem State.setRoom_clockLost (r : RoomId) (x : Room) : (s.setRoom r x).clockLost = s.clockLost := rfl
@[simp] theorem State.setRoom_repair (r : RoomId) (x : Room) : (s.setRoom r x).repair = s.repair := rfl

/-! ### updRoom -/

@[simp] theorem State.updRoom_pending (r : RoomId) (f : Room → Room) : (s.updRoom r f).pending = s.pending := rfl
@[simp] theorem State.updRoom_mem (r : RoomId) (f : Room → Room) : (s.updRoom r f).mem = s.mem := rfl
@[simp] theorem State.updRoom_poison (r : RoomId) (f : Room → Room) : (s.updRoom r f).poison = s.poison := rfl
@[simp] theorem State.updRoom_fresh (r : RoomId) (f : Room → Room) : (s.updRoom r f).fresh = s.fresh := rfl
@[simp] theorem State.updRoom_rooms (r : RoomId) (f : Room → Room) : (s.updRoom r f).rooms = mapSet s.rooms r.toNat (f (s.room r)) := rfl
@[simp] theorem State.updRoom_wings (r : RoomId) (f : Room → Room) : (s.updRoom r f).wings = s.wings := rfl
@[simp] theorem State.updRoom_accesses (r : RoomId) (f : Room → Room) : (s.updRoom r f).accesses = s.accesses := rfl
@[simp] theorem State.updRoom_nextAcc (r : RoomId) (f : Room → Room) : (s.updRoom r f).nextAcc = s.nextAcc := rfl
@[simp] theorem State.updRoom_slices (r : RoomId) (f : Room → Room) : (s.updRoom r f).slices = s.slices := rfl
@[simp] theorem State.updRoom_tbufs (r : RoomId) (f : Room → Room) : (s.updRoom r f).tbufs = s.tbufs := rfl
@[simp] theorem State.updRoom_roots (r : RoomId) (f : Room → Room) : (s.updRoom r f).roots = s.roots := rfl
@[simp] theorem State.updRoom_tables (r : RoomId) (f : Room → Room) : (s.updRoom r f).tables = s.tables := rfl
@[simp] theorem State.updRoom_leafTabs (r : RoomId) (f : Room → Room) : (s.updRoom r f).leafTabs = s.leafTabs := rfl
@[simp] theorem State.updRoom_subTabs (r : RoomId) (f : Room → Room) : (s.updRoom r f).subTabs = s.subTabs := rfl
@[simp] theorem State.updRoom_used (r : RoomId) (f : Room → Room) : (s.updRoom r f).used = s.used := rfl
@[simp] theorem State.updRoom_spreadGroups (r : RoomId) (f : Room → Room) : (s.updRoom r f).spreadGroups = s.spreadGroups := rfl
@[simp] theorem State.updRoom_localGroups (r : RoomId) (f : Room → Room) : (s.updRoom r f).localGroups = s.localGroups := rfl
@[simp] theorem State.updRoom_stackCh (r : RoomId) (f : Room → Room) : (s.updRoom r f).stackCh = s.stackCh := rfl
@[simp] theorem State.updRoom_groupFrames (r : RoomId) (f : Room → Room) : (s.updRoom r f).groupFrames = s.groupFrames := rfl
@[simp] theorem State.updRoom_chanLost (r : RoomId) (f : Room → Room) : (s.updRoom r f).chanLost = s.chanLost := rfl
@[simp] theorem State.updRoom_annexUp (r : RoomId) (f : Room → Room) : (s.updRoom r f).annexUp = s.annexUp := rfl
@[simp] theorem State.updRoom_decoders (r : RoomId) (f : Room → Room) : (s.updRoom r f).decoders = s.decoders := rfl
@[simp] theorem State.updRoom_extents (r : RoomId) (f : Room → Room) : (s.updRoom r f).extents = s.extents := rfl
@[simp] theorem State.updRoom_dws (r : RoomId) (f : Room → Room) : (s.updRoom r f).dws = s.dws := rfl
@[simp] theorem State.updRoom_streams (r : RoomId) (f : Room → Room) : (s.updRoom r f).streams = s.streams := rfl
@[simp] theorem State.updRoom_modelWork (r : RoomId) (f : Room → Room) : (s.updRoom r f).modelWork = s.modelWork := rfl
@[simp] theorem State.updRoom_revs (r : RoomId) (f : Room → Room) : (s.updRoom r f).revs = s.revs := rfl
@[simp] theorem State.updRoom_moves (r : RoomId) (f : Room → Room) : (s.updRoom r f).moves = s.moves := rfl
@[simp] theorem State.updRoom_nextWork (r : RoomId) (f : Room → Room) : (s.updRoom r f).nextWork = s.nextWork := rfl
@[simp] theorem State.updRoom_ctxs (r : RoomId) (f : Room → Room) : (s.updRoom r f).ctxs = s.ctxs := rfl
@[simp] theorem State.updRoom_bolts (r : RoomId) (f : Room → Room) : (s.updRoom r f).bolts = s.bolts := rfl
@[simp] theorem State.updRoom_boltQ (r : RoomId) (f : Room → Room) : (s.updRoom r f).boltQ = s.boltQ := rfl
@[simp] theorem State.updRoom_boltRsp (r : RoomId) (f : Room → Room) : (s.updRoom r f).boltRsp = s.boltRsp := rfl
@[simp] theorem State.updRoom_services (r : RoomId) (f : Room → Room) : (s.updRoom r f).services = s.services := rfl
@[simp] theorem State.updRoom_seqs (r : RoomId) (f : Room → Room) : (s.updRoom r f).seqs = s.seqs := rfl
@[simp] theorem State.updRoom_seqGen (r : RoomId) (f : Room → Room) : (s.updRoom r f).seqGen = s.seqGen := rfl
@[simp] theorem State.updRoom_heldRot (r : RoomId) (f : Room → Room) : (s.updRoom r f).heldRot = s.heldRot := rfl
@[simp] theorem State.updRoom_nextDone (r : RoomId) (f : Room → Room) : (s.updRoom r f).nextDone = s.nextDone := rfl
@[simp] theorem State.updRoom_porchOut (r : RoomId) (f : Room → Room) : (s.updRoom r f).porchOut = s.porchOut := rfl
@[simp] theorem State.updRoom_nextMsg (r : RoomId) (f : Room → Room) : (s.updRoom r f).nextMsg = s.nextMsg := rfl
@[simp] theorem State.updRoom_handoffT (r : RoomId) (f : Room → Room) : (s.updRoom r f).handoffT = s.handoffT := rfl
@[simp] theorem State.updRoom_ports (r : RoomId) (f : Room → Room) : (s.updRoom r f).ports = s.ports := rfl
@[simp] theorem State.updRoom_slotTab (r : RoomId) (f : Room → Room) : (s.updRoom r f).slotTab = s.slotTab := rfl
@[simp] theorem State.updRoom_slotBack (r : RoomId) (f : Room → Room) : (s.updRoom r f).slotBack = s.slotBack := rfl
@[simp] theorem State.updRoom_slotWait (r : RoomId) (f : Room → Room) : (s.updRoom r f).slotWait = s.slotWait := rfl
@[simp] theorem State.updRoom_fabric (r : RoomId) (f : Room → Room) : (s.updRoom r f).fabric = s.fabric := rfl
@[simp] theorem State.updRoom_unreachable (r : RoomId) (f : Room → Room) : (s.updRoom r f).unreachable = s.unreachable := rfl
@[simp] theorem State.updRoom_jobs (r : RoomId) (f : Room → Room) : (s.updRoom r f).jobs = s.jobs := rfl
@[simp] theorem State.updRoom_groups (r : RoomId) (f : Room → Room) : (s.updRoom r f).groups = s.groups := rfl
@[simp] theorem State.updRoom_gwrites (r : RoomId) (f : Room → Room) : (s.updRoom r f).gwrites = s.gwrites := rfl
@[simp] theorem State.updRoom_nextGw (r : RoomId) (f : Room → Room) : (s.updRoom r f).nextGw = s.nextGw := rfl
@[simp] theorem State.updRoom_remotes (r : RoomId) (f : Room → Room) : (s.updRoom r f).remotes = s.remotes := rfl
@[simp] theorem State.updRoom_e2e (r : RoomId) (f : Room → Room) : (s.updRoom r f).e2e = s.e2e := rfl
@[simp] theorem State.updRoom_remoteTimeoutMs (r : RoomId) (f : Room → Room) : (s.updRoom r f).remoteTimeoutMs = s.remoteTimeoutMs := rfl
@[simp] theorem State.updRoom_remoteTimeouts (r : RoomId) (f : Room → Room) : (s.updRoom r f).remoteTimeouts = s.remoteTimeouts := rfl
@[simp] theorem State.updRoom_arrived (r : RoomId) (f : Room → Room) : (s.updRoom r f).arrived = s.arrived := rfl
@[simp] theorem State.updRoom_numVfs (r : RoomId) (f : Room → Room) : (s.updRoom r f).numVfs = s.numVfs := rfl
@[simp] theorem State.updRoom_hostUp (r : RoomId) (f : Room → Room) : (s.updRoom r f).hostUp = s.hostUp := rfl
@[simp] theorem State.updRoom_windows (r : RoomId) (f : Room → Room) : (s.updRoom r f).windows = s.windows := rfl
@[simp] theorem State.updRoom_cxlOut (r : RoomId) (f : Room → Room) : (s.updRoom r f).cxlOut = s.cxlOut := rfl
@[simp] theorem State.updRoom_msixOpen (r : RoomId) (f : Room → Room) : (s.updRoom r f).msixOpen = s.msixOpen := rfl
@[simp] theorem State.updRoom_msixPend (r : RoomId) (f : Room → Room) : (s.updRoom r f).msixPend = s.msixPend := rfl
@[simp] theorem State.updRoom_irqs (r : RoomId) (f : Room → Room) : (s.updRoom r f).irqs = s.irqs := rfl
@[simp] theorem State.updRoom_inflow0 (r : RoomId) (f : Room → Room) : (s.updRoom r f).inflow0 = s.inflow0 := rfl
@[simp] theorem State.updRoom_inflow1 (r : RoomId) (f : Room → Room) : (s.updRoom r f).inflow1 = s.inflow1 := rfl
@[simp] theorem State.updRoom_lock (r : RoomId) (f : Room → Room) : (s.updRoom r f).lock = s.lock := rfl
@[simp] theorem State.updRoom_ident (r : RoomId) (f : Room → Room) : (s.updRoom r f).ident = s.ident := rfl
@[simp] theorem State.updRoom_evr (r : RoomId) (f : Room → Room) : (s.updRoom r f).evr = s.evr := rfl
@[simp] theorem State.updRoom_idNode (r : RoomId) (f : Room → Room) : (s.updRoom r f).idNode = s.idNode := rfl
@[simp] theorem State.updRoom_devSt (r : RoomId) (f : Room → Room) : (s.updRoom r f).devSt = s.devSt := rfl
@[simp] theorem State.updRoom_devReason (r : RoomId) (f : Room → Room) : (s.updRoom r f).devReason = s.devReason := rfl
@[simp] theorem State.updRoom_devWarm (r : RoomId) (f : Room → Room) : (s.updRoom r f).devWarm = s.devWarm := rfl
@[simp] theorem State.updRoom_devIstat (r : RoomId) (f : Room → Room) : (s.updRoom r f).devIstat = s.devIstat := rfl
@[simp] theorem State.updRoom_hc (r : RoomId) (f : Room → Room) : (s.updRoom r f).hc = s.hc := rfl
@[simp] theorem State.updRoom_fwAddr (r : RoomId) (f : Room → Room) : (s.updRoom r f).fwAddr = s.fwAddr := rfl
@[simp] theorem State.updRoom_fwLen (r : RoomId) (f : Room → Room) : (s.updRoom r f).fwLen = s.fwLen := rfl
@[simp] theorem State.updRoom_rdShadow (r : RoomId) (f : Room → Room) : (s.updRoom r f).rdShadow = s.rdShadow := rfl
@[simp] theorem State.updRoom_wrShadow (r : RoomId) (f : Room → Room) : (s.updRoom r f).wrShadow = s.wrShadow := rfl
@[simp] theorem State.updRoom_violQ (r : RoomId) (f : Room → Room) : (s.updRoom r f).violQ = s.violQ := rfl
@[simp] theorem State.updRoom_readData (r : RoomId) (f : Room → Room) : (s.updRoom r f).readData = s.readData := rfl
@[simp] theorem State.updRoom_lbxs (r : RoomId) (f : Room → Room) : (s.updRoom r f).lbxs = s.lbxs := rfl
@[simp] theorem State.updRoom_diag (r : RoomId) (f : Room → Room) : (s.updRoom r f).diag = s.diag := rfl
@[simp] theorem State.updRoom_scrubPantry (r : RoomId) (f : Room → Room) : (s.updRoom r f).scrubPantry = s.scrubPantry := rfl
@[simp] theorem State.updRoom_scrubCellar (r : RoomId) (f : Room → Room) : (s.updRoom r f).scrubCellar = s.scrubCellar := rfl
@[simp] theorem State.updRoom_annexMs (r : RoomId) (f : Room → Room) : (s.updRoom r f).annexMs = s.annexMs := rfl
@[simp] theorem State.updRoom_tjTarget (r : RoomId) (f : Room → Room) : (s.updRoom r f).tjTarget = s.tjTarget := rfl
@[simp] theorem State.updRoom_power (r : RoomId) (f : Room → Room) : (s.updRoom r f).power = s.power := rfl
@[simp] theorem State.updRoom_createdCtx (r : RoomId) (f : Room → Room) : (s.updRoom r f).createdCtx = s.createdCtx := rfl
@[simp] theorem State.updRoom_romWait (r : RoomId) (f : Room → Room) : (s.updRoom r f).romWait = s.romWait := rfl
@[simp] theorem State.updRoom_startRec (r : RoomId) (f : Room → Room) : (s.updRoom r f).startRec = s.startRec := rfl
@[simp] theorem State.updRoom_startCause (r : RoomId) (f : Room → Room) : (s.updRoom r f).startCause = s.startCause := rfl
@[simp] theorem State.updRoom_fw (r : RoomId) (f : Room → Room) : (s.updRoom r f).fw = s.fw := rfl
@[simp] theorem State.updRoom_fuseSvn (r : RoomId) (f : Room → Room) : (s.updRoom r f).fuseSvn = s.fuseSvn := rfl
@[simp] theorem State.updRoom_serving (r : RoomId) (f : Room → Room) : (s.updRoom r f).serving = s.serving := rfl
@[simp] theorem State.updRoom_early (r : RoomId) (f : Room → Room) : (s.updRoom r f).early = s.early := rfl
@[simp] theorem State.updRoom_errQ (r : RoomId) (f : Room → Room) : (s.updRoom r f).errQ = s.errQ := rfl
@[simp] theorem State.updRoom_errOvf (r : RoomId) (f : Room → Room) : (s.updRoom r f).errOvf = s.errOvf := rfl
@[simp] theorem State.updRoom_sweepDue (r : RoomId) (f : Room → Room) : (s.updRoom r f).sweepDue = s.sweepDue := rfl
@[simp] theorem State.updRoom_episodes (r : RoomId) (f : Room → Room) : (s.updRoom r f).episodes = s.episodes := rfl
@[simp] theorem State.updRoom_fatalLatch (r : RoomId) (f : Room → Room) : (s.updRoom r f).fatalLatch = s.fatalLatch := rfl
@[simp] theorem State.updRoom_fatalErr (r : RoomId) (f : Room → Room) : (s.updRoom r f).fatalErr = s.fatalErr := rfl
@[simp] theorem State.updRoom_reported (r : RoomId) (f : Room → Room) : (s.updRoom r f).reported = s.reported := rfl
@[simp] theorem State.updRoom_i3c (r : RoomId) (f : Room → Room) : (s.updRoom r f).i3c = s.i3c := rfl
@[simp] theorem State.updRoom_coolantAbsent (r : RoomId) (f : Room → Room) : (s.updRoom r f).coolantAbsent = s.coolantAbsent := rfl
@[simp] theorem State.updRoom_brake (r : RoomId) (f : Room → Room) : (s.updRoom r f).brake = s.brake := rfl
@[simp] theorem State.updRoom_latch (r : RoomId) (f : Room → Room) : (s.updRoom r f).latch = s.latch := rfl
@[simp] theorem State.updRoom_rst (r : RoomId) (f : Room → Room) : (s.updRoom r f).rst = s.rst := rfl
@[simp] theorem State.updRoom_pwrOk (r : RoomId) (f : Room → Room) : (s.updRoom r f).pwrOk = s.pwrOk := rfl
@[simp] theorem State.updRoom_thermTrip (r : RoomId) (f : Room → Room) : (s.updRoom r f).thermTrip = s.thermTrip := rfl
@[simp] theorem State.updRoom_clockLost (r : RoomId) (f : Room → Room) : (s.updRoom r f).clockLost = s.clockLost := rfl
@[simp] theorem State.updRoom_repair (r : RoomId) (f : Room → Room) : (s.updRoom r f).repair = s.repair := rfl

/-! ### updWing -/

@[simp] theorem State.updWing_pending (g : WingId) (f : Wing → Wing) : (s.updWing g f).pending = s.pending := rfl
@[simp] theorem State.updWing_mem (g : WingId) (f : Wing → Wing) : (s.updWing g f).mem = s.mem := rfl
@[simp] theorem State.updWing_poison (g : WingId) (f : Wing → Wing) : (s.updWing g f).poison = s.poison := rfl
@[simp] theorem State.updWing_fresh (g : WingId) (f : Wing → Wing) : (s.updWing g f).fresh = s.fresh := rfl
@[simp] theorem State.updWing_rooms (g : WingId) (f : Wing → Wing) : (s.updWing g f).rooms = s.rooms := rfl
@[simp] theorem State.updWing_wings (g : WingId) (f : Wing → Wing) : (s.updWing g f).wings = mapSet s.wings g.toNat (f (s.wing g)) := rfl
@[simp] theorem State.updWing_accesses (g : WingId) (f : Wing → Wing) : (s.updWing g f).accesses = s.accesses := rfl
@[simp] theorem State.updWing_nextAcc (g : WingId) (f : Wing → Wing) : (s.updWing g f).nextAcc = s.nextAcc := rfl
@[simp] theorem State.updWing_slices (g : WingId) (f : Wing → Wing) : (s.updWing g f).slices = s.slices := rfl
@[simp] theorem State.updWing_tbufs (g : WingId) (f : Wing → Wing) : (s.updWing g f).tbufs = s.tbufs := rfl
@[simp] theorem State.updWing_roots (g : WingId) (f : Wing → Wing) : (s.updWing g f).roots = s.roots := rfl
@[simp] theorem State.updWing_tables (g : WingId) (f : Wing → Wing) : (s.updWing g f).tables = s.tables := rfl
@[simp] theorem State.updWing_leafTabs (g : WingId) (f : Wing → Wing) : (s.updWing g f).leafTabs = s.leafTabs := rfl
@[simp] theorem State.updWing_subTabs (g : WingId) (f : Wing → Wing) : (s.updWing g f).subTabs = s.subTabs := rfl
@[simp] theorem State.updWing_used (g : WingId) (f : Wing → Wing) : (s.updWing g f).used = s.used := rfl
@[simp] theorem State.updWing_spreadGroups (g : WingId) (f : Wing → Wing) : (s.updWing g f).spreadGroups = s.spreadGroups := rfl
@[simp] theorem State.updWing_localGroups (g : WingId) (f : Wing → Wing) : (s.updWing g f).localGroups = s.localGroups := rfl
@[simp] theorem State.updWing_stackCh (g : WingId) (f : Wing → Wing) : (s.updWing g f).stackCh = s.stackCh := rfl
@[simp] theorem State.updWing_groupFrames (g : WingId) (f : Wing → Wing) : (s.updWing g f).groupFrames = s.groupFrames := rfl
@[simp] theorem State.updWing_chanLost (g : WingId) (f : Wing → Wing) : (s.updWing g f).chanLost = s.chanLost := rfl
@[simp] theorem State.updWing_annexUp (g : WingId) (f : Wing → Wing) : (s.updWing g f).annexUp = s.annexUp := rfl
@[simp] theorem State.updWing_decoders (g : WingId) (f : Wing → Wing) : (s.updWing g f).decoders = s.decoders := rfl
@[simp] theorem State.updWing_extents (g : WingId) (f : Wing → Wing) : (s.updWing g f).extents = s.extents := rfl
@[simp] theorem State.updWing_dws (g : WingId) (f : Wing → Wing) : (s.updWing g f).dws = s.dws := rfl
@[simp] theorem State.updWing_streams (g : WingId) (f : Wing → Wing) : (s.updWing g f).streams = s.streams := rfl
@[simp] theorem State.updWing_modelWork (g : WingId) (f : Wing → Wing) : (s.updWing g f).modelWork = s.modelWork := rfl
@[simp] theorem State.updWing_revs (g : WingId) (f : Wing → Wing) : (s.updWing g f).revs = s.revs := rfl
@[simp] theorem State.updWing_moves (g : WingId) (f : Wing → Wing) : (s.updWing g f).moves = s.moves := rfl
@[simp] theorem State.updWing_nextWork (g : WingId) (f : Wing → Wing) : (s.updWing g f).nextWork = s.nextWork := rfl
@[simp] theorem State.updWing_ctxs (g : WingId) (f : Wing → Wing) : (s.updWing g f).ctxs = s.ctxs := rfl
@[simp] theorem State.updWing_bolts (g : WingId) (f : Wing → Wing) : (s.updWing g f).bolts = s.bolts := rfl
@[simp] theorem State.updWing_boltQ (g : WingId) (f : Wing → Wing) : (s.updWing g f).boltQ = s.boltQ := rfl
@[simp] theorem State.updWing_boltRsp (g : WingId) (f : Wing → Wing) : (s.updWing g f).boltRsp = s.boltRsp := rfl
@[simp] theorem State.updWing_services (g : WingId) (f : Wing → Wing) : (s.updWing g f).services = s.services := rfl
@[simp] theorem State.updWing_seqs (g : WingId) (f : Wing → Wing) : (s.updWing g f).seqs = s.seqs := rfl
@[simp] theorem State.updWing_seqGen (g : WingId) (f : Wing → Wing) : (s.updWing g f).seqGen = s.seqGen := rfl
@[simp] theorem State.updWing_heldRot (g : WingId) (f : Wing → Wing) : (s.updWing g f).heldRot = s.heldRot := rfl
@[simp] theorem State.updWing_nextDone (g : WingId) (f : Wing → Wing) : (s.updWing g f).nextDone = s.nextDone := rfl
@[simp] theorem State.updWing_porchOut (g : WingId) (f : Wing → Wing) : (s.updWing g f).porchOut = s.porchOut := rfl
@[simp] theorem State.updWing_nextMsg (g : WingId) (f : Wing → Wing) : (s.updWing g f).nextMsg = s.nextMsg := rfl
@[simp] theorem State.updWing_handoffT (g : WingId) (f : Wing → Wing) : (s.updWing g f).handoffT = s.handoffT := rfl
@[simp] theorem State.updWing_ports (g : WingId) (f : Wing → Wing) : (s.updWing g f).ports = s.ports := rfl
@[simp] theorem State.updWing_slotTab (g : WingId) (f : Wing → Wing) : (s.updWing g f).slotTab = s.slotTab := rfl
@[simp] theorem State.updWing_slotBack (g : WingId) (f : Wing → Wing) : (s.updWing g f).slotBack = s.slotBack := rfl
@[simp] theorem State.updWing_slotWait (g : WingId) (f : Wing → Wing) : (s.updWing g f).slotWait = s.slotWait := rfl
@[simp] theorem State.updWing_fabric (g : WingId) (f : Wing → Wing) : (s.updWing g f).fabric = s.fabric := rfl
@[simp] theorem State.updWing_unreachable (g : WingId) (f : Wing → Wing) : (s.updWing g f).unreachable = s.unreachable := rfl
@[simp] theorem State.updWing_jobs (g : WingId) (f : Wing → Wing) : (s.updWing g f).jobs = s.jobs := rfl
@[simp] theorem State.updWing_groups (g : WingId) (f : Wing → Wing) : (s.updWing g f).groups = s.groups := rfl
@[simp] theorem State.updWing_gwrites (g : WingId) (f : Wing → Wing) : (s.updWing g f).gwrites = s.gwrites := rfl
@[simp] theorem State.updWing_nextGw (g : WingId) (f : Wing → Wing) : (s.updWing g f).nextGw = s.nextGw := rfl
@[simp] theorem State.updWing_remotes (g : WingId) (f : Wing → Wing) : (s.updWing g f).remotes = s.remotes := rfl
@[simp] theorem State.updWing_e2e (g : WingId) (f : Wing → Wing) : (s.updWing g f).e2e = s.e2e := rfl
@[simp] theorem State.updWing_remoteTimeoutMs (g : WingId) (f : Wing → Wing) : (s.updWing g f).remoteTimeoutMs = s.remoteTimeoutMs := rfl
@[simp] theorem State.updWing_remoteTimeouts (g : WingId) (f : Wing → Wing) : (s.updWing g f).remoteTimeouts = s.remoteTimeouts := rfl
@[simp] theorem State.updWing_arrived (g : WingId) (f : Wing → Wing) : (s.updWing g f).arrived = s.arrived := rfl
@[simp] theorem State.updWing_numVfs (g : WingId) (f : Wing → Wing) : (s.updWing g f).numVfs = s.numVfs := rfl
@[simp] theorem State.updWing_hostUp (g : WingId) (f : Wing → Wing) : (s.updWing g f).hostUp = s.hostUp := rfl
@[simp] theorem State.updWing_windows (g : WingId) (f : Wing → Wing) : (s.updWing g f).windows = s.windows := rfl
@[simp] theorem State.updWing_cxlOut (g : WingId) (f : Wing → Wing) : (s.updWing g f).cxlOut = s.cxlOut := rfl
@[simp] theorem State.updWing_msixOpen (g : WingId) (f : Wing → Wing) : (s.updWing g f).msixOpen = s.msixOpen := rfl
@[simp] theorem State.updWing_msixPend (g : WingId) (f : Wing → Wing) : (s.updWing g f).msixPend = s.msixPend := rfl
@[simp] theorem State.updWing_irqs (g : WingId) (f : Wing → Wing) : (s.updWing g f).irqs = s.irqs := rfl
@[simp] theorem State.updWing_inflow0 (g : WingId) (f : Wing → Wing) : (s.updWing g f).inflow0 = s.inflow0 := rfl
@[simp] theorem State.updWing_inflow1 (g : WingId) (f : Wing → Wing) : (s.updWing g f).inflow1 = s.inflow1 := rfl
@[simp] theorem State.updWing_lock (g : WingId) (f : Wing → Wing) : (s.updWing g f).lock = s.lock := rfl
@[simp] theorem State.updWing_ident (g : WingId) (f : Wing → Wing) : (s.updWing g f).ident = s.ident := rfl
@[simp] theorem State.updWing_evr (g : WingId) (f : Wing → Wing) : (s.updWing g f).evr = s.evr := rfl
@[simp] theorem State.updWing_idNode (g : WingId) (f : Wing → Wing) : (s.updWing g f).idNode = s.idNode := rfl
@[simp] theorem State.updWing_devSt (g : WingId) (f : Wing → Wing) : (s.updWing g f).devSt = s.devSt := rfl
@[simp] theorem State.updWing_devReason (g : WingId) (f : Wing → Wing) : (s.updWing g f).devReason = s.devReason := rfl
@[simp] theorem State.updWing_devWarm (g : WingId) (f : Wing → Wing) : (s.updWing g f).devWarm = s.devWarm := rfl
@[simp] theorem State.updWing_devIstat (g : WingId) (f : Wing → Wing) : (s.updWing g f).devIstat = s.devIstat := rfl
@[simp] theorem State.updWing_hc (g : WingId) (f : Wing → Wing) : (s.updWing g f).hc = s.hc := rfl
@[simp] theorem State.updWing_fwAddr (g : WingId) (f : Wing → Wing) : (s.updWing g f).fwAddr = s.fwAddr := rfl
@[simp] theorem State.updWing_fwLen (g : WingId) (f : Wing → Wing) : (s.updWing g f).fwLen = s.fwLen := rfl
@[simp] theorem State.updWing_rdShadow (g : WingId) (f : Wing → Wing) : (s.updWing g f).rdShadow = s.rdShadow := rfl
@[simp] theorem State.updWing_wrShadow (g : WingId) (f : Wing → Wing) : (s.updWing g f).wrShadow = s.wrShadow := rfl
@[simp] theorem State.updWing_violQ (g : WingId) (f : Wing → Wing) : (s.updWing g f).violQ = s.violQ := rfl
@[simp] theorem State.updWing_readData (g : WingId) (f : Wing → Wing) : (s.updWing g f).readData = s.readData := rfl
@[simp] theorem State.updWing_lbxs (g : WingId) (f : Wing → Wing) : (s.updWing g f).lbxs = s.lbxs := rfl
@[simp] theorem State.updWing_diag (g : WingId) (f : Wing → Wing) : (s.updWing g f).diag = s.diag := rfl
@[simp] theorem State.updWing_scrubPantry (g : WingId) (f : Wing → Wing) : (s.updWing g f).scrubPantry = s.scrubPantry := rfl
@[simp] theorem State.updWing_scrubCellar (g : WingId) (f : Wing → Wing) : (s.updWing g f).scrubCellar = s.scrubCellar := rfl
@[simp] theorem State.updWing_annexMs (g : WingId) (f : Wing → Wing) : (s.updWing g f).annexMs = s.annexMs := rfl
@[simp] theorem State.updWing_tjTarget (g : WingId) (f : Wing → Wing) : (s.updWing g f).tjTarget = s.tjTarget := rfl
@[simp] theorem State.updWing_power (g : WingId) (f : Wing → Wing) : (s.updWing g f).power = s.power := rfl
@[simp] theorem State.updWing_createdCtx (g : WingId) (f : Wing → Wing) : (s.updWing g f).createdCtx = s.createdCtx := rfl
@[simp] theorem State.updWing_romWait (g : WingId) (f : Wing → Wing) : (s.updWing g f).romWait = s.romWait := rfl
@[simp] theorem State.updWing_startRec (g : WingId) (f : Wing → Wing) : (s.updWing g f).startRec = s.startRec := rfl
@[simp] theorem State.updWing_startCause (g : WingId) (f : Wing → Wing) : (s.updWing g f).startCause = s.startCause := rfl
@[simp] theorem State.updWing_fw (g : WingId) (f : Wing → Wing) : (s.updWing g f).fw = s.fw := rfl
@[simp] theorem State.updWing_fuseSvn (g : WingId) (f : Wing → Wing) : (s.updWing g f).fuseSvn = s.fuseSvn := rfl
@[simp] theorem State.updWing_serving (g : WingId) (f : Wing → Wing) : (s.updWing g f).serving = s.serving := rfl
@[simp] theorem State.updWing_early (g : WingId) (f : Wing → Wing) : (s.updWing g f).early = s.early := rfl
@[simp] theorem State.updWing_errQ (g : WingId) (f : Wing → Wing) : (s.updWing g f).errQ = s.errQ := rfl
@[simp] theorem State.updWing_errOvf (g : WingId) (f : Wing → Wing) : (s.updWing g f).errOvf = s.errOvf := rfl
@[simp] theorem State.updWing_sweepDue (g : WingId) (f : Wing → Wing) : (s.updWing g f).sweepDue = s.sweepDue := rfl
@[simp] theorem State.updWing_episodes (g : WingId) (f : Wing → Wing) : (s.updWing g f).episodes = s.episodes := rfl
@[simp] theorem State.updWing_fatalLatch (g : WingId) (f : Wing → Wing) : (s.updWing g f).fatalLatch = s.fatalLatch := rfl
@[simp] theorem State.updWing_fatalErr (g : WingId) (f : Wing → Wing) : (s.updWing g f).fatalErr = s.fatalErr := rfl
@[simp] theorem State.updWing_reported (g : WingId) (f : Wing → Wing) : (s.updWing g f).reported = s.reported := rfl
@[simp] theorem State.updWing_i3c (g : WingId) (f : Wing → Wing) : (s.updWing g f).i3c = s.i3c := rfl
@[simp] theorem State.updWing_coolantAbsent (g : WingId) (f : Wing → Wing) : (s.updWing g f).coolantAbsent = s.coolantAbsent := rfl
@[simp] theorem State.updWing_brake (g : WingId) (f : Wing → Wing) : (s.updWing g f).brake = s.brake := rfl
@[simp] theorem State.updWing_latch (g : WingId) (f : Wing → Wing) : (s.updWing g f).latch = s.latch := rfl
@[simp] theorem State.updWing_rst (g : WingId) (f : Wing → Wing) : (s.updWing g f).rst = s.rst := rfl
@[simp] theorem State.updWing_pwrOk (g : WingId) (f : Wing → Wing) : (s.updWing g f).pwrOk = s.pwrOk := rfl
@[simp] theorem State.updWing_thermTrip (g : WingId) (f : Wing → Wing) : (s.updWing g f).thermTrip = s.thermTrip := rfl
@[simp] theorem State.updWing_clockLost (g : WingId) (f : Wing → Wing) : (s.updWing g f).clockLost = s.clockLost := rfl
@[simp] theorem State.updWing_repair (g : WingId) (f : Wing → Wing) : (s.updWing g f).repair = s.repair := rfl

/-! ### updCtx -/

@[simp] theorem State.updCtx_pending (c : CtxId) (f : Ctx → Ctx) : (s.updCtx c f).pending = s.pending := rfl
@[simp] theorem State.updCtx_mem (c : CtxId) (f : Ctx → Ctx) : (s.updCtx c f).mem = s.mem := rfl
@[simp] theorem State.updCtx_poison (c : CtxId) (f : Ctx → Ctx) : (s.updCtx c f).poison = s.poison := rfl
@[simp] theorem State.updCtx_fresh (c : CtxId) (f : Ctx → Ctx) : (s.updCtx c f).fresh = s.fresh := rfl
@[simp] theorem State.updCtx_rooms (c : CtxId) (f : Ctx → Ctx) : (s.updCtx c f).rooms = s.rooms := rfl
@[simp] theorem State.updCtx_wings (c : CtxId) (f : Ctx → Ctx) : (s.updCtx c f).wings = s.wings := rfl
@[simp] theorem State.updCtx_accesses (c : CtxId) (f : Ctx → Ctx) : (s.updCtx c f).accesses = s.accesses := rfl
@[simp] theorem State.updCtx_nextAcc (c : CtxId) (f : Ctx → Ctx) : (s.updCtx c f).nextAcc = s.nextAcc := rfl
@[simp] theorem State.updCtx_slices (c : CtxId) (f : Ctx → Ctx) : (s.updCtx c f).slices = s.slices := rfl
@[simp] theorem State.updCtx_tbufs (c : CtxId) (f : Ctx → Ctx) : (s.updCtx c f).tbufs = s.tbufs := rfl
@[simp] theorem State.updCtx_roots (c : CtxId) (f : Ctx → Ctx) : (s.updCtx c f).roots = s.roots := rfl
@[simp] theorem State.updCtx_tables (c : CtxId) (f : Ctx → Ctx) : (s.updCtx c f).tables = s.tables := rfl
@[simp] theorem State.updCtx_leafTabs (c : CtxId) (f : Ctx → Ctx) : (s.updCtx c f).leafTabs = s.leafTabs := rfl
@[simp] theorem State.updCtx_subTabs (c : CtxId) (f : Ctx → Ctx) : (s.updCtx c f).subTabs = s.subTabs := rfl
@[simp] theorem State.updCtx_used (c : CtxId) (f : Ctx → Ctx) : (s.updCtx c f).used = s.used := rfl
@[simp] theorem State.updCtx_spreadGroups (c : CtxId) (f : Ctx → Ctx) : (s.updCtx c f).spreadGroups = s.spreadGroups := rfl
@[simp] theorem State.updCtx_localGroups (c : CtxId) (f : Ctx → Ctx) : (s.updCtx c f).localGroups = s.localGroups := rfl
@[simp] theorem State.updCtx_stackCh (c : CtxId) (f : Ctx → Ctx) : (s.updCtx c f).stackCh = s.stackCh := rfl
@[simp] theorem State.updCtx_groupFrames (c : CtxId) (f : Ctx → Ctx) : (s.updCtx c f).groupFrames = s.groupFrames := rfl
@[simp] theorem State.updCtx_chanLost (c : CtxId) (f : Ctx → Ctx) : (s.updCtx c f).chanLost = s.chanLost := rfl
@[simp] theorem State.updCtx_annexUp (c : CtxId) (f : Ctx → Ctx) : (s.updCtx c f).annexUp = s.annexUp := rfl
@[simp] theorem State.updCtx_decoders (c : CtxId) (f : Ctx → Ctx) : (s.updCtx c f).decoders = s.decoders := rfl
@[simp] theorem State.updCtx_extents (c : CtxId) (f : Ctx → Ctx) : (s.updCtx c f).extents = s.extents := rfl
@[simp] theorem State.updCtx_dws (c : CtxId) (f : Ctx → Ctx) : (s.updCtx c f).dws = s.dws := rfl
@[simp] theorem State.updCtx_streams (c : CtxId) (f : Ctx → Ctx) : (s.updCtx c f).streams = s.streams := rfl
@[simp] theorem State.updCtx_modelWork (c : CtxId) (f : Ctx → Ctx) : (s.updCtx c f).modelWork = s.modelWork := rfl
@[simp] theorem State.updCtx_revs (c : CtxId) (f : Ctx → Ctx) : (s.updCtx c f).revs = s.revs := rfl
@[simp] theorem State.updCtx_moves (c : CtxId) (f : Ctx → Ctx) : (s.updCtx c f).moves = s.moves := rfl
@[simp] theorem State.updCtx_nextWork (c : CtxId) (f : Ctx → Ctx) : (s.updCtx c f).nextWork = s.nextWork := rfl
@[simp] theorem State.updCtx_ctxs (c : CtxId) (f : Ctx → Ctx) : (s.updCtx c f).ctxs = mapSet s.ctxs c.toNat (f (s.ctx c)) := rfl
@[simp] theorem State.updCtx_bolts (c : CtxId) (f : Ctx → Ctx) : (s.updCtx c f).bolts = s.bolts := rfl
@[simp] theorem State.updCtx_boltQ (c : CtxId) (f : Ctx → Ctx) : (s.updCtx c f).boltQ = s.boltQ := rfl
@[simp] theorem State.updCtx_boltRsp (c : CtxId) (f : Ctx → Ctx) : (s.updCtx c f).boltRsp = s.boltRsp := rfl
@[simp] theorem State.updCtx_services (c : CtxId) (f : Ctx → Ctx) : (s.updCtx c f).services = s.services := rfl
@[simp] theorem State.updCtx_seqs (c : CtxId) (f : Ctx → Ctx) : (s.updCtx c f).seqs = s.seqs := rfl
@[simp] theorem State.updCtx_seqGen (c : CtxId) (f : Ctx → Ctx) : (s.updCtx c f).seqGen = s.seqGen := rfl
@[simp] theorem State.updCtx_heldRot (c : CtxId) (f : Ctx → Ctx) : (s.updCtx c f).heldRot = s.heldRot := rfl
@[simp] theorem State.updCtx_nextDone (c : CtxId) (f : Ctx → Ctx) : (s.updCtx c f).nextDone = s.nextDone := rfl
@[simp] theorem State.updCtx_porchOut (c : CtxId) (f : Ctx → Ctx) : (s.updCtx c f).porchOut = s.porchOut := rfl
@[simp] theorem State.updCtx_nextMsg (c : CtxId) (f : Ctx → Ctx) : (s.updCtx c f).nextMsg = s.nextMsg := rfl
@[simp] theorem State.updCtx_handoffT (c : CtxId) (f : Ctx → Ctx) : (s.updCtx c f).handoffT = s.handoffT := rfl
@[simp] theorem State.updCtx_ports (c : CtxId) (f : Ctx → Ctx) : (s.updCtx c f).ports = s.ports := rfl
@[simp] theorem State.updCtx_slotTab (c : CtxId) (f : Ctx → Ctx) : (s.updCtx c f).slotTab = s.slotTab := rfl
@[simp] theorem State.updCtx_slotBack (c : CtxId) (f : Ctx → Ctx) : (s.updCtx c f).slotBack = s.slotBack := rfl
@[simp] theorem State.updCtx_slotWait (c : CtxId) (f : Ctx → Ctx) : (s.updCtx c f).slotWait = s.slotWait := rfl
@[simp] theorem State.updCtx_fabric (c : CtxId) (f : Ctx → Ctx) : (s.updCtx c f).fabric = s.fabric := rfl
@[simp] theorem State.updCtx_unreachable (c : CtxId) (f : Ctx → Ctx) : (s.updCtx c f).unreachable = s.unreachable := rfl
@[simp] theorem State.updCtx_jobs (c : CtxId) (f : Ctx → Ctx) : (s.updCtx c f).jobs = s.jobs := rfl
@[simp] theorem State.updCtx_groups (c : CtxId) (f : Ctx → Ctx) : (s.updCtx c f).groups = s.groups := rfl
@[simp] theorem State.updCtx_gwrites (c : CtxId) (f : Ctx → Ctx) : (s.updCtx c f).gwrites = s.gwrites := rfl
@[simp] theorem State.updCtx_nextGw (c : CtxId) (f : Ctx → Ctx) : (s.updCtx c f).nextGw = s.nextGw := rfl
@[simp] theorem State.updCtx_remotes (c : CtxId) (f : Ctx → Ctx) : (s.updCtx c f).remotes = s.remotes := rfl
@[simp] theorem State.updCtx_e2e (c : CtxId) (f : Ctx → Ctx) : (s.updCtx c f).e2e = s.e2e := rfl
@[simp] theorem State.updCtx_remoteTimeoutMs (c : CtxId) (f : Ctx → Ctx) : (s.updCtx c f).remoteTimeoutMs = s.remoteTimeoutMs := rfl
@[simp] theorem State.updCtx_remoteTimeouts (c : CtxId) (f : Ctx → Ctx) : (s.updCtx c f).remoteTimeouts = s.remoteTimeouts := rfl
@[simp] theorem State.updCtx_arrived (c : CtxId) (f : Ctx → Ctx) : (s.updCtx c f).arrived = s.arrived := rfl
@[simp] theorem State.updCtx_numVfs (c : CtxId) (f : Ctx → Ctx) : (s.updCtx c f).numVfs = s.numVfs := rfl
@[simp] theorem State.updCtx_hostUp (c : CtxId) (f : Ctx → Ctx) : (s.updCtx c f).hostUp = s.hostUp := rfl
@[simp] theorem State.updCtx_windows (c : CtxId) (f : Ctx → Ctx) : (s.updCtx c f).windows = s.windows := rfl
@[simp] theorem State.updCtx_cxlOut (c : CtxId) (f : Ctx → Ctx) : (s.updCtx c f).cxlOut = s.cxlOut := rfl
@[simp] theorem State.updCtx_msixOpen (c : CtxId) (f : Ctx → Ctx) : (s.updCtx c f).msixOpen = s.msixOpen := rfl
@[simp] theorem State.updCtx_msixPend (c : CtxId) (f : Ctx → Ctx) : (s.updCtx c f).msixPend = s.msixPend := rfl
@[simp] theorem State.updCtx_irqs (c : CtxId) (f : Ctx → Ctx) : (s.updCtx c f).irqs = s.irqs := rfl
@[simp] theorem State.updCtx_inflow0 (c : CtxId) (f : Ctx → Ctx) : (s.updCtx c f).inflow0 = s.inflow0 := rfl
@[simp] theorem State.updCtx_inflow1 (c : CtxId) (f : Ctx → Ctx) : (s.updCtx c f).inflow1 = s.inflow1 := rfl
@[simp] theorem State.updCtx_lock (c : CtxId) (f : Ctx → Ctx) : (s.updCtx c f).lock = s.lock := rfl
@[simp] theorem State.updCtx_ident (c : CtxId) (f : Ctx → Ctx) : (s.updCtx c f).ident = s.ident := rfl
@[simp] theorem State.updCtx_evr (c : CtxId) (f : Ctx → Ctx) : (s.updCtx c f).evr = s.evr := rfl
@[simp] theorem State.updCtx_idNode (c : CtxId) (f : Ctx → Ctx) : (s.updCtx c f).idNode = s.idNode := rfl
@[simp] theorem State.updCtx_devSt (c : CtxId) (f : Ctx → Ctx) : (s.updCtx c f).devSt = s.devSt := rfl
@[simp] theorem State.updCtx_devReason (c : CtxId) (f : Ctx → Ctx) : (s.updCtx c f).devReason = s.devReason := rfl
@[simp] theorem State.updCtx_devWarm (c : CtxId) (f : Ctx → Ctx) : (s.updCtx c f).devWarm = s.devWarm := rfl
@[simp] theorem State.updCtx_devIstat (c : CtxId) (f : Ctx → Ctx) : (s.updCtx c f).devIstat = s.devIstat := rfl
@[simp] theorem State.updCtx_hc (c : CtxId) (f : Ctx → Ctx) : (s.updCtx c f).hc = s.hc := rfl
@[simp] theorem State.updCtx_fwAddr (c : CtxId) (f : Ctx → Ctx) : (s.updCtx c f).fwAddr = s.fwAddr := rfl
@[simp] theorem State.updCtx_fwLen (c : CtxId) (f : Ctx → Ctx) : (s.updCtx c f).fwLen = s.fwLen := rfl
@[simp] theorem State.updCtx_rdShadow (c : CtxId) (f : Ctx → Ctx) : (s.updCtx c f).rdShadow = s.rdShadow := rfl
@[simp] theorem State.updCtx_wrShadow (c : CtxId) (f : Ctx → Ctx) : (s.updCtx c f).wrShadow = s.wrShadow := rfl
@[simp] theorem State.updCtx_violQ (c : CtxId) (f : Ctx → Ctx) : (s.updCtx c f).violQ = s.violQ := rfl
@[simp] theorem State.updCtx_readData (c : CtxId) (f : Ctx → Ctx) : (s.updCtx c f).readData = s.readData := rfl
@[simp] theorem State.updCtx_lbxs (c : CtxId) (f : Ctx → Ctx) : (s.updCtx c f).lbxs = s.lbxs := rfl
@[simp] theorem State.updCtx_diag (c : CtxId) (f : Ctx → Ctx) : (s.updCtx c f).diag = s.diag := rfl
@[simp] theorem State.updCtx_scrubPantry (c : CtxId) (f : Ctx → Ctx) : (s.updCtx c f).scrubPantry = s.scrubPantry := rfl
@[simp] theorem State.updCtx_scrubCellar (c : CtxId) (f : Ctx → Ctx) : (s.updCtx c f).scrubCellar = s.scrubCellar := rfl
@[simp] theorem State.updCtx_annexMs (c : CtxId) (f : Ctx → Ctx) : (s.updCtx c f).annexMs = s.annexMs := rfl
@[simp] theorem State.updCtx_tjTarget (c : CtxId) (f : Ctx → Ctx) : (s.updCtx c f).tjTarget = s.tjTarget := rfl
@[simp] theorem State.updCtx_power (c : CtxId) (f : Ctx → Ctx) : (s.updCtx c f).power = s.power := rfl
@[simp] theorem State.updCtx_createdCtx (c : CtxId) (f : Ctx → Ctx) : (s.updCtx c f).createdCtx = s.createdCtx := rfl
@[simp] theorem State.updCtx_romWait (c : CtxId) (f : Ctx → Ctx) : (s.updCtx c f).romWait = s.romWait := rfl
@[simp] theorem State.updCtx_startRec (c : CtxId) (f : Ctx → Ctx) : (s.updCtx c f).startRec = s.startRec := rfl
@[simp] theorem State.updCtx_startCause (c : CtxId) (f : Ctx → Ctx) : (s.updCtx c f).startCause = s.startCause := rfl
@[simp] theorem State.updCtx_fw (c : CtxId) (f : Ctx → Ctx) : (s.updCtx c f).fw = s.fw := rfl
@[simp] theorem State.updCtx_fuseSvn (c : CtxId) (f : Ctx → Ctx) : (s.updCtx c f).fuseSvn = s.fuseSvn := rfl
@[simp] theorem State.updCtx_serving (c : CtxId) (f : Ctx → Ctx) : (s.updCtx c f).serving = s.serving := rfl
@[simp] theorem State.updCtx_early (c : CtxId) (f : Ctx → Ctx) : (s.updCtx c f).early = s.early := rfl
@[simp] theorem State.updCtx_errQ (c : CtxId) (f : Ctx → Ctx) : (s.updCtx c f).errQ = s.errQ := rfl
@[simp] theorem State.updCtx_errOvf (c : CtxId) (f : Ctx → Ctx) : (s.updCtx c f).errOvf = s.errOvf := rfl
@[simp] theorem State.updCtx_sweepDue (c : CtxId) (f : Ctx → Ctx) : (s.updCtx c f).sweepDue = s.sweepDue := rfl
@[simp] theorem State.updCtx_episodes (c : CtxId) (f : Ctx → Ctx) : (s.updCtx c f).episodes = s.episodes := rfl
@[simp] theorem State.updCtx_fatalLatch (c : CtxId) (f : Ctx → Ctx) : (s.updCtx c f).fatalLatch = s.fatalLatch := rfl
@[simp] theorem State.updCtx_fatalErr (c : CtxId) (f : Ctx → Ctx) : (s.updCtx c f).fatalErr = s.fatalErr := rfl
@[simp] theorem State.updCtx_reported (c : CtxId) (f : Ctx → Ctx) : (s.updCtx c f).reported = s.reported := rfl
@[simp] theorem State.updCtx_i3c (c : CtxId) (f : Ctx → Ctx) : (s.updCtx c f).i3c = s.i3c := rfl
@[simp] theorem State.updCtx_coolantAbsent (c : CtxId) (f : Ctx → Ctx) : (s.updCtx c f).coolantAbsent = s.coolantAbsent := rfl
@[simp] theorem State.updCtx_brake (c : CtxId) (f : Ctx → Ctx) : (s.updCtx c f).brake = s.brake := rfl
@[simp] theorem State.updCtx_latch (c : CtxId) (f : Ctx → Ctx) : (s.updCtx c f).latch = s.latch := rfl
@[simp] theorem State.updCtx_rst (c : CtxId) (f : Ctx → Ctx) : (s.updCtx c f).rst = s.rst := rfl
@[simp] theorem State.updCtx_pwrOk (c : CtxId) (f : Ctx → Ctx) : (s.updCtx c f).pwrOk = s.pwrOk := rfl
@[simp] theorem State.updCtx_thermTrip (c : CtxId) (f : Ctx → Ctx) : (s.updCtx c f).thermTrip = s.thermTrip := rfl
@[simp] theorem State.updCtx_clockLost (c : CtxId) (f : Ctx → Ctx) : (s.updCtx c f).clockLost = s.clockLost := rfl
@[simp] theorem State.updCtx_repair (c : CtxId) (f : Ctx → Ctx) : (s.updCtx c f).repair = s.repair := rfl

/-! ### setBolt -/

@[simp] theorem State.setBolt_pending (b : BoltId) (x : Bolt) : (s.setBolt b x).pending = s.pending := rfl
@[simp] theorem State.setBolt_mem (b : BoltId) (x : Bolt) : (s.setBolt b x).mem = s.mem := rfl
@[simp] theorem State.setBolt_poison (b : BoltId) (x : Bolt) : (s.setBolt b x).poison = s.poison := rfl
@[simp] theorem State.setBolt_fresh (b : BoltId) (x : Bolt) : (s.setBolt b x).fresh = s.fresh := rfl
@[simp] theorem State.setBolt_rooms (b : BoltId) (x : Bolt) : (s.setBolt b x).rooms = s.rooms := rfl
@[simp] theorem State.setBolt_wings (b : BoltId) (x : Bolt) : (s.setBolt b x).wings = s.wings := rfl
@[simp] theorem State.setBolt_accesses (b : BoltId) (x : Bolt) : (s.setBolt b x).accesses = s.accesses := rfl
@[simp] theorem State.setBolt_nextAcc (b : BoltId) (x : Bolt) : (s.setBolt b x).nextAcc = s.nextAcc := rfl
@[simp] theorem State.setBolt_slices (b : BoltId) (x : Bolt) : (s.setBolt b x).slices = s.slices := rfl
@[simp] theorem State.setBolt_tbufs (b : BoltId) (x : Bolt) : (s.setBolt b x).tbufs = s.tbufs := rfl
@[simp] theorem State.setBolt_roots (b : BoltId) (x : Bolt) : (s.setBolt b x).roots = s.roots := rfl
@[simp] theorem State.setBolt_tables (b : BoltId) (x : Bolt) : (s.setBolt b x).tables = s.tables := rfl
@[simp] theorem State.setBolt_leafTabs (b : BoltId) (x : Bolt) : (s.setBolt b x).leafTabs = s.leafTabs := rfl
@[simp] theorem State.setBolt_subTabs (b : BoltId) (x : Bolt) : (s.setBolt b x).subTabs = s.subTabs := rfl
@[simp] theorem State.setBolt_used (b : BoltId) (x : Bolt) : (s.setBolt b x).used = s.used := rfl
@[simp] theorem State.setBolt_spreadGroups (b : BoltId) (x : Bolt) : (s.setBolt b x).spreadGroups = s.spreadGroups := rfl
@[simp] theorem State.setBolt_localGroups (b : BoltId) (x : Bolt) : (s.setBolt b x).localGroups = s.localGroups := rfl
@[simp] theorem State.setBolt_stackCh (b : BoltId) (x : Bolt) : (s.setBolt b x).stackCh = s.stackCh := rfl
@[simp] theorem State.setBolt_groupFrames (b : BoltId) (x : Bolt) : (s.setBolt b x).groupFrames = s.groupFrames := rfl
@[simp] theorem State.setBolt_chanLost (b : BoltId) (x : Bolt) : (s.setBolt b x).chanLost = s.chanLost := rfl
@[simp] theorem State.setBolt_annexUp (b : BoltId) (x : Bolt) : (s.setBolt b x).annexUp = s.annexUp := rfl
@[simp] theorem State.setBolt_decoders (b : BoltId) (x : Bolt) : (s.setBolt b x).decoders = s.decoders := rfl
@[simp] theorem State.setBolt_extents (b : BoltId) (x : Bolt) : (s.setBolt b x).extents = s.extents := rfl
@[simp] theorem State.setBolt_dws (b : BoltId) (x : Bolt) : (s.setBolt b x).dws = s.dws := rfl
@[simp] theorem State.setBolt_streams (b : BoltId) (x : Bolt) : (s.setBolt b x).streams = s.streams := rfl
@[simp] theorem State.setBolt_modelWork (b : BoltId) (x : Bolt) : (s.setBolt b x).modelWork = s.modelWork := rfl
@[simp] theorem State.setBolt_revs (b : BoltId) (x : Bolt) : (s.setBolt b x).revs = s.revs := rfl
@[simp] theorem State.setBolt_moves (b : BoltId) (x : Bolt) : (s.setBolt b x).moves = s.moves := rfl
@[simp] theorem State.setBolt_nextWork (b : BoltId) (x : Bolt) : (s.setBolt b x).nextWork = s.nextWork := rfl
@[simp] theorem State.setBolt_ctxs (b : BoltId) (x : Bolt) : (s.setBolt b x).ctxs = s.ctxs := rfl
@[simp] theorem State.setBolt_bolts (b : BoltId) (x : Bolt) : (s.setBolt b x).bolts = mapSet s.bolts b.toNat x := rfl
@[simp] theorem State.setBolt_boltQ (b : BoltId) (x : Bolt) : (s.setBolt b x).boltQ = s.boltQ := rfl
@[simp] theorem State.setBolt_boltRsp (b : BoltId) (x : Bolt) : (s.setBolt b x).boltRsp = s.boltRsp := rfl
@[simp] theorem State.setBolt_services (b : BoltId) (x : Bolt) : (s.setBolt b x).services = s.services := rfl
@[simp] theorem State.setBolt_seqs (b : BoltId) (x : Bolt) : (s.setBolt b x).seqs = s.seqs := rfl
@[simp] theorem State.setBolt_seqGen (b : BoltId) (x : Bolt) : (s.setBolt b x).seqGen = s.seqGen := rfl
@[simp] theorem State.setBolt_heldRot (b : BoltId) (x : Bolt) : (s.setBolt b x).heldRot = s.heldRot := rfl
@[simp] theorem State.setBolt_nextDone (b : BoltId) (x : Bolt) : (s.setBolt b x).nextDone = s.nextDone := rfl
@[simp] theorem State.setBolt_porchOut (b : BoltId) (x : Bolt) : (s.setBolt b x).porchOut = s.porchOut := rfl
@[simp] theorem State.setBolt_nextMsg (b : BoltId) (x : Bolt) : (s.setBolt b x).nextMsg = s.nextMsg := rfl
@[simp] theorem State.setBolt_handoffT (b : BoltId) (x : Bolt) : (s.setBolt b x).handoffT = s.handoffT := rfl
@[simp] theorem State.setBolt_ports (b : BoltId) (x : Bolt) : (s.setBolt b x).ports = s.ports := rfl
@[simp] theorem State.setBolt_slotTab (b : BoltId) (x : Bolt) : (s.setBolt b x).slotTab = s.slotTab := rfl
@[simp] theorem State.setBolt_slotBack (b : BoltId) (x : Bolt) : (s.setBolt b x).slotBack = s.slotBack := rfl
@[simp] theorem State.setBolt_slotWait (b : BoltId) (x : Bolt) : (s.setBolt b x).slotWait = s.slotWait := rfl
@[simp] theorem State.setBolt_fabric (b : BoltId) (x : Bolt) : (s.setBolt b x).fabric = s.fabric := rfl
@[simp] theorem State.setBolt_unreachable (b : BoltId) (x : Bolt) : (s.setBolt b x).unreachable = s.unreachable := rfl
@[simp] theorem State.setBolt_jobs (b : BoltId) (x : Bolt) : (s.setBolt b x).jobs = s.jobs := rfl
@[simp] theorem State.setBolt_groups (b : BoltId) (x : Bolt) : (s.setBolt b x).groups = s.groups := rfl
@[simp] theorem State.setBolt_gwrites (b : BoltId) (x : Bolt) : (s.setBolt b x).gwrites = s.gwrites := rfl
@[simp] theorem State.setBolt_nextGw (b : BoltId) (x : Bolt) : (s.setBolt b x).nextGw = s.nextGw := rfl
@[simp] theorem State.setBolt_remotes (b : BoltId) (x : Bolt) : (s.setBolt b x).remotes = s.remotes := rfl
@[simp] theorem State.setBolt_e2e (b : BoltId) (x : Bolt) : (s.setBolt b x).e2e = s.e2e := rfl
@[simp] theorem State.setBolt_remoteTimeoutMs (b : BoltId) (x : Bolt) : (s.setBolt b x).remoteTimeoutMs = s.remoteTimeoutMs := rfl
@[simp] theorem State.setBolt_remoteTimeouts (b : BoltId) (x : Bolt) : (s.setBolt b x).remoteTimeouts = s.remoteTimeouts := rfl
@[simp] theorem State.setBolt_arrived (b : BoltId) (x : Bolt) : (s.setBolt b x).arrived = s.arrived := rfl
@[simp] theorem State.setBolt_numVfs (b : BoltId) (x : Bolt) : (s.setBolt b x).numVfs = s.numVfs := rfl
@[simp] theorem State.setBolt_hostUp (b : BoltId) (x : Bolt) : (s.setBolt b x).hostUp = s.hostUp := rfl
@[simp] theorem State.setBolt_windows (b : BoltId) (x : Bolt) : (s.setBolt b x).windows = s.windows := rfl
@[simp] theorem State.setBolt_cxlOut (b : BoltId) (x : Bolt) : (s.setBolt b x).cxlOut = s.cxlOut := rfl
@[simp] theorem State.setBolt_msixOpen (b : BoltId) (x : Bolt) : (s.setBolt b x).msixOpen = s.msixOpen := rfl
@[simp] theorem State.setBolt_msixPend (b : BoltId) (x : Bolt) : (s.setBolt b x).msixPend = s.msixPend := rfl
@[simp] theorem State.setBolt_irqs (b : BoltId) (x : Bolt) : (s.setBolt b x).irqs = s.irqs := rfl
@[simp] theorem State.setBolt_inflow0 (b : BoltId) (x : Bolt) : (s.setBolt b x).inflow0 = s.inflow0 := rfl
@[simp] theorem State.setBolt_inflow1 (b : BoltId) (x : Bolt) : (s.setBolt b x).inflow1 = s.inflow1 := rfl
@[simp] theorem State.setBolt_lock (b : BoltId) (x : Bolt) : (s.setBolt b x).lock = s.lock := rfl
@[simp] theorem State.setBolt_ident (b : BoltId) (x : Bolt) : (s.setBolt b x).ident = s.ident := rfl
@[simp] theorem State.setBolt_evr (b : BoltId) (x : Bolt) : (s.setBolt b x).evr = s.evr := rfl
@[simp] theorem State.setBolt_idNode (b : BoltId) (x : Bolt) : (s.setBolt b x).idNode = s.idNode := rfl
@[simp] theorem State.setBolt_devSt (b : BoltId) (x : Bolt) : (s.setBolt b x).devSt = s.devSt := rfl
@[simp] theorem State.setBolt_devReason (b : BoltId) (x : Bolt) : (s.setBolt b x).devReason = s.devReason := rfl
@[simp] theorem State.setBolt_devWarm (b : BoltId) (x : Bolt) : (s.setBolt b x).devWarm = s.devWarm := rfl
@[simp] theorem State.setBolt_devIstat (b : BoltId) (x : Bolt) : (s.setBolt b x).devIstat = s.devIstat := rfl
@[simp] theorem State.setBolt_hc (b : BoltId) (x : Bolt) : (s.setBolt b x).hc = s.hc := rfl
@[simp] theorem State.setBolt_fwAddr (b : BoltId) (x : Bolt) : (s.setBolt b x).fwAddr = s.fwAddr := rfl
@[simp] theorem State.setBolt_fwLen (b : BoltId) (x : Bolt) : (s.setBolt b x).fwLen = s.fwLen := rfl
@[simp] theorem State.setBolt_rdShadow (b : BoltId) (x : Bolt) : (s.setBolt b x).rdShadow = s.rdShadow := rfl
@[simp] theorem State.setBolt_wrShadow (b : BoltId) (x : Bolt) : (s.setBolt b x).wrShadow = s.wrShadow := rfl
@[simp] theorem State.setBolt_violQ (b : BoltId) (x : Bolt) : (s.setBolt b x).violQ = s.violQ := rfl
@[simp] theorem State.setBolt_readData (b : BoltId) (x : Bolt) : (s.setBolt b x).readData = s.readData := rfl
@[simp] theorem State.setBolt_lbxs (b : BoltId) (x : Bolt) : (s.setBolt b x).lbxs = s.lbxs := rfl
@[simp] theorem State.setBolt_diag (b : BoltId) (x : Bolt) : (s.setBolt b x).diag = s.diag := rfl
@[simp] theorem State.setBolt_scrubPantry (b : BoltId) (x : Bolt) : (s.setBolt b x).scrubPantry = s.scrubPantry := rfl
@[simp] theorem State.setBolt_scrubCellar (b : BoltId) (x : Bolt) : (s.setBolt b x).scrubCellar = s.scrubCellar := rfl
@[simp] theorem State.setBolt_annexMs (b : BoltId) (x : Bolt) : (s.setBolt b x).annexMs = s.annexMs := rfl
@[simp] theorem State.setBolt_tjTarget (b : BoltId) (x : Bolt) : (s.setBolt b x).tjTarget = s.tjTarget := rfl
@[simp] theorem State.setBolt_power (b : BoltId) (x : Bolt) : (s.setBolt b x).power = s.power := rfl
@[simp] theorem State.setBolt_createdCtx (b : BoltId) (x : Bolt) : (s.setBolt b x).createdCtx = s.createdCtx := rfl
@[simp] theorem State.setBolt_romWait (b : BoltId) (x : Bolt) : (s.setBolt b x).romWait = s.romWait := rfl
@[simp] theorem State.setBolt_startRec (b : BoltId) (x : Bolt) : (s.setBolt b x).startRec = s.startRec := rfl
@[simp] theorem State.setBolt_startCause (b : BoltId) (x : Bolt) : (s.setBolt b x).startCause = s.startCause := rfl
@[simp] theorem State.setBolt_fw (b : BoltId) (x : Bolt) : (s.setBolt b x).fw = s.fw := rfl
@[simp] theorem State.setBolt_fuseSvn (b : BoltId) (x : Bolt) : (s.setBolt b x).fuseSvn = s.fuseSvn := rfl
@[simp] theorem State.setBolt_serving (b : BoltId) (x : Bolt) : (s.setBolt b x).serving = s.serving := rfl
@[simp] theorem State.setBolt_early (b : BoltId) (x : Bolt) : (s.setBolt b x).early = s.early := rfl
@[simp] theorem State.setBolt_errQ (b : BoltId) (x : Bolt) : (s.setBolt b x).errQ = s.errQ := rfl
@[simp] theorem State.setBolt_errOvf (b : BoltId) (x : Bolt) : (s.setBolt b x).errOvf = s.errOvf := rfl
@[simp] theorem State.setBolt_sweepDue (b : BoltId) (x : Bolt) : (s.setBolt b x).sweepDue = s.sweepDue := rfl
@[simp] theorem State.setBolt_episodes (b : BoltId) (x : Bolt) : (s.setBolt b x).episodes = s.episodes := rfl
@[simp] theorem State.setBolt_fatalLatch (b : BoltId) (x : Bolt) : (s.setBolt b x).fatalLatch = s.fatalLatch := rfl
@[simp] theorem State.setBolt_fatalErr (b : BoltId) (x : Bolt) : (s.setBolt b x).fatalErr = s.fatalErr := rfl
@[simp] theorem State.setBolt_reported (b : BoltId) (x : Bolt) : (s.setBolt b x).reported = s.reported := rfl
@[simp] theorem State.setBolt_i3c (b : BoltId) (x : Bolt) : (s.setBolt b x).i3c = s.i3c := rfl
@[simp] theorem State.setBolt_coolantAbsent (b : BoltId) (x : Bolt) : (s.setBolt b x).coolantAbsent = s.coolantAbsent := rfl
@[simp] theorem State.setBolt_brake (b : BoltId) (x : Bolt) : (s.setBolt b x).brake = s.brake := rfl
@[simp] theorem State.setBolt_latch (b : BoltId) (x : Bolt) : (s.setBolt b x).latch = s.latch := rfl
@[simp] theorem State.setBolt_rst (b : BoltId) (x : Bolt) : (s.setBolt b x).rst = s.rst := rfl
@[simp] theorem State.setBolt_pwrOk (b : BoltId) (x : Bolt) : (s.setBolt b x).pwrOk = s.pwrOk := rfl
@[simp] theorem State.setBolt_thermTrip (b : BoltId) (x : Bolt) : (s.setBolt b x).thermTrip = s.thermTrip := rfl
@[simp] theorem State.setBolt_clockLost (b : BoltId) (x : Bolt) : (s.setBolt b x).clockLost = s.clockLost := rfl
@[simp] theorem State.setBolt_repair (b : BoltId) (x : Bolt) : (s.setBolt b x).repair = s.repair := rfl

/-! ### updPort -/

@[simp] theorem State.updPort_pending (p : Nat) (f : Port → Port) : (s.updPort p f).pending = s.pending := rfl
@[simp] theorem State.updPort_mem (p : Nat) (f : Port → Port) : (s.updPort p f).mem = s.mem := rfl
@[simp] theorem State.updPort_poison (p : Nat) (f : Port → Port) : (s.updPort p f).poison = s.poison := rfl
@[simp] theorem State.updPort_fresh (p : Nat) (f : Port → Port) : (s.updPort p f).fresh = s.fresh := rfl
@[simp] theorem State.updPort_rooms (p : Nat) (f : Port → Port) : (s.updPort p f).rooms = s.rooms := rfl
@[simp] theorem State.updPort_wings (p : Nat) (f : Port → Port) : (s.updPort p f).wings = s.wings := rfl
@[simp] theorem State.updPort_accesses (p : Nat) (f : Port → Port) : (s.updPort p f).accesses = s.accesses := rfl
@[simp] theorem State.updPort_nextAcc (p : Nat) (f : Port → Port) : (s.updPort p f).nextAcc = s.nextAcc := rfl
@[simp] theorem State.updPort_slices (p : Nat) (f : Port → Port) : (s.updPort p f).slices = s.slices := rfl
@[simp] theorem State.updPort_tbufs (p : Nat) (f : Port → Port) : (s.updPort p f).tbufs = s.tbufs := rfl
@[simp] theorem State.updPort_roots (p : Nat) (f : Port → Port) : (s.updPort p f).roots = s.roots := rfl
@[simp] theorem State.updPort_tables (p : Nat) (f : Port → Port) : (s.updPort p f).tables = s.tables := rfl
@[simp] theorem State.updPort_leafTabs (p : Nat) (f : Port → Port) : (s.updPort p f).leafTabs = s.leafTabs := rfl
@[simp] theorem State.updPort_subTabs (p : Nat) (f : Port → Port) : (s.updPort p f).subTabs = s.subTabs := rfl
@[simp] theorem State.updPort_used (p : Nat) (f : Port → Port) : (s.updPort p f).used = s.used := rfl
@[simp] theorem State.updPort_spreadGroups (p : Nat) (f : Port → Port) : (s.updPort p f).spreadGroups = s.spreadGroups := rfl
@[simp] theorem State.updPort_localGroups (p : Nat) (f : Port → Port) : (s.updPort p f).localGroups = s.localGroups := rfl
@[simp] theorem State.updPort_stackCh (p : Nat) (f : Port → Port) : (s.updPort p f).stackCh = s.stackCh := rfl
@[simp] theorem State.updPort_groupFrames (p : Nat) (f : Port → Port) : (s.updPort p f).groupFrames = s.groupFrames := rfl
@[simp] theorem State.updPort_chanLost (p : Nat) (f : Port → Port) : (s.updPort p f).chanLost = s.chanLost := rfl
@[simp] theorem State.updPort_annexUp (p : Nat) (f : Port → Port) : (s.updPort p f).annexUp = s.annexUp := rfl
@[simp] theorem State.updPort_decoders (p : Nat) (f : Port → Port) : (s.updPort p f).decoders = s.decoders := rfl
@[simp] theorem State.updPort_extents (p : Nat) (f : Port → Port) : (s.updPort p f).extents = s.extents := rfl
@[simp] theorem State.updPort_dws (p : Nat) (f : Port → Port) : (s.updPort p f).dws = s.dws := rfl
@[simp] theorem State.updPort_streams (p : Nat) (f : Port → Port) : (s.updPort p f).streams = s.streams := rfl
@[simp] theorem State.updPort_modelWork (p : Nat) (f : Port → Port) : (s.updPort p f).modelWork = s.modelWork := rfl
@[simp] theorem State.updPort_revs (p : Nat) (f : Port → Port) : (s.updPort p f).revs = s.revs := rfl
@[simp] theorem State.updPort_moves (p : Nat) (f : Port → Port) : (s.updPort p f).moves = s.moves := rfl
@[simp] theorem State.updPort_nextWork (p : Nat) (f : Port → Port) : (s.updPort p f).nextWork = s.nextWork := rfl
@[simp] theorem State.updPort_ctxs (p : Nat) (f : Port → Port) : (s.updPort p f).ctxs = s.ctxs := rfl
@[simp] theorem State.updPort_bolts (p : Nat) (f : Port → Port) : (s.updPort p f).bolts = s.bolts := rfl
@[simp] theorem State.updPort_boltQ (p : Nat) (f : Port → Port) : (s.updPort p f).boltQ = s.boltQ := rfl
@[simp] theorem State.updPort_boltRsp (p : Nat) (f : Port → Port) : (s.updPort p f).boltRsp = s.boltRsp := rfl
@[simp] theorem State.updPort_services (p : Nat) (f : Port → Port) : (s.updPort p f).services = s.services := rfl
@[simp] theorem State.updPort_seqs (p : Nat) (f : Port → Port) : (s.updPort p f).seqs = s.seqs := rfl
@[simp] theorem State.updPort_seqGen (p : Nat) (f : Port → Port) : (s.updPort p f).seqGen = s.seqGen := rfl
@[simp] theorem State.updPort_heldRot (p : Nat) (f : Port → Port) : (s.updPort p f).heldRot = s.heldRot := rfl
@[simp] theorem State.updPort_nextDone (p : Nat) (f : Port → Port) : (s.updPort p f).nextDone = s.nextDone := rfl
@[simp] theorem State.updPort_porchOut (p : Nat) (f : Port → Port) : (s.updPort p f).porchOut = s.porchOut := rfl
@[simp] theorem State.updPort_nextMsg (p : Nat) (f : Port → Port) : (s.updPort p f).nextMsg = s.nextMsg := rfl
@[simp] theorem State.updPort_handoffT (p : Nat) (f : Port → Port) : (s.updPort p f).handoffT = s.handoffT := rfl
@[simp] theorem State.updPort_ports (p : Nat) (f : Port → Port) : (s.updPort p f).ports = mapSet s.ports p (f (s.port p)) := rfl
@[simp] theorem State.updPort_slotTab (p : Nat) (f : Port → Port) : (s.updPort p f).slotTab = s.slotTab := rfl
@[simp] theorem State.updPort_slotBack (p : Nat) (f : Port → Port) : (s.updPort p f).slotBack = s.slotBack := rfl
@[simp] theorem State.updPort_slotWait (p : Nat) (f : Port → Port) : (s.updPort p f).slotWait = s.slotWait := rfl
@[simp] theorem State.updPort_fabric (p : Nat) (f : Port → Port) : (s.updPort p f).fabric = s.fabric := rfl
@[simp] theorem State.updPort_unreachable (p : Nat) (f : Port → Port) : (s.updPort p f).unreachable = s.unreachable := rfl
@[simp] theorem State.updPort_jobs (p : Nat) (f : Port → Port) : (s.updPort p f).jobs = s.jobs := rfl
@[simp] theorem State.updPort_groups (p : Nat) (f : Port → Port) : (s.updPort p f).groups = s.groups := rfl
@[simp] theorem State.updPort_gwrites (p : Nat) (f : Port → Port) : (s.updPort p f).gwrites = s.gwrites := rfl
@[simp] theorem State.updPort_nextGw (p : Nat) (f : Port → Port) : (s.updPort p f).nextGw = s.nextGw := rfl
@[simp] theorem State.updPort_remotes (p : Nat) (f : Port → Port) : (s.updPort p f).remotes = s.remotes := rfl
@[simp] theorem State.updPort_e2e (p : Nat) (f : Port → Port) : (s.updPort p f).e2e = s.e2e := rfl
@[simp] theorem State.updPort_remoteTimeoutMs (p : Nat) (f : Port → Port) : (s.updPort p f).remoteTimeoutMs = s.remoteTimeoutMs := rfl
@[simp] theorem State.updPort_remoteTimeouts (p : Nat) (f : Port → Port) : (s.updPort p f).remoteTimeouts = s.remoteTimeouts := rfl
@[simp] theorem State.updPort_arrived (p : Nat) (f : Port → Port) : (s.updPort p f).arrived = s.arrived := rfl
@[simp] theorem State.updPort_numVfs (p : Nat) (f : Port → Port) : (s.updPort p f).numVfs = s.numVfs := rfl
@[simp] theorem State.updPort_hostUp (p : Nat) (f : Port → Port) : (s.updPort p f).hostUp = s.hostUp := rfl
@[simp] theorem State.updPort_windows (p : Nat) (f : Port → Port) : (s.updPort p f).windows = s.windows := rfl
@[simp] theorem State.updPort_cxlOut (p : Nat) (f : Port → Port) : (s.updPort p f).cxlOut = s.cxlOut := rfl
@[simp] theorem State.updPort_msixOpen (p : Nat) (f : Port → Port) : (s.updPort p f).msixOpen = s.msixOpen := rfl
@[simp] theorem State.updPort_msixPend (p : Nat) (f : Port → Port) : (s.updPort p f).msixPend = s.msixPend := rfl
@[simp] theorem State.updPort_irqs (p : Nat) (f : Port → Port) : (s.updPort p f).irqs = s.irqs := rfl
@[simp] theorem State.updPort_inflow0 (p : Nat) (f : Port → Port) : (s.updPort p f).inflow0 = s.inflow0 := rfl
@[simp] theorem State.updPort_inflow1 (p : Nat) (f : Port → Port) : (s.updPort p f).inflow1 = s.inflow1 := rfl
@[simp] theorem State.updPort_lock (p : Nat) (f : Port → Port) : (s.updPort p f).lock = s.lock := rfl
@[simp] theorem State.updPort_ident (p : Nat) (f : Port → Port) : (s.updPort p f).ident = s.ident := rfl
@[simp] theorem State.updPort_evr (p : Nat) (f : Port → Port) : (s.updPort p f).evr = s.evr := rfl
@[simp] theorem State.updPort_idNode (p : Nat) (f : Port → Port) : (s.updPort p f).idNode = s.idNode := rfl
@[simp] theorem State.updPort_devSt (p : Nat) (f : Port → Port) : (s.updPort p f).devSt = s.devSt := rfl
@[simp] theorem State.updPort_devReason (p : Nat) (f : Port → Port) : (s.updPort p f).devReason = s.devReason := rfl
@[simp] theorem State.updPort_devWarm (p : Nat) (f : Port → Port) : (s.updPort p f).devWarm = s.devWarm := rfl
@[simp] theorem State.updPort_devIstat (p : Nat) (f : Port → Port) : (s.updPort p f).devIstat = s.devIstat := rfl
@[simp] theorem State.updPort_hc (p : Nat) (f : Port → Port) : (s.updPort p f).hc = s.hc := rfl
@[simp] theorem State.updPort_fwAddr (p : Nat) (f : Port → Port) : (s.updPort p f).fwAddr = s.fwAddr := rfl
@[simp] theorem State.updPort_fwLen (p : Nat) (f : Port → Port) : (s.updPort p f).fwLen = s.fwLen := rfl
@[simp] theorem State.updPort_rdShadow (p : Nat) (f : Port → Port) : (s.updPort p f).rdShadow = s.rdShadow := rfl
@[simp] theorem State.updPort_wrShadow (p : Nat) (f : Port → Port) : (s.updPort p f).wrShadow = s.wrShadow := rfl
@[simp] theorem State.updPort_violQ (p : Nat) (f : Port → Port) : (s.updPort p f).violQ = s.violQ := rfl
@[simp] theorem State.updPort_readData (p : Nat) (f : Port → Port) : (s.updPort p f).readData = s.readData := rfl
@[simp] theorem State.updPort_lbxs (p : Nat) (f : Port → Port) : (s.updPort p f).lbxs = s.lbxs := rfl
@[simp] theorem State.updPort_diag (p : Nat) (f : Port → Port) : (s.updPort p f).diag = s.diag := rfl
@[simp] theorem State.updPort_scrubPantry (p : Nat) (f : Port → Port) : (s.updPort p f).scrubPantry = s.scrubPantry := rfl
@[simp] theorem State.updPort_scrubCellar (p : Nat) (f : Port → Port) : (s.updPort p f).scrubCellar = s.scrubCellar := rfl
@[simp] theorem State.updPort_annexMs (p : Nat) (f : Port → Port) : (s.updPort p f).annexMs = s.annexMs := rfl
@[simp] theorem State.updPort_tjTarget (p : Nat) (f : Port → Port) : (s.updPort p f).tjTarget = s.tjTarget := rfl
@[simp] theorem State.updPort_power (p : Nat) (f : Port → Port) : (s.updPort p f).power = s.power := rfl
@[simp] theorem State.updPort_createdCtx (p : Nat) (f : Port → Port) : (s.updPort p f).createdCtx = s.createdCtx := rfl
@[simp] theorem State.updPort_romWait (p : Nat) (f : Port → Port) : (s.updPort p f).romWait = s.romWait := rfl
@[simp] theorem State.updPort_startRec (p : Nat) (f : Port → Port) : (s.updPort p f).startRec = s.startRec := rfl
@[simp] theorem State.updPort_startCause (p : Nat) (f : Port → Port) : (s.updPort p f).startCause = s.startCause := rfl
@[simp] theorem State.updPort_fw (p : Nat) (f : Port → Port) : (s.updPort p f).fw = s.fw := rfl
@[simp] theorem State.updPort_fuseSvn (p : Nat) (f : Port → Port) : (s.updPort p f).fuseSvn = s.fuseSvn := rfl
@[simp] theorem State.updPort_serving (p : Nat) (f : Port → Port) : (s.updPort p f).serving = s.serving := rfl
@[simp] theorem State.updPort_early (p : Nat) (f : Port → Port) : (s.updPort p f).early = s.early := rfl
@[simp] theorem State.updPort_errQ (p : Nat) (f : Port → Port) : (s.updPort p f).errQ = s.errQ := rfl
@[simp] theorem State.updPort_errOvf (p : Nat) (f : Port → Port) : (s.updPort p f).errOvf = s.errOvf := rfl
@[simp] theorem State.updPort_sweepDue (p : Nat) (f : Port → Port) : (s.updPort p f).sweepDue = s.sweepDue := rfl
@[simp] theorem State.updPort_episodes (p : Nat) (f : Port → Port) : (s.updPort p f).episodes = s.episodes := rfl
@[simp] theorem State.updPort_fatalLatch (p : Nat) (f : Port → Port) : (s.updPort p f).fatalLatch = s.fatalLatch := rfl
@[simp] theorem State.updPort_fatalErr (p : Nat) (f : Port → Port) : (s.updPort p f).fatalErr = s.fatalErr := rfl
@[simp] theorem State.updPort_reported (p : Nat) (f : Port → Port) : (s.updPort p f).reported = s.reported := rfl
@[simp] theorem State.updPort_i3c (p : Nat) (f : Port → Port) : (s.updPort p f).i3c = s.i3c := rfl
@[simp] theorem State.updPort_coolantAbsent (p : Nat) (f : Port → Port) : (s.updPort p f).coolantAbsent = s.coolantAbsent := rfl
@[simp] theorem State.updPort_brake (p : Nat) (f : Port → Port) : (s.updPort p f).brake = s.brake := rfl
@[simp] theorem State.updPort_latch (p : Nat) (f : Port → Port) : (s.updPort p f).latch = s.latch := rfl
@[simp] theorem State.updPort_rst (p : Nat) (f : Port → Port) : (s.updPort p f).rst = s.rst := rfl
@[simp] theorem State.updPort_pwrOk (p : Nat) (f : Port → Port) : (s.updPort p f).pwrOk = s.pwrOk := rfl
@[simp] theorem State.updPort_thermTrip (p : Nat) (f : Port → Port) : (s.updPort p f).thermTrip = s.thermTrip := rfl
@[simp] theorem State.updPort_clockLost (p : Nat) (f : Port → Port) : (s.updPort p f).clockLost = s.clockLost := rfl
@[simp] theorem State.updPort_repair (p : Nat) (f : Port → Port) : (s.updPort p f).repair = s.repair := rfl

/-! ### updLbx -/

@[simp] theorem State.updLbx_pending (l : Nat) (f : Lbx → Lbx) : (s.updLbx l f).pending = s.pending := rfl
@[simp] theorem State.updLbx_mem (l : Nat) (f : Lbx → Lbx) : (s.updLbx l f).mem = s.mem := rfl
@[simp] theorem State.updLbx_poison (l : Nat) (f : Lbx → Lbx) : (s.updLbx l f).poison = s.poison := rfl
@[simp] theorem State.updLbx_fresh (l : Nat) (f : Lbx → Lbx) : (s.updLbx l f).fresh = s.fresh := rfl
@[simp] theorem State.updLbx_rooms (l : Nat) (f : Lbx → Lbx) : (s.updLbx l f).rooms = s.rooms := rfl
@[simp] theorem State.updLbx_wings (l : Nat) (f : Lbx → Lbx) : (s.updLbx l f).wings = s.wings := rfl
@[simp] theorem State.updLbx_accesses (l : Nat) (f : Lbx → Lbx) : (s.updLbx l f).accesses = s.accesses := rfl
@[simp] theorem State.updLbx_nextAcc (l : Nat) (f : Lbx → Lbx) : (s.updLbx l f).nextAcc = s.nextAcc := rfl
@[simp] theorem State.updLbx_slices (l : Nat) (f : Lbx → Lbx) : (s.updLbx l f).slices = s.slices := rfl
@[simp] theorem State.updLbx_tbufs (l : Nat) (f : Lbx → Lbx) : (s.updLbx l f).tbufs = s.tbufs := rfl
@[simp] theorem State.updLbx_roots (l : Nat) (f : Lbx → Lbx) : (s.updLbx l f).roots = s.roots := rfl
@[simp] theorem State.updLbx_tables (l : Nat) (f : Lbx → Lbx) : (s.updLbx l f).tables = s.tables := rfl
@[simp] theorem State.updLbx_leafTabs (l : Nat) (f : Lbx → Lbx) : (s.updLbx l f).leafTabs = s.leafTabs := rfl
@[simp] theorem State.updLbx_subTabs (l : Nat) (f : Lbx → Lbx) : (s.updLbx l f).subTabs = s.subTabs := rfl
@[simp] theorem State.updLbx_used (l : Nat) (f : Lbx → Lbx) : (s.updLbx l f).used = s.used := rfl
@[simp] theorem State.updLbx_spreadGroups (l : Nat) (f : Lbx → Lbx) : (s.updLbx l f).spreadGroups = s.spreadGroups := rfl
@[simp] theorem State.updLbx_localGroups (l : Nat) (f : Lbx → Lbx) : (s.updLbx l f).localGroups = s.localGroups := rfl
@[simp] theorem State.updLbx_stackCh (l : Nat) (f : Lbx → Lbx) : (s.updLbx l f).stackCh = s.stackCh := rfl
@[simp] theorem State.updLbx_groupFrames (l : Nat) (f : Lbx → Lbx) : (s.updLbx l f).groupFrames = s.groupFrames := rfl
@[simp] theorem State.updLbx_chanLost (l : Nat) (f : Lbx → Lbx) : (s.updLbx l f).chanLost = s.chanLost := rfl
@[simp] theorem State.updLbx_annexUp (l : Nat) (f : Lbx → Lbx) : (s.updLbx l f).annexUp = s.annexUp := rfl
@[simp] theorem State.updLbx_decoders (l : Nat) (f : Lbx → Lbx) : (s.updLbx l f).decoders = s.decoders := rfl
@[simp] theorem State.updLbx_extents (l : Nat) (f : Lbx → Lbx) : (s.updLbx l f).extents = s.extents := rfl
@[simp] theorem State.updLbx_dws (l : Nat) (f : Lbx → Lbx) : (s.updLbx l f).dws = s.dws := rfl
@[simp] theorem State.updLbx_streams (l : Nat) (f : Lbx → Lbx) : (s.updLbx l f).streams = s.streams := rfl
@[simp] theorem State.updLbx_modelWork (l : Nat) (f : Lbx → Lbx) : (s.updLbx l f).modelWork = s.modelWork := rfl
@[simp] theorem State.updLbx_revs (l : Nat) (f : Lbx → Lbx) : (s.updLbx l f).revs = s.revs := rfl
@[simp] theorem State.updLbx_moves (l : Nat) (f : Lbx → Lbx) : (s.updLbx l f).moves = s.moves := rfl
@[simp] theorem State.updLbx_nextWork (l : Nat) (f : Lbx → Lbx) : (s.updLbx l f).nextWork = s.nextWork := rfl
@[simp] theorem State.updLbx_ctxs (l : Nat) (f : Lbx → Lbx) : (s.updLbx l f).ctxs = s.ctxs := rfl
@[simp] theorem State.updLbx_bolts (l : Nat) (f : Lbx → Lbx) : (s.updLbx l f).bolts = s.bolts := rfl
@[simp] theorem State.updLbx_boltQ (l : Nat) (f : Lbx → Lbx) : (s.updLbx l f).boltQ = s.boltQ := rfl
@[simp] theorem State.updLbx_boltRsp (l : Nat) (f : Lbx → Lbx) : (s.updLbx l f).boltRsp = s.boltRsp := rfl
@[simp] theorem State.updLbx_services (l : Nat) (f : Lbx → Lbx) : (s.updLbx l f).services = s.services := rfl
@[simp] theorem State.updLbx_seqs (l : Nat) (f : Lbx → Lbx) : (s.updLbx l f).seqs = s.seqs := rfl
@[simp] theorem State.updLbx_seqGen (l : Nat) (f : Lbx → Lbx) : (s.updLbx l f).seqGen = s.seqGen := rfl
@[simp] theorem State.updLbx_heldRot (l : Nat) (f : Lbx → Lbx) : (s.updLbx l f).heldRot = s.heldRot := rfl
@[simp] theorem State.updLbx_nextDone (l : Nat) (f : Lbx → Lbx) : (s.updLbx l f).nextDone = s.nextDone := rfl
@[simp] theorem State.updLbx_porchOut (l : Nat) (f : Lbx → Lbx) : (s.updLbx l f).porchOut = s.porchOut := rfl
@[simp] theorem State.updLbx_nextMsg (l : Nat) (f : Lbx → Lbx) : (s.updLbx l f).nextMsg = s.nextMsg := rfl
@[simp] theorem State.updLbx_handoffT (l : Nat) (f : Lbx → Lbx) : (s.updLbx l f).handoffT = s.handoffT := rfl
@[simp] theorem State.updLbx_ports (l : Nat) (f : Lbx → Lbx) : (s.updLbx l f).ports = s.ports := rfl
@[simp] theorem State.updLbx_slotTab (l : Nat) (f : Lbx → Lbx) : (s.updLbx l f).slotTab = s.slotTab := rfl
@[simp] theorem State.updLbx_slotBack (l : Nat) (f : Lbx → Lbx) : (s.updLbx l f).slotBack = s.slotBack := rfl
@[simp] theorem State.updLbx_slotWait (l : Nat) (f : Lbx → Lbx) : (s.updLbx l f).slotWait = s.slotWait := rfl
@[simp] theorem State.updLbx_fabric (l : Nat) (f : Lbx → Lbx) : (s.updLbx l f).fabric = s.fabric := rfl
@[simp] theorem State.updLbx_unreachable (l : Nat) (f : Lbx → Lbx) : (s.updLbx l f).unreachable = s.unreachable := rfl
@[simp] theorem State.updLbx_jobs (l : Nat) (f : Lbx → Lbx) : (s.updLbx l f).jobs = s.jobs := rfl
@[simp] theorem State.updLbx_groups (l : Nat) (f : Lbx → Lbx) : (s.updLbx l f).groups = s.groups := rfl
@[simp] theorem State.updLbx_gwrites (l : Nat) (f : Lbx → Lbx) : (s.updLbx l f).gwrites = s.gwrites := rfl
@[simp] theorem State.updLbx_nextGw (l : Nat) (f : Lbx → Lbx) : (s.updLbx l f).nextGw = s.nextGw := rfl
@[simp] theorem State.updLbx_remotes (l : Nat) (f : Lbx → Lbx) : (s.updLbx l f).remotes = s.remotes := rfl
@[simp] theorem State.updLbx_e2e (l : Nat) (f : Lbx → Lbx) : (s.updLbx l f).e2e = s.e2e := rfl
@[simp] theorem State.updLbx_remoteTimeoutMs (l : Nat) (f : Lbx → Lbx) : (s.updLbx l f).remoteTimeoutMs = s.remoteTimeoutMs := rfl
@[simp] theorem State.updLbx_remoteTimeouts (l : Nat) (f : Lbx → Lbx) : (s.updLbx l f).remoteTimeouts = s.remoteTimeouts := rfl
@[simp] theorem State.updLbx_arrived (l : Nat) (f : Lbx → Lbx) : (s.updLbx l f).arrived = s.arrived := rfl
@[simp] theorem State.updLbx_numVfs (l : Nat) (f : Lbx → Lbx) : (s.updLbx l f).numVfs = s.numVfs := rfl
@[simp] theorem State.updLbx_hostUp (l : Nat) (f : Lbx → Lbx) : (s.updLbx l f).hostUp = s.hostUp := rfl
@[simp] theorem State.updLbx_windows (l : Nat) (f : Lbx → Lbx) : (s.updLbx l f).windows = s.windows := rfl
@[simp] theorem State.updLbx_cxlOut (l : Nat) (f : Lbx → Lbx) : (s.updLbx l f).cxlOut = s.cxlOut := rfl
@[simp] theorem State.updLbx_msixOpen (l : Nat) (f : Lbx → Lbx) : (s.updLbx l f).msixOpen = s.msixOpen := rfl
@[simp] theorem State.updLbx_msixPend (l : Nat) (f : Lbx → Lbx) : (s.updLbx l f).msixPend = s.msixPend := rfl
@[simp] theorem State.updLbx_irqs (l : Nat) (f : Lbx → Lbx) : (s.updLbx l f).irqs = s.irqs := rfl
@[simp] theorem State.updLbx_inflow0 (l : Nat) (f : Lbx → Lbx) : (s.updLbx l f).inflow0 = s.inflow0 := rfl
@[simp] theorem State.updLbx_inflow1 (l : Nat) (f : Lbx → Lbx) : (s.updLbx l f).inflow1 = s.inflow1 := rfl
@[simp] theorem State.updLbx_lock (l : Nat) (f : Lbx → Lbx) : (s.updLbx l f).lock = s.lock := rfl
@[simp] theorem State.updLbx_ident (l : Nat) (f : Lbx → Lbx) : (s.updLbx l f).ident = s.ident := rfl
@[simp] theorem State.updLbx_evr (l : Nat) (f : Lbx → Lbx) : (s.updLbx l f).evr = s.evr := rfl
@[simp] theorem State.updLbx_idNode (l : Nat) (f : Lbx → Lbx) : (s.updLbx l f).idNode = s.idNode := rfl
@[simp] theorem State.updLbx_devSt (l : Nat) (f : Lbx → Lbx) : (s.updLbx l f).devSt = s.devSt := rfl
@[simp] theorem State.updLbx_devReason (l : Nat) (f : Lbx → Lbx) : (s.updLbx l f).devReason = s.devReason := rfl
@[simp] theorem State.updLbx_devWarm (l : Nat) (f : Lbx → Lbx) : (s.updLbx l f).devWarm = s.devWarm := rfl
@[simp] theorem State.updLbx_devIstat (l : Nat) (f : Lbx → Lbx) : (s.updLbx l f).devIstat = s.devIstat := rfl
@[simp] theorem State.updLbx_hc (l : Nat) (f : Lbx → Lbx) : (s.updLbx l f).hc = s.hc := rfl
@[simp] theorem State.updLbx_fwAddr (l : Nat) (f : Lbx → Lbx) : (s.updLbx l f).fwAddr = s.fwAddr := rfl
@[simp] theorem State.updLbx_fwLen (l : Nat) (f : Lbx → Lbx) : (s.updLbx l f).fwLen = s.fwLen := rfl
@[simp] theorem State.updLbx_rdShadow (l : Nat) (f : Lbx → Lbx) : (s.updLbx l f).rdShadow = s.rdShadow := rfl
@[simp] theorem State.updLbx_wrShadow (l : Nat) (f : Lbx → Lbx) : (s.updLbx l f).wrShadow = s.wrShadow := rfl
@[simp] theorem State.updLbx_violQ (l : Nat) (f : Lbx → Lbx) : (s.updLbx l f).violQ = s.violQ := rfl
@[simp] theorem State.updLbx_readData (l : Nat) (f : Lbx → Lbx) : (s.updLbx l f).readData = s.readData := rfl
@[simp] theorem State.updLbx_lbxs (l : Nat) (f : Lbx → Lbx) : (s.updLbx l f).lbxs = mapSet s.lbxs l (f (s.lbx l)) := rfl
@[simp] theorem State.updLbx_diag (l : Nat) (f : Lbx → Lbx) : (s.updLbx l f).diag = s.diag := rfl
@[simp] theorem State.updLbx_scrubPantry (l : Nat) (f : Lbx → Lbx) : (s.updLbx l f).scrubPantry = s.scrubPantry := rfl
@[simp] theorem State.updLbx_scrubCellar (l : Nat) (f : Lbx → Lbx) : (s.updLbx l f).scrubCellar = s.scrubCellar := rfl
@[simp] theorem State.updLbx_annexMs (l : Nat) (f : Lbx → Lbx) : (s.updLbx l f).annexMs = s.annexMs := rfl
@[simp] theorem State.updLbx_tjTarget (l : Nat) (f : Lbx → Lbx) : (s.updLbx l f).tjTarget = s.tjTarget := rfl
@[simp] theorem State.updLbx_power (l : Nat) (f : Lbx → Lbx) : (s.updLbx l f).power = s.power := rfl
@[simp] theorem State.updLbx_createdCtx (l : Nat) (f : Lbx → Lbx) : (s.updLbx l f).createdCtx = s.createdCtx := rfl
@[simp] theorem State.updLbx_romWait (l : Nat) (f : Lbx → Lbx) : (s.updLbx l f).romWait = s.romWait := rfl
@[simp] theorem State.updLbx_startRec (l : Nat) (f : Lbx → Lbx) : (s.updLbx l f).startRec = s.startRec := rfl
@[simp] theorem State.updLbx_startCause (l : Nat) (f : Lbx → Lbx) : (s.updLbx l f).startCause = s.startCause := rfl
@[simp] theorem State.updLbx_fw (l : Nat) (f : Lbx → Lbx) : (s.updLbx l f).fw = s.fw := rfl
@[simp] theorem State.updLbx_fuseSvn (l : Nat) (f : Lbx → Lbx) : (s.updLbx l f).fuseSvn = s.fuseSvn := rfl
@[simp] theorem State.updLbx_serving (l : Nat) (f : Lbx → Lbx) : (s.updLbx l f).serving = s.serving := rfl
@[simp] theorem State.updLbx_early (l : Nat) (f : Lbx → Lbx) : (s.updLbx l f).early = s.early := rfl
@[simp] theorem State.updLbx_errQ (l : Nat) (f : Lbx → Lbx) : (s.updLbx l f).errQ = s.errQ := rfl
@[simp] theorem State.updLbx_errOvf (l : Nat) (f : Lbx → Lbx) : (s.updLbx l f).errOvf = s.errOvf := rfl
@[simp] theorem State.updLbx_sweepDue (l : Nat) (f : Lbx → Lbx) : (s.updLbx l f).sweepDue = s.sweepDue := rfl
@[simp] theorem State.updLbx_episodes (l : Nat) (f : Lbx → Lbx) : (s.updLbx l f).episodes = s.episodes := rfl
@[simp] theorem State.updLbx_fatalLatch (l : Nat) (f : Lbx → Lbx) : (s.updLbx l f).fatalLatch = s.fatalLatch := rfl
@[simp] theorem State.updLbx_fatalErr (l : Nat) (f : Lbx → Lbx) : (s.updLbx l f).fatalErr = s.fatalErr := rfl
@[simp] theorem State.updLbx_reported (l : Nat) (f : Lbx → Lbx) : (s.updLbx l f).reported = s.reported := rfl
@[simp] theorem State.updLbx_i3c (l : Nat) (f : Lbx → Lbx) : (s.updLbx l f).i3c = s.i3c := rfl
@[simp] theorem State.updLbx_coolantAbsent (l : Nat) (f : Lbx → Lbx) : (s.updLbx l f).coolantAbsent = s.coolantAbsent := rfl
@[simp] theorem State.updLbx_brake (l : Nat) (f : Lbx → Lbx) : (s.updLbx l f).brake = s.brake := rfl
@[simp] theorem State.updLbx_latch (l : Nat) (f : Lbx → Lbx) : (s.updLbx l f).latch = s.latch := rfl
@[simp] theorem State.updLbx_rst (l : Nat) (f : Lbx → Lbx) : (s.updLbx l f).rst = s.rst := rfl
@[simp] theorem State.updLbx_pwrOk (l : Nat) (f : Lbx → Lbx) : (s.updLbx l f).pwrOk = s.pwrOk := rfl
@[simp] theorem State.updLbx_thermTrip (l : Nat) (f : Lbx → Lbx) : (s.updLbx l f).thermTrip = s.thermTrip := rfl
@[simp] theorem State.updLbx_clockLost (l : Nat) (f : Lbx → Lbx) : (s.updLbx l f).clockLost = s.clockLost := rfl
@[simp] theorem State.updLbx_repair (l : Nat) (f : Lbx → Lbx) : (s.updLbx l f).repair = s.repair := rfl

/-! ### setStream -/

@[simp] theorem State.setStream_pending (i : StreamId) (x : Stream) : (s.setStream i x).pending = s.pending := rfl
@[simp] theorem State.setStream_mem (i : StreamId) (x : Stream) : (s.setStream i x).mem = s.mem := rfl
@[simp] theorem State.setStream_poison (i : StreamId) (x : Stream) : (s.setStream i x).poison = s.poison := rfl
@[simp] theorem State.setStream_fresh (i : StreamId) (x : Stream) : (s.setStream i x).fresh = s.fresh := rfl
@[simp] theorem State.setStream_rooms (i : StreamId) (x : Stream) : (s.setStream i x).rooms = s.rooms := rfl
@[simp] theorem State.setStream_wings (i : StreamId) (x : Stream) : (s.setStream i x).wings = s.wings := rfl
@[simp] theorem State.setStream_accesses (i : StreamId) (x : Stream) : (s.setStream i x).accesses = s.accesses := rfl
@[simp] theorem State.setStream_nextAcc (i : StreamId) (x : Stream) : (s.setStream i x).nextAcc = s.nextAcc := rfl
@[simp] theorem State.setStream_slices (i : StreamId) (x : Stream) : (s.setStream i x).slices = s.slices := rfl
@[simp] theorem State.setStream_tbufs (i : StreamId) (x : Stream) : (s.setStream i x).tbufs = s.tbufs := rfl
@[simp] theorem State.setStream_roots (i : StreamId) (x : Stream) : (s.setStream i x).roots = s.roots := rfl
@[simp] theorem State.setStream_tables (i : StreamId) (x : Stream) : (s.setStream i x).tables = s.tables := rfl
@[simp] theorem State.setStream_leafTabs (i : StreamId) (x : Stream) : (s.setStream i x).leafTabs = s.leafTabs := rfl
@[simp] theorem State.setStream_subTabs (i : StreamId) (x : Stream) : (s.setStream i x).subTabs = s.subTabs := rfl
@[simp] theorem State.setStream_used (i : StreamId) (x : Stream) : (s.setStream i x).used = s.used := rfl
@[simp] theorem State.setStream_spreadGroups (i : StreamId) (x : Stream) : (s.setStream i x).spreadGroups = s.spreadGroups := rfl
@[simp] theorem State.setStream_localGroups (i : StreamId) (x : Stream) : (s.setStream i x).localGroups = s.localGroups := rfl
@[simp] theorem State.setStream_stackCh (i : StreamId) (x : Stream) : (s.setStream i x).stackCh = s.stackCh := rfl
@[simp] theorem State.setStream_groupFrames (i : StreamId) (x : Stream) : (s.setStream i x).groupFrames = s.groupFrames := rfl
@[simp] theorem State.setStream_chanLost (i : StreamId) (x : Stream) : (s.setStream i x).chanLost = s.chanLost := rfl
@[simp] theorem State.setStream_annexUp (i : StreamId) (x : Stream) : (s.setStream i x).annexUp = s.annexUp := rfl
@[simp] theorem State.setStream_decoders (i : StreamId) (x : Stream) : (s.setStream i x).decoders = s.decoders := rfl
@[simp] theorem State.setStream_extents (i : StreamId) (x : Stream) : (s.setStream i x).extents = s.extents := rfl
@[simp] theorem State.setStream_dws (i : StreamId) (x : Stream) : (s.setStream i x).dws = s.dws := rfl
@[simp] theorem State.setStream_streams (i : StreamId) (x : Stream) : (s.setStream i x).streams = mapSet s.streams i x := rfl
@[simp] theorem State.setStream_modelWork (i : StreamId) (x : Stream) : (s.setStream i x).modelWork = s.modelWork := rfl
@[simp] theorem State.setStream_revs (i : StreamId) (x : Stream) : (s.setStream i x).revs = s.revs := rfl
@[simp] theorem State.setStream_moves (i : StreamId) (x : Stream) : (s.setStream i x).moves = s.moves := rfl
@[simp] theorem State.setStream_nextWork (i : StreamId) (x : Stream) : (s.setStream i x).nextWork = s.nextWork := rfl
@[simp] theorem State.setStream_ctxs (i : StreamId) (x : Stream) : (s.setStream i x).ctxs = s.ctxs := rfl
@[simp] theorem State.setStream_bolts (i : StreamId) (x : Stream) : (s.setStream i x).bolts = s.bolts := rfl
@[simp] theorem State.setStream_boltQ (i : StreamId) (x : Stream) : (s.setStream i x).boltQ = s.boltQ := rfl
@[simp] theorem State.setStream_boltRsp (i : StreamId) (x : Stream) : (s.setStream i x).boltRsp = s.boltRsp := rfl
@[simp] theorem State.setStream_services (i : StreamId) (x : Stream) : (s.setStream i x).services = s.services := rfl
@[simp] theorem State.setStream_seqs (i : StreamId) (x : Stream) : (s.setStream i x).seqs = s.seqs := rfl
@[simp] theorem State.setStream_seqGen (i : StreamId) (x : Stream) : (s.setStream i x).seqGen = s.seqGen := rfl
@[simp] theorem State.setStream_heldRot (i : StreamId) (x : Stream) : (s.setStream i x).heldRot = s.heldRot := rfl
@[simp] theorem State.setStream_nextDone (i : StreamId) (x : Stream) : (s.setStream i x).nextDone = s.nextDone := rfl
@[simp] theorem State.setStream_porchOut (i : StreamId) (x : Stream) : (s.setStream i x).porchOut = s.porchOut := rfl
@[simp] theorem State.setStream_nextMsg (i : StreamId) (x : Stream) : (s.setStream i x).nextMsg = s.nextMsg := rfl
@[simp] theorem State.setStream_handoffT (i : StreamId) (x : Stream) : (s.setStream i x).handoffT = s.handoffT := rfl
@[simp] theorem State.setStream_ports (i : StreamId) (x : Stream) : (s.setStream i x).ports = s.ports := rfl
@[simp] theorem State.setStream_slotTab (i : StreamId) (x : Stream) : (s.setStream i x).slotTab = s.slotTab := rfl
@[simp] theorem State.setStream_slotBack (i : StreamId) (x : Stream) : (s.setStream i x).slotBack = s.slotBack := rfl
@[simp] theorem State.setStream_slotWait (i : StreamId) (x : Stream) : (s.setStream i x).slotWait = s.slotWait := rfl
@[simp] theorem State.setStream_fabric (i : StreamId) (x : Stream) : (s.setStream i x).fabric = s.fabric := rfl
@[simp] theorem State.setStream_unreachable (i : StreamId) (x : Stream) : (s.setStream i x).unreachable = s.unreachable := rfl
@[simp] theorem State.setStream_jobs (i : StreamId) (x : Stream) : (s.setStream i x).jobs = s.jobs := rfl
@[simp] theorem State.setStream_groups (i : StreamId) (x : Stream) : (s.setStream i x).groups = s.groups := rfl
@[simp] theorem State.setStream_gwrites (i : StreamId) (x : Stream) : (s.setStream i x).gwrites = s.gwrites := rfl
@[simp] theorem State.setStream_nextGw (i : StreamId) (x : Stream) : (s.setStream i x).nextGw = s.nextGw := rfl
@[simp] theorem State.setStream_remotes (i : StreamId) (x : Stream) : (s.setStream i x).remotes = s.remotes := rfl
@[simp] theorem State.setStream_e2e (i : StreamId) (x : Stream) : (s.setStream i x).e2e = s.e2e := rfl
@[simp] theorem State.setStream_remoteTimeoutMs (i : StreamId) (x : Stream) : (s.setStream i x).remoteTimeoutMs = s.remoteTimeoutMs := rfl
@[simp] theorem State.setStream_remoteTimeouts (i : StreamId) (x : Stream) : (s.setStream i x).remoteTimeouts = s.remoteTimeouts := rfl
@[simp] theorem State.setStream_arrived (i : StreamId) (x : Stream) : (s.setStream i x).arrived = s.arrived := rfl
@[simp] theorem State.setStream_numVfs (i : StreamId) (x : Stream) : (s.setStream i x).numVfs = s.numVfs := rfl
@[simp] theorem State.setStream_hostUp (i : StreamId) (x : Stream) : (s.setStream i x).hostUp = s.hostUp := rfl
@[simp] theorem State.setStream_windows (i : StreamId) (x : Stream) : (s.setStream i x).windows = s.windows := rfl
@[simp] theorem State.setStream_cxlOut (i : StreamId) (x : Stream) : (s.setStream i x).cxlOut = s.cxlOut := rfl
@[simp] theorem State.setStream_msixOpen (i : StreamId) (x : Stream) : (s.setStream i x).msixOpen = s.msixOpen := rfl
@[simp] theorem State.setStream_msixPend (i : StreamId) (x : Stream) : (s.setStream i x).msixPend = s.msixPend := rfl
@[simp] theorem State.setStream_irqs (i : StreamId) (x : Stream) : (s.setStream i x).irqs = s.irqs := rfl
@[simp] theorem State.setStream_inflow0 (i : StreamId) (x : Stream) : (s.setStream i x).inflow0 = s.inflow0 := rfl
@[simp] theorem State.setStream_inflow1 (i : StreamId) (x : Stream) : (s.setStream i x).inflow1 = s.inflow1 := rfl
@[simp] theorem State.setStream_lock (i : StreamId) (x : Stream) : (s.setStream i x).lock = s.lock := rfl
@[simp] theorem State.setStream_ident (i : StreamId) (x : Stream) : (s.setStream i x).ident = s.ident := rfl
@[simp] theorem State.setStream_evr (i : StreamId) (x : Stream) : (s.setStream i x).evr = s.evr := rfl
@[simp] theorem State.setStream_idNode (i : StreamId) (x : Stream) : (s.setStream i x).idNode = s.idNode := rfl
@[simp] theorem State.setStream_devSt (i : StreamId) (x : Stream) : (s.setStream i x).devSt = s.devSt := rfl
@[simp] theorem State.setStream_devReason (i : StreamId) (x : Stream) : (s.setStream i x).devReason = s.devReason := rfl
@[simp] theorem State.setStream_devWarm (i : StreamId) (x : Stream) : (s.setStream i x).devWarm = s.devWarm := rfl
@[simp] theorem State.setStream_devIstat (i : StreamId) (x : Stream) : (s.setStream i x).devIstat = s.devIstat := rfl
@[simp] theorem State.setStream_hc (i : StreamId) (x : Stream) : (s.setStream i x).hc = s.hc := rfl
@[simp] theorem State.setStream_fwAddr (i : StreamId) (x : Stream) : (s.setStream i x).fwAddr = s.fwAddr := rfl
@[simp] theorem State.setStream_fwLen (i : StreamId) (x : Stream) : (s.setStream i x).fwLen = s.fwLen := rfl
@[simp] theorem State.setStream_rdShadow (i : StreamId) (x : Stream) : (s.setStream i x).rdShadow = s.rdShadow := rfl
@[simp] theorem State.setStream_wrShadow (i : StreamId) (x : Stream) : (s.setStream i x).wrShadow = s.wrShadow := rfl
@[simp] theorem State.setStream_violQ (i : StreamId) (x : Stream) : (s.setStream i x).violQ = s.violQ := rfl
@[simp] theorem State.setStream_readData (i : StreamId) (x : Stream) : (s.setStream i x).readData = s.readData := rfl
@[simp] theorem State.setStream_lbxs (i : StreamId) (x : Stream) : (s.setStream i x).lbxs = s.lbxs := rfl
@[simp] theorem State.setStream_diag (i : StreamId) (x : Stream) : (s.setStream i x).diag = s.diag := rfl
@[simp] theorem State.setStream_scrubPantry (i : StreamId) (x : Stream) : (s.setStream i x).scrubPantry = s.scrubPantry := rfl
@[simp] theorem State.setStream_scrubCellar (i : StreamId) (x : Stream) : (s.setStream i x).scrubCellar = s.scrubCellar := rfl
@[simp] theorem State.setStream_annexMs (i : StreamId) (x : Stream) : (s.setStream i x).annexMs = s.annexMs := rfl
@[simp] theorem State.setStream_tjTarget (i : StreamId) (x : Stream) : (s.setStream i x).tjTarget = s.tjTarget := rfl
@[simp] theorem State.setStream_power (i : StreamId) (x : Stream) : (s.setStream i x).power = s.power := rfl
@[simp] theorem State.setStream_createdCtx (i : StreamId) (x : Stream) : (s.setStream i x).createdCtx = s.createdCtx := rfl
@[simp] theorem State.setStream_romWait (i : StreamId) (x : Stream) : (s.setStream i x).romWait = s.romWait := rfl
@[simp] theorem State.setStream_startRec (i : StreamId) (x : Stream) : (s.setStream i x).startRec = s.startRec := rfl
@[simp] theorem State.setStream_startCause (i : StreamId) (x : Stream) : (s.setStream i x).startCause = s.startCause := rfl
@[simp] theorem State.setStream_fw (i : StreamId) (x : Stream) : (s.setStream i x).fw = s.fw := rfl
@[simp] theorem State.setStream_fuseSvn (i : StreamId) (x : Stream) : (s.setStream i x).fuseSvn = s.fuseSvn := rfl
@[simp] theorem State.setStream_serving (i : StreamId) (x : Stream) : (s.setStream i x).serving = s.serving := rfl
@[simp] theorem State.setStream_early (i : StreamId) (x : Stream) : (s.setStream i x).early = s.early := rfl
@[simp] theorem State.setStream_errQ (i : StreamId) (x : Stream) : (s.setStream i x).errQ = s.errQ := rfl
@[simp] theorem State.setStream_errOvf (i : StreamId) (x : Stream) : (s.setStream i x).errOvf = s.errOvf := rfl
@[simp] theorem State.setStream_sweepDue (i : StreamId) (x : Stream) : (s.setStream i x).sweepDue = s.sweepDue := rfl
@[simp] theorem State.setStream_episodes (i : StreamId) (x : Stream) : (s.setStream i x).episodes = s.episodes := rfl
@[simp] theorem State.setStream_fatalLatch (i : StreamId) (x : Stream) : (s.setStream i x).fatalLatch = s.fatalLatch := rfl
@[simp] theorem State.setStream_fatalErr (i : StreamId) (x : Stream) : (s.setStream i x).fatalErr = s.fatalErr := rfl
@[simp] theorem State.setStream_reported (i : StreamId) (x : Stream) : (s.setStream i x).reported = s.reported := rfl
@[simp] theorem State.setStream_i3c (i : StreamId) (x : Stream) : (s.setStream i x).i3c = s.i3c := rfl
@[simp] theorem State.setStream_coolantAbsent (i : StreamId) (x : Stream) : (s.setStream i x).coolantAbsent = s.coolantAbsent := rfl
@[simp] theorem State.setStream_brake (i : StreamId) (x : Stream) : (s.setStream i x).brake = s.brake := rfl
@[simp] theorem State.setStream_latch (i : StreamId) (x : Stream) : (s.setStream i x).latch = s.latch := rfl
@[simp] theorem State.setStream_rst (i : StreamId) (x : Stream) : (s.setStream i x).rst = s.rst := rfl
@[simp] theorem State.setStream_pwrOk (i : StreamId) (x : Stream) : (s.setStream i x).pwrOk = s.pwrOk := rfl
@[simp] theorem State.setStream_thermTrip (i : StreamId) (x : Stream) : (s.setStream i x).thermTrip = s.thermTrip := rfl
@[simp] theorem State.setStream_clockLost (i : StreamId) (x : Stream) : (s.setStream i x).clockLost = s.clockLost := rfl
@[simp] theorem State.setStream_repair (i : StreamId) (x : Stream) : (s.setStream i x).repair = s.repair := rfl

/-! ### updEvr -/

@[simp] theorem State.updEvr_pending (f : Evr → Evr) : (s.updEvr f).pending = s.pending := rfl
@[simp] theorem State.updEvr_mem (f : Evr → Evr) : (s.updEvr f).mem = s.mem := rfl
@[simp] theorem State.updEvr_poison (f : Evr → Evr) : (s.updEvr f).poison = s.poison := rfl
@[simp] theorem State.updEvr_fresh (f : Evr → Evr) : (s.updEvr f).fresh = s.fresh := rfl
@[simp] theorem State.updEvr_rooms (f : Evr → Evr) : (s.updEvr f).rooms = s.rooms := rfl
@[simp] theorem State.updEvr_wings (f : Evr → Evr) : (s.updEvr f).wings = s.wings := rfl
@[simp] theorem State.updEvr_accesses (f : Evr → Evr) : (s.updEvr f).accesses = s.accesses := rfl
@[simp] theorem State.updEvr_nextAcc (f : Evr → Evr) : (s.updEvr f).nextAcc = s.nextAcc := rfl
@[simp] theorem State.updEvr_slices (f : Evr → Evr) : (s.updEvr f).slices = s.slices := rfl
@[simp] theorem State.updEvr_tbufs (f : Evr → Evr) : (s.updEvr f).tbufs = s.tbufs := rfl
@[simp] theorem State.updEvr_roots (f : Evr → Evr) : (s.updEvr f).roots = s.roots := rfl
@[simp] theorem State.updEvr_tables (f : Evr → Evr) : (s.updEvr f).tables = s.tables := rfl
@[simp] theorem State.updEvr_leafTabs (f : Evr → Evr) : (s.updEvr f).leafTabs = s.leafTabs := rfl
@[simp] theorem State.updEvr_subTabs (f : Evr → Evr) : (s.updEvr f).subTabs = s.subTabs := rfl
@[simp] theorem State.updEvr_used (f : Evr → Evr) : (s.updEvr f).used = s.used := rfl
@[simp] theorem State.updEvr_spreadGroups (f : Evr → Evr) : (s.updEvr f).spreadGroups = s.spreadGroups := rfl
@[simp] theorem State.updEvr_localGroups (f : Evr → Evr) : (s.updEvr f).localGroups = s.localGroups := rfl
@[simp] theorem State.updEvr_stackCh (f : Evr → Evr) : (s.updEvr f).stackCh = s.stackCh := rfl
@[simp] theorem State.updEvr_groupFrames (f : Evr → Evr) : (s.updEvr f).groupFrames = s.groupFrames := rfl
@[simp] theorem State.updEvr_chanLost (f : Evr → Evr) : (s.updEvr f).chanLost = s.chanLost := rfl
@[simp] theorem State.updEvr_annexUp (f : Evr → Evr) : (s.updEvr f).annexUp = s.annexUp := rfl
@[simp] theorem State.updEvr_decoders (f : Evr → Evr) : (s.updEvr f).decoders = s.decoders := rfl
@[simp] theorem State.updEvr_extents (f : Evr → Evr) : (s.updEvr f).extents = s.extents := rfl
@[simp] theorem State.updEvr_dws (f : Evr → Evr) : (s.updEvr f).dws = s.dws := rfl
@[simp] theorem State.updEvr_streams (f : Evr → Evr) : (s.updEvr f).streams = s.streams := rfl
@[simp] theorem State.updEvr_modelWork (f : Evr → Evr) : (s.updEvr f).modelWork = s.modelWork := rfl
@[simp] theorem State.updEvr_revs (f : Evr → Evr) : (s.updEvr f).revs = s.revs := rfl
@[simp] theorem State.updEvr_moves (f : Evr → Evr) : (s.updEvr f).moves = s.moves := rfl
@[simp] theorem State.updEvr_nextWork (f : Evr → Evr) : (s.updEvr f).nextWork = s.nextWork := rfl
@[simp] theorem State.updEvr_ctxs (f : Evr → Evr) : (s.updEvr f).ctxs = s.ctxs := rfl
@[simp] theorem State.updEvr_bolts (f : Evr → Evr) : (s.updEvr f).bolts = s.bolts := rfl
@[simp] theorem State.updEvr_boltQ (f : Evr → Evr) : (s.updEvr f).boltQ = s.boltQ := rfl
@[simp] theorem State.updEvr_boltRsp (f : Evr → Evr) : (s.updEvr f).boltRsp = s.boltRsp := rfl
@[simp] theorem State.updEvr_services (f : Evr → Evr) : (s.updEvr f).services = s.services := rfl
@[simp] theorem State.updEvr_seqs (f : Evr → Evr) : (s.updEvr f).seqs = s.seqs := rfl
@[simp] theorem State.updEvr_seqGen (f : Evr → Evr) : (s.updEvr f).seqGen = s.seqGen := rfl
@[simp] theorem State.updEvr_heldRot (f : Evr → Evr) : (s.updEvr f).heldRot = s.heldRot := rfl
@[simp] theorem State.updEvr_nextDone (f : Evr → Evr) : (s.updEvr f).nextDone = s.nextDone := rfl
@[simp] theorem State.updEvr_porchOut (f : Evr → Evr) : (s.updEvr f).porchOut = s.porchOut := rfl
@[simp] theorem State.updEvr_nextMsg (f : Evr → Evr) : (s.updEvr f).nextMsg = s.nextMsg := rfl
@[simp] theorem State.updEvr_handoffT (f : Evr → Evr) : (s.updEvr f).handoffT = s.handoffT := rfl
@[simp] theorem State.updEvr_ports (f : Evr → Evr) : (s.updEvr f).ports = s.ports := rfl
@[simp] theorem State.updEvr_slotTab (f : Evr → Evr) : (s.updEvr f).slotTab = s.slotTab := rfl
@[simp] theorem State.updEvr_slotBack (f : Evr → Evr) : (s.updEvr f).slotBack = s.slotBack := rfl
@[simp] theorem State.updEvr_slotWait (f : Evr → Evr) : (s.updEvr f).slotWait = s.slotWait := rfl
@[simp] theorem State.updEvr_fabric (f : Evr → Evr) : (s.updEvr f).fabric = s.fabric := rfl
@[simp] theorem State.updEvr_unreachable (f : Evr → Evr) : (s.updEvr f).unreachable = s.unreachable := rfl
@[simp] theorem State.updEvr_jobs (f : Evr → Evr) : (s.updEvr f).jobs = s.jobs := rfl
@[simp] theorem State.updEvr_groups (f : Evr → Evr) : (s.updEvr f).groups = s.groups := rfl
@[simp] theorem State.updEvr_gwrites (f : Evr → Evr) : (s.updEvr f).gwrites = s.gwrites := rfl
@[simp] theorem State.updEvr_nextGw (f : Evr → Evr) : (s.updEvr f).nextGw = s.nextGw := rfl
@[simp] theorem State.updEvr_remotes (f : Evr → Evr) : (s.updEvr f).remotes = s.remotes := rfl
@[simp] theorem State.updEvr_e2e (f : Evr → Evr) : (s.updEvr f).e2e = s.e2e := rfl
@[simp] theorem State.updEvr_remoteTimeoutMs (f : Evr → Evr) : (s.updEvr f).remoteTimeoutMs = s.remoteTimeoutMs := rfl
@[simp] theorem State.updEvr_remoteTimeouts (f : Evr → Evr) : (s.updEvr f).remoteTimeouts = s.remoteTimeouts := rfl
@[simp] theorem State.updEvr_arrived (f : Evr → Evr) : (s.updEvr f).arrived = s.arrived := rfl
@[simp] theorem State.updEvr_numVfs (f : Evr → Evr) : (s.updEvr f).numVfs = s.numVfs := rfl
@[simp] theorem State.updEvr_hostUp (f : Evr → Evr) : (s.updEvr f).hostUp = s.hostUp := rfl
@[simp] theorem State.updEvr_windows (f : Evr → Evr) : (s.updEvr f).windows = s.windows := rfl
@[simp] theorem State.updEvr_cxlOut (f : Evr → Evr) : (s.updEvr f).cxlOut = s.cxlOut := rfl
@[simp] theorem State.updEvr_msixOpen (f : Evr → Evr) : (s.updEvr f).msixOpen = s.msixOpen := rfl
@[simp] theorem State.updEvr_msixPend (f : Evr → Evr) : (s.updEvr f).msixPend = s.msixPend := rfl
@[simp] theorem State.updEvr_irqs (f : Evr → Evr) : (s.updEvr f).irqs = s.irqs := rfl
@[simp] theorem State.updEvr_inflow0 (f : Evr → Evr) : (s.updEvr f).inflow0 = s.inflow0 := rfl
@[simp] theorem State.updEvr_inflow1 (f : Evr → Evr) : (s.updEvr f).inflow1 = s.inflow1 := rfl
@[simp] theorem State.updEvr_lock (f : Evr → Evr) : (s.updEvr f).lock = s.lock := rfl
@[simp] theorem State.updEvr_ident (f : Evr → Evr) : (s.updEvr f).ident = s.ident := rfl
@[simp] theorem State.updEvr_evr (f : Evr → Evr) : (s.updEvr f).evr = f s.evr := rfl
@[simp] theorem State.updEvr_idNode (f : Evr → Evr) : (s.updEvr f).idNode = s.idNode := rfl
@[simp] theorem State.updEvr_devSt (f : Evr → Evr) : (s.updEvr f).devSt = s.devSt := rfl
@[simp] theorem State.updEvr_devReason (f : Evr → Evr) : (s.updEvr f).devReason = s.devReason := rfl
@[simp] theorem State.updEvr_devWarm (f : Evr → Evr) : (s.updEvr f).devWarm = s.devWarm := rfl
@[simp] theorem State.updEvr_devIstat (f : Evr → Evr) : (s.updEvr f).devIstat = s.devIstat := rfl
@[simp] theorem State.updEvr_hc (f : Evr → Evr) : (s.updEvr f).hc = s.hc := rfl
@[simp] theorem State.updEvr_fwAddr (f : Evr → Evr) : (s.updEvr f).fwAddr = s.fwAddr := rfl
@[simp] theorem State.updEvr_fwLen (f : Evr → Evr) : (s.updEvr f).fwLen = s.fwLen := rfl
@[simp] theorem State.updEvr_rdShadow (f : Evr → Evr) : (s.updEvr f).rdShadow = s.rdShadow := rfl
@[simp] theorem State.updEvr_wrShadow (f : Evr → Evr) : (s.updEvr f).wrShadow = s.wrShadow := rfl
@[simp] theorem State.updEvr_violQ (f : Evr → Evr) : (s.updEvr f).violQ = s.violQ := rfl
@[simp] theorem State.updEvr_readData (f : Evr → Evr) : (s.updEvr f).readData = s.readData := rfl
@[simp] theorem State.updEvr_lbxs (f : Evr → Evr) : (s.updEvr f).lbxs = s.lbxs := rfl
@[simp] theorem State.updEvr_diag (f : Evr → Evr) : (s.updEvr f).diag = s.diag := rfl
@[simp] theorem State.updEvr_scrubPantry (f : Evr → Evr) : (s.updEvr f).scrubPantry = s.scrubPantry := rfl
@[simp] theorem State.updEvr_scrubCellar (f : Evr → Evr) : (s.updEvr f).scrubCellar = s.scrubCellar := rfl
@[simp] theorem State.updEvr_annexMs (f : Evr → Evr) : (s.updEvr f).annexMs = s.annexMs := rfl
@[simp] theorem State.updEvr_tjTarget (f : Evr → Evr) : (s.updEvr f).tjTarget = s.tjTarget := rfl
@[simp] theorem State.updEvr_power (f : Evr → Evr) : (s.updEvr f).power = s.power := rfl
@[simp] theorem State.updEvr_createdCtx (f : Evr → Evr) : (s.updEvr f).createdCtx = s.createdCtx := rfl
@[simp] theorem State.updEvr_romWait (f : Evr → Evr) : (s.updEvr f).romWait = s.romWait := rfl
@[simp] theorem State.updEvr_startRec (f : Evr → Evr) : (s.updEvr f).startRec = s.startRec := rfl
@[simp] theorem State.updEvr_startCause (f : Evr → Evr) : (s.updEvr f).startCause = s.startCause := rfl
@[simp] theorem State.updEvr_fw (f : Evr → Evr) : (s.updEvr f).fw = s.fw := rfl
@[simp] theorem State.updEvr_fuseSvn (f : Evr → Evr) : (s.updEvr f).fuseSvn = s.fuseSvn := rfl
@[simp] theorem State.updEvr_serving (f : Evr → Evr) : (s.updEvr f).serving = s.serving := rfl
@[simp] theorem State.updEvr_early (f : Evr → Evr) : (s.updEvr f).early = s.early := rfl
@[simp] theorem State.updEvr_errQ (f : Evr → Evr) : (s.updEvr f).errQ = s.errQ := rfl
@[simp] theorem State.updEvr_errOvf (f : Evr → Evr) : (s.updEvr f).errOvf = s.errOvf := rfl
@[simp] theorem State.updEvr_sweepDue (f : Evr → Evr) : (s.updEvr f).sweepDue = s.sweepDue := rfl
@[simp] theorem State.updEvr_episodes (f : Evr → Evr) : (s.updEvr f).episodes = s.episodes := rfl
@[simp] theorem State.updEvr_fatalLatch (f : Evr → Evr) : (s.updEvr f).fatalLatch = s.fatalLatch := rfl
@[simp] theorem State.updEvr_fatalErr (f : Evr → Evr) : (s.updEvr f).fatalErr = s.fatalErr := rfl
@[simp] theorem State.updEvr_reported (f : Evr → Evr) : (s.updEvr f).reported = s.reported := rfl
@[simp] theorem State.updEvr_i3c (f : Evr → Evr) : (s.updEvr f).i3c = s.i3c := rfl
@[simp] theorem State.updEvr_coolantAbsent (f : Evr → Evr) : (s.updEvr f).coolantAbsent = s.coolantAbsent := rfl
@[simp] theorem State.updEvr_brake (f : Evr → Evr) : (s.updEvr f).brake = s.brake := rfl
@[simp] theorem State.updEvr_latch (f : Evr → Evr) : (s.updEvr f).latch = s.latch := rfl
@[simp] theorem State.updEvr_rst (f : Evr → Evr) : (s.updEvr f).rst = s.rst := rfl
@[simp] theorem State.updEvr_pwrOk (f : Evr → Evr) : (s.updEvr f).pwrOk = s.pwrOk := rfl
@[simp] theorem State.updEvr_thermTrip (f : Evr → Evr) : (s.updEvr f).thermTrip = s.thermTrip := rfl
@[simp] theorem State.updEvr_clockLost (f : Evr → Evr) : (s.updEvr f).clockLost = s.clockLost := rfl
@[simp] theorem State.updEvr_repair (f : Evr → Evr) : (s.updEvr f).repair = s.repair := rfl

/-! ### updLock -/

@[simp] theorem State.updLock_pending (f : KeyLock → KeyLock) : (s.updLock f).pending = s.pending := rfl
@[simp] theorem State.updLock_mem (f : KeyLock → KeyLock) : (s.updLock f).mem = s.mem := rfl
@[simp] theorem State.updLock_poison (f : KeyLock → KeyLock) : (s.updLock f).poison = s.poison := rfl
@[simp] theorem State.updLock_fresh (f : KeyLock → KeyLock) : (s.updLock f).fresh = s.fresh := rfl
@[simp] theorem State.updLock_rooms (f : KeyLock → KeyLock) : (s.updLock f).rooms = s.rooms := rfl
@[simp] theorem State.updLock_wings (f : KeyLock → KeyLock) : (s.updLock f).wings = s.wings := rfl
@[simp] theorem State.updLock_accesses (f : KeyLock → KeyLock) : (s.updLock f).accesses = s.accesses := rfl
@[simp] theorem State.updLock_nextAcc (f : KeyLock → KeyLock) : (s.updLock f).nextAcc = s.nextAcc := rfl
@[simp] theorem State.updLock_slices (f : KeyLock → KeyLock) : (s.updLock f).slices = s.slices := rfl
@[simp] theorem State.updLock_tbufs (f : KeyLock → KeyLock) : (s.updLock f).tbufs = s.tbufs := rfl
@[simp] theorem State.updLock_roots (f : KeyLock → KeyLock) : (s.updLock f).roots = s.roots := rfl
@[simp] theorem State.updLock_tables (f : KeyLock → KeyLock) : (s.updLock f).tables = s.tables := rfl
@[simp] theorem State.updLock_leafTabs (f : KeyLock → KeyLock) : (s.updLock f).leafTabs = s.leafTabs := rfl
@[simp] theorem State.updLock_subTabs (f : KeyLock → KeyLock) : (s.updLock f).subTabs = s.subTabs := rfl
@[simp] theorem State.updLock_used (f : KeyLock → KeyLock) : (s.updLock f).used = s.used := rfl
@[simp] theorem State.updLock_spreadGroups (f : KeyLock → KeyLock) : (s.updLock f).spreadGroups = s.spreadGroups := rfl
@[simp] theorem State.updLock_localGroups (f : KeyLock → KeyLock) : (s.updLock f).localGroups = s.localGroups := rfl
@[simp] theorem State.updLock_stackCh (f : KeyLock → KeyLock) : (s.updLock f).stackCh = s.stackCh := rfl
@[simp] theorem State.updLock_groupFrames (f : KeyLock → KeyLock) : (s.updLock f).groupFrames = s.groupFrames := rfl
@[simp] theorem State.updLock_chanLost (f : KeyLock → KeyLock) : (s.updLock f).chanLost = s.chanLost := rfl
@[simp] theorem State.updLock_annexUp (f : KeyLock → KeyLock) : (s.updLock f).annexUp = s.annexUp := rfl
@[simp] theorem State.updLock_decoders (f : KeyLock → KeyLock) : (s.updLock f).decoders = s.decoders := rfl
@[simp] theorem State.updLock_extents (f : KeyLock → KeyLock) : (s.updLock f).extents = s.extents := rfl
@[simp] theorem State.updLock_dws (f : KeyLock → KeyLock) : (s.updLock f).dws = s.dws := rfl
@[simp] theorem State.updLock_streams (f : KeyLock → KeyLock) : (s.updLock f).streams = s.streams := rfl
@[simp] theorem State.updLock_modelWork (f : KeyLock → KeyLock) : (s.updLock f).modelWork = s.modelWork := rfl
@[simp] theorem State.updLock_revs (f : KeyLock → KeyLock) : (s.updLock f).revs = s.revs := rfl
@[simp] theorem State.updLock_moves (f : KeyLock → KeyLock) : (s.updLock f).moves = s.moves := rfl
@[simp] theorem State.updLock_nextWork (f : KeyLock → KeyLock) : (s.updLock f).nextWork = s.nextWork := rfl
@[simp] theorem State.updLock_ctxs (f : KeyLock → KeyLock) : (s.updLock f).ctxs = s.ctxs := rfl
@[simp] theorem State.updLock_bolts (f : KeyLock → KeyLock) : (s.updLock f).bolts = s.bolts := rfl
@[simp] theorem State.updLock_boltQ (f : KeyLock → KeyLock) : (s.updLock f).boltQ = s.boltQ := rfl
@[simp] theorem State.updLock_boltRsp (f : KeyLock → KeyLock) : (s.updLock f).boltRsp = s.boltRsp := rfl
@[simp] theorem State.updLock_services (f : KeyLock → KeyLock) : (s.updLock f).services = s.services := rfl
@[simp] theorem State.updLock_seqs (f : KeyLock → KeyLock) : (s.updLock f).seqs = s.seqs := rfl
@[simp] theorem State.updLock_seqGen (f : KeyLock → KeyLock) : (s.updLock f).seqGen = s.seqGen := rfl
@[simp] theorem State.updLock_heldRot (f : KeyLock → KeyLock) : (s.updLock f).heldRot = s.heldRot := rfl
@[simp] theorem State.updLock_nextDone (f : KeyLock → KeyLock) : (s.updLock f).nextDone = s.nextDone := rfl
@[simp] theorem State.updLock_porchOut (f : KeyLock → KeyLock) : (s.updLock f).porchOut = s.porchOut := rfl
@[simp] theorem State.updLock_nextMsg (f : KeyLock → KeyLock) : (s.updLock f).nextMsg = s.nextMsg := rfl
@[simp] theorem State.updLock_handoffT (f : KeyLock → KeyLock) : (s.updLock f).handoffT = s.handoffT := rfl
@[simp] theorem State.updLock_ports (f : KeyLock → KeyLock) : (s.updLock f).ports = s.ports := rfl
@[simp] theorem State.updLock_slotTab (f : KeyLock → KeyLock) : (s.updLock f).slotTab = s.slotTab := rfl
@[simp] theorem State.updLock_slotBack (f : KeyLock → KeyLock) : (s.updLock f).slotBack = s.slotBack := rfl
@[simp] theorem State.updLock_slotWait (f : KeyLock → KeyLock) : (s.updLock f).slotWait = s.slotWait := rfl
@[simp] theorem State.updLock_fabric (f : KeyLock → KeyLock) : (s.updLock f).fabric = s.fabric := rfl
@[simp] theorem State.updLock_unreachable (f : KeyLock → KeyLock) : (s.updLock f).unreachable = s.unreachable := rfl
@[simp] theorem State.updLock_jobs (f : KeyLock → KeyLock) : (s.updLock f).jobs = s.jobs := rfl
@[simp] theorem State.updLock_groups (f : KeyLock → KeyLock) : (s.updLock f).groups = s.groups := rfl
@[simp] theorem State.updLock_gwrites (f : KeyLock → KeyLock) : (s.updLock f).gwrites = s.gwrites := rfl
@[simp] theorem State.updLock_nextGw (f : KeyLock → KeyLock) : (s.updLock f).nextGw = s.nextGw := rfl
@[simp] theorem State.updLock_remotes (f : KeyLock → KeyLock) : (s.updLock f).remotes = s.remotes := rfl
@[simp] theorem State.updLock_e2e (f : KeyLock → KeyLock) : (s.updLock f).e2e = s.e2e := rfl
@[simp] theorem State.updLock_remoteTimeoutMs (f : KeyLock → KeyLock) : (s.updLock f).remoteTimeoutMs = s.remoteTimeoutMs := rfl
@[simp] theorem State.updLock_remoteTimeouts (f : KeyLock → KeyLock) : (s.updLock f).remoteTimeouts = s.remoteTimeouts := rfl
@[simp] theorem State.updLock_arrived (f : KeyLock → KeyLock) : (s.updLock f).arrived = s.arrived := rfl
@[simp] theorem State.updLock_numVfs (f : KeyLock → KeyLock) : (s.updLock f).numVfs = s.numVfs := rfl
@[simp] theorem State.updLock_hostUp (f : KeyLock → KeyLock) : (s.updLock f).hostUp = s.hostUp := rfl
@[simp] theorem State.updLock_windows (f : KeyLock → KeyLock) : (s.updLock f).windows = s.windows := rfl
@[simp] theorem State.updLock_cxlOut (f : KeyLock → KeyLock) : (s.updLock f).cxlOut = s.cxlOut := rfl
@[simp] theorem State.updLock_msixOpen (f : KeyLock → KeyLock) : (s.updLock f).msixOpen = s.msixOpen := rfl
@[simp] theorem State.updLock_msixPend (f : KeyLock → KeyLock) : (s.updLock f).msixPend = s.msixPend := rfl
@[simp] theorem State.updLock_irqs (f : KeyLock → KeyLock) : (s.updLock f).irqs = s.irqs := rfl
@[simp] theorem State.updLock_inflow0 (f : KeyLock → KeyLock) : (s.updLock f).inflow0 = s.inflow0 := rfl
@[simp] theorem State.updLock_inflow1 (f : KeyLock → KeyLock) : (s.updLock f).inflow1 = s.inflow1 := rfl
@[simp] theorem State.updLock_lock (f : KeyLock → KeyLock) : (s.updLock f).lock = f s.lock := rfl
@[simp] theorem State.updLock_ident (f : KeyLock → KeyLock) : (s.updLock f).ident = s.ident := rfl
@[simp] theorem State.updLock_evr (f : KeyLock → KeyLock) : (s.updLock f).evr = s.evr := rfl
@[simp] theorem State.updLock_idNode (f : KeyLock → KeyLock) : (s.updLock f).idNode = s.idNode := rfl
@[simp] theorem State.updLock_devSt (f : KeyLock → KeyLock) : (s.updLock f).devSt = s.devSt := rfl
@[simp] theorem State.updLock_devReason (f : KeyLock → KeyLock) : (s.updLock f).devReason = s.devReason := rfl
@[simp] theorem State.updLock_devWarm (f : KeyLock → KeyLock) : (s.updLock f).devWarm = s.devWarm := rfl
@[simp] theorem State.updLock_devIstat (f : KeyLock → KeyLock) : (s.updLock f).devIstat = s.devIstat := rfl
@[simp] theorem State.updLock_hc (f : KeyLock → KeyLock) : (s.updLock f).hc = s.hc := rfl
@[simp] theorem State.updLock_fwAddr (f : KeyLock → KeyLock) : (s.updLock f).fwAddr = s.fwAddr := rfl
@[simp] theorem State.updLock_fwLen (f : KeyLock → KeyLock) : (s.updLock f).fwLen = s.fwLen := rfl
@[simp] theorem State.updLock_rdShadow (f : KeyLock → KeyLock) : (s.updLock f).rdShadow = s.rdShadow := rfl
@[simp] theorem State.updLock_wrShadow (f : KeyLock → KeyLock) : (s.updLock f).wrShadow = s.wrShadow := rfl
@[simp] theorem State.updLock_violQ (f : KeyLock → KeyLock) : (s.updLock f).violQ = s.violQ := rfl
@[simp] theorem State.updLock_readData (f : KeyLock → KeyLock) : (s.updLock f).readData = s.readData := rfl
@[simp] theorem State.updLock_lbxs (f : KeyLock → KeyLock) : (s.updLock f).lbxs = s.lbxs := rfl
@[simp] theorem State.updLock_diag (f : KeyLock → KeyLock) : (s.updLock f).diag = s.diag := rfl
@[simp] theorem State.updLock_scrubPantry (f : KeyLock → KeyLock) : (s.updLock f).scrubPantry = s.scrubPantry := rfl
@[simp] theorem State.updLock_scrubCellar (f : KeyLock → KeyLock) : (s.updLock f).scrubCellar = s.scrubCellar := rfl
@[simp] theorem State.updLock_annexMs (f : KeyLock → KeyLock) : (s.updLock f).annexMs = s.annexMs := rfl
@[simp] theorem State.updLock_tjTarget (f : KeyLock → KeyLock) : (s.updLock f).tjTarget = s.tjTarget := rfl
@[simp] theorem State.updLock_power (f : KeyLock → KeyLock) : (s.updLock f).power = s.power := rfl
@[simp] theorem State.updLock_createdCtx (f : KeyLock → KeyLock) : (s.updLock f).createdCtx = s.createdCtx := rfl
@[simp] theorem State.updLock_romWait (f : KeyLock → KeyLock) : (s.updLock f).romWait = s.romWait := rfl
@[simp] theorem State.updLock_startRec (f : KeyLock → KeyLock) : (s.updLock f).startRec = s.startRec := rfl
@[simp] theorem State.updLock_startCause (f : KeyLock → KeyLock) : (s.updLock f).startCause = s.startCause := rfl
@[simp] theorem State.updLock_fw (f : KeyLock → KeyLock) : (s.updLock f).fw = s.fw := rfl
@[simp] theorem State.updLock_fuseSvn (f : KeyLock → KeyLock) : (s.updLock f).fuseSvn = s.fuseSvn := rfl
@[simp] theorem State.updLock_serving (f : KeyLock → KeyLock) : (s.updLock f).serving = s.serving := rfl
@[simp] theorem State.updLock_early (f : KeyLock → KeyLock) : (s.updLock f).early = s.early := rfl
@[simp] theorem State.updLock_errQ (f : KeyLock → KeyLock) : (s.updLock f).errQ = s.errQ := rfl
@[simp] theorem State.updLock_errOvf (f : KeyLock → KeyLock) : (s.updLock f).errOvf = s.errOvf := rfl
@[simp] theorem State.updLock_sweepDue (f : KeyLock → KeyLock) : (s.updLock f).sweepDue = s.sweepDue := rfl
@[simp] theorem State.updLock_episodes (f : KeyLock → KeyLock) : (s.updLock f).episodes = s.episodes := rfl
@[simp] theorem State.updLock_fatalLatch (f : KeyLock → KeyLock) : (s.updLock f).fatalLatch = s.fatalLatch := rfl
@[simp] theorem State.updLock_fatalErr (f : KeyLock → KeyLock) : (s.updLock f).fatalErr = s.fatalErr := rfl
@[simp] theorem State.updLock_reported (f : KeyLock → KeyLock) : (s.updLock f).reported = s.reported := rfl
@[simp] theorem State.updLock_i3c (f : KeyLock → KeyLock) : (s.updLock f).i3c = s.i3c := rfl
@[simp] theorem State.updLock_coolantAbsent (f : KeyLock → KeyLock) : (s.updLock f).coolantAbsent = s.coolantAbsent := rfl
@[simp] theorem State.updLock_brake (f : KeyLock → KeyLock) : (s.updLock f).brake = s.brake := rfl
@[simp] theorem State.updLock_latch (f : KeyLock → KeyLock) : (s.updLock f).latch = s.latch := rfl
@[simp] theorem State.updLock_rst (f : KeyLock → KeyLock) : (s.updLock f).rst = s.rst := rfl
@[simp] theorem State.updLock_pwrOk (f : KeyLock → KeyLock) : (s.updLock f).pwrOk = s.pwrOk := rfl
@[simp] theorem State.updLock_thermTrip (f : KeyLock → KeyLock) : (s.updLock f).thermTrip = s.thermTrip := rfl
@[simp] theorem State.updLock_clockLost (f : KeyLock → KeyLock) : (s.updLock f).clockLost = s.clockLost := rfl
@[simp] theorem State.updLock_repair (f : KeyLock → KeyLock) : (s.updLock f).repair = s.repair := rfl

/-! ### write -/

@[simp] theorem State.write_pending (a : Nat) (bs : List Byte) : (s.write a bs).pending = s.pending := rfl
@[simp] theorem State.write_mem (a : Nat) (bs : List Byte) : (s.write a bs).mem = memWrites s.mem a bs := rfl
@[simp] theorem State.write_poison (a : Nat) (bs : List Byte) : (s.write a bs).poison = s.poison.filter fun u => !(decide (a ≤ u * 64) && decide (u * 64 + 64 ≤ a + bs.length)) := rfl
@[simp] theorem State.write_fresh (a : Nat) (bs : List Byte) : (s.write a bs).fresh = s.fresh := rfl
@[simp] theorem State.write_rooms (a : Nat) (bs : List Byte) : (s.write a bs).rooms = s.rooms := rfl
@[simp] theorem State.write_wings (a : Nat) (bs : List Byte) : (s.write a bs).wings = s.wings := rfl
@[simp] theorem State.write_accesses (a : Nat) (bs : List Byte) : (s.write a bs).accesses = s.accesses := rfl
@[simp] theorem State.write_nextAcc (a : Nat) (bs : List Byte) : (s.write a bs).nextAcc = s.nextAcc := rfl
@[simp] theorem State.write_slices (a : Nat) (bs : List Byte) : (s.write a bs).slices = s.slices := rfl
@[simp] theorem State.write_tbufs (a : Nat) (bs : List Byte) : (s.write a bs).tbufs = s.tbufs := rfl
@[simp] theorem State.write_roots (a : Nat) (bs : List Byte) : (s.write a bs).roots = s.roots := rfl
@[simp] theorem State.write_tables (a : Nat) (bs : List Byte) : (s.write a bs).tables = s.tables := rfl
@[simp] theorem State.write_leafTabs (a : Nat) (bs : List Byte) : (s.write a bs).leafTabs = s.leafTabs := rfl
@[simp] theorem State.write_subTabs (a : Nat) (bs : List Byte) : (s.write a bs).subTabs = s.subTabs := rfl
@[simp] theorem State.write_used (a : Nat) (bs : List Byte) : (s.write a bs).used = s.used := rfl
@[simp] theorem State.write_spreadGroups (a : Nat) (bs : List Byte) : (s.write a bs).spreadGroups = s.spreadGroups := rfl
@[simp] theorem State.write_localGroups (a : Nat) (bs : List Byte) : (s.write a bs).localGroups = s.localGroups := rfl
@[simp] theorem State.write_stackCh (a : Nat) (bs : List Byte) : (s.write a bs).stackCh = s.stackCh := rfl
@[simp] theorem State.write_groupFrames (a : Nat) (bs : List Byte) : (s.write a bs).groupFrames = s.groupFrames := rfl
@[simp] theorem State.write_chanLost (a : Nat) (bs : List Byte) : (s.write a bs).chanLost = s.chanLost := rfl
@[simp] theorem State.write_annexUp (a : Nat) (bs : List Byte) : (s.write a bs).annexUp = s.annexUp := rfl
@[simp] theorem State.write_decoders (a : Nat) (bs : List Byte) : (s.write a bs).decoders = s.decoders := rfl
@[simp] theorem State.write_extents (a : Nat) (bs : List Byte) : (s.write a bs).extents = s.extents := rfl
@[simp] theorem State.write_dws (a : Nat) (bs : List Byte) : (s.write a bs).dws = s.dws := rfl
@[simp] theorem State.write_streams (a : Nat) (bs : List Byte) : (s.write a bs).streams = s.streams := rfl
@[simp] theorem State.write_modelWork (a : Nat) (bs : List Byte) : (s.write a bs).modelWork = s.modelWork := rfl
@[simp] theorem State.write_revs (a : Nat) (bs : List Byte) : (s.write a bs).revs = s.revs := rfl
@[simp] theorem State.write_moves (a : Nat) (bs : List Byte) : (s.write a bs).moves = s.moves := rfl
@[simp] theorem State.write_nextWork (a : Nat) (bs : List Byte) : (s.write a bs).nextWork = s.nextWork := rfl
@[simp] theorem State.write_ctxs (a : Nat) (bs : List Byte) : (s.write a bs).ctxs = s.ctxs := rfl
@[simp] theorem State.write_bolts (a : Nat) (bs : List Byte) : (s.write a bs).bolts = s.bolts := rfl
@[simp] theorem State.write_boltQ (a : Nat) (bs : List Byte) : (s.write a bs).boltQ = s.boltQ := rfl
@[simp] theorem State.write_boltRsp (a : Nat) (bs : List Byte) : (s.write a bs).boltRsp = s.boltRsp := rfl
@[simp] theorem State.write_services (a : Nat) (bs : List Byte) : (s.write a bs).services = s.services := rfl
@[simp] theorem State.write_seqs (a : Nat) (bs : List Byte) : (s.write a bs).seqs = s.seqs := rfl
@[simp] theorem State.write_seqGen (a : Nat) (bs : List Byte) : (s.write a bs).seqGen = s.seqGen := rfl
@[simp] theorem State.write_heldRot (a : Nat) (bs : List Byte) : (s.write a bs).heldRot = s.heldRot := rfl
@[simp] theorem State.write_nextDone (a : Nat) (bs : List Byte) : (s.write a bs).nextDone = s.nextDone := rfl
@[simp] theorem State.write_porchOut (a : Nat) (bs : List Byte) : (s.write a bs).porchOut = s.porchOut := rfl
@[simp] theorem State.write_nextMsg (a : Nat) (bs : List Byte) : (s.write a bs).nextMsg = s.nextMsg := rfl
@[simp] theorem State.write_handoffT (a : Nat) (bs : List Byte) : (s.write a bs).handoffT = s.handoffT := rfl
@[simp] theorem State.write_ports (a : Nat) (bs : List Byte) : (s.write a bs).ports = s.ports := rfl
@[simp] theorem State.write_slotTab (a : Nat) (bs : List Byte) : (s.write a bs).slotTab = s.slotTab := rfl
@[simp] theorem State.write_slotBack (a : Nat) (bs : List Byte) : (s.write a bs).slotBack = s.slotBack := rfl
@[simp] theorem State.write_slotWait (a : Nat) (bs : List Byte) : (s.write a bs).slotWait = s.slotWait := rfl
@[simp] theorem State.write_fabric (a : Nat) (bs : List Byte) : (s.write a bs).fabric = s.fabric := rfl
@[simp] theorem State.write_unreachable (a : Nat) (bs : List Byte) : (s.write a bs).unreachable = s.unreachable := rfl
@[simp] theorem State.write_jobs (a : Nat) (bs : List Byte) : (s.write a bs).jobs = s.jobs := rfl
@[simp] theorem State.write_groups (a : Nat) (bs : List Byte) : (s.write a bs).groups = s.groups := rfl
@[simp] theorem State.write_gwrites (a : Nat) (bs : List Byte) : (s.write a bs).gwrites = s.gwrites := rfl
@[simp] theorem State.write_nextGw (a : Nat) (bs : List Byte) : (s.write a bs).nextGw = s.nextGw := rfl
@[simp] theorem State.write_remotes (a : Nat) (bs : List Byte) : (s.write a bs).remotes = s.remotes := rfl
@[simp] theorem State.write_e2e (a : Nat) (bs : List Byte) : (s.write a bs).e2e = s.e2e := rfl
@[simp] theorem State.write_remoteTimeoutMs (a : Nat) (bs : List Byte) : (s.write a bs).remoteTimeoutMs = s.remoteTimeoutMs := rfl
@[simp] theorem State.write_remoteTimeouts (a : Nat) (bs : List Byte) : (s.write a bs).remoteTimeouts = s.remoteTimeouts := rfl
@[simp] theorem State.write_arrived (a : Nat) (bs : List Byte) : (s.write a bs).arrived = s.arrived := rfl
@[simp] theorem State.write_numVfs (a : Nat) (bs : List Byte) : (s.write a bs).numVfs = s.numVfs := rfl
@[simp] theorem State.write_hostUp (a : Nat) (bs : List Byte) : (s.write a bs).hostUp = s.hostUp := rfl
@[simp] theorem State.write_windows (a : Nat) (bs : List Byte) : (s.write a bs).windows = s.windows := rfl
@[simp] theorem State.write_cxlOut (a : Nat) (bs : List Byte) : (s.write a bs).cxlOut = s.cxlOut := rfl
@[simp] theorem State.write_msixOpen (a : Nat) (bs : List Byte) : (s.write a bs).msixOpen = s.msixOpen := rfl
@[simp] theorem State.write_msixPend (a : Nat) (bs : List Byte) : (s.write a bs).msixPend = s.msixPend := rfl
@[simp] theorem State.write_irqs (a : Nat) (bs : List Byte) : (s.write a bs).irqs = s.irqs := rfl
@[simp] theorem State.write_inflow0 (a : Nat) (bs : List Byte) : (s.write a bs).inflow0 = s.inflow0 := rfl
@[simp] theorem State.write_inflow1 (a : Nat) (bs : List Byte) : (s.write a bs).inflow1 = s.inflow1 := rfl
@[simp] theorem State.write_lock (a : Nat) (bs : List Byte) : (s.write a bs).lock = s.lock := rfl
@[simp] theorem State.write_ident (a : Nat) (bs : List Byte) : (s.write a bs).ident = s.ident := rfl
@[simp] theorem State.write_evr (a : Nat) (bs : List Byte) : (s.write a bs).evr = s.evr := rfl
@[simp] theorem State.write_idNode (a : Nat) (bs : List Byte) : (s.write a bs).idNode = s.idNode := rfl
@[simp] theorem State.write_devSt (a : Nat) (bs : List Byte) : (s.write a bs).devSt = s.devSt := rfl
@[simp] theorem State.write_devReason (a : Nat) (bs : List Byte) : (s.write a bs).devReason = s.devReason := rfl
@[simp] theorem State.write_devWarm (a : Nat) (bs : List Byte) : (s.write a bs).devWarm = s.devWarm := rfl
@[simp] theorem State.write_devIstat (a : Nat) (bs : List Byte) : (s.write a bs).devIstat = s.devIstat := rfl
@[simp] theorem State.write_hc (a : Nat) (bs : List Byte) : (s.write a bs).hc = s.hc := rfl
@[simp] theorem State.write_fwAddr (a : Nat) (bs : List Byte) : (s.write a bs).fwAddr = s.fwAddr := rfl
@[simp] theorem State.write_fwLen (a : Nat) (bs : List Byte) : (s.write a bs).fwLen = s.fwLen := rfl
@[simp] theorem State.write_rdShadow (a : Nat) (bs : List Byte) : (s.write a bs).rdShadow = s.rdShadow := rfl
@[simp] theorem State.write_wrShadow (a : Nat) (bs : List Byte) : (s.write a bs).wrShadow = s.wrShadow := rfl
@[simp] theorem State.write_violQ (a : Nat) (bs : List Byte) : (s.write a bs).violQ = s.violQ := rfl
@[simp] theorem State.write_readData (a : Nat) (bs : List Byte) : (s.write a bs).readData = s.readData := rfl
@[simp] theorem State.write_lbxs (a : Nat) (bs : List Byte) : (s.write a bs).lbxs = s.lbxs := rfl
@[simp] theorem State.write_diag (a : Nat) (bs : List Byte) : (s.write a bs).diag = s.diag := rfl
@[simp] theorem State.write_scrubPantry (a : Nat) (bs : List Byte) : (s.write a bs).scrubPantry = s.scrubPantry := rfl
@[simp] theorem State.write_scrubCellar (a : Nat) (bs : List Byte) : (s.write a bs).scrubCellar = s.scrubCellar := rfl
@[simp] theorem State.write_annexMs (a : Nat) (bs : List Byte) : (s.write a bs).annexMs = s.annexMs := rfl
@[simp] theorem State.write_tjTarget (a : Nat) (bs : List Byte) : (s.write a bs).tjTarget = s.tjTarget := rfl
@[simp] theorem State.write_power (a : Nat) (bs : List Byte) : (s.write a bs).power = s.power := rfl
@[simp] theorem State.write_createdCtx (a : Nat) (bs : List Byte) : (s.write a bs).createdCtx = s.createdCtx := rfl
@[simp] theorem State.write_romWait (a : Nat) (bs : List Byte) : (s.write a bs).romWait = s.romWait := rfl
@[simp] theorem State.write_startRec (a : Nat) (bs : List Byte) : (s.write a bs).startRec = s.startRec := rfl
@[simp] theorem State.write_startCause (a : Nat) (bs : List Byte) : (s.write a bs).startCause = s.startCause := rfl
@[simp] theorem State.write_fw (a : Nat) (bs : List Byte) : (s.write a bs).fw = s.fw := rfl
@[simp] theorem State.write_fuseSvn (a : Nat) (bs : List Byte) : (s.write a bs).fuseSvn = s.fuseSvn := rfl
@[simp] theorem State.write_serving (a : Nat) (bs : List Byte) : (s.write a bs).serving = s.serving := rfl
@[simp] theorem State.write_early (a : Nat) (bs : List Byte) : (s.write a bs).early = s.early := rfl
@[simp] theorem State.write_errQ (a : Nat) (bs : List Byte) : (s.write a bs).errQ = s.errQ := rfl
@[simp] theorem State.write_errOvf (a : Nat) (bs : List Byte) : (s.write a bs).errOvf = s.errOvf := rfl
@[simp] theorem State.write_sweepDue (a : Nat) (bs : List Byte) : (s.write a bs).sweepDue = s.sweepDue := rfl
@[simp] theorem State.write_episodes (a : Nat) (bs : List Byte) : (s.write a bs).episodes = s.episodes := rfl
@[simp] theorem State.write_fatalLatch (a : Nat) (bs : List Byte) : (s.write a bs).fatalLatch = s.fatalLatch := rfl
@[simp] theorem State.write_fatalErr (a : Nat) (bs : List Byte) : (s.write a bs).fatalErr = s.fatalErr := rfl
@[simp] theorem State.write_reported (a : Nat) (bs : List Byte) : (s.write a bs).reported = s.reported := rfl
@[simp] theorem State.write_i3c (a : Nat) (bs : List Byte) : (s.write a bs).i3c = s.i3c := rfl
@[simp] theorem State.write_coolantAbsent (a : Nat) (bs : List Byte) : (s.write a bs).coolantAbsent = s.coolantAbsent := rfl
@[simp] theorem State.write_brake (a : Nat) (bs : List Byte) : (s.write a bs).brake = s.brake := rfl
@[simp] theorem State.write_latch (a : Nat) (bs : List Byte) : (s.write a bs).latch = s.latch := rfl
@[simp] theorem State.write_rst (a : Nat) (bs : List Byte) : (s.write a bs).rst = s.rst := rfl
@[simp] theorem State.write_pwrOk (a : Nat) (bs : List Byte) : (s.write a bs).pwrOk = s.pwrOk := rfl
@[simp] theorem State.write_thermTrip (a : Nat) (bs : List Byte) : (s.write a bs).thermTrip = s.thermTrip := rfl
@[simp] theorem State.write_clockLost (a : Nat) (bs : List Byte) : (s.write a bs).clockLost = s.clockLost := rfl
@[simp] theorem State.write_repair (a : Nat) (bs : List Byte) : (s.write a bs).repair = s.repair := rfl

/-! ### markPoison -/

@[simp] theorem State.markPoison_pending (u : Nat) : (s.markPoison u).pending = s.pending := rfl
@[simp] theorem State.markPoison_mem (u : Nat) : (s.markPoison u).mem = s.mem := rfl
@[simp] theorem State.markPoison_poison (u : Nat) : (s.markPoison u).poison = unitAdd s.poison u := rfl
@[simp] theorem State.markPoison_fresh (u : Nat) : (s.markPoison u).fresh = s.fresh := rfl
@[simp] theorem State.markPoison_rooms (u : Nat) : (s.markPoison u).rooms = s.rooms := rfl
@[simp] theorem State.markPoison_wings (u : Nat) : (s.markPoison u).wings = s.wings := rfl
@[simp] theorem State.markPoison_accesses (u : Nat) : (s.markPoison u).accesses = s.accesses := rfl
@[simp] theorem State.markPoison_nextAcc (u : Nat) : (s.markPoison u).nextAcc = s.nextAcc := rfl
@[simp] theorem State.markPoison_slices (u : Nat) : (s.markPoison u).slices = s.slices := rfl
@[simp] theorem State.markPoison_tbufs (u : Nat) : (s.markPoison u).tbufs = s.tbufs := rfl
@[simp] theorem State.markPoison_roots (u : Nat) : (s.markPoison u).roots = s.roots := rfl
@[simp] theorem State.markPoison_tables (u : Nat) : (s.markPoison u).tables = s.tables := rfl
@[simp] theorem State.markPoison_leafTabs (u : Nat) : (s.markPoison u).leafTabs = s.leafTabs := rfl
@[simp] theorem State.markPoison_subTabs (u : Nat) : (s.markPoison u).subTabs = s.subTabs := rfl
@[simp] theorem State.markPoison_used (u : Nat) : (s.markPoison u).used = s.used := rfl
@[simp] theorem State.markPoison_spreadGroups (u : Nat) : (s.markPoison u).spreadGroups = s.spreadGroups := rfl
@[simp] theorem State.markPoison_localGroups (u : Nat) : (s.markPoison u).localGroups = s.localGroups := rfl
@[simp] theorem State.markPoison_stackCh (u : Nat) : (s.markPoison u).stackCh = s.stackCh := rfl
@[simp] theorem State.markPoison_groupFrames (u : Nat) : (s.markPoison u).groupFrames = s.groupFrames := rfl
@[simp] theorem State.markPoison_chanLost (u : Nat) : (s.markPoison u).chanLost = s.chanLost := rfl
@[simp] theorem State.markPoison_annexUp (u : Nat) : (s.markPoison u).annexUp = s.annexUp := rfl
@[simp] theorem State.markPoison_decoders (u : Nat) : (s.markPoison u).decoders = s.decoders := rfl
@[simp] theorem State.markPoison_extents (u : Nat) : (s.markPoison u).extents = s.extents := rfl
@[simp] theorem State.markPoison_dws (u : Nat) : (s.markPoison u).dws = s.dws := rfl
@[simp] theorem State.markPoison_streams (u : Nat) : (s.markPoison u).streams = s.streams := rfl
@[simp] theorem State.markPoison_modelWork (u : Nat) : (s.markPoison u).modelWork = s.modelWork := rfl
@[simp] theorem State.markPoison_revs (u : Nat) : (s.markPoison u).revs = s.revs := rfl
@[simp] theorem State.markPoison_moves (u : Nat) : (s.markPoison u).moves = s.moves := rfl
@[simp] theorem State.markPoison_nextWork (u : Nat) : (s.markPoison u).nextWork = s.nextWork := rfl
@[simp] theorem State.markPoison_ctxs (u : Nat) : (s.markPoison u).ctxs = s.ctxs := rfl
@[simp] theorem State.markPoison_bolts (u : Nat) : (s.markPoison u).bolts = s.bolts := rfl
@[simp] theorem State.markPoison_boltQ (u : Nat) : (s.markPoison u).boltQ = s.boltQ := rfl
@[simp] theorem State.markPoison_boltRsp (u : Nat) : (s.markPoison u).boltRsp = s.boltRsp := rfl
@[simp] theorem State.markPoison_services (u : Nat) : (s.markPoison u).services = s.services := rfl
@[simp] theorem State.markPoison_seqs (u : Nat) : (s.markPoison u).seqs = s.seqs := rfl
@[simp] theorem State.markPoison_seqGen (u : Nat) : (s.markPoison u).seqGen = s.seqGen := rfl
@[simp] theorem State.markPoison_heldRot (u : Nat) : (s.markPoison u).heldRot = s.heldRot := rfl
@[simp] theorem State.markPoison_nextDone (u : Nat) : (s.markPoison u).nextDone = s.nextDone := rfl
@[simp] theorem State.markPoison_porchOut (u : Nat) : (s.markPoison u).porchOut = s.porchOut := rfl
@[simp] theorem State.markPoison_nextMsg (u : Nat) : (s.markPoison u).nextMsg = s.nextMsg := rfl
@[simp] theorem State.markPoison_handoffT (u : Nat) : (s.markPoison u).handoffT = s.handoffT := rfl
@[simp] theorem State.markPoison_ports (u : Nat) : (s.markPoison u).ports = s.ports := rfl
@[simp] theorem State.markPoison_slotTab (u : Nat) : (s.markPoison u).slotTab = s.slotTab := rfl
@[simp] theorem State.markPoison_slotBack (u : Nat) : (s.markPoison u).slotBack = s.slotBack := rfl
@[simp] theorem State.markPoison_slotWait (u : Nat) : (s.markPoison u).slotWait = s.slotWait := rfl
@[simp] theorem State.markPoison_fabric (u : Nat) : (s.markPoison u).fabric = s.fabric := rfl
@[simp] theorem State.markPoison_unreachable (u : Nat) : (s.markPoison u).unreachable = s.unreachable := rfl
@[simp] theorem State.markPoison_jobs (u : Nat) : (s.markPoison u).jobs = s.jobs := rfl
@[simp] theorem State.markPoison_groups (u : Nat) : (s.markPoison u).groups = s.groups := rfl
@[simp] theorem State.markPoison_gwrites (u : Nat) : (s.markPoison u).gwrites = s.gwrites := rfl
@[simp] theorem State.markPoison_nextGw (u : Nat) : (s.markPoison u).nextGw = s.nextGw := rfl
@[simp] theorem State.markPoison_remotes (u : Nat) : (s.markPoison u).remotes = s.remotes := rfl
@[simp] theorem State.markPoison_e2e (u : Nat) : (s.markPoison u).e2e = s.e2e := rfl
@[simp] theorem State.markPoison_remoteTimeoutMs (u : Nat) : (s.markPoison u).remoteTimeoutMs = s.remoteTimeoutMs := rfl
@[simp] theorem State.markPoison_remoteTimeouts (u : Nat) : (s.markPoison u).remoteTimeouts = s.remoteTimeouts := rfl
@[simp] theorem State.markPoison_arrived (u : Nat) : (s.markPoison u).arrived = s.arrived := rfl
@[simp] theorem State.markPoison_numVfs (u : Nat) : (s.markPoison u).numVfs = s.numVfs := rfl
@[simp] theorem State.markPoison_hostUp (u : Nat) : (s.markPoison u).hostUp = s.hostUp := rfl
@[simp] theorem State.markPoison_windows (u : Nat) : (s.markPoison u).windows = s.windows := rfl
@[simp] theorem State.markPoison_cxlOut (u : Nat) : (s.markPoison u).cxlOut = s.cxlOut := rfl
@[simp] theorem State.markPoison_msixOpen (u : Nat) : (s.markPoison u).msixOpen = s.msixOpen := rfl
@[simp] theorem State.markPoison_msixPend (u : Nat) : (s.markPoison u).msixPend = s.msixPend := rfl
@[simp] theorem State.markPoison_irqs (u : Nat) : (s.markPoison u).irqs = s.irqs := rfl
@[simp] theorem State.markPoison_inflow0 (u : Nat) : (s.markPoison u).inflow0 = s.inflow0 := rfl
@[simp] theorem State.markPoison_inflow1 (u : Nat) : (s.markPoison u).inflow1 = s.inflow1 := rfl
@[simp] theorem State.markPoison_lock (u : Nat) : (s.markPoison u).lock = s.lock := rfl
@[simp] theorem State.markPoison_ident (u : Nat) : (s.markPoison u).ident = s.ident := rfl
@[simp] theorem State.markPoison_evr (u : Nat) : (s.markPoison u).evr = s.evr := rfl
@[simp] theorem State.markPoison_idNode (u : Nat) : (s.markPoison u).idNode = s.idNode := rfl
@[simp] theorem State.markPoison_devSt (u : Nat) : (s.markPoison u).devSt = s.devSt := rfl
@[simp] theorem State.markPoison_devReason (u : Nat) : (s.markPoison u).devReason = s.devReason := rfl
@[simp] theorem State.markPoison_devWarm (u : Nat) : (s.markPoison u).devWarm = s.devWarm := rfl
@[simp] theorem State.markPoison_devIstat (u : Nat) : (s.markPoison u).devIstat = s.devIstat := rfl
@[simp] theorem State.markPoison_hc (u : Nat) : (s.markPoison u).hc = s.hc := rfl
@[simp] theorem State.markPoison_fwAddr (u : Nat) : (s.markPoison u).fwAddr = s.fwAddr := rfl
@[simp] theorem State.markPoison_fwLen (u : Nat) : (s.markPoison u).fwLen = s.fwLen := rfl
@[simp] theorem State.markPoison_rdShadow (u : Nat) : (s.markPoison u).rdShadow = s.rdShadow := rfl
@[simp] theorem State.markPoison_wrShadow (u : Nat) : (s.markPoison u).wrShadow = s.wrShadow := rfl
@[simp] theorem State.markPoison_violQ (u : Nat) : (s.markPoison u).violQ = s.violQ := rfl
@[simp] theorem State.markPoison_readData (u : Nat) : (s.markPoison u).readData = s.readData := rfl
@[simp] theorem State.markPoison_lbxs (u : Nat) : (s.markPoison u).lbxs = s.lbxs := rfl
@[simp] theorem State.markPoison_diag (u : Nat) : (s.markPoison u).diag = s.diag := rfl
@[simp] theorem State.markPoison_scrubPantry (u : Nat) : (s.markPoison u).scrubPantry = s.scrubPantry := rfl
@[simp] theorem State.markPoison_scrubCellar (u : Nat) : (s.markPoison u).scrubCellar = s.scrubCellar := rfl
@[simp] theorem State.markPoison_annexMs (u : Nat) : (s.markPoison u).annexMs = s.annexMs := rfl
@[simp] theorem State.markPoison_tjTarget (u : Nat) : (s.markPoison u).tjTarget = s.tjTarget := rfl
@[simp] theorem State.markPoison_power (u : Nat) : (s.markPoison u).power = s.power := rfl
@[simp] theorem State.markPoison_createdCtx (u : Nat) : (s.markPoison u).createdCtx = s.createdCtx := rfl
@[simp] theorem State.markPoison_romWait (u : Nat) : (s.markPoison u).romWait = s.romWait := rfl
@[simp] theorem State.markPoison_startRec (u : Nat) : (s.markPoison u).startRec = s.startRec := rfl
@[simp] theorem State.markPoison_startCause (u : Nat) : (s.markPoison u).startCause = s.startCause := rfl
@[simp] theorem State.markPoison_fw (u : Nat) : (s.markPoison u).fw = s.fw := rfl
@[simp] theorem State.markPoison_fuseSvn (u : Nat) : (s.markPoison u).fuseSvn = s.fuseSvn := rfl
@[simp] theorem State.markPoison_serving (u : Nat) : (s.markPoison u).serving = s.serving := rfl
@[simp] theorem State.markPoison_early (u : Nat) : (s.markPoison u).early = s.early := rfl
@[simp] theorem State.markPoison_errQ (u : Nat) : (s.markPoison u).errQ = s.errQ := rfl
@[simp] theorem State.markPoison_errOvf (u : Nat) : (s.markPoison u).errOvf = s.errOvf := rfl
@[simp] theorem State.markPoison_sweepDue (u : Nat) : (s.markPoison u).sweepDue = s.sweepDue := rfl
@[simp] theorem State.markPoison_episodes (u : Nat) : (s.markPoison u).episodes = s.episodes := rfl
@[simp] theorem State.markPoison_fatalLatch (u : Nat) : (s.markPoison u).fatalLatch = s.fatalLatch := rfl
@[simp] theorem State.markPoison_fatalErr (u : Nat) : (s.markPoison u).fatalErr = s.fatalErr := rfl
@[simp] theorem State.markPoison_reported (u : Nat) : (s.markPoison u).reported = s.reported := rfl
@[simp] theorem State.markPoison_i3c (u : Nat) : (s.markPoison u).i3c = s.i3c := rfl
@[simp] theorem State.markPoison_coolantAbsent (u : Nat) : (s.markPoison u).coolantAbsent = s.coolantAbsent := rfl
@[simp] theorem State.markPoison_brake (u : Nat) : (s.markPoison u).brake = s.brake := rfl
@[simp] theorem State.markPoison_latch (u : Nat) : (s.markPoison u).latch = s.latch := rfl
@[simp] theorem State.markPoison_rst (u : Nat) : (s.markPoison u).rst = s.rst := rfl
@[simp] theorem State.markPoison_pwrOk (u : Nat) : (s.markPoison u).pwrOk = s.pwrOk := rfl
@[simp] theorem State.markPoison_thermTrip (u : Nat) : (s.markPoison u).thermTrip = s.thermTrip := rfl
@[simp] theorem State.markPoison_clockLost (u : Nat) : (s.markPoison u).clockLost = s.clockLost := rfl
@[simp] theorem State.markPoison_repair (u : Nat) : (s.markPoison u).repair = s.repair := rfl

end Sys2Proof.Machine
end

