-- ==== Sys2Proof/Laws/Map.lean ====
section
/-! SUPPORT. Sparse maps and memory: a read after a write, what a write leaves alone, and the canonical form of memory. -/

namespace Sys2Proof.Machine

/-! ## Maps -/

@[simp] theorem mapFind_nil {α : Type} (i : Nat) : mapFind ([] : Map α) i = none := rfl

theorem mapFind_mapSet {α : Type} (m : Map α) (i j : Nat) (v : α) :
    mapFind (mapSet m i v) j = if j = i then some v else mapFind m j := by
  induction m with
  | nil => simp only [mapSet, mapFind, eq_comm]
  | cons e m ih =>
    obtain ⟨k, w⟩ := e
    simp only [mapSet]
    split
    · subst_vars; simp only [mapFind, eq_comm]; grind
    · split
      · simp only [mapFind]; grind
      · simp only [mapFind, ih]; grind

@[simp] theorem mapFind_mapSet_self {α : Type} (m : Map α) (i : Nat) (v : α) : mapFind (mapSet m i v) i = some v := by
  simp [mapFind_mapSet]

theorem mapFind_mapSet_ne {α : Type} (m : Map α) {i j : Nat} (h : j ≠ i) (v : α) :
    mapFind (mapSet m i v) j = mapFind m j := by
  simp [mapFind_mapSet, h]

theorem mapGet_mapSet {α : Type} (d : α) (m : Map α) (i j : Nat) (v : α) :
    mapGet d (mapSet m i v) j = if j = i then v else mapGet d m j := by
  simp only [mapGet, mapFind_mapSet]; split <;> rfl

@[simp] theorem mapGet_mapSet_self {α : Type} (d : α) (m : Map α) (i : Nat) (v : α) : mapGet d (mapSet m i v) i = v := by
  simp [mapGet_mapSet]

theorem mapGet_mapSet_ne {α : Type} (d : α) (m : Map α) {i j : Nat} (h : j ≠ i) (v : α) :
    mapGet d (mapSet m i v) j = mapGet d m j := by
  simp [mapGet_mapSet, h]

/-! ## Parts of the state -/

theorem room_setRoom (s : State) (r q : RoomId) (x : Room) : (s.setRoom r x).room q = if q = r then x else s.room q := by
  simp only [State.room, State.setRoom, mapGet_mapSet, ← BitVec.toNat_inj]

@[simp] theorem room_updRoom_self (s : State) (r : RoomId) (f : Room → Room) : (s.updRoom r f).room r = f (s.room r) := by
  simp [State.updRoom, room_setRoom]

theorem room_updRoom (s : State) (r q : RoomId) (f : Room → Room) :
    (s.updRoom r f).room q = if q = r then f (s.room r) else s.room q := by
  simp [State.updRoom, room_setRoom]

theorem wing_updWing (s : State) (g q : WingId) (f : Wing → Wing) :
    (s.updWing g f).wing q = if q = g then f (s.wing g) else s.wing q := by
  simp only [State.wing, State.updWing, mapGet_mapSet, ← BitVec.toNat_inj]

theorem ctx_updCtx (s : State) (c q : CtxId) (f : Ctx → Ctx) :
    (s.updCtx c f).ctx q = if q = c then f (s.ctx c) else s.ctx q := by
  simp only [State.ctx, State.updCtx, mapGet_mapSet, ← BitVec.toNat_inj]

theorem bolt_setBolt (s : State) (b q : BoltId) (x : Bolt) : (s.setBolt b x).bolt q = if q = b then x else s.bolt q := by
  simp only [State.bolt, State.setBolt, mapGet_mapSet, ← BitVec.toNat_inj]

theorem port_updPort (s : State) (p q : Nat) (f : Port → Port) :
    (s.updPort p f).port q = if q = p then f (s.port p) else s.port q := by
  simp only [State.port, State.updPort, mapGet_mapSet]

theorem lbx_updLbx (s : State) (l q : Nat) (f : Lbx → Lbx) :
    (s.updLbx l f).lbx q = if q = l then f (s.lbx l) else s.lbx q := by
  simp only [State.lbx, State.updLbx, mapGet_mapSet]

theorem stream_setStream (s : State) (i j : StreamId) (x : Stream) :
    (s.setStream i x).stream j = if j = i then some x else s.stream j := by
  simp only [State.stream, State.setStream, mapFind_mapSet]

@[simp] theorem wing_updWing_self (s : State) (g : WingId) (f : Wing → Wing) : (s.updWing g f).wing g = f (s.wing g) := by
  simp [wing_updWing]
@[simp] theorem ctx_updCtx_self (s : State) (c : CtxId) (f : Ctx → Ctx) : (s.updCtx c f).ctx c = f (s.ctx c) := by
  simp [ctx_updCtx]
@[simp] theorem bolt_setBolt_self (s : State) (b : BoltId) (x : Bolt) : (s.setBolt b x).bolt b = x := by
  simp [bolt_setBolt]
@[simp] theorem port_updPort_self (s : State) (p : Nat) (f : Port → Port) : (s.updPort p f).port p = f (s.port p) := by
  simp [port_updPort]
@[simp] theorem lbx_updLbx_self (s : State) (l : Nat) (f : Lbx → Lbx) : (s.updLbx l f).lbx l = f (s.lbx l) := by
  simp [lbx_updLbx]
@[simp] theorem stream_setStream_self (s : State) (i : StreamId) (x : Stream) : (s.setStream i x).stream i = some x := by
  simp [stream_setStream]

/-! ## Memory: reads after writes -/

/-- Every key of a canonical memory lies above its first. -/
theorem memWf_cons {a : Nat} {b : Byte} {m : Memory} :
    memWf ((a, b) :: m) = true ↔ b ≠ 0 ∧ (∀ e ∈ m, a < e.1) ∧ memWf m = true := by
  simp [memWf, and_assoc]

theorem memRead_absent {m : Memory} {a : Nat} (h : ∀ e ∈ m, a < e.1) : memRead m a = 0 := by
  induction m with
  | nil => rfl
  | cons e m ih =>
    have := h e (by simp)
    simp only [memRead]
    rw [if_neg (by omega), ih fun e he => h e (by simp [he])]

theorem mem_memWrite {m : Memory} {a : Nat} {b : Byte} {e : Nat × Byte} (h : e ∈ memWrite m a b) :
    e ∈ m ∨ e = (a, b) ∧ b ≠ 0 := by
  induction m with
  | nil => simp only [memWrite] at h; split at h <;> simp_all
  | cons k m ih =>
    obtain ⟨k, w⟩ := k
    simp only [memWrite] at h
    split at h
    · split at h <;> grind
    · split at h
      · split at h <;> grind
      · simp only [List.mem_cons] at h ⊢
        rcases h with h | h
        · exact .inl (.inl h)
        · rcases ih h with h | h
          · exact .inl (.inr h)
          · exact .inr h

/-- A write keeps the canonical form. -/
theorem memWf_memWrite {m : Memory} (a : Nat) (b : Byte) (h : memWf m = true) : memWf (memWrite m a b) = true := by
  induction m with
  | nil => simp only [memWrite]; split <;> simp_all [memWf]
  | cons e m ih =>
    obtain ⟨k, w⟩ := e
    obtain ⟨h0, h1, h2⟩ := memWf_cons.1 h
    simp only [memWrite]
    split
    · subst_vars
      split
      · exact h2
      · exact memWf_cons.2 ⟨by assumption, h1, h2⟩
    · split
      · split
        · exact h
        · refine memWf_cons.2 ⟨by assumption, ?_, h⟩
          intro e he
          rcases List.mem_cons.1 he with rfl | he
          · assumption
          · have := h1 e he; omega
      · refine memWf_cons.2 ⟨h0, ?_, ih h2⟩
        intro e he
        rcases mem_memWrite he with he | ⟨rfl, -⟩
        · exact h1 e he
        · simp; omega

/-- A byte just written reads back; every other byte reads as before. -/
theorem memRead_memWrite {m : Memory} (a c : Nat) (b : Byte) (h : memWf m = true) :
    memRead (memWrite m a b) c = if c = a then b else memRead m c := by
  induction m with
  | nil => simp only [memWrite]; split <;> simp only [memRead] <;> grind
  | cons e m ih =>
    obtain ⟨k, w⟩ := e
    obtain ⟨h0, h1, h2⟩ := memWf_cons.1 h
    simp only [memWrite]
    split
    · rename_i hk
      subst hk
      split
      · rename_i hb
        subst hb
        simp only [memRead]
        split
        · rename_i hc; subst hc; exact memRead_absent h1
        · rw [if_neg (by omega)]
      · simp only [memRead]; grind
    · split
      · split
        · rename_i hb
          subst hb
          split
          · rename_i hc
            subst hc
            refine memRead_absent fun e he => ?_
            rcases List.mem_cons.1 he with rfl | he
            · assumption
            · have := h1 e he; omega
          · rfl
        · simp only [memRead]; grind
      · simp only [memRead, ih h2]; grind

/-! ## The canonical form under every memory operation -/

theorem memWf_filter {m : Memory} (p : Nat × Byte → Bool) (h : memWf m = true) : memWf (m.filter p) = true := by
  induction m with
  | nil => rfl
  | cons e m ih =>
    obtain ⟨k, w⟩ := e
    obtain ⟨h0, h1, h2⟩ := memWf_cons.1 h
    simp only [List.filter]
    split
    · exact memWf_cons.2 ⟨h0, fun e he => h1 e ((List.mem_filter.1 he).1), ih h2⟩
    · exact ih h2

theorem memWf_memWrites {m : Memory} (a : Nat) (bs : List Byte) (h : memWf m = true) : memWf (memWrites m a bs) = true := by
  induction bs generalizing m a with
  | nil => exact h
  | cons b bs ih => exact ih (a + 1) (memWf_memWrite a b h)

theorem memWf_foldl {α : Type} {f : α → Nat} {g : α → List Byte} {m : Memory} (l : List α) (h : memWf m = true) :
    memWf (l.foldl (fun m x => memWrites m (f x) (g x)) m) = true := by
  induction l generalizing m with
  | nil => exact h
  | cons x l ih => exact ih (memWf_memWrites _ _ h)

theorem memWf_memClear {m : Memory} (a n : Nat) (h : memWf m = true) : memWf (memClear m a n) = true := memWf_filter _ h

theorem memWf_memPut {m : Memory} (a : Nat) (bs : Memory) (h : memWf m = true) : memWf (memPut m a bs) = true := by
  unfold memPut
  induction bs generalizing m with
  | nil => exact h
  | cons b bs ih => exact ih (memWf_memWrite _ _ h)

theorem memWf_memCopy {m : Memory} (src dst n : Nat) (h : memWf m = true) : memWf (memCopy m src dst n) = true :=
  memWf_memPut _ _ (memWf_memClear _ _ h)

/-! ## What the memory operations write -/

/-- A write of bytes: inside the range the bytes, outside it what stood there. -/
theorem memRead_memWrites {m : Memory} (a c : Nat) (bs : List Byte) (h : memWf m = true) :
    memRead (memWrites m a bs) c = if a ≤ c ∧ c < a + bs.length then bs.getD (c - a) 0 else memRead m c := by
  induction bs generalizing m a with
  | nil =>
    simp only [memWrites, List.length_nil]
    rw [if_neg (by omega)]
  | cons b bs ih =>
    simp only [memWrites, List.length_cons]
    rw [ih (a + 1) (memWf_memWrite a b h), memRead_memWrite a c b h]
    by_cases hc : c = a
    · subst hc; rw [if_neg (by omega), if_pos rfl, if_pos (by omega)]; simp
    · by_cases hr : a ≤ c ∧ c < a + (bs.length + 1)
      · rw [if_pos (by omega), if_pos hr]
        obtain ⟨k, rfl⟩ : ∃ k, c = a + 1 + k := ⟨c - a - 1, by omega⟩
        simp [show a + 1 + k - a = k + 1 by omega]
      · rw [if_neg (by omega), if_neg hc, if_neg hr]

theorem memRead_memWrites_outside {m : Memory} {a c : Nat} {bs : List Byte} (h : memWf m = true)
    (hc : ¬(a ≤ c ∧ c < a + bs.length)) : memRead (memWrites m a bs) c = memRead m c := by
  rw [memRead_memWrites a c bs h, if_neg hc]

theorem memRead_filter {m : Memory} (p : Nat → Bool) (c : Nat) (h : memWf m = true) :
    memRead (m.filter fun e => p e.1) c = if p c then memRead m c else 0 := by
  induction m with
  | nil => simp [memRead]
  | cons e m ih =>
    obtain ⟨k, w⟩ := e
    obtain ⟨h0, h1, h2⟩ := memWf_cons.1 h
    simp only [List.filter]
    split
    · simp only [memRead, ih h2]; grind
    · rw [ih h2]; simp only [memRead]
      split
      · split
        · simp_all
        · rfl
      · rfl

/-- A cleared range reads zero, and nothing else changes. -/
theorem memRead_memClear {m : Memory} (a n c : Nat) (h : memWf m = true) :
    memRead (memClear m a n) c = if a ≤ c ∧ c < a + n then 0 else memRead m c := by
  unfold memClear
  rw [memRead_filter (fun k => !(decide (a ≤ k) && decide (k < a + n))) c h]
  by_cases hc : a ≤ c ∧ c < a + n <;> simp [hc]

@[simp] theorem memReads_length (m : Memory) (a n : Nat) : (memReads m a n).length = n := by simp [memReads]

/-- The bytes written are the bytes read. -/
theorem memReads_memWrites {m : Memory} (a : Nat) (bs : List Byte) (h : memWf m = true) :
    memReads (memWrites m a bs) a bs.length = bs := by
  apply List.ext_getElem
  · simp
  · intro i h1 h2
    simp [memReads, memRead_memWrites a _ bs h, h2]

/-- A range that no written byte touches reads as before. -/
theorem memReads_memWrites_outside {m : Memory} {a c n : Nat} {bs : List Byte} (h : memWf m = true)
    (hc : c + n ≤ a ∨ a + bs.length ≤ c) : memReads (memWrites m a bs) c n = memReads m c n := by
  unfold memReads
  refine List.map_congr_left fun i hi => ?_
  rw [List.mem_range] at hi
  rw [memRead_memWrites_outside h (by omega)]

end Sys2Proof.Machine
end

