-- ==== Sys2Proof/Laws/Tables.lean ====
section
/-! SUPPORT. The page tables lie apart (`TablesApart`), and every operation on them keeps them so. -/

namespace Sys2Proof.Machine

/-! ## Maps under a filter of their keys -/

theorem mapFind_filter {α : Type} (m : Map α) (p : Nat → Bool) (i : Nat) :
    mapFind (m.filter fun e => p e.1) i = if p i then mapFind m i else none := by
  induction m with
  | nil => simp
  | cons e m ih =>
    obtain ⟨k, v⟩ := e
    by_cases hk : k = i
    · subst hk
      by_cases hp : p k <;> simp [hp, mapFind]
      rw [ih]; simp [hp]
    · by_cases hp : p k <;> simp [hp, mapFind, hk, ih]

theorem mapGet_filter {α : Type} (d : α) (m : Map α) (p : Nat → Bool) (i : Nat) :
    mapGet d (m.filter fun e => p e.1) i = if p i then mapGet d m i else d := by
  unfold mapGet
  rw [mapFind_filter]
  split <;> rfl

theorem mem_of_mapFind {α : Type} {m : Map α} {i : Nat} {v : α} (h : mapFind m i = some v) : (i, v) ∈ m := by
  induction m with
  | nil => exact absurd h (by simp)
  | cons e m ih =>
    obtain ⟨k, w⟩ := e
    simp only [mapFind] at h
    split at h
    · injection h with h; subst h; rename_i hk; exact hk ▸ List.mem_cons_self ..
    · exact List.mem_cons_of_mem _ (ih h)

theorem mem_of_mapGet {m : Map W64} {i : Nat} (h : mapGet 0 m i ≠ 0) : (i, mapGet 0 m i) ∈ m := by
  unfold mapGet at h ⊢
  cases e : mapFind m i with
  | none => simp [e] at h
  | some v => exact mem_of_mapFind e

theorem mem_unitAdd {l : List Nat} {u v : Nat} : v ∈ unitAdd l u ↔ v = u ∨ v ∈ l := by
  induction l with
  | nil => simp [unitAdd]
  | cons w l ih =>
    unfold unitAdd
    split
    · subst_vars; simp
    · split
      · simp
      · simp only [List.mem_cons, ih]
        constructor <;> (rintro (h | h | h) <;> simp [h])

theorem mapGet_putWord {s : State} {k i : Nat} {e : W64} :
    mapGet 0 (s.putWord k e).tables i = if i = k then e else mapGet 0 s.tables i := by
  unfold State.putWord
  dsimp only
  split
  · rename_i he
    unfold mapDel
    rw [mapGet_filter (p := fun j => j != k)]
    by_cases h : i = k <;> simp [h, he]
  · rw [mapGet_mapSet]

/-- A search answers an index it may, from where it begins to its limit. -/
theorem firstFrom_some {ok : Nat → Bool} {limit n i t : Nat} (h : firstFrom ok limit n i = some t) :
    ok t = true ∧ i ≤ t ∧ t < limit := by
  induction n generalizing i with
  | zero => exact absurd h (by simp [firstFrom])
  | succ k ih =>
    unfold firstFrom at h
    split at h
    · exact absurd h (by simp)
    · split at h
      · injection h with h; subst h; exact ⟨by assumption, Nat.le_refl _, by omega⟩
      · obtain ⟨a, b, c⟩ := ih h; exact ⟨a, by omega, c⟩

/-! ## Fields of entries that the Study writes -/

theorem bitOf_tableEntry (t : Nat) : eValid (BitVec.ofNat 64 (1 + 2 ^ 16 * t)) = true := by
  simp only [eValid, bitOf, BitVec.toNat_ofNat]; grind

theorem eTable_tableEntry {t : Nat} (h : t < 2 ^ 16) : eTable (BitVec.ofNat 64 (1 + 2 ^ 16 * t)) = t := by
  simp only [eTable, bitsOf, BitVec.toNat_ofNat]; omega

theorem eSubtab_leafSubEntry {t : Nat} (h : t < 2 ^ 23) : eSubtab (leafSubEntry t) = t := by
  simp only [eSubtab, leafSubEntry, bitsOf, BitVec.toNat_ofNat]; omega

theorem leafSubEntry_ne (t : Nat) : leafSubEntry t ≠ 0 := by
  intro e
  have := congrArg BitVec.toNat e
  simp only [leafSubEntry, BitVec.toNat_ofNat, Nat.reducePow] at this
  change _ = 0 at this
  omega

theorem not_eValid_zero : ¬eValid 0 = true := by decide

/-! ## The operations -/

theorem tablesFit_nil : TablesFit [] [] [] [] where
  roots := by simp
  leafTabs := by simp
  subTabs := by simp
  words := by simp [mapGet]
  dirs := by simp
  dirsApart := by simp
  subs := by simp
  subsApart := by simp

namespace TablesFit
variable {rs : Map Nat} {ws ws' : Map W64} {lt st : List Nat}

theorem root_lt (h : TablesFit rs ws lt st) {n : Nat} (hn : (mapFind rs n).isSome) : n < 192 := by
  obtain ⟨r, hr⟩ := Option.isSome_iff_exists.1 hn
  exact (h.roots n r hr).1

/-- A leaf word is no directory entry, and a word of a subpage table is neither. -/
theorem leaf_ne (h : TablesFit rs ws lt st) {k : Nat} (hk : k / 4096 ∈ lt) : mapFind rs (k / 4096) = none := by
  cases e : mapFind rs (k / 4096) with
  | none => rfl
  | some r => have := (h.roots _ _ e).1; have := (h.leafTabs _ hk).1; omega

theorem sub_ne (h : TablesFit rs ws lt st) {k : Nat} (hk : k / 32 ∈ st) : mapFind rs (k / 4096) = none ∧ k / 4096 ∉ lt := by
  obtain ⟨a, -, b⟩ := h.subTabs _ hk
  have e : k / 32 / 128 = k / 4096 := by omega
  rw [e] at a b
  refine ⟨?_, b⟩
  cases e : mapFind rs (k / 4096) with
  | none => rfl
  | some r => have := (h.roots _ _ e).1; omega

/-- Write a leaf entry; one with SUB = 1 names a subpage table that no other names. -/
theorem setLeaf (h : TablesFit rs ws lt st) {k : Nat} {e : W64} (hk : k / 4096 ∈ lt)
    (hw : ∀ i, mapGet 0 ws' i = if i = k then e else mapGet 0 ws i)
    (he : eValid e → eSub e → eSubtab e ∈ st ∧ ∀ l, l ≠ k → l / 4096 ∈ lt → eValid (mapGet 0 ws l) → eSub (mapGet 0 ws l) →
      eSubtab (mapGet 0 ws l) ≠ eSubtab e) : TablesFit rs ws' lt st := by
  have root {i : Nat} (hi : (mapFind rs (i / 4096)).isSome) : mapGet 0 ws' i = mapGet 0 ws i := by
    rw [hw, if_neg]; rintro rfl; rw [h.leaf_ne hk] at hi; exact absurd hi (by simp)
  refine ⟨h.roots, h.leafTabs, h.subTabs, fun i hi => ?_, fun i hr hi => ?_, fun i j hi hj => ?_, fun i hi hv hs => ?_, fun i j hi hj => ?_⟩
  · by_cases e : i = k
    · exact e ▸ .inr (.inl hk)
    · rw [hw, if_neg e] at hi; exact h.words i hi
  · rw [root hr] at hi ⊢; exact h.dirs i hr hi
  · rw [root hi, root hj]; exact h.dirsApart i j hi hj
  · rw [hw] at hv hs ⊢
    split at hv <;> rename_i e <;> simp only [e, if_true, if_false] at hs ⊢
    · exact (he hv hs).1
    · exact h.subs i hi hv hs
  · rw [hw, hw]
    intro a b c d f
    by_cases ei : i = k <;> by_cases ej : j = k <;> simp only [ei, ej, if_true, if_false] at a b c d f ⊢
    · exact absurd f.symm ((he a b).2 j ej hj c d)
    · exact absurd f ((he c d).2 i ei hi a b)
    · exact h.subsApart i j hi hj a b c d f

/-- Write a word of a subpage table. -/
theorem setSub (h : TablesFit rs ws lt st) {k : Nat} {e : W64} (hk : k / 32 ∈ st)
    (hw : ∀ i, mapGet 0 ws' i = if i = k then e else mapGet 0 ws i) : TablesFit rs ws' lt st := by
  obtain ⟨nr, nl⟩ := h.sub_ne hk
  have root {i : Nat} (hi : (mapFind rs (i / 4096)).isSome) : mapGet 0 ws' i = mapGet 0 ws i := by
    rw [hw, if_neg]; rintro rfl; rw [nr] at hi; exact absurd hi (by simp)
  have leaf {i : Nat} (hi : i / 4096 ∈ lt) : mapGet 0 ws' i = mapGet 0 ws i := by
    rw [hw, if_neg]; rintro rfl; exact nl hi
  refine ⟨h.roots, h.leafTabs, h.subTabs, fun i hi => ?_, fun i hr hi => ?_, fun i j hi hj => ?_, fun i hi => ?_, fun i j hi hj => ?_⟩
  · by_cases e : i = k
    · exact e ▸ .inr (.inr hk)
    · rw [hw, if_neg e] at hi; exact h.words i hi
  · rw [root hr] at hi ⊢; exact h.dirs i hr hi
  · rw [root hi, root hj]; exact h.dirsApart i j hi hj
  · rw [leaf hi]; exact h.subs i hi
  · rw [leaf hi, leaf hj]; exact h.subsApart i j hi hj

/-- A new leaf table with the directory entry that names it. -/
theorem addLeafTab (h : TablesFit rs ws lt st) {k t : Nat} (hk : (mapFind rs (k / 4096)).isSome) (hz : mapGet 0 ws k = 0)
    (ht : t ∉ lt ∧ 192 ≤ t ∧ t < 2 ^ 16 ∧ ∀ u ∈ st, u / 128 ≠ t)
    (hw : ∀ i, mapGet 0 ws' i = if i = k then BitVec.ofNat 64 (1 + 2 ^ 16 * t) else mapGet 0 ws i) :
    TablesFit rs ws' (unitAdd lt t) st := by
  obtain ⟨t1, t2, t3, t4⟩ := ht
  have leaf {i : Nat} (hi : i / 4096 ∈ unitAdd lt t) : mapGet 0 ws' i = mapGet 0 ws i := by
    rw [hw, if_neg]
    rintro rfl
    have := h.root_lt hk
    rcases mem_unitAdd.1 hi with e | e
    · omega
    · have := (h.leafTabs _ e).1; omega
  have fresh {i : Nat} (hi : i / 4096 = t) : mapGet 0 ws i = 0 := by
    apply Classical.byContradiction
    intro hn
    rcases h.words i hn with e | e | e
    · have := h.root_lt e; omega
    · exact t1 (hi ▸ e)
    · exact t4 _ e (by omega)
  refine ⟨h.roots, fun u hu => ?_, fun u hu => ?_, fun i hi => ?_, fun i hr hi => ?_, fun i j ri rj => ?_, fun i hi => ?_, fun i j hi hj => ?_⟩
  · rcases mem_unitAdd.1 hu with e | e
    · omega
    · exact h.leafTabs u e
  · obtain ⟨a, b, c⟩ := h.subTabs u hu
    exact ⟨a, b, fun m => (mem_unitAdd.1 m).elim (t4 u hu) c⟩
  · by_cases e : i = k
    · exact e ▸ .inl hk
    · rw [hw, if_neg e] at hi
      rcases h.words i hi with e | e | e
      · exact .inl e
      · exact .inr (.inl (mem_unitAdd.2 (.inr e)))
      · exact .inr (.inr e)
  · rw [hw] at hi ⊢
    split
    · exact ⟨bitOf_tableEntry t, mem_unitAdd.2 (.inl (eTable_tableEntry t3))⟩
    · rename_i e
      rw [if_neg e] at hi
      exact ⟨(h.dirs i hr hi).1, mem_unitAdd.2 (.inr (h.dirs i hr hi).2)⟩
  · rw [hw, hw]
    intro a b f
    by_cases ei : i = k <;> by_cases ej : j = k <;> simp only [ei, ej, if_true, if_false] at a b f ⊢
    · rw [eTable_tableEntry t3] at f; exact absurd (f ▸ (h.dirs j rj b).2) t1
    · rw [eTable_tableEntry t3] at f; exact absurd (f ▸ (h.dirs i ri a).2) t1
    · exact h.dirsApart i j ri rj a b f
  · rw [leaf hi]
    intro a b
    rcases mem_unitAdd.1 hi with e | e
    · rw [fresh e] at a; exact absurd a not_eValid_zero
    · exact h.subs i e a b
  · rw [leaf hi, leaf hj]
    intro a b c d f
    rcases mem_unitAdd.1 hi with e | e
    · rw [fresh e] at a; exact absurd a not_eValid_zero
    · rcases mem_unitAdd.1 hj with e' | e'
      · rw [fresh e'] at c; exact absurd c not_eValid_zero
      · exact h.subsApart i j e e' a b c d f

/-- A new subpage table. -/
theorem addSubTab (h : TablesFit rs ws lt st) {t : Nat} (ht : 192 ≤ t / 128 ∧ t < 2 ^ 23 ∧ t / 128 ∉ lt) :
    TablesFit rs ws lt (unitAdd st t) where
  roots := h.roots
  leafTabs := h.leafTabs
  subTabs := fun u hu => (mem_unitAdd.1 hu).elim (fun e => e ▸ ht) (h.subTabs u)
  words := fun k hk => (h.words k hk).imp_right fun e => e.imp_right fun e => mem_unitAdd.2 (.inr e)
  dirs := h.dirs
  dirsApart := h.dirsApart
  subs := fun k hk a b => mem_unitAdd.2 (.inr (h.subs k hk a b))
  subsApart := h.subsApart

/-- A subpage table that no leaf entry names goes, with its words. -/
theorem dropSubTab (h : TablesFit rs ws lt st) {t : Nat} (ht : t ∈ st)
    (hn : ∀ k, k / 4096 ∈ lt → eValid (mapGet 0 ws k) → eSub (mapGet 0 ws k) → eSubtab (mapGet 0 ws k) ≠ t) :
    TablesFit rs (ws.filter fun w => w.1 / 32 != t) lt (st.filter fun u => u != t) := by
  have word (i : Nat) : mapGet 0 (ws.filter fun w => w.1 / 32 != t) i = if i / 32 ≠ t then mapGet 0 ws i else 0 := by
    rw [mapGet_filter (p := fun j => j / 32 != t)]; by_cases e : i / 32 = t <;> simp [e]
  have other {i : Nat} (hi : (mapFind rs (i / 4096)).isSome ∨ i / 4096 ∈ lt) : i / 32 ≠ t := by
    rintro rfl
    obtain ⟨a, b⟩ := h.sub_ne ht
    rcases hi with e | e
    · rw [a] at e; exact absurd e (by simp)
    · exact b e
  have keep {i : Nat} (hi : (mapFind rs (i / 4096)).isSome ∨ i / 4096 ∈ lt) :
      mapGet 0 (ws.filter fun w => w.1 / 32 != t) i = mapGet 0 ws i := by rw [word, if_pos (other hi)]
  refine ⟨h.roots, h.leafTabs, fun u hu => h.subTabs u (List.mem_filter.1 hu).1, fun i hi => ?_, fun i hr hi => ?_, fun i j hi hj => ?_,
    fun i hi hv hs => ?_, fun i j hi hj => ?_⟩
  · rw [word] at hi
    split at hi
    · rename_i e
      refine (h.words i hi).imp_right fun q => q.imp_right fun q => List.mem_filter.2 ⟨q, by simpa using e⟩
    · exact absurd rfl hi
  · rw [keep (.inl hr)] at hi ⊢; exact h.dirs i hr hi
  · rw [keep (.inl hi), keep (.inl hj)]; exact h.dirsApart i j hi hj
  · rw [keep (.inr hi)] at hv hs ⊢
    exact List.mem_filter.2 ⟨h.subs i hi hv hs, by simpa using hn i hi hv hs⟩
  · rw [keep (.inr hi), keep (.inr hj)]; exact h.subsApart i j hi hj

/-- A new root. -/
theorem addRoot (h : TablesFit rs ws lt st) {n : Nat} (hn : n < 192) : TablesFit (mapSet rs n n) ws lt st := by
  have old {k : Nat} (hk : (mapFind (mapSet rs n n) (k / 4096)).isSome) (hz : mapGet 0 ws k ≠ 0) : (mapFind rs (k / 4096)).isSome := by
    rw [mapFind_mapSet] at hk
    split at hk
    · rename_i e
      rcases h.words k hz with a | a | a
      · exact a
      · have := (h.leafTabs _ a).1; omega
      · have := (h.subTabs _ a).1; omega
    · exact hk
  refine ⟨fun m r hr => ?_, h.leafTabs, h.subTabs, fun k hk => ?_, fun k hr hk => h.dirs k (old hr hk) hk, fun k l a b c d =>
    h.dirsApart k l (old a c) (old b d) c d, h.subs, h.subsApart⟩
  · rw [mapFind_mapSet] at hr
    split at hr
    · injection hr with hr; subst_vars; exact ⟨hn, rfl⟩
    · exact h.roots m r hr
  · refine (h.words k hk).imp_left fun a => ?_
    rw [mapFind_mapSet]
    split
    · rfl
    · exact a

/-- Roots and leaf tables go, with their words: no directory entry that stays names one. -/
theorem dropRoots (h : TablesFit rs ws lt st) {p : Nat → Bool} {gone ts : List Nat}
    (hg : ∀ n, n ∈ gone ↔ p n = true ∧ (mapFind rs n).isSome) (ht : ∀ t ∈ ts, 192 ≤ t)
    (hd : ∀ k, (mapFind rs (k / 4096)).isSome → k / 4096 ∉ gone → mapGet 0 ws k ≠ 0 → eTable (mapGet 0 ws k) ∉ ts) :
    TablesFit (rs.filter fun r => !p r.1) (ws.filter fun w => !(gone.contains (w.1 / 4096) || ts.contains (w.1 / 4096)))
      (lt.filter fun t => !ts.contains t) st := by
  have root (n : Nat) : mapFind (rs.filter fun r => !p r.1) n = if p n then none else mapFind rs n := by
    rw [mapFind_filter (p := fun n => !p n)]; cases p n <;> rfl
  have word (i : Nat) : mapGet 0 (ws.filter fun w => !(gone.contains (w.1 / 4096) || ts.contains (w.1 / 4096))) i =
      if i / 4096 ∈ gone ∨ i / 4096 ∈ ts then 0 else mapGet 0 ws i := by
    rw [mapGet_filter (p := fun i => !(gone.contains (i / 4096) || ts.contains (i / 4096)))]
    by_cases a : i / 4096 ∈ gone <;> by_cases b : i / 4096 ∈ ts <;> simp [a, b]
  have old {n : Nat} (hn : (mapFind (rs.filter fun r => !p r.1) n).isSome) : (mapFind rs n).isSome ∧ n ∉ gone ∧ n ∉ ts := by
    rw [root] at hn
    split at hn
    · exact absurd hn (by simp)
    · rename_i e
      exact ⟨hn, fun m => e ((hg n).1 m).1, fun m => by have := ht n m; have := h.root_lt hn; omega⟩
  have dir {i : Nat} (hi : (mapFind (rs.filter fun r => !p r.1) (i / 4096)).isSome) :
      mapGet 0 (ws.filter fun w => !(gone.contains (w.1 / 4096) || ts.contains (w.1 / 4096))) i = mapGet 0 ws i := by
    rw [word, if_neg]; rintro (e | e)
    · exact (old hi).2.1 e
    · exact (old hi).2.2 e
  have left {t : Nat} (m : t ∈ lt.filter fun t => !ts.contains t) : t ∈ lt ∧ t ∉ ts ∧ t ∉ gone := by
    obtain ⟨a, b⟩ := List.mem_filter.1 m
    exact ⟨a, by simpa using b, fun e => by have := h.root_lt ((hg t).1 e).2; have := (h.leafTabs t a).1; omega⟩
  have leaf {i : Nat} (hi : i / 4096 ∈ lt.filter fun t => !ts.contains t) :
      mapGet 0 (ws.filter fun w => !(gone.contains (w.1 / 4096) || ts.contains (w.1 / 4096))) i = mapGet 0 ws i := by
    rw [word, if_neg]; rintro (e | e)
    · exact (left hi).2.2 e
    · exact (left hi).2.1 e
  refine ⟨fun n r hr => ?_, fun t m => h.leafTabs t (left m).1, fun t m => ?_, fun k hk => ?_, fun k hr hk => ?_, fun k l a b => ?_,
    fun k hk => ?_, fun k l hk hl => ?_⟩
  · rw [root] at hr
    split at hr
    · exact absurd hr (by simp)
    · exact h.roots n r hr
  · obtain ⟨a, b, c⟩ := h.subTabs t m
    exact ⟨a, b, fun e => c (left e).1⟩
  · rw [word] at hk
    split at hk
    · exact absurd rfl hk
    · rename_i e
      simp only [not_or] at e
      rcases h.words k hk with a | a | a
      · left
        rw [root]
        split
        · rename_i q; exact absurd ((hg _).2 ⟨q, a⟩) e.1
        · exact a
      · exact .inr (.inl (List.mem_filter.2 ⟨a, by simpa using e.2⟩))
      · exact .inr (.inr a)
  · rw [dir hr] at hk ⊢
    obtain ⟨o1, o2, -⟩ := old hr
    obtain ⟨a, b⟩ := h.dirs k o1 hk
    exact ⟨a, List.mem_filter.2 ⟨b, by simpa using hd k o1 o2 hk⟩⟩
  · rw [dir a, dir b]; exact h.dirsApart k l (old a).1 (old b).1
  · rw [leaf hk]; exact h.subs k (left hk).1
  · rw [leaf hk, leaf hl]; exact h.subsApart k l (left hk).1 (left hl).1

end TablesFit

/-! ## The Study's operations -/

theorem State.dirEntry_spec {s : State} (h : TablesApart s) {c : CtxId} {ns vpn : Nat} :
    s.dirEntry c ns vpn = 0 ∨ ∃ k, (mapFind s.roots (k / 4096)).isSome ∧ k = dirWord (nsKey c ns) vpn ∧
      s.dirEntry c ns vpn = mapGet 0 s.tables k := by
  unfold State.dirEntry
  cases e : mapFind s.roots (nsKey c ns) with
  | none => exact .inl rfl
  | some r =>
    obtain ⟨-, rfl⟩ := h.roots _ _ e
    refine .inr ⟨_, ?_, rfl, rfl⟩
    have : dirWord (nsKey c ns) vpn / 4096 = nsKey c ns := by unfold dirWord; omega
    rw [this, e]; rfl

/-- A page's leaf word lies in a leaf table. -/
theorem State.leafAt_mem {s : State} (h : TablesApart s) {c : CtxId} {ns vpn k : Nat} (e : s.leafAt c ns vpn = some k) :
    k / 4096 ∈ s.leafTabs := by
  unfold State.leafAt at e
  dsimp only at e
  split at e
  · rename_i hv
    injection e with e
    subst e
    rcases State.dirEntry_spec h with q | ⟨k, hr, -, q⟩
    · rw [q] at hv; exact absurd hv not_eValid_zero
    · rw [q] at hv ⊢
      have hk : mapGet 0 s.tables k ≠ 0 := by rintro z; rw [z] at hv; exact absurd hv not_eValid_zero
      have : leafWord (eTable (mapGet 0 s.tables k)) vpn / 4096 = eTable (mapGet 0 s.tables k) := by unfold leafWord; omega
      rw [this]; exact (h.dirs k hr hk).2
  · exact absurd e (by simp)

theorem State.leaf_eq {s : State} {c : CtxId} {ns vpn k : Nat} (e : s.leafAt c ns vpn = some k) :
    s.leaf c ns vpn = mapGet 0 s.tables k := by
  unfold State.leaf; rw [e]; rfl

theorem State.putWord_fields {s : State} {k : Nat} {e : W64} :
    (s.putWord k e).roots = s.roots ∧ (s.putWord k e).leafTabs = s.leafTabs ∧ (s.putWord k e).subTabs = s.subTabs := ⟨rfl, rfl, rfl⟩

theorem State.putLeaf_apart {s : State} (h : TablesApart s) {c : CtxId} {ns vpn : Nat} {e : W64} : TablesApart (s.putLeaf c ns vpn e) := by
  unfold State.putLeaf
  split
  · split
    · exact h
    · rename_i hs
      exact h.setLeaf (State.leafAt_mem h (by assumption)) (fun i => mapGet_putWord) fun _ a => absurd a hs
  · exact h

theorem State.putSub_apart {s : State} (h : TablesApart s) {c : CtxId} {ns vpn j : Nat} {e : W64} : TablesApart (s.putSub c ns vpn j e) := by
  unfold State.putSub
  split
  · rename_i k hk
    split
    · rename_i hj
      refine h.setSub ?_ (fun i => mapGet_putWord)
      unfold State.subAt at hk
      dsimp only at hk
      split at hk
      · rename_i hv
        simp only [Bool.and_eq_true] at hv
        injection hk with hk
        subst hk
        cases q : s.leafAt c ns vpn with
        | none => unfold State.leaf at hv; rw [q] at hv; exact absurd hv.1 not_eValid_zero
        | some l =>
          rw [State.leaf_eq q] at hv ⊢
          have : subWord (eSubtab (mapGet 0 s.tables l)) j / 32 = eSubtab (mapGet 0 s.tables l) := by unfold subWord; omega
          rw [this]; exact h.subs l (State.leafAt_mem h q) hv.1 hv.2
      · exact absurd hk (by simp)
    · exact h
  · exact h

theorem State.openLeaf_apart {s t : State} (h : TablesApart s) {c : CtxId} {ns vpn : Nat} (e : s.openLeaf c ns vpn = some t) :
    TablesApart t := by
  unfold State.openLeaf at e
  split at e
  · injection e with e; exact e ▸ h
  · rename_i hn
    split at e
    · rename_i r n hr hf
      injection e with e
      subst e
      obtain ⟨-, rfl⟩ := h.roots _ _ hr
      obtain ⟨ok, lo, hi⟩ := firstFrom_some hf
      simp only [Bool.and_eq_true, Bool.not_eq_true', List.all_eq_true, List.contains_eq_mem, decide_eq_false_iff_not, bne_iff_ne] at ok
      have hd : dirWord (nsKey c ns) vpn / 4096 = nsKey c ns := by unfold dirWord; omega
      have root : (mapFind s.roots (dirWord (nsKey c ns) vpn / 4096)).isSome := by rw [hd, hr]; rfl
      refine TablesFit.addLeafTab h root ?_ ⟨ok.1, lo, hi, ok.2⟩ fun i => mapGet_putWord
      apply Classical.byContradiction
      intro hz
      have hv := (h.dirs _ root hz).1
      apply hn
      unfold State.leafAt State.dirEntry
      rw [hr]
      simp only [State.tableWord, hv, if_true, Option.isSome_some]
    · exact absurd e (by simp)

theorem State.openSub_apart {s t : State} (h : TablesApart s) {c : CtxId} {ns vpn : Nat} (e : s.openSub c ns vpn = some t) :
    TablesApart t := by
  unfold State.openSub at e
  obtain ⟨u, hu, e⟩ := Option.bind_eq_some_iff.1 e
  obtain ⟨k, hk, e⟩ := Option.bind_eq_some_iff.1 e
  obtain ⟨n, hn, rfl⟩ := Option.map_eq_some_iff.1 e
  have h := State.openLeaf_apart h hu
  obtain ⟨ok, lo, hi⟩ := firstFrom_some hn
  simp only [Bool.and_eq_true, Bool.not_eq_true', List.contains_eq_mem, decide_eq_false_iff_not] at ok
  have lo : 192 ≤ n / 128 := by unfold firstTab at lo; omega
  have hk := State.leafAt_mem h hk
  refine (h.addSubTab ⟨lo, hi, ok.2⟩).setLeaf hk (fun i => mapGet_putWord) fun _ _ => ?_
  rw [eSubtab_leafSubEntry hi]
  refine ⟨mem_unitAdd.2 (.inl rfl), fun l _ hl a b f => ?_⟩
  exact ok.1 (f ▸ h.subs l hl a b)

theorem State.clearPage_apart {s : State} (h : TablesApart s) {c : CtxId} {ns vpn : Nat} : TablesApart (s.clearPage c ns vpn) := by
  unfold State.clearPage
  extract_lets e t
  have ht : TablesApart t := State.putLeaf_apart h
  split
  · rename_i hv
    simp only [Bool.and_eq_true] at hv
    cases q : s.leafAt c ns vpn with
    | none =>
      have : e = 0 := by show s.leaf c ns vpn = 0; unfold State.leaf; rw [q]
      rw [this] at hv; exact absurd hv.1 not_eValid_zero
    | some k =>
      have he : e = mapGet 0 s.tables k := State.leaf_eq q
      have hk := State.leafAt_mem h q
      rw [he] at hv ⊢
      have tt : t = s.putWord k 0 := by
        show s.putLeaf c ns vpn 0 = _
        unfold State.putLeaf; rw [q]; rfl
      refine TablesFit.dropSubTab ht (t := eSubtab (mapGet 0 s.tables k)) ?_ fun l hl a b f => ?_
      · rw [tt]; exact h.subs k hk hv.1 hv.2
      · rw [tt] at hl a b f
        rw [mapGet_putWord] at a b f
        split at a
        · exact absurd a not_eValid_zero
        · rename_i n
          rw [if_neg n] at b f
          exact n (h.subsApart l k hl hk a b hv.1 hv.2 f)
  · exact ht

theorem nsKey_root {c : CtxId} {k : Nat} (hk : k < 3) : nsKey c (k + 1) = 3 * c.toNat + k ∧ nsKey c (k + 1) < 192 := by
  unfold nsKey; have := c.isLt; omega

theorem State.makeRoots_apart {s : State} (h : TablesApart s) {c : CtxId} : TablesApart (s.makeRoots c) := by
  have (l : List Nat) (hl : ∀ k ∈ l, k < 3) (s : State) (h : TablesApart s) : TablesApart (l.foldl (fun s k =>
      { s with roots := mapSet s.roots (nsKey c (k + 1)) (nsKey c (k + 1)) }) s) := by
    induction l generalizing s with
    | nil => exact h
    | cons k l ih =>
      exact ih (fun j hj => hl j (List.mem_cons_of_mem _ hj)) _ (TablesFit.addRoot h (nsKey_root (hl k (List.mem_cons_self ..))).2)
  exact this _ (by simp) s h

theorem State.dropTables_apart {s : State} (h : TablesApart s) {c : CtxId} : TablesApart (s.dropTables c) := by
  unfold State.dropTables
  extract_lets gone ts
  have hg (n : Nat) : n ∈ gone ↔ (n / 3 == c.toNat) = true ∧ (mapFind s.roots n).isSome := by
    simp only [gone, List.mem_filterMap, List.mem_range, beq_iff_eq]
    constructor
    · rintro ⟨k, hk, e⟩
      obtain ⟨-, rfl⟩ := h.roots _ _ e
      have := (nsKey_root (c := c) hk).1
      exact ⟨by omega, by rw [e]; rfl⟩
    · rintro ⟨a, b⟩
      obtain ⟨r, hr⟩ := Option.isSome_iff_exists.1 b
      obtain ⟨-, rfl⟩ := h.roots _ _ hr
      refine ⟨r % 3, by omega, ?_⟩
      have := (nsKey_root (c := c) (k := r % 3) (by omega)).1
      rw [show nsKey c (r % 3 + 1) = r by omega, hr]
  have hts (t : Nat) : t ∈ ts → ∃ k, k / 4096 ∈ gone ∧ mapGet 0 s.tables k ≠ 0 ∧ eTable (mapGet 0 s.tables k) = t := by
    simp only [ts, List.mem_filterMap, List.mem_map, List.mem_filter, List.contains_eq_mem, decide_eq_true_eq]
    rintro ⟨e, ⟨w, ⟨-, hw⟩, rfl⟩, he⟩
    split at he
    · rename_i hv
      injection he with he
      refine ⟨w.1, hw, ?_, he⟩
      intro z
      have : s.tableWord w.1 = 0 := z
      rw [this] at hv; exact absurd hv not_eValid_zero
    · exact absurd he (by simp)
  refine TablesFit.dropRoots (p := fun n => n / 3 == c.toNat) h hg (fun t m => ?_) fun k hr hk hz m => ?_
  · obtain ⟨k, a, b, rfl⟩ := hts t m
    exact (h.leafTabs _ (h.dirs k ((hg _).1 a).2 b).2).1
  · obtain ⟨l, a, b, e⟩ := hts _ m
    exact hk (h.dirsApart l k ((hg _).1 a).2 hr b hz e ▸ a)

end Sys2Proof.Machine
end

