-- ==== Sys2Proof/Laws/Kept.lean ====
section
/-! SUPPORT. What every command keeps (`Kept`): the relation composes, and a record update that leaves those fields
keeps it. A lemma about an operation says: if `u` to `s` is kept, then `u` to the operation on `s` is. -/

namespace Sys2Proof.Machine

theorem Kept.refl (s : State) : Kept s s := ⟨rfl, id, id, id, fun h => ⟨h, Nat.le_refl _⟩, id⟩

theorem Kept.trans {u s t : State} (h : Kept u s) (k : Kept s t) : Kept u t where
  queue := k.queue.trans h.queue
  memory := k.memory ∘ h.memory
  errors := k.errors ∘ h.errors
  violations := k.violations ∘ h.violations
  fuses := fun hu => ⟨(k.fuses (h.fuses hu).1).1, Nat.le_trans (h.fuses hu).2 (k.fuses (h.fuses hu).1).2⟩
  tables := k.tables ∘ h.tables

/-- An update of other fields. -/
theorem Kept.upd {u s : State}
    { x0 x1 x2 x3 x4 x5 x6 x7 x8 x9 x10 x11 x12 x13 x14 x15 x16 x17 x18 x19 x20 x21 x22 x23 x24 x25 x26 x27 x28 x29
    x30 x31 x32 x33 x34 x35 x36 x37 x38 x39 x40 x41 x42 x43 x44 x45 x46 x47 x48 x49 x50 x51 x52 x53 x54 x55 x56 x57
    x58 x59 x60 x61 x62 x63 x64 x65 x66 x67 x68 x69 x70 x71 x72 x73 x74 x75 x76 x77 x78 x79 x80 x81 x82 x83 x84 x85
    x86 x87 x88 x89 x90 x91 x92 x93 x94 x95 x96 x97 x98 x99 x100 x101 }
    (h : Kept u s) : Kept u (.mk
      s.pending s.mem x0 x1 x2 x3 x4 x5 x6 x7 s.roots s.tables s.leafTabs s.subTabs x8 x9 x10 x11 x12 x13 x14 x15 x16
      x17 x18 x19 x20 x21 x22 x23 x24 x25 x26 x27 x28 x29 x30 x31 x32 x33 x34 x35 x36 x37 x38 x39 x40 x41 x42 x43 x44
      x45 x46 x47 x48 x49 x50 x51 x52 x53 x54 x55 x56 x57 x58 x59 x60 x61 x62 x63 x64 x65 x66 x67 x68 x69 x70 x71
      s.violQ x72 x73 x74 x75 x76 x77 x78 x79 x80 x81 x82 x83 x84 s.fuseSvn x85 x86 s.errQ x87 x88 x89 x90 x91 x92
      x93 x94 x95 x96 x97 x98 x99 x100 x101) :=
  h.trans ⟨rfl, id, id, id, fun h => ⟨h, Nat.le_refl _⟩, id⟩

/-- An update of memory and of other fields. -/
theorem Kept.updMem {u s : State} {mem}
    { x0 x1 x2 x3 x4 x5 x6 x7 x8 x9 x10 x11 x12 x13 x14 x15 x16 x17 x18 x19 x20 x21 x22 x23 x24 x25 x26 x27 x28 x29
    x30 x31 x32 x33 x34 x35 x36 x37 x38 x39 x40 x41 x42 x43 x44 x45 x46 x47 x48 x49 x50 x51 x52 x53 x54 x55 x56 x57
    x58 x59 x60 x61 x62 x63 x64 x65 x66 x67 x68 x69 x70 x71 x72 x73 x74 x75 x76 x77 x78 x79 x80 x81 x82 x83 x84 x85
    x86 x87 x88 x89 x90 x91 x92 x93 x94 x95 x96 x97 x98 x99 x100 x101 }
    (hm : memWf s.mem = true → memWf mem = true) (h : Kept u s) : Kept u (.mk
      s.pending mem x0 x1 x2 x3 x4 x5 x6 x7 s.roots s.tables s.leafTabs s.subTabs x8 x9 x10 x11 x12 x13 x14 x15 x16
      x17 x18 x19 x20 x21 x22 x23 x24 x25 x26 x27 x28 x29 x30 x31 x32 x33 x34 x35 x36 x37 x38 x39 x40 x41 x42 x43 x44
      x45 x46 x47 x48 x49 x50 x51 x52 x53 x54 x55 x56 x57 x58 x59 x60 x61 x62 x63 x64 x65 x66 x67 x68 x69 x70 x71
      s.violQ x72 x73 x74 x75 x76 x77 x78 x79 x80 x81 x82 x83 x84 s.fuseSvn x85 x86 s.errQ x87 x88 x89 x90 x91 x92
      x93 x94 x95 x96 x97 x98 x99 x100 x101) :=
  h.trans ⟨rfl, hm, id, id, fun h => ⟨h, Nat.le_refl _⟩, id⟩

/-- An update of the error queue, or the violation queue, or the fuses, and of other fields. -/
theorem Kept.updErr {u s : State} {errQ}
    { x0 x1 x2 x3 x4 x5 x6 x7 x8 x9 x10 x11 x12 x13 x14 x15 x16 x17 x18 x19 x20 x21 x22 x23 x24 x25 x26 x27 x28 x29
    x30 x31 x32 x33 x34 x35 x36 x37 x38 x39 x40 x41 x42 x43 x44 x45 x46 x47 x48 x49 x50 x51 x52 x53 x54 x55 x56 x57
    x58 x59 x60 x61 x62 x63 x64 x65 x66 x67 x68 x69 x70 x71 x72 x73 x74 x75 x76 x77 x78 x79 x80 x81 x82 x83 x84 x85
    x86 x87 x88 x89 x90 x91 x92 x93 x94 x95 x96 x97 x98 x99 x100 x101 }
    (he : s.errQ.length ≤ 16 → errQ.length ≤ 16) (h : Kept u s) : Kept u (.mk
      s.pending s.mem x0 x1 x2 x3 x4 x5 x6 x7 s.roots s.tables s.leafTabs s.subTabs x8 x9 x10 x11 x12 x13 x14 x15 x16
      x17 x18 x19 x20 x21 x22 x23 x24 x25 x26 x27 x28 x29 x30 x31 x32 x33 x34 x35 x36 x37 x38 x39 x40 x41 x42 x43 x44
      x45 x46 x47 x48 x49 x50 x51 x52 x53 x54 x55 x56 x57 x58 x59 x60 x61 x62 x63 x64 x65 x66 x67 x68 x69 x70 x71
      s.violQ x72 x73 x74 x75 x76 x77 x78 x79 x80 x81 x82 x83 x84 s.fuseSvn x85 x86 errQ x87 x88 x89 x90 x91 x92 x93
      x94 x95 x96 x97 x98 x99 x100 x101) :=
  h.trans ⟨rfl, id, he, id, fun h => ⟨h, Nat.le_refl _⟩, id⟩

theorem Kept.updViol {u s : State} {violQ}
    { x0 x1 x2 x3 x4 x5 x6 x7 x8 x9 x10 x11 x12 x13 x14 x15 x16 x17 x18 x19 x20 x21 x22 x23 x24 x25 x26 x27 x28 x29
    x30 x31 x32 x33 x34 x35 x36 x37 x38 x39 x40 x41 x42 x43 x44 x45 x46 x47 x48 x49 x50 x51 x52 x53 x54 x55 x56 x57
    x58 x59 x60 x61 x62 x63 x64 x65 x66 x67 x68 x69 x70 x71 x72 x73 x74 x75 x76 x77 x78 x79 x80 x81 x82 x83 x84 x85
    x86 x87 x88 x89 x90 x91 x92 x93 x94 x95 x96 x97 x98 x99 x100 x101 }
    (hv : s.violQ.length ≤ 8 → violQ.length ≤ 8) (h : Kept u s) : Kept u (.mk
      s.pending s.mem x0 x1 x2 x3 x4 x5 x6 x7 s.roots s.tables s.leafTabs s.subTabs x8 x9 x10 x11 x12 x13 x14 x15 x16
      x17 x18 x19 x20 x21 x22 x23 x24 x25 x26 x27 x28 x29 x30 x31 x32 x33 x34 x35 x36 x37 x38 x39 x40 x41 x42 x43 x44
      x45 x46 x47 x48 x49 x50 x51 x52 x53 x54 x55 x56 x57 x58 x59 x60 x61 x62 x63 x64 x65 x66 x67 x68 x69 x70 x71
      violQ x72 x73 x74 x75 x76 x77 x78 x79 x80 x81 x82 x83 x84 s.fuseSvn x85 x86 s.errQ x87 x88 x89 x90 x91 x92 x93
      x94 x95 x96 x97 x98 x99 x100 x101) :=
  h.trans ⟨rfl, id, id, hv, fun h => ⟨h, Nat.le_refl _⟩, id⟩

theorem Kept.updSvn {u s : State} {fuseSvn}
    { x0 x1 x2 x3 x4 x5 x6 x7 x8 x9 x10 x11 x12 x13 x14 x15 x16 x17 x18 x19 x20 x21 x22 x23 x24 x25 x26 x27 x28 x29
    x30 x31 x32 x33 x34 x35 x36 x37 x38 x39 x40 x41 x42 x43 x44 x45 x46 x47 x48 x49 x50 x51 x52 x53 x54 x55 x56 x57
    x58 x59 x60 x61 x62 x63 x64 x65 x66 x67 x68 x69 x70 x71 x72 x73 x74 x75 x76 x77 x78 x79 x80 x81 x82 x83 x84 x85
    x86 x87 x88 x89 x90 x91 x92 x93 x94 x95 x96 x97 x98 x99 x100 x101 }
    (hf : s.fuseSvn ≤ 64 → fuseSvn ≤ 64 ∧ s.fuseSvn ≤ fuseSvn) (h : Kept u s) : Kept u (.mk
      s.pending s.mem x0 x1 x2 x3 x4 x5 x6 x7 s.roots s.tables s.leafTabs s.subTabs x8 x9 x10 x11 x12 x13 x14 x15 x16
      x17 x18 x19 x20 x21 x22 x23 x24 x25 x26 x27 x28 x29 x30 x31 x32 x33 x34 x35 x36 x37 x38 x39 x40 x41 x42 x43 x44
      x45 x46 x47 x48 x49 x50 x51 x52 x53 x54 x55 x56 x57 x58 x59 x60 x61 x62 x63 x64 x65 x66 x67 x68 x69 x70 x71
      s.violQ x72 x73 x74 x75 x76 x77 x78 x79 x80 x81 x82 x83 x84 fuseSvn x85 x86 s.errQ x87 x88 x89 x90 x91 x92 x93
      x94 x95 x96 x97 x98 x99 x100 x101) :=
  h.trans ⟨rfl, id, id, id, hf, id⟩

/-- An update of the page tables that leaves them apart. -/
theorem Kept.updTables {u s : State} {roots tables leafTabs subTabs}
    { x0 x1 x2 x3 x4 x5 x6 x7 x8 x9 x10 x11 x12 x13 x14 x15 x16 x17 x18 x19 x20 x21 x22 x23 x24 x25 x26 x27 x28 x29
    x30 x31 x32 x33 x34 x35 x36 x37 x38 x39 x40 x41 x42 x43 x44 x45 x46 x47 x48 x49 x50 x51 x52 x53 x54 x55 x56 x57
    x58 x59 x60 x61 x62 x63 x64 x65 x66 x67 x68 x69 x70 x71 x72 x73 x74 x75 x76 x77 x78 x79 x80 x81 x82 x83 x84 x85
    x86 x87 x88 x89 x90 x91 x92 x93 x94 x95 x96 x97 x98 x99 x100 x101 }
    (ht : TablesApart s → TablesFit roots tables leafTabs subTabs) (h : Kept u s) : Kept u (.mk
      s.pending s.mem x0 x1 x2 x3 x4 x5 x6 x7 roots tables leafTabs subTabs x8 x9 x10 x11 x12 x13 x14 x15 x16 x17 x18
      x19 x20 x21 x22 x23 x24 x25 x26 x27 x28 x29 x30 x31 x32 x33 x34 x35 x36 x37 x38 x39 x40 x41 x42 x43 x44 x45 x46
      x47 x48 x49 x50 x51 x52 x53 x54 x55 x56 x57 x58 x59 x60 x61 x62 x63 x64 x65 x66 x67 x68 x69 x70 x71 s.violQ x72
      x73 x74 x75 x76 x77 x78 x79 x80 x81 x82 x83 x84 s.fuseSvn x85 x86 s.errQ x87 x88 x89 x90 x91 x92 x93 x94 x95
      x96 x97 x98 x99 x100 x101) :=
  h.trans ⟨rfl, id, id, id, fun h => ⟨h, Nat.le_refl _⟩, ht⟩

/-- An operation on the page tables alone that leaves them apart. -/
theorem Kept.ofTables {u s t : State} (k : Kept u s)
    (e : t.pending = s.pending ∧ t.mem = s.mem ∧ t.errQ = s.errQ ∧ t.violQ = s.violQ ∧ t.fuseSvn = s.fuseSvn)
    (h : TablesApart s → TablesApart t) : Kept u t := by
  obtain ⟨e1, e2, e3, e4, e5⟩ := e
  refine k.trans ⟨e1, fun a => ?_, fun a => e3 ▸ a, fun a => e4 ▸ a, fun a => ?_, h⟩
  · unfold MemoryCanonical; rw [e2]; exact a
  · unfold SvnShown; rw [e5]; exact ⟨a, Nat.le_refl _⟩

theorem kept_ite {u s t : State} {p : Prop} [Decidable p] (h : Kept u s) (k : Kept u t) : Kept u (if p then s else t) := by
  split <;> assumption

theorem kept_foldl {α : Type} {u s : State} {f : State → α → State} {l : List α} (hf : ∀ s x, Kept u s → Kept u (f s x))
    (h : Kept u s) : Kept u (l.foldl f s) := by
  induction l generalizing s with
  | nil => exact h
  | cons x l ih => exact ih (hf s x h)

theorem vkept_ite {u : State} {v w : VOut} {p : Prop} [Decidable p] (h : VKept u v) (k : VKept u w) :
    VKept u (if p then v else w) := by
  split <;> assumption

theorem kept_foldl_snd {α β : Type} {u : State} {f : β × State → α → β × State} {l : List α} {b : β × State}
    (hf : ∀ b x, Kept u b.2 → Kept u (f b x).2) (h : Kept u b.2) : Kept u (l.foldl f b).2 := by
  induction l generalizing b with
  | nil => exact h
  | cons x l ih => exact ih (hf b x h)

theorem kept_foldl_fst {α β : Type} {u : State} {f : State × β → α → State × β} {l : List α} {b : State × β}
    (hf : ∀ b x, Kept u b.1 → Kept u (f b x).1) (h : Kept u b.1) : Kept u (l.foldl f b).1 := by
  induction l generalizing b with
  | nil => exact h
  | cons x l ih => exact ih (hf b x h)

theorem kept_foldl_snd_eq {α β : Type} {u s : State} {f : β × State → α → β × State} {l : List α} {b : β × State} {y : β}
    (e : l.foldl f b = (y, s)) (hf : ∀ b x, Kept u b.2 → Kept u (f b x).2) (h : Kept u b.2) : Kept u s := by
  have k := kept_foldl_snd (l := l) hf h
  rw [e] at k; exact k

theorem kept_foldl_fst_eq {α β : Type} {u s : State} {f : State × β → α → State × β} {l : List α} {b : State × β} {y : β}
    (e : l.foldl f b = (s, y)) (hf : ∀ b x, Kept u b.1 → Kept u (f b x).1) (h : Kept u b.1) : Kept u s := by
  have k := kept_foldl_fst (l := l) hf h
  rw [e] at k; exact k

theorem OKept.next {u t : State} (h : Kept u t) : OKept u (.next t) := fun _ e => by
  injection e with e; exact e ▸ h

theorem okept_ite {u : State} {v w : Host.Outcome State Fault Refusal} {p : Prop} [Decidable p] (h : OKept u v)
    (k : OKept u w) : OKept u (if p then v else w) := by
  split <;> assumption

theorem VKept.ok {u t : State} (h : Kept u t) : VKept u (.ok t) := h
theorem VKept.jump {u t : State} {n : Nat} (h : Kept u t) : VKept u (.jump t n) := h
theorem VKept.hold {u t : State} (h : Kept u t) : VKept u (.hold t) := h

theorem tkept_ite {u : State} {v w : TOut} {p : Prop} [Decidable p] (h : TKept u v) (k : TKept u w) :
    TKept u (if p then v else w) := by
  split <;> assumption

theorem TKept.done {u t : State} (h : Kept u t) : TKept u (.done t) := h
theorem TKept.begun {u t : State} (h : Kept u t) : TKept u (.begun t) := h

theorem State.mmaCheck_tkept {u s : State} {r : RoomId} {w : Nat} {v : TOut} (e : s.mmaCheck r w = some v) : TKept u v := by
  unfold State.mmaCheck at e
  split at e
  · injection e with e; subst e; trivial
  · split at e
    · injection e with e; subst e; trivial
    · obtain ⟨d, -, rfl⟩ := Option.map_eq_some_iff.1 e; trivial

theorem VKept.encoding {u : State} : VKept u .encoding := True.intro
theorem VKept.bounds {u : State} : VKept u .bounds := True.intro
theorem VKept.bolt {u : State} : VKept u .bolt := True.intro
theorem VKept.mem {u : State} {n : Nat} {d : W64} : VKept u (.mem n d) := True.intro
theorem TKept.encoding {u : State} : TKept u .encoding := True.intro
theorem TKept.bounds {u : State} : TKept u .bounds := True.intro
theorem TKept.poison {u : State} {d : W64} : TKept u (.poison d) := True.intro

theorem kept_findSome {α : Type} {u t : State} {l : List α} {f : α → Option State} (e : l.findSome? f = some t)
    (hf : ∀ p t, f p = some t → Kept u t) : Kept u t := by
  obtain ⟨p, -, h⟩ := List.exists_of_findSome?_eq_some e
  exact hf p t h

theorem kept_getD {u s : State} {o : Option State} (ho : ∀ t, o = some t → Kept u t) (h : Kept u s) : Kept u (o.getD s) := by
  cases o with
  | none => exact h
  | some t => exact ho t rfl

theorem PKept.pure {u s : State} {α : Type} {a : α} (h : Kept u s) : PKept u (pure a : Pm α) s := h
theorem PKept.throw {u s : State} {α : Type} {n : Nat} (h : Kept u s) : PKept u (throw n : Pm α) s := h
theorem PKept.get {u s : State} (h : Kept u s) : PKept u (get : Pm State) s := h
theorem PKept.set {u s t : State} (h : Kept u t) : PKept u (set t : Pm PUnit) s := h
theorem PKept.modify {u s : State} {f : State → State} (h : Kept u (f s)) : PKept u (modify f : Pm PUnit) s := h
theorem PKept.bind {u s : State} {α β : Type} {m : Pm α} {f : α → Pm β} (hm : PKept u m s)
    (hf : ∀ a t, Kept u t → PKept u (f a) t) : PKept u (m >>= f) s := by
  unfold PKept at hm ⊢
  simp only [Bind.bind, EStateM.bind]
  cases h : m s with
  | ok a t => simp only [h] at hm ⊢; exact hf a t hm
  | error e t => simpa only [h] using hm
theorem PKept.getBind {u s : State} {β : Type} {f : State → Pm β} (hf : PKept u (f s) s) : PKept u (MonadState.get >>= f) s := hf
theorem PKept.map {u s : State} {α β : Type} {m : Pm α} {f : α → β} (hm : PKept u m s) : PKept u (f <$> m) s := by
  unfold PKept at hm ⊢
  simp only [Functor.map, EStateM.map]
  cases h : m s <;> simpa only [h] using hm
theorem PKept.forM {u s : State} {α : Type} {l : List α} {f : α → Pm PUnit} (hf : ∀ a t, Kept u t → PKept u (f a) t)
    (h : Kept u s) : PKept u (l.forM f) s := by
  induction l generalizing s with
  | nil => exact h
  | cons x l ih => exact PKept.bind (hf x s h) fun _ t k => ih k
theorem PKept.ite {u s : State} {α : Type} {m n : Pm α} {p : Prop} [Decidable p] (h : PKept u m s) (k : PKept u n s) :
    PKept u (if p then m else n) s := by
  split <;> assumption
theorem PKept.ok {u s t : State} {α : Type} {m : Pm α} {a : α} (e : m s = .ok a t) (h : PKept u m s) : Kept u t := by
  unfold PKept at h; simpa only [e] using h
theorem PKept.error {u s t : State} {α : Type} {m : Pm α} {n : Nat} (e : m s = .error n t) (h : PKept u m s) : Kept u t := by
  unfold PKept at h; simpa only [e] using h

theorem writeBad_vkept {u : State} {h : Header} {a b n : Nat} {v : VOut} (e : writeBad h a b n = some v) : VKept u v := by
  unfold writeBad at e
  repeat' split at e
  all_goals first | contradiction | (injection e with e; subst e; trivial)

theorem State.spaceBad_vkept {u s : State} {r : RoomId} {a b n : Nat} {v : VOut} (e : s.spaceBad r a b n = some v) :
    VKept u v := by
  unfold State.spaceBad at e
  repeat' split at e
  all_goals first | contradiction | (injection e with e; subst e; trivial)

theorem vkept_some_ite {u : State} {p : Prop} [Decidable p] {o : Option VOut} {v : VOut} (ho : ∀ w, o = some w → VKept u w)
    (e : (if p then o else none) = some v) : VKept u v := by
  split at e
  · exact ho v e
  · contradiction

theorem firstBad_vkept {u : State} {l : List Nat} {f : Nat → Option VOut} {v : VOut} (hf : ∀ i w, f i = some w → VKept u w)
    (e : firstBad (l.map f) = some v) : VKept u v := by
  unfold firstBad at e
  obtain ⟨o, ho, rfl⟩ := List.exists_of_findSome?_eq_some e
  obtain ⟨i, -, k⟩ := List.mem_map.1 ho
  exact hf i v k

theorem vkept_bind {u : State} {o : Option Nat} {f : Nat → Option VOut} {v : VOut} (hf : ∀ i w, f i = some w → VKept u w)
    (e : o.bind f = some v) : VKept u v := by
  obtain ⟨i, -, k⟩ := Option.bind_eq_some_iff.1 e
  exact hf i v k

theorem vkept_bounds_ite {u : State} {p : Prop} [Decidable p] {v : VOut} (e : (if p then none else some VOut.bounds) = some v) :
    VKept u v := by
  split at e
  · contradiction
  · injection e with e; subst e; trivial

end Sys2Proof.Machine
end

