-- ==== Sys2Proof/Laws/KeptOps.lean ====
section
/-! SUPPORT. Every operation of Machine/Ops.lean keeps what every command keeps (`Kept`). -/

namespace Sys2Proof.Machine

theorem State.write_kept {u s : State} {a : Nat} {bs : List Byte} (h : Kept u s) : Kept u (State.write s a bs) :=
  Kept.updMem (memWf_memWrites a bs) h

theorem State.markPoison_kept {s₀ s : State} {unit : Nat} (kp : Kept s₀ s) :
    Kept s₀ (State.markPoison s unit) := by
  unfold State.markPoison
  repeat' first
    | (with_reducible first | assumption)
    | dsimp only
    | (with_reducible first | refine Kept.upd ?_)

theorem State.clear_kept {u s : State} {a n : Nat} (h : Kept u s) : Kept u (State.clear s a n) :=
  Kept.updMem (memWf_memClear a n) h

theorem State.copy_kept {u s : State} {src dst n : Nat} (h : Kept u s) : Kept u (State.copy s src dst n) :=
  kept_foldl (fun _ _ h => State.markPoison_kept h)
    (h.trans ⟨rfl, memWf_memCopy src dst n, id, id, fun h => ⟨h, Nat.le_refl _⟩, id⟩)

theorem State.setRoom_kept {s₀ s : State} {r : RoomId} {x : Room} (kp : Kept s₀ s) :
    Kept s₀ (State.setRoom s r x) := by
  unfold State.setRoom
  repeat' first
    | (with_reducible first | assumption)
    | dsimp only
    | (with_reducible first | refine Kept.upd ?_)

theorem State.updRoom_kept {s₀ s : State} {r : RoomId} {f : Room → Room} (kp : Kept s₀ s) :
    Kept s₀ (State.updRoom s r f) := by
  unfold State.updRoom
  repeat' first
    | (with_reducible first | assumption | refine State.setRoom_kept ?_)
    | dsimp only

theorem State.updWing_kept {s₀ s : State} {g : WingId} {f : Wing → Wing} (kp : Kept s₀ s) :
    Kept s₀ (State.updWing s g f) := by
  unfold State.updWing
  repeat' first
    | (with_reducible first | assumption)
    | dsimp only
    | (with_reducible first | refine Kept.upd ?_)

theorem State.updCtx_kept {s₀ s : State} {c : CtxId} {f : Ctx → Ctx} (kp : Kept s₀ s) :
    Kept s₀ (State.updCtx s c f) := by
  unfold State.updCtx
  repeat' first
    | (with_reducible first | assumption)
    | dsimp only
    | (with_reducible first | refine Kept.upd ?_)

theorem State.setBolt_kept {s₀ s : State} {b : BoltId} {x : Bolt} (kp : Kept s₀ s) :
    Kept s₀ (State.setBolt s b x) := by
  unfold State.setBolt
  repeat' first
    | (with_reducible first | assumption)
    | dsimp only
    | (with_reducible first | refine Kept.upd ?_)

theorem State.updPort_kept {s₀ s : State} {p : Nat} {f : Port → Port} (kp : Kept s₀ s) :
    Kept s₀ (State.updPort s p f) := by
  unfold State.updPort
  repeat' first
    | (with_reducible first | assumption)
    | dsimp only
    | (with_reducible first | refine Kept.upd ?_)

theorem State.updLbx_kept {s₀ s : State} {l : Nat} {f : Lbx → Lbx} (kp : Kept s₀ s) :
    Kept s₀ (State.updLbx s l f) := by
  unfold State.updLbx
  repeat' first
    | (with_reducible first | assumption)
    | dsimp only
    | (with_reducible first | refine Kept.upd ?_)

theorem State.setStream_kept {s₀ s : State} {i : StreamId} {x : Stream} (kp : Kept s₀ s) :
    Kept s₀ (State.setStream s i x) := by
  unfold State.setStream
  repeat' first
    | (with_reducible first | assumption)
    | dsimp only
    | (with_reducible first | refine Kept.upd ?_)

theorem State.updStream_kept {s₀ s : State} {i : StreamId} {f : Stream → Stream} (kp : Kept s₀ s) :
    Kept s₀ (State.updStream s i f) := by
  unfold State.updStream
  repeat' first
    | (with_reducible first | assumption | refine State.setStream_kept ?_)
    | split
    | dsimp only
    | (with_reducible first | refine Kept.upd ?_)

theorem State.updService_kept {s₀ s : State} {i : Nat} {f : Service → Service} (kp : Kept s₀ s) :
    Kept s₀ (State.updService s i f) := by
  unfold State.updService
  repeat' first
    | (with_reducible first | assumption)
    | split
    | dsimp only
    | (with_reducible first | refine Kept.upd ?_)

theorem State.updSeq_kept {s₀ s : State} {i : Nat} {f : Seq → Seq} (kp : Kept s₀ s) :
    Kept s₀ (State.updSeq s i f) := by
  unfold State.updSeq
  repeat' first
    | (with_reducible first | assumption)
    | split
    | dsimp only
    | (with_reducible first | refine Kept.upd ?_)

theorem State.updAccess_kept {s₀ s : State} {id : Nat} {f : Access → Access} (kp : Kept s₀ s) :
    Kept s₀ (State.updAccess s id f) := by
  unfold State.updAccess
  repeat' first
    | (with_reducible first | assumption | refine kept_ite ?_ ?_)
    | dsimp only
    | (with_reducible first | refine Kept.upd ?_)

theorem State.updEvr_kept {s₀ s : State} {f : Evr → Evr} (kp : Kept s₀ s) :
    Kept s₀ (State.updEvr s f) := by
  unfold State.updEvr
  repeat' first
    | (with_reducible first | assumption)
    | dsimp only
    | (with_reducible first | refine Kept.upd ?_)

theorem State.updIdent_kept {s₀ s : State} {f : Ident → Ident} (kp : Kept s₀ s) :
    Kept s₀ (State.updIdent s f) := by
  unfold State.updIdent
  repeat' first
    | (with_reducible first | assumption)
    | dsimp only
    | (with_reducible first | refine Kept.upd ?_)

theorem State.updLock_kept {s₀ s : State} {f : KeyLock → KeyLock} (kp : Kept s₀ s) :
    Kept s₀ (State.updLock s f) := by
  unfold State.updLock
  repeat' first
    | (with_reducible first | assumption)
    | dsimp only
    | (with_reducible first | refine Kept.upd ?_)

theorem State.updI3c_kept {s₀ s : State} {f : I3c → I3c} (kp : Kept s₀ s) :
    Kept s₀ (State.updI3c s f) := by
  unfold State.updI3c
  repeat' first
    | (with_reducible first | assumption)
    | dsimp only
    | (with_reducible first | refine Kept.upd ?_)

theorem State.boltAsk_kept {s₀ s : State} {q : BoltReq} (kp : Kept s₀ s) :
    Kept s₀ (State.boltAsk s q) := by
  unfold State.boltAsk
  repeat' first
    | (with_reducible first | assumption)
    | dsimp only
    | (with_reducible first | refine Kept.upd ?_)

theorem State.tick_kept {s₀ s : State}  (kp : Kept s₀ s) :
    Kept s₀ (State.tick s) := by
  unfold State.tick
  repeat' first
    | (with_reducible first | assumption | refine kept_ite ?_ ?_)
    | dsimp only
    | (with_reducible first | refine Kept.upd ?_)

theorem State.bumpFree_kept {s₀ s : State}  (kp : Kept s₀ s) :
    Kept s₀ (State.bumpFree s) := by
  unfold State.bumpFree
  repeat' first
    | (with_reducible first | assumption)
    | dsimp only
    | (with_reducible first | refine Kept.upd ?_)

theorem State.raiseVec_kept {s₀ s : State} {fn vec : Nat} (kp : Kept s₀ s) :
    Kept s₀ (State.raiseVec s fn vec) := by
  unfold State.raiseVec
  repeat' first
    | (with_reducible first | assumption | refine kept_ite ?_ ?_)
    | dsimp only
    | (with_reducible first | refine Kept.upd ?_)

theorem State.answer_kept {s₀ s : State} {l : Nat} {tag : W64} {op : Nat} {c : CtxId} {fin : Bool} {status : Nat} {detail : Nat} {result : List (Nat × Nat × Nat)} (kp : Kept s₀ s) :
    Kept s₀ (State.answer s l tag op c fin status detail result) := by
  unfold State.answer
  repeat' first
    | (with_reducible first | assumption | refine kept_ite ?_ ?_ | refine State.updLbx_kept ?_)
    | dsimp only
    | (with_reducible first | refine Kept.upd ?_)

theorem State.event_kept {s₀ s : State} {l : Nat} {code : Nat} {c : CtxId} {payload : List (Nat × Nat × Nat)} (kp : Kept s₀ s) :
    Kept s₀ (State.event s l code c payload) := by
  unfold State.event
  repeat' first
    | (with_reducible first | assumption | refine kept_ite ?_ ?_ | refine State.updLbx_kept ?_)
    | dsimp only
    | (with_reducible first | refine Kept.upd ?_)

theorem State.ctxEvent_kept {s₀ s : State} {c : CtxId} {code : Nat} {payload : List (Nat × Nat × Nat)} (kp : Kept s₀ s) :
    Kept s₀ (State.ctxEvent s c code payload) := by
  unfold State.ctxEvent
  repeat' first
    | (with_reducible first | assumption | refine State.event_kept ?_)
    | dsimp only

theorem State.devEvent_kept {s₀ s : State} {code : Nat} {payload : List (Nat × Nat × Nat)} (kp : Kept s₀ s) :
    Kept s₀ (State.devEvent s code payload) := by
  unfold State.devEvent
  repeat' first
    | (with_reducible first | assumption | refine State.event_kept ?_)
    | dsimp only

/-- An error merges, takes a free place, or is counted as an overflow (15 R474). -/
theorem State.raise_kept {u s : State} {e : Err} (h : Kept u s) : Kept u (State.raise s e) := by
  have bound (q : List Err) (p : Err) (o : q.length ≤ 16) : (q.dropLast ++ (q.getLast?.toList.map fun t : Err =>
      { t with count := t.count + p.count })).length ≤ 16 := by
    cases hq : q.getLast? with
    | none => simp; omega
    | some x =>
      have : q ≠ [] := by rintro rfl; simp at hq
      have := List.length_pos_iff.2 this
      simp; omega
  unfold State.raise
  extract_lets _ s1 merges
  have k : Kept u s1 := kept_ite (Kept.upd h) h
  clear_value s1 merges
  refine kept_ite (k.trans ⟨rfl, id, bound _ _, id, fun h => ⟨h, Nat.le_refl _⟩, id⟩) ?_
  split
  · rename_i hl
    exact k.trans ⟨rfl, id, fun _ => by simp only [List.length_append, List.length_cons, List.length_nil]; omega, id,
      fun h => ⟨h, Nat.le_refl _⟩, id⟩
  · exact Kept.upd k

theorem State.roomError_kept {s₀ s : State} {r : RoomId} {cls code : Nat} {addr : W64} (kp : Kept s₀ s) :
    Kept s₀ (State.roomError s r cls code addr) := by
  unfold State.roomError
  repeat' first
    | (with_reducible first | assumption | refine State.raise_kept ?_)
    | dsimp only

theorem State.faultRoom_kept {s₀ s : State} {r : RoomId} {cls code : Nat} {bit : Option Nat} {addr : W64} (kp : Kept s₀ s) :
    Kept s₀ (State.faultRoom s r cls code bit addr) := by
  unfold State.faultRoom
  repeat' first
    | (with_reducible first | assumption | refine State.updRoom_kept ?_ | refine State.roomError_kept ?_)
    | split
    | dsimp only
    | (with_reducible first | refine Kept.upd ?_)

theorem State.readTv_kept {s₀ s : State} {t : Tv} {put : Tv → State → State} (hput : ∀ a0 s, Kept s₀ s → Kept s₀ (put a0 s))  (kp : Kept s₀ s) :
    Kept s₀ (State.readTv s t put).1 := by
  unfold State.readTv
  repeat' first
    | (with_reducible first | assumption | refine kept_ite ?_ ?_ | refine State.raise_kept ?_ | apply hput)
    | (with_reducible first | exact PKept.pure kp | refine PKept.pure ?_ | refine PKept.throw ?_)
    | (with_reducible first | refine PKept.modify ?_ | refine PKept.set ?_ | refine PKept.getBind ?_)
    | (with_reducible first | refine PKept.get ?_ | refine PKept.map ?_ | refine PKept.ite ?_ ?_)
    | (with_reducible first | refine PKept.bind ?_ ?_ | refine PKept.forM ?_ ?_ | intro _ _ _)
    | (with_reducible first | refine PKept.ok (by assumption) ?_ | refine PKept.error (by assumption) ?_)
    | (with_reducible first | intro _)
    | split
    | dsimp only
    | (with_reducible first | refine Kept.upd ?_)

theorem State.readTv_kept_eq {s₀ s x₀ : State} {t : Tv} {put : Tv → State → State} {y1}
    (e₀ : State.readTv s t put = (x₀, y1)) (hput : ∀ a0 s, Kept s₀ s → Kept s₀ (put a0 s)) (kp : Kept s₀ s) : Kept s₀ x₀ := by
  have k := @State.readTv_kept s₀ s t put hput kp
  rw [e₀] at k; exact k

end Sys2Proof.Machine
end

