-- ==== Sys2Proof/Laws/KeptSeq.lean ====
section
/-! SUPPORT. Every operation of Machine/Seq.lean keeps what every command keeps (`Kept`). -/

namespace Sys2Proof.Machine

theorem State.checkTensorHead_kept {s₀ s : State} {r : RoomId} (kp : Kept s₀ s) :
    Kept s₀ (State.checkTensorHead s r) := by
  unfold State.checkTensorHead
  repeat' first
    | (with_reducible first | assumption | refine kept_ite ?_ ?_ | refine State.faultRoom_kept ?_)
    | split
    | dsimp only
    | (with_reducible first | refine Kept.upd ?_)

theorem settleGo_kept {u s : State} {r : RoomId} {k : Nat} (h : Kept u s) : Kept u (settleGo r k s) := by
  induction k generalizing s with
  | zero => exact h
  | succ k ih =>
    unfold settleGo
    repeat' first
      | with_reducible assumption
      | with_reducible apply kept_ite
      | with_reducible apply ih
      | with_reducible apply State.updRoom_kept
      | with_reducible apply State.faultRoom_kept
      | split
      | dsimp only

theorem State.settle_kept {s₀ s : State} {r : RoomId} (kp : Kept s₀ s) :
    Kept s₀ (State.settle s r) := by
  unfold State.settle
  repeat' first
    | (with_reducible first | assumption | refine State.checkTensorHead_kept ?_ | refine settleGo_kept ?_)
    | dsimp only

theorem State.startProgram_kept {s₀ s : State} {r : RoomId} (kp : Kept s₀ s) :
    Kept s₀ (State.startProgram s r) := by
  unfold State.startProgram
  repeat' first
    | (with_reducible first | assumption | refine State.updRoom_kept ?_ | refine State.settle_kept ?_)
    | split
    | dsimp only
    | (with_reducible first | refine Kept.upd ?_)

theorem State.dropDone_kept {s₀ s : State} {r : RoomId} (kp : Kept s₀ s) :
    Kept s₀ (State.dropDone s r) := by
  unfold State.dropDone
  repeat' first
    | (with_reducible first | assumption | refine State.updRoom_kept ?_)
    | dsimp only
    | (with_reducible first | refine Kept.upd ?_)

theorem State.goTo_kept {s₀ s : State} {r : RoomId} {pc : Nat} (kp : Kept s₀ s) :
    Kept s₀ (State.goTo s r pc) := by
  unfold State.goTo
  repeat' first
    | (with_reducible first | assumption | refine State.updRoom_kept ?_ | refine State.settle_kept ?_)
    | dsimp only
    | (with_reducible first | refine Kept.upd ?_)

theorem State.vecStep_kept {u s : State} {r : RoomId} {op : Nat} {f : Nat → Firing → State → VOut}
    (hf : ∀ w fi s, Kept u s → VKept u (f w fi s)) (h : Kept u s) : Kept u (s.vecStep r op f) := by
  unfold State.vecStep
  split
  · exact h
  · rename_i w fi _
    have k := hf w fi s h
    repeat' first
      | with_reducible assumption
      | with_reducible apply kept_ite
      | with_reducible apply State.goTo_kept
      | with_reducible apply State.faultRoom_kept
      | (split <;> simp_all only [VKept])

theorem State.spaceWrite_kept {s₀ s : State} {r : RoomId} {set space a : Nat} {bs : List Byte} (kp : Kept s₀ s) :
    Kept s₀ (State.spaceWrite s r set space a bs) := by
  unfold State.spaceWrite
  repeat' first
    | (with_reducible first | assumption | refine kept_ite ?_ ?_ | refine State.write_kept ?_)
    | (with_reducible first | refine State.updRoom_kept ?_)
    | dsimp only
    | (with_reducible first | refine Kept.upd ?_)

end Sys2Proof.Machine
end

