-- ==== Sys2Proof/Laws/KeptVecScalar.lean ====
section
/-! SUPPORT. Every operation of Machine/VecScalar.lean keeps what every command keeps (`Kept`). -/

namespace Sys2Proof.Machine

theorem execEndFire_kept {s : State} {r : RoomId} : OKept s (execEndFire r s) := by
  unfold execEndFire
  have kp := Kept.refl s
  repeat' first
    | (with_reducible first | refine OKept.next ?_ | refine okept_ite ?_ ?_ | assumption | refine kept_ite ?_ ?_)
    | (with_reducible first | refine State.updRoom_kept ?_ | refine State.faultRoom_kept ?_)
    | (with_reducible first | refine State.startProgram_kept ?_ | refine State.dropDone_kept ?_)
    | split
    | dsimp only
    | (with_reducible first | refine Kept.upd ?_)

theorem execVnop_kept {s : State} {r : RoomId} : OKept s (execVnop r s) := by
  unfold execVnop
  have kp := Kept.refl s
  repeat' first
    | (with_reducible first | intro _ _ _ _ | refine OKept.next ?_ | assumption)
    | (with_reducible first | refine State.vecStep_kept ?_ ?_ | refine VKept.ok ?_ | intro _)
    | dsimp only

theorem execVloop_kept {s : State} {r : RoomId} : OKept s (execVloop r s) := by
  unfold execVloop
  refine OKept.next ?_
  refine State.vecStep_kept ?_ (Kept.refl s)
  intro w fi v h
  extract_lets n x
  have k : Kept s x := State.updRoom_kept h
  clear_value n x
  split
  · exact VKept.ok k
  · exact VKept.jump k

theorem execBrZ_kept {s : State} {r : RoomId} : OKept s (execBrZ r s) := by
  unfold execBrZ
  have kp := Kept.refl s
  repeat' first
    | (with_reducible first | intro _ _ _ _ | refine OKept.next ?_ | refine okept_ite ?_ ?_ | assumption)
    | (with_reducible first | refine kept_ite ?_ ?_ | refine State.vecStep_kept ?_ ?_ | refine vkept_ite ?_ ?_)
    | (with_reducible first | refine VKept.ok ?_ | refine VKept.jump ?_ | intro _)
    | dsimp only

theorem execBrNz_kept {s : State} {r : RoomId} : OKept s (execBrNz r s) := by
  unfold execBrNz
  have kp := Kept.refl s
  repeat' first
    | (with_reducible first | intro _ _ _ _ | refine OKept.next ?_ | refine okept_ite ?_ ?_ | assumption)
    | (with_reducible first | refine kept_ite ?_ ?_ | refine State.vecStep_kept ?_ ?_ | refine vkept_ite ?_ ?_)
    | (with_reducible first | refine VKept.ok ?_ | refine VKept.jump ?_ | intro _)
    | dsimp only

theorem execFence_kept {s : State} {r : RoomId} : OKept s (execFence r s) := by
  unfold execFence
  have kp := Kept.refl s
  repeat' first
    | (with_reducible first | intro _ _ _ _ | refine OKept.next ?_ | refine okept_ite ?_ ?_ | assumption)
    | (with_reducible first | refine kept_ite ?_ ?_ | refine State.updRoom_kept ?_)
    | (with_reducible first | refine State.vecStep_kept ?_ ?_ | refine vkept_ite ?_ ?_ | refine VKept.ok ?_)
    | (with_reducible first | refine VKept.hold ?_ | intro _)
    | dsimp only
    | (with_reducible first | refine Kept.upd ?_)

theorem execFenceSatisfied_kept {s : State} {r : RoomId} : OKept s (execFenceSatisfied r s) := by
  unfold execFenceSatisfied
  have kp := Kept.refl s
  repeat' first
    | (with_reducible first | refine OKept.next ?_ | refine okept_ite ?_ ?_ | assumption | refine kept_ite ?_ ?_)
    | (with_reducible first | refine State.updRoom_kept ?_ | refine State.goTo_kept ?_)
    | split
    | dsimp only
    | (with_reducible first | refine Kept.upd ?_)

theorem execVstat_kept {s : State} {r : RoomId} : OKept s (execVstat r s) := by
  unfold execVstat
  have kp := Kept.refl s
  repeat' first
    | (with_reducible first | intro _ _ _ _ | refine OKept.next ?_ | refine okept_ite ?_ ?_ | assumption)
    | (with_reducible first | refine kept_ite ?_ ?_ | refine State.updRoom_kept ?_)
    | (with_reducible first | refine State.vecStep_kept ?_ ?_ | refine State.spaceWrite_kept ?_)
    | (with_reducible first | refine vkept_ite ?_ ?_ | refine VKept.ok ?_ | exact VKept.bounds | intro _)
    | dsimp only
    | (with_reducible first | refine Kept.upd ?_)

theorem scalarOp_vkept {s₀ s : State} {op : Nat → Nat → Nat} {r : RoomId} {w : Nat} (kp : Kept s₀ s) :
    VKept s₀ (scalarOp op r w s) := by
  unfold scalarOp
  repeat' first
    | (with_reducible first | assumption | refine kept_ite ?_ ?_ | refine State.updRoom_kept ?_)
    | (with_reducible first | refine vkept_ite ?_ ?_ | refine VKept.ok ?_ | intro _)
    | dsimp only

theorem execSmov_kept {s : State} {r : RoomId} : OKept s (execSmov r s) := by
  unfold execSmov
  have kp := Kept.refl s
  repeat' first
    | (with_reducible first | intro _ _ _ _ | refine OKept.next ?_ | assumption | refine State.updRoom_kept ?_)
    | (with_reducible first | refine State.vecStep_kept ?_ ?_ | refine VKept.ok ?_ | intro _)
    | dsimp only

theorem execSadd_kept {s : State} {r : RoomId} : OKept s (execSadd r s) := by
  unfold execSadd
  have kp := Kept.refl s
  repeat' first
    | (with_reducible first | intro _ _ _ _ | refine OKept.next ?_ | assumption)
    | (with_reducible first | refine State.vecStep_kept ?_ ?_ | refine scalarOp_vkept ?_ | intro _)
    | dsimp only

theorem execSsub_kept {s : State} {r : RoomId} : OKept s (execSsub r s) := by
  unfold execSsub
  have kp := Kept.refl s
  repeat' first
    | (with_reducible first | intro _ _ _ _ | refine OKept.next ?_ | assumption)
    | (with_reducible first | refine State.vecStep_kept ?_ ?_ | refine scalarOp_vkept ?_ | intro _)
    | dsimp only

theorem execSshl_kept {s : State} {r : RoomId} : OKept s (execSshl r s) := by
  unfold execSshl
  have kp := Kept.refl s
  repeat' first
    | (with_reducible first | intro _ _ _ _ | refine OKept.next ?_ | assumption)
    | (with_reducible first | refine State.vecStep_kept ?_ ?_ | refine scalarOp_vkept ?_ | intro _)
    | dsimp only

theorem execSand_kept {s : State} {r : RoomId} : OKept s (execSand r s) := by
  unfold execSand
  have kp := Kept.refl s
  repeat' first
    | (with_reducible first | intro _ _ _ _ | refine OKept.next ?_ | assumption)
    | (with_reducible first | refine State.vecStep_kept ?_ ?_ | refine scalarOp_vkept ?_ | intro _)
    | dsimp only

theorem execSext_kept {s : State} {r : RoomId} : OKept s (execSext r s) := by
  unfold execSext
  have kp := Kept.refl s
  repeat' first
    | (with_reducible first | intro _ _ _ _ | refine OKept.next ?_ | assumption | refine State.updRoom_kept ?_)
    | (with_reducible first | refine State.vecStep_kept ?_ ?_ | refine VKept.ok ?_ | intro _)
    | dsimp only

theorem execSld_kept {s : State} {r : RoomId} : OKept s (execSld r s) := by
  unfold execSld
  have kp := Kept.refl s
  repeat' first
    | (with_reducible first | intro _ _ _ _ | refine OKept.next ?_ | refine okept_ite ?_ ?_ | assumption)
    | (with_reducible first | refine kept_ite ?_ ?_ | refine State.updRoom_kept ?_)
    | (with_reducible first | refine State.vecStep_kept ?_ ?_ | refine vkept_ite ?_ ?_ | refine VKept.ok ?_)
    | (with_reducible first | exact VKept.bounds)
    | exact State.spaceBad_vkept (by assumption)
    | exact vkept_some_ite (fun _ => State.spaceBad_vkept) (by assumption)
    | (with_reducible first | intro _)
    | split
    | dsimp only
    | (with_reducible first | refine Kept.upd ?_)

theorem execVeRunaway_kept {s : State} {r : RoomId} : OKept s (execVeRunaway r s) := by
  unfold execVeRunaway
  have kp := Kept.refl s
  repeat' first
    | (with_reducible first | refine OKept.next ?_ | refine okept_ite ?_ ?_ | assumption | refine kept_ite ?_ ?_)
    | (with_reducible first | refine State.faultRoom_kept ?_)
    | dsimp only

end Sys2Proof.Machine
end

