-- ==== Sys2Proof/Laws/KeptVecFp.lean ====
section
/-! SUPPORT. Every operation of Machine/VecFp.lean keeps what every command keeps (`Kept`). -/

namespace Sys2Proof.Machine

theorem lanewise_vkept {s₀ s : State} {r : RoomId} {w : Nat} {f : Room → Nat → LaneRes} (kp : Kept s₀ s) :
    VKept s₀ (lanewise r w f s) := by
  unfold lanewise
  repeat' first
    | (with_reducible first | assumption | refine kept_ite ?_ ?_ | refine State.updRoom_kept ?_)
    | (with_reducible first | refine vkept_ite ?_ ?_ | refine VKept.ok ?_ | intro _)
    | dsimp only

theorem lanewise64_vkept {s₀ s : State} {r : RoomId} {w : Nat} {f : Room → Nat → LaneRes} (kp : Kept s₀ s) :
    VKept s₀ (lanewise64 r w f s) := by
  unfold lanewise64
  repeat' first
    | (with_reducible first | assumption | refine kept_ite ?_ ?_ | refine State.updRoom_kept ?_)
    | (with_reducible first | refine vkept_ite ?_ ?_ | refine VKept.ok ?_ | intro _)
    | dsimp only

theorem fp1_vkept {s₀ s : State} {r : RoomId} {g : Nat → Nat} {w : Nat} (kp : Kept s₀ s) :
    VKept s₀ (fp1 r g w s) := by
  unfold fp1
  repeat' first
    | (with_reducible first | assumption | refine lanewise_vkept ?_ | intro _)
    | dsimp only

theorem fp2_vkept {s₀ s : State} {r : RoomId} {g : Nat → Nat → Nat} {w : Nat} (kp : Kept s₀ s) :
    VKept s₀ (fp2 r g w s) := by
  unfold fp2
  repeat' first
    | (with_reducible first | assumption | refine lanewise_vkept ?_ | intro _)
    | dsimp only

theorem fd1_vkept {s₀ s : State} {r : RoomId} {g : Nat → Nat} {w : Nat} (kp : Kept s₀ s) :
    VKept s₀ (fd1 r g w s) := by
  unfold fd1
  repeat' first
    | (with_reducible first | assumption | refine lanewise64_vkept ?_ | intro _)
    | dsimp only

theorem fd2_vkept {s₀ s : State} {r : RoomId} {g : Nat → Nat → Nat} {w : Nat} (kp : Kept s₀ s) :
    VKept s₀ (fd2 r g w s) := by
  unfold fd2
  repeat' first
    | (with_reducible first | assumption | refine lanewise64_vkept ?_ | intro _)
    | dsimp only

theorem compareLanes_vkept {s₀ s : State} {r : RoomId} {w : Nat} {p : Room → Nat → Bool} (kp : Kept s₀ s) :
    VKept s₀ (compareLanes r w p s) := by
  unfold compareLanes
  repeat' first
    | (with_reducible first | assumption | refine kept_ite ?_ ?_ | refine State.updRoom_kept ?_)
    | (with_reducible first | refine vkept_ite ?_ ?_ | refine VKept.ok ?_ | intro _)
    | dsimp only

theorem execVadd_kept {s : State} {r : RoomId} : OKept s (execVadd r s) := by
  unfold execVadd
  have kp := Kept.refl s
  repeat' first
    | (with_reducible first | intro _ _ _ _ | refine OKept.next ?_ | assumption)
    | (with_reducible first | refine State.vecStep_kept ?_ ?_ | refine fp2_vkept ?_ | intro _)
    | dsimp only

theorem execVsub_kept {s : State} {r : RoomId} : OKept s (execVsub r s) := by
  unfold execVsub
  have kp := Kept.refl s
  repeat' first
    | (with_reducible first | intro _ _ _ _ | refine OKept.next ?_ | assumption)
    | (with_reducible first | refine State.vecStep_kept ?_ ?_ | refine fp2_vkept ?_ | intro _)
    | dsimp only

theorem execVmul_kept {s : State} {r : RoomId} : OKept s (execVmul r s) := by
  unfold execVmul
  have kp := Kept.refl s
  repeat' first
    | (with_reducible first | intro _ _ _ _ | refine OKept.next ?_ | assumption)
    | (with_reducible first | refine State.vecStep_kept ?_ ?_ | refine fp2_vkept ?_ | intro _)
    | dsimp only

theorem execVfma_kept {s : State} {r : RoomId} : OKept s (execVfma r s) := by
  unfold execVfma
  have kp := Kept.refl s
  repeat' first
    | (with_reducible first | intro _ _ _ _ | refine OKept.next ?_ | assumption)
    | (with_reducible first | refine State.vecStep_kept ?_ ?_ | refine lanewise_vkept ?_ | intro _)
    | dsimp only

theorem execVmin_kept {s : State} {r : RoomId} : OKept s (execVmin r s) := by
  unfold execVmin
  have kp := Kept.refl s
  repeat' first
    | (with_reducible first | intro _ _ _ _ | refine OKept.next ?_ | assumption)
    | (with_reducible first | refine State.vecStep_kept ?_ ?_ | refine fp2_vkept ?_ | intro _)
    | dsimp only

theorem execVmax_kept {s : State} {r : RoomId} : OKept s (execVmax r s) := by
  unfold execVmax
  have kp := Kept.refl s
  repeat' first
    | (with_reducible first | intro _ _ _ _ | refine OKept.next ?_ | assumption)
    | (with_reducible first | refine State.vecStep_kept ?_ ?_ | refine fp2_vkept ?_ | intro _)
    | dsimp only

theorem execVabs_kept {s : State} {r : RoomId} : OKept s (execVabs r s) := by
  unfold execVabs
  have kp := Kept.refl s
  repeat' first
    | (with_reducible first | intro _ _ _ _ | refine OKept.next ?_ | assumption)
    | (with_reducible first | refine State.vecStep_kept ?_ ?_ | refine fp1_vkept ?_ | intro _)
    | dsimp only

theorem execVneg_kept {s : State} {r : RoomId} : OKept s (execVneg r s) := by
  unfold execVneg
  have kp := Kept.refl s
  repeat' first
    | (with_reducible first | intro _ _ _ _ | refine OKept.next ?_ | assumption)
    | (with_reducible first | refine State.vecStep_kept ?_ ?_ | refine fp1_vkept ?_ | intro _)
    | dsimp only

theorem execVcmp_kept {s : State} {r : RoomId} : OKept s (execVcmp r s) := by
  unfold execVcmp
  have kp := Kept.refl s
  repeat' first
    | (with_reducible first | intro _ _ _ _ | refine OKept.next ?_ | assumption)
    | (with_reducible first | refine State.vecStep_kept ?_ ?_ | refine compareLanes_vkept ?_ | intro _)
    | dsimp only

theorem execVsel_kept {s : State} {r : RoomId} : OKept s (execVsel r s) := by
  unfold execVsel
  have kp := Kept.refl s
  repeat' first
    | (with_reducible first | intro _ _ _ _ | refine OKept.next ?_ | refine okept_ite ?_ ?_ | assumption)
    | (with_reducible first | refine kept_ite ?_ ?_ | refine State.updRoom_kept ?_)
    | (with_reducible first | refine State.vecStep_kept ?_ ?_ | refine vkept_ite ?_ ?_ | refine VKept.ok ?_)
    | (with_reducible first | intro _)
    | dsimp only

theorem execVdiv_kept {s : State} {r : RoomId} : OKept s (execVdiv r s) := by
  unfold execVdiv
  have kp := Kept.refl s
  repeat' first
    | (with_reducible first | intro _ _ _ _ | refine OKept.next ?_ | assumption)
    | (with_reducible first | refine State.vecStep_kept ?_ ?_ | refine fp2_vkept ?_ | intro _)
    | dsimp only

theorem execVsqrt_kept {s : State} {r : RoomId} : OKept s (execVsqrt r s) := by
  unfold execVsqrt
  have kp := Kept.refl s
  repeat' first
    | (with_reducible first | intro _ _ _ _ | refine OKept.next ?_ | assumption)
    | (with_reducible first | refine State.vecStep_kept ?_ ?_ | refine fp1_vkept ?_ | intro _)
    | dsimp only

theorem execVsfu0_kept {s : State} {r : RoomId} : OKept s (execVsfu0 r s) := by
  unfold execVsfu0
  have kp := Kept.refl s
  repeat' first
    | (with_reducible first | intro _ _ _ _ | refine OKept.next ?_ | assumption)
    | (with_reducible first | refine State.vecStep_kept ?_ ?_ | refine fp1_vkept ?_ | intro _)
    | dsimp only

theorem execVsfu1_kept {s : State} {r : RoomId} : OKept s (execVsfu1 r s) := by
  unfold execVsfu1
  have kp := Kept.refl s
  repeat' first
    | (with_reducible first | intro _ _ _ _ | refine OKept.next ?_ | assumption)
    | (with_reducible first | refine State.vecStep_kept ?_ ?_ | refine fp1_vkept ?_ | intro _)
    | dsimp only

theorem execVcvt_kept {s : State} {r : RoomId} : OKept s (execVcvt r s) := by
  unfold execVcvt
  have kp := Kept.refl s
  repeat' first
    | (with_reducible first | intro _ _ _ _ | refine OKept.next ?_ | refine okept_ite ?_ ?_ | assumption)
    | (with_reducible first | refine kept_ite ?_ ?_ | refine State.updRoom_kept ?_)
    | (with_reducible first | refine State.vecStep_kept ?_ ?_ | refine lanewise_vkept ?_)
    | (with_reducible first | refine vkept_ite ?_ ?_ | refine VKept.ok ?_ | intro _)
    | dsimp only

theorem execVbcast_kept {s : State} {r : RoomId} : OKept s (execVbcast r s) := by
  unfold execVbcast
  have kp := Kept.refl s
  repeat' first
    | (with_reducible first | intro _ _ _ _ | refine OKept.next ?_ | refine okept_ite ?_ ?_ | assumption)
    | (with_reducible first | refine kept_ite ?_ ?_ | refine State.vecStep_kept ?_ ?_ | refine lanewise_vkept ?_)
    | (with_reducible first | refine vkept_ite ?_ ?_ | intro _)
    | dsimp only

theorem execDadd_kept {s : State} {r : RoomId} : OKept s (execDadd r s) := by
  unfold execDadd
  have kp := Kept.refl s
  repeat' first
    | (with_reducible first | intro _ _ _ _ | refine OKept.next ?_ | assumption)
    | (with_reducible first | refine State.vecStep_kept ?_ ?_ | refine fd2_vkept ?_ | intro _)
    | dsimp only

theorem execDsub_kept {s : State} {r : RoomId} : OKept s (execDsub r s) := by
  unfold execDsub
  have kp := Kept.refl s
  repeat' first
    | (with_reducible first | intro _ _ _ _ | refine OKept.next ?_ | assumption)
    | (with_reducible first | refine State.vecStep_kept ?_ ?_ | refine fd2_vkept ?_ | intro _)
    | dsimp only

theorem execDmul_kept {s : State} {r : RoomId} : OKept s (execDmul r s) := by
  unfold execDmul
  have kp := Kept.refl s
  repeat' first
    | (with_reducible first | intro _ _ _ _ | refine OKept.next ?_ | assumption)
    | (with_reducible first | refine State.vecStep_kept ?_ ?_ | refine fd2_vkept ?_ | intro _)
    | dsimp only

theorem execDfma_kept {s : State} {r : RoomId} : OKept s (execDfma r s) := by
  unfold execDfma
  have kp := Kept.refl s
  repeat' first
    | (with_reducible first | intro _ _ _ _ | refine OKept.next ?_ | assumption)
    | (with_reducible first | refine State.vecStep_kept ?_ ?_ | refine lanewise64_vkept ?_ | intro _)
    | dsimp only

theorem execDmin_kept {s : State} {r : RoomId} : OKept s (execDmin r s) := by
  unfold execDmin
  have kp := Kept.refl s
  repeat' first
    | (with_reducible first | intro _ _ _ _ | refine OKept.next ?_ | assumption)
    | (with_reducible first | refine State.vecStep_kept ?_ ?_ | refine fd2_vkept ?_ | intro _)
    | dsimp only

theorem execDmax_kept {s : State} {r : RoomId} : OKept s (execDmax r s) := by
  unfold execDmax
  have kp := Kept.refl s
  repeat' first
    | (with_reducible first | intro _ _ _ _ | refine OKept.next ?_ | assumption)
    | (with_reducible first | refine State.vecStep_kept ?_ ?_ | refine fd2_vkept ?_ | intro _)
    | dsimp only

theorem execDcmp_kept {s : State} {r : RoomId} : OKept s (execDcmp r s) := by
  unfold execDcmp
  have kp := Kept.refl s
  repeat' first
    | (with_reducible first | intro _ _ _ _ | refine OKept.next ?_ | assumption)
    | (with_reducible first | refine State.vecStep_kept ?_ ?_ | refine compareLanes_vkept ?_ | intro _)
    | dsimp only

theorem execDdiv_kept {s : State} {r : RoomId} : OKept s (execDdiv r s) := by
  unfold execDdiv
  have kp := Kept.refl s
  repeat' first
    | (with_reducible first | intro _ _ _ _ | refine OKept.next ?_ | assumption)
    | (with_reducible first | refine State.vecStep_kept ?_ ?_ | refine fd2_vkept ?_ | intro _)
    | dsimp only

theorem execDsqrt_kept {s : State} {r : RoomId} : OKept s (execDsqrt r s) := by
  unfold execDsqrt
  have kp := Kept.refl s
  repeat' first
    | (with_reducible first | intro _ _ _ _ | refine OKept.next ?_ | assumption)
    | (with_reducible first | refine State.vecStep_kept ?_ ?_ | refine fd1_vkept ?_ | intro _)
    | dsimp only

theorem execDexp_kept {s : State} {r : RoomId} : OKept s (execDexp r s) := by
  unfold execDexp
  have kp := Kept.refl s
  repeat' first
    | (with_reducible first | intro _ _ _ _ | refine OKept.next ?_ | assumption)
    | (with_reducible first | refine State.vecStep_kept ?_ ?_ | refine fd1_vkept ?_ | intro _)
    | dsimp only

theorem execDln_kept {s : State} {r : RoomId} : OKept s (execDln r s) := by
  unfold execDln
  have kp := Kept.refl s
  repeat' first
    | (with_reducible first | intro _ _ _ _ | refine OKept.next ?_ | assumption)
    | (with_reducible first | refine State.vecStep_kept ?_ ?_ | refine fd1_vkept ?_ | intro _)
    | dsimp only

theorem execDcvt_kept {s : State} {r : RoomId} : OKept s (execDcvt r s) := by
  unfold execDcvt
  have kp := Kept.refl s
  repeat' first
    | (with_reducible first | intro _ _ _ _ | refine OKept.next ?_ | refine okept_ite ?_ ?_ | assumption)
    | (with_reducible first | refine kept_ite ?_ ?_ | refine State.vecStep_kept ?_ ?_ | refine lanewise_vkept ?_)
    | (with_reducible first | refine lanewise64_vkept ?_ | refine vkept_ite ?_ ?_ | intro _)
    | split
    | dsimp only

end Sys2Proof.Machine
end

