-- ==== Sys2Proof/Laws/KeptVecInt.lean ====
section
/-! SUPPORT. Every operation of Machine/VecInt.lean keeps what every command keeps (`Kept`). -/

namespace Sys2Proof.Machine

theorem int2_vkept {s₀ s : State} {r : RoomId} {g : Nat → Nat → Nat} {w : Nat} (kp : Kept s₀ s) :
    VKept s₀ (int2 r g w s) := by
  unfold int2
  repeat' first
    | (with_reducible first | assumption | refine lanewise_vkept ?_ | intro _)
    | dsimp only

theorem execIadd_kept {s : State} {r : RoomId} : OKept s (execIadd r s) := by
  unfold execIadd
  have kp := Kept.refl s
  repeat' first
    | (with_reducible first | intro _ _ _ _ | refine OKept.next ?_ | assumption)
    | (with_reducible first | refine State.vecStep_kept ?_ ?_ | refine int2_vkept ?_ | intro _)
    | dsimp only

theorem execIsub_kept {s : State} {r : RoomId} : OKept s (execIsub r s) := by
  unfold execIsub
  have kp := Kept.refl s
  repeat' first
    | (with_reducible first | intro _ _ _ _ | refine OKept.next ?_ | assumption)
    | (with_reducible first | refine State.vecStep_kept ?_ ?_ | refine int2_vkept ?_ | intro _)
    | dsimp only

theorem execImul_kept {s : State} {r : RoomId} : OKept s (execImul r s) := by
  unfold execImul
  have kp := Kept.refl s
  repeat' first
    | (with_reducible first | intro _ _ _ _ | refine OKept.next ?_ | assumption)
    | (with_reducible first | refine State.vecStep_kept ?_ ?_ | refine int2_vkept ?_ | intro _)
    | dsimp only

theorem execIadds_kept {s : State} {r : RoomId} : OKept s (execIadds r s) := by
  unfold execIadds
  have kp := Kept.refl s
  repeat' first
    | (with_reducible first | intro _ _ _ _ | refine OKept.next ?_ | assumption)
    | (with_reducible first | refine State.vecStep_kept ?_ ?_ | refine lanewise_vkept ?_ | intro _)
    | split
    | dsimp only

theorem execImin_kept {s : State} {r : RoomId} : OKept s (execImin r s) := by
  unfold execImin
  have kp := Kept.refl s
  repeat' first
    | (with_reducible first | intro _ _ _ _ | refine OKept.next ?_ | refine okept_ite ?_ ?_ | assumption)
    | (with_reducible first | refine kept_ite ?_ ?_ | refine State.vecStep_kept ?_ ?_ | refine int2_vkept ?_)
    | (with_reducible first | refine vkept_ite ?_ ?_ | intro _)
    | dsimp only

theorem execImax_kept {s : State} {r : RoomId} : OKept s (execImax r s) := by
  unfold execImax
  have kp := Kept.refl s
  repeat' first
    | (with_reducible first | intro _ _ _ _ | refine OKept.next ?_ | refine okept_ite ?_ ?_ | assumption)
    | (with_reducible first | refine kept_ite ?_ ?_ | refine State.vecStep_kept ?_ ?_ | refine int2_vkept ?_)
    | (with_reducible first | refine vkept_ite ?_ ?_ | intro _)
    | dsimp only

theorem execIand_kept {s : State} {r : RoomId} : OKept s (execIand r s) := by
  unfold execIand
  have kp := Kept.refl s
  repeat' first
    | (with_reducible first | intro _ _ _ _ | refine OKept.next ?_ | assumption)
    | (with_reducible first | refine State.vecStep_kept ?_ ?_ | refine int2_vkept ?_ | intro _)
    | dsimp only

theorem execIor_kept {s : State} {r : RoomId} : OKept s (execIor r s) := by
  unfold execIor
  have kp := Kept.refl s
  repeat' first
    | (with_reducible first | intro _ _ _ _ | refine OKept.next ?_ | assumption)
    | (with_reducible first | refine State.vecStep_kept ?_ ?_ | refine int2_vkept ?_ | intro _)
    | dsimp only

theorem execIxor_kept {s : State} {r : RoomId} : OKept s (execIxor r s) := by
  unfold execIxor
  have kp := Kept.refl s
  repeat' first
    | (with_reducible first | intro _ _ _ _ | refine OKept.next ?_ | assumption)
    | (with_reducible first | refine State.vecStep_kept ?_ ?_ | refine int2_vkept ?_ | intro _)
    | dsimp only

theorem execShl_kept {s : State} {r : RoomId} : OKept s (execShl r s) := by
  unfold execShl
  have kp := Kept.refl s
  repeat' first
    | (with_reducible first | intro _ _ _ _ | refine OKept.next ?_ | refine okept_ite ?_ ?_ | assumption)
    | (with_reducible first | refine kept_ite ?_ ?_ | refine State.vecStep_kept ?_ ?_ | refine int2_vkept ?_)
    | (with_reducible first | refine vkept_ite ?_ ?_ | intro _)
    | dsimp only

theorem execShr_kept {s : State} {r : RoomId} : OKept s (execShr r s) := by
  unfold execShr
  have kp := Kept.refl s
  repeat' first
    | (with_reducible first | intro _ _ _ _ | refine OKept.next ?_ | assumption)
    | (with_reducible first | refine State.vecStep_kept ?_ ?_ | refine int2_vkept ?_ | intro _)
    | dsimp only

theorem execIcmp_kept {s : State} {r : RoomId} : OKept s (execIcmp r s) := by
  unfold execIcmp
  have kp := Kept.refl s
  repeat' first
    | (with_reducible first | intro _ _ _ _ | refine OKept.next ?_ | assumption)
    | (with_reducible first | refine State.vecStep_kept ?_ ?_ | refine compareLanes_vkept ?_ | intro _)
    | dsimp only

theorem execVadd128_kept {s : State} {r : RoomId} : OKept s (execVadd128 r s) := by
  unfold execVadd128
  have kp := Kept.refl s
  repeat' first
    | (with_reducible first | intro _ _ _ _ | refine OKept.next ?_ | assumption | refine State.updRoom_kept ?_)
    | (with_reducible first | refine State.vecStep_kept ?_ ?_ | refine VKept.ok ?_ | intro _)
    | dsimp only

theorem execViota_kept {s : State} {r : RoomId} : OKept s (execViota r s) := by
  unfold execViota
  have kp := Kept.refl s
  repeat' first
    | (with_reducible first | intro _ _ _ _ | refine OKept.next ?_ | assumption)
    | (with_reducible first | refine State.vecStep_kept ?_ ?_ | refine lanewise_vkept ?_ | intro _)
    | dsimp only

theorem execPmov_kept {s : State} {r : RoomId} : OKept s (execPmov r s) := by
  unfold execPmov
  have kp := Kept.refl s
  repeat' first
    | (with_reducible first | intro _ _ _ _ | refine OKept.next ?_ | assumption | refine State.updRoom_kept ?_)
    | (with_reducible first | refine State.vecStep_kept ?_ ?_ | refine VKept.ok ?_ | intro _)
    | split
    | dsimp only
    | (with_reducible first | refine Kept.upd ?_)

theorem execVred_kept {s : State} {r : RoomId} : OKept s (execVred r s) := by
  unfold execVred
  have kp := Kept.refl s
  repeat' first
    | (with_reducible first | intro _ _ _ _ | refine OKept.next ?_ | refine okept_ite ?_ ?_ | assumption)
    | (with_reducible first | refine kept_ite ?_ ?_ | refine State.updRoom_kept ?_)
    | (with_reducible first | refine State.vecStep_kept ?_ ?_ | refine vkept_ite ?_ ?_ | refine VKept.ok ?_)
    | (with_reducible first | intro _)
    | split
    | dsimp only
    | (with_reducible first | refine Kept.upd ?_)

theorem execVscan_kept {s : State} {r : RoomId} : OKept s (execVscan r s) := by
  unfold execVscan
  have kp := Kept.refl s
  repeat' first
    | (with_reducible first | intro _ _ _ _ | refine OKept.next ?_ | assumption | refine State.updRoom_kept ?_)
    | (with_reducible first | refine State.vecStep_kept ?_ ?_ | refine VKept.ok ?_ | intro _)
    | dsimp only

theorem execVcompress_kept {s : State} {r : RoomId} : OKept s (execVcompress r s) := by
  unfold execVcompress
  have kp := Kept.refl s
  repeat' first
    | (with_reducible first | intro _ _ _ _ | refine OKept.next ?_ | refine okept_ite ?_ ?_ | assumption)
    | (with_reducible first | refine kept_ite ?_ ?_ | refine State.updRoom_kept ?_)
    | (with_reducible first | refine State.vecStep_kept ?_ ?_ | refine State.spaceWrite_kept ?_)
    | (with_reducible first | refine vkept_ite ?_ ?_ | refine VKept.ok ?_ | exact VKept.encoding)
    | (with_reducible first | exact VKept.bounds)
    | exact writeBad_vkept (by assumption)
    | exact vkept_some_ite (fun _ => writeBad_vkept) (by assumption)
    | (with_reducible first | intro _)
    | split
    | dsimp only
    | (with_reducible first | refine Kept.upd ?_)

theorem execVexpand_kept {s : State} {r : RoomId} : OKept s (execVexpand r s) := by
  unfold execVexpand
  have kp := Kept.refl s
  repeat' first
    | (with_reducible first | intro _ _ _ _ | refine OKept.next ?_ | assumption)
    | (with_reducible first | refine State.vecStep_kept ?_ ?_ | refine lanewise_vkept ?_ | intro _)
    | dsimp only

theorem execVperm_kept {s : State} {r : RoomId} : OKept s (execVperm r s) := by
  unfold execVperm
  have kp := Kept.refl s
  repeat' first
    | (with_reducible first | intro _ _ _ _ | refine OKept.next ?_ | assumption)
    | (with_reducible first | refine State.vecStep_kept ?_ ?_ | refine lanewise_vkept ?_ | intro _)
    | dsimp only

end Sys2Proof.Machine
end

