-- ==== Sys2Proof/Laws/KeptVecMem.lean ====
section
/-! SUPPORT. Every operation of Machine/VecMem.lean keeps what every command keeps (`Kept`). -/

namespace Sys2Proof.Machine

theorem execVld_kept {s : State} {r : RoomId} : OKept s (execVld r s) := by
  unfold execVld
  have kp := Kept.refl s
  repeat' first
    | (with_reducible first | intro _ _ _ _ | refine OKept.next ?_ | refine okept_ite ?_ ?_ | assumption)
    | (with_reducible first | refine kept_ite ?_ ?_ | refine State.updRoom_kept ?_)
    | (with_reducible first | refine State.vecStep_kept ?_ ?_ | refine vkept_ite ?_ ?_ | refine VKept.ok ?_)
    | (with_reducible first | exact VKept.bounds | exact VKept.mem)
    | exact State.spaceBad_vkept (by assumption)
    | exact vkept_some_ite (fun _ => State.spaceBad_vkept) (by assumption)
    | (with_reducible first | intro _)
    | split
    | dsimp only
    | (with_reducible first | refine Kept.upd ?_)

theorem State.spaceWriteSome_kept {s₀ s : State} {r : RoomId} {set space a : Nat} {bs : List (Option Byte)} (kp : Kept s₀ s) :
    Kept s₀ (State.spaceWriteSome s r set space a bs) := by
  unfold State.spaceWriteSome
  repeat' first
    | (with_reducible first | assumption | refine kept_foldl ?_ ?_ | intro _ _ _ | intro _)
    | (with_reducible first | refine State.spaceWrite_kept ?_)
    | dsimp only

theorem State.storeBlock_kept {s₀ s : State} {r : RoomId} {set w b : Nat} {x : Room} (kp : Kept s₀ s) :
    Kept s₀ (State.storeBlock s r set w b x) := by
  unfold State.storeBlock
  repeat' first
    | (with_reducible first | assumption | refine kept_ite ?_ ?_ | refine State.updRoom_kept ?_)
    | (with_reducible first | refine State.spaceWrite_kept ?_)
    | split
    | dsimp only

theorem execVst_kept {s : State} {r : RoomId} : OKept s (execVst r s) := by
  unfold execVst
  have kp := Kept.refl s
  repeat' first
    | (with_reducible first | intro _ _ _ _ | refine OKept.next ?_ | refine okept_ite ?_ ?_ | assumption)
    | (with_reducible first | refine kept_ite ?_ ?_ | refine State.updRoom_kept ?_)
    | (with_reducible first | refine State.vecStep_kept ?_ ?_ | refine State.spaceWriteSome_kept ?_)
    | (with_reducible first | refine State.storeBlock_kept ?_ | refine vkept_ite ?_ ?_ | refine VKept.ok ?_)
    | (with_reducible first | exact VKept.encoding | exact VKept.bounds)
    | exact writeBad_vkept (by assumption)
    | exact vkept_some_ite (fun _ => writeBad_vkept) (by assumption)
    | (with_reducible first | intro _)
    | split
    | dsimp only
    | (with_reducible first | refine Kept.upd ?_)

theorem execVgather_kept {s : State} {r : RoomId} : OKept s (execVgather r s) := by
  unfold execVgather
  have kp := Kept.refl s
  repeat' first
    | (with_reducible first | intro _ _ _ _ | refine OKept.next ?_ | refine okept_ite ?_ ?_ | assumption)
    | (with_reducible first | refine kept_ite ?_ ?_ | refine State.updRoom_kept ?_)
    | (with_reducible first | refine State.vecStep_kept ?_ ?_ | refine vkept_ite ?_ ?_ | refine VKept.ok ?_)
    | exact State.spaceBad_vkept (by assumption)
    | exact vkept_some_ite (fun _ => State.spaceBad_vkept) (by assumption)
    | exact firstBad_vkept (fun _ _ => State.spaceBad_vkept) (by assumption)
    | exact firstBad_vkept (fun _ _ => vkept_bounds_ite) (by assumption)
    | exact firstBad_vkept (fun _ _ => vkept_bind fun _ _ => State.spaceBad_vkept) (by assumption)
    | (with_reducible first | intro _)
    | split
    | dsimp only
    | (with_reducible first | refine Kept.upd ?_)

theorem execVscatter_kept {s : State} {r : RoomId} : OKept s (execVscatter r s) := by
  unfold execVscatter
  have kp := Kept.refl s
  repeat' first
    | (with_reducible first | intro _ _ _ _ | refine OKept.next ?_ | refine okept_ite ?_ ?_ | assumption)
    | (with_reducible first | refine kept_ite ?_ ?_ | refine kept_foldl ?_ ?_ | refine kept_foldl_snd ?_ ?_)
    | (with_reducible first | refine kept_foldl_fst ?_ ?_ | refine kept_foldl_snd_eq (by assumption) ?_ ?_)
    | (with_reducible first | refine kept_foldl_fst_eq (by assumption) ?_ ?_ | intro _ _ _ | intro _)
    | (with_reducible first | refine State.updRoom_kept ?_ | refine State.vecStep_kept ?_ ?_)
    | (with_reducible first | refine State.spaceWrite_kept ?_ | refine vkept_ite ?_ ?_ | refine VKept.ok ?_)
    | (with_reducible first | exact VKept.encoding)
    | exact writeBad_vkept (by assumption)
    | exact vkept_some_ite (fun _ => writeBad_vkept) (by assumption)
    | exact firstBad_vkept (fun _ _ => writeBad_vkept) (by assumption)
    | exact firstBad_vkept (fun _ _ => vkept_bounds_ite) (by assumption)
    | exact firstBad_vkept (fun _ _ => vkept_bind fun _ _ => writeBad_vkept) (by assumption)
    | split
    | dsimp only
    | (with_reducible first | refine Kept.upd ?_)

theorem putEntry_vkept {s₀ s : State} {r : RoomId} {a kind : Nat} {bs : List Byte} {fi : Firing} (kp : Kept s₀ s) :
    VKept s₀ (putEntry r a kind bs fi s) := by
  unfold putEntry
  repeat' first
    | (with_reducible first | assumption | refine kept_ite ?_ ?_ | refine State.write_kept ?_)
    | (with_reducible first | refine State.updRoom_kept ?_ | refine vkept_ite ?_ ?_ | refine VKept.ok ?_)
    | (with_reducible first | exact VKept.bounds)
    | exact writeBad_vkept (by assumption)
    | exact vkept_some_ite (fun _ => writeBad_vkept) (by assumption)
    | (with_reducible first | intro _)
    | split
    | dsimp only
    | (with_reducible first | refine Kept.upd ?_)

theorem execVtoken_kept {s : State} {r : RoomId} : OKept s (execVtoken r s) := by
  unfold execVtoken
  have kp := Kept.refl s
  repeat' first
    | (with_reducible first | intro _ _ _ _ | refine OKept.next ?_ | assumption)
    | (with_reducible first | refine State.vecStep_kept ?_ ?_ | refine putEntry_vkept ?_ | intro _)
    | dsimp only

theorem execVendm_kept {s : State} {r : RoomId} : OKept s (execVendm r s) := by
  unfold execVendm
  have kp := Kept.refl s
  repeat' first
    | (with_reducible first | intro _ _ _ _ | refine OKept.next ?_ | assumption)
    | (with_reducible first | refine State.vecStep_kept ?_ ?_ | refine putEntry_vkept ?_ | intro _)
    | dsimp only

theorem moveRows_vkept {u s : State} {r : RoomId} {w set : Nat} {h : Header} {src dst : Nat → Option Nat} {l : List Nat}
    {n : Nat} (k : Kept u s) : VKept u (moveRows r w set h src dst l n s) := by
  induction l generalizing n s with
  | nil => exact State.updRoom_kept k
  | cons t ts ih =>
    unfold moveRows
    dsimp only
    split
    · split
      · exact State.spaceBad_vkept (by assumption)
      · exact writeBad_vkept (by assumption)
      · exact ih (State.spaceWrite_kept k)
    · exact ih k

theorem execTrowg_kept {s : State} {r : RoomId} : OKept s (execTrowg r s) := by
  unfold execTrowg
  have kp := Kept.refl s
  repeat' first
    | (with_reducible first | intro _ _ _ _ | refine OKept.next ?_ | refine okept_ite ?_ ?_ | assumption)
    | (with_reducible first | refine kept_ite ?_ ?_ | refine State.vecStep_kept ?_ ?_ | refine moveRows_vkept ?_)
    | (with_reducible first | refine vkept_ite ?_ ?_ | exact VKept.encoding | intro _)
    | dsimp only

theorem execTrows_kept {s : State} {r : RoomId} : OKept s (execTrows r s) := by
  unfold execTrows
  have kp := Kept.refl s
  repeat' first
    | (with_reducible first | intro _ _ _ _ | refine OKept.next ?_ | refine okept_ite ?_ ?_ | assumption)
    | (with_reducible first | refine kept_ite ?_ ?_ | refine State.vecStep_kept ?_ ?_ | refine moveRows_vkept ?_)
    | (with_reducible first | refine vkept_ite ?_ ?_ | exact VKept.encoding | intro _)
    | dsimp only

end Sys2Proof.Machine
end

