-- ==== Sys2Proof/Laws/KeptVecTile.lean ====
section
/-! SUPPORT. Every operation of Machine/VecTile.lean keeps what every command keeps (`Kept`). -/

namespace Sys2Proof.Machine

theorem tileRows_kept {u s : State} {r : RoomId} {w set : Nat} {l : List Nat} (k : Kept u s) :
    Kept u (tileRows r w set l s) := by
  induction l generalizing s with
  | nil => exact k
  | cons t ts ih => exact ih (State.updRoom_kept (State.spaceWrite_kept k))

theorem State.tileBad_vkept {u s : State} {r : RoomId} {w : Nat} {v : VOut} (e : s.tileBad r w = some v) : VKept u v := by
  exact firstBad_vkept (fun _ _ => State.spaceBad_vkept) e

theorem execTileop_kept {s : State} {r : RoomId} : OKept s (execTileop r s) := by
  unfold execTileop
  have kp := Kept.refl s
  repeat' first
    | (with_reducible first | intro _ _ _ _ | refine OKept.next ?_ | refine okept_ite ?_ ?_ | assumption)
    | (with_reducible first | refine kept_ite ?_ ?_ | refine State.vecStep_kept ?_ ?_ | refine tileRows_kept ?_)
    | (with_reducible first | refine vkept_ite ?_ ?_ | refine VKept.ok ?_ | exact VKept.encoding)
    | exact writeBad_vkept (by assumption)
    | exact vkept_some_ite (fun _ => writeBad_vkept) (by assumption)
    | exact State.tileBad_vkept (by assumption)
    | exact firstBad_vkept (fun _ _ => writeBad_vkept) (by assumption)
    | exact firstBad_vkept (fun _ _ => vkept_bounds_ite) (by assumption)
    | exact firstBad_vkept (fun _ _ => vkept_bind fun _ _ => writeBad_vkept) (by assumption)
    | (with_reducible first | intro _)
    | split
    | dsimp only
    | (with_reducible first | refine Kept.upd ?_)

theorem execTilered_kept {s : State} {r : RoomId} : OKept s (execTilered r s) := by
  unfold execTilered
  have kp := Kept.refl s
  repeat' first
    | (with_reducible first | intro _ _ _ _ | refine OKept.next ?_ | refine okept_ite ?_ ?_ | assumption)
    | (with_reducible first | refine kept_ite ?_ ?_ | refine kept_foldl ?_ ?_ | intro _ _ _ | intro _)
    | (with_reducible first | refine State.updRoom_kept ?_ | refine State.vecStep_kept ?_ ?_)
    | (with_reducible first | refine vkept_ite ?_ ?_ | refine VKept.ok ?_)
    | exact State.tileBad_vkept (by assumption)
    | split
    | dsimp only
    | (with_reducible first | refine Kept.upd ?_)

theorem execVtopk_kept {s : State} {r : RoomId} : OKept s (execVtopk r s) := by
  unfold execVtopk
  have kp := Kept.refl s
  repeat' first
    | (with_reducible first | intro _ _ _ _ | refine OKept.next ?_ | refine okept_ite ?_ ?_ | assumption)
    | (with_reducible first | refine kept_ite ?_ ?_ | refine State.updRoom_kept ?_)
    | (with_reducible first | refine State.vecStep_kept ?_ ?_ | refine vkept_ite ?_ ?_ | refine VKept.ok ?_)
    | exact State.tileBad_vkept (by assumption)
    | (with_reducible first | intro _)
    | split
    | dsimp only
    | (with_reducible first | refine Kept.upd ?_)

theorem execVhist_kept {s : State} {r : RoomId} : OKept s (execVhist r s) := by
  unfold execVhist
  have kp := Kept.refl s
  repeat' first
    | (with_reducible first | intro _ _ _ _ | refine OKept.next ?_ | refine okept_ite ?_ ?_ | assumption)
    | (with_reducible first | refine kept_ite ?_ ?_ | refine kept_foldl ?_ ?_ | intro _ _ _ | intro _)
    | (with_reducible first | refine State.updRoom_kept ?_ | refine State.vecStep_kept ?_ ?_)
    | (with_reducible first | refine vkept_ite ?_ ?_ | refine VKept.ok ?_)
    | dsimp only

theorem execVpermidx_kept {s : State} {r : RoomId} : OKept s (execVpermidx r s) := by
  unfold execVpermidx
  have kp := Kept.refl s
  repeat' first
    | (with_reducible first | intro _ _ _ _ | refine OKept.next ?_ | refine okept_ite ?_ ?_ | assumption)
    | (with_reducible first | refine kept_ite ?_ ?_ | refine kept_foldl ?_ ?_ | intro _ _ _ | intro _)
    | (with_reducible first | refine State.updRoom_kept ?_ | refine State.vecStep_kept ?_ ?_)
    | (with_reducible first | refine vkept_ite ?_ ?_ | refine VKept.ok ?_)
    | dsimp only

theorem execVexpmax_kept {s : State} {r : RoomId} : OKept s (execVexpmax r s) := by
  unfold execVexpmax
  have kp := Kept.refl s
  repeat' first
    | (with_reducible first | intro _ _ _ _ | refine OKept.next ?_ | refine okept_ite ?_ ?_ | assumption)
    | (with_reducible first | refine kept_ite ?_ ?_ | refine kept_foldl ?_ ?_ | intro _ _ _ | intro _)
    | (with_reducible first | refine State.updRoom_kept ?_ | refine State.vecStep_kept ?_ ?_)
    | (with_reducible first | refine vkept_ite ?_ ?_ | refine VKept.ok ?_)
    | dsimp only

theorem execVslice_kept {s : State} {r : RoomId} : OKept s (execVslice r s) := by
  unfold execVslice
  have kp := Kept.refl s
  repeat' first
    | (with_reducible first | intro _ _ _ _ | refine OKept.next ?_ | refine okept_ite ?_ ?_ | assumption)
    | (with_reducible first | refine kept_ite ?_ ?_ | refine kept_foldl ?_ ?_ | refine kept_foldl_snd ?_ ?_)
    | (with_reducible first | refine kept_foldl_fst ?_ ?_ | refine kept_foldl_snd_eq (by assumption) ?_ ?_)
    | (with_reducible first | refine kept_foldl_fst_eq (by assumption) ?_ ?_ | intro _ _ _ | intro _)
    | (with_reducible first | refine State.updRoom_kept ?_ | refine State.vecStep_kept ?_ ?_)
    | (with_reducible first | refine State.spaceWrite_kept ?_ | refine vkept_ite ?_ ?_ | refine VKept.ok ?_)
    | (with_reducible first | exact VKept.bounds)
    | exact firstBad_vkept (fun _ _ => vkept_bounds_ite) (by assumption)
    | split
    | dsimp only
    | (with_reducible first | refine Kept.upd ?_)

end Sys2Proof.Machine
end

