-- ==== Sys2Proof/Laws/KeptQueue.lean ====
section
/-! SUPPORT. Every operation of Machine/Queue.lean keeps what every command keeps (`Kept`). -/

namespace Sys2Proof.Machine

theorem State.updPortIn_kept {s₀ s : State} {r : RoomId} {p : PortId} {f : InPort → InPort} (kp : Kept s₀ s) :
    Kept s₀ (State.updPortIn s r p f) := by
  unfold State.updPortIn
  repeat' first
    | (with_reducible first | assumption | refine State.updRoom_kept ?_)
    | dsimp only

theorem State.checkHeads_kept {s₀ s : State} {r : RoomId} (kp : Kept s₀ s) :
    Kept s₀ (State.checkHeads s r) := by
  unfold State.checkHeads
  repeat' first
    | (with_reducible first | assumption | refine kept_ite ?_ ?_ | refine State.faultRoom_kept ?_)
    | split
    | dsimp only
    | (with_reducible first | refine Kept.upd ?_)

theorem State.arriveAt_kept {s₀ s : State} {r : RoomId} {p : PortId} {e : Entry} (kp : Kept s₀ s) :
    Kept s₀ (State.arriveAt s r p e) := by
  unfold State.arriveAt
  repeat' first
    | (with_reducible first | assumption | refine kept_ite ?_ ?_ | refine State.write_kept ?_)
    | (with_reducible first | refine State.updRoom_kept ?_ | refine State.faultRoom_kept ?_)
    | (with_reducible first | refine State.updPortIn_kept ?_ | refine State.checkHeads_kept ?_)
    | dsimp only
    | (with_reducible first | refine Kept.upd ?_)

theorem execSpillMoveBack_kept {s : State} {r : RoomId} : OKept s (execSpillMoveBack r s) := by
  unfold execSpillMoveBack
  have kp := Kept.refl s
  repeat' first
    | (with_reducible first | refine OKept.next ?_ | refine okept_ite ?_ ?_ | assumption | refine kept_ite ?_ ?_)
    | (with_reducible first | refine State.updRoom_kept ?_)
    | split
    | dsimp only
    | (with_reducible first | refine Kept.upd ?_)

theorem execSpilledEntryVisible_kept {s : State} {r : RoomId} {p : PortId} : OKept s (execSpilledEntryVisible r p s) := by
  unfold execSpilledEntryVisible
  have kp := Kept.refl s
  repeat' first
    | (with_reducible first | refine OKept.next ?_ | refine okept_ite ?_ ?_ | assumption | refine kept_ite ?_ ?_)
    | (with_reducible first | refine State.faultRoom_kept ?_ | refine State.updPortIn_kept ?_)
    | (with_reducible first | refine State.checkHeads_kept ?_)
    | split
    | dsimp only
    | (with_reducible first | refine Kept.upd ?_)

theorem execOutputSend_kept {s : State} {r : RoomId} {o : Bool} : OKept s (execOutputSend r o s) := by
  unfold execOutputSend
  have kp := Kept.refl s
  repeat' first
    | (with_reducible first | refine OKept.next ?_ | refine okept_ite ?_ ?_ | assumption | refine kept_ite ?_ ?_)
    | (with_reducible first | refine kept_foldl ?_ ?_ | intro _ _ _ | intro _ | refine State.updRoom_kept ?_)
    | (with_reducible first | refine State.dropDone_kept ?_ | refine State.updPortIn_kept ?_)
    | split
    | dsimp only
    | (with_reducible first | refine Kept.upd ?_)

theorem execCreditReturn_kept {s : State} {r : RoomId} {p : PortId} {prod : RoomId} {o : Bool} : OKept s (execCreditReturn r p prod o s) := by
  unfold execCreditReturn
  have kp := Kept.refl s
  repeat' first
    | (with_reducible first | refine OKept.next ?_ | refine okept_ite ?_ ?_ | assumption | refine kept_ite ?_ ?_)
    | (with_reducible first | refine State.updPortIn_kept ?_)
    | dsimp only
    | (with_reducible first | refine Kept.upd ?_)

theorem State.takeEntries_kept {s₀ s : State} {r : RoomId} {p n : Nat} (kp : Kept s₀ s) :
    Kept s₀ (State.takeEntries s r p n).2 := by
  unfold State.takeEntries
  repeat' first
    | (with_reducible first | assumption | refine kept_foldl ?_ ?_ | intro _ _ _ | intro _)
    | (with_reducible first | refine State.updPortIn_kept ?_)
    | split
    | dsimp only
    | (with_reducible first | refine Kept.upd ?_)

theorem State.takeEntries_kept_eq {s₀ s x₀ : State} {r : RoomId} {p n : Nat} {y0}
    (e₀ : State.takeEntries s r p n = (y0, x₀)) (kp : Kept s₀ s) : Kept s₀ x₀ := by
  have k := @State.takeEntries_kept s₀ s r p n  kp
  rw [e₀] at k; exact k

theorem State.tokenActed_kept {s₀ s : State} {r : RoomId} {h : Header} {u : Nat} (kp : Kept s₀ s) :
    Kept s₀ (State.tokenActed s r h u) := by
  unfold State.tokenActed
  repeat' first
    | (with_reducible first | assumption | refine kept_ite ?_ ?_ | refine State.updRoom_kept ?_)
    | (with_reducible first | refine State.takeEntries_kept ?_)
    | (with_reducible first | refine State.takeEntries_kept_eq (by assumption) ?_)
    | dsimp only
    | (with_reducible first | refine Kept.upd ?_)

theorem execRouteForward_kept {s : State} {r : RoomId} {u : Bool} : OKept s (execRouteForward r u s) := by
  unfold execRouteForward
  have kp := Kept.refl s
  repeat' first
    | (with_reducible first | refine OKept.next ?_ | refine okept_ite ?_ ?_ | assumption | refine kept_ite ?_ ?_)
    | (with_reducible first | refine State.updRoom_kept ?_ | refine State.checkHeads_kept ?_)
    | (with_reducible first | refine State.takeEntries_kept ?_)
    | (with_reducible first | refine State.takeEntries_kept_eq (by assumption) ?_)
    | (with_reducible first | refine State.tokenActed_kept ?_)
    | split
    | dsimp only
    | (with_reducible first | refine Kept.upd ?_)

theorem execGateDiscard_kept {s : State} {r : RoomId} {u : Bool} : OKept s (execGateDiscard r u s) := by
  unfold execGateDiscard
  have kp := Kept.refl s
  repeat' first
    | (with_reducible first | refine OKept.next ?_ | refine okept_ite ?_ ?_ | assumption | refine kept_ite ?_ ?_)
    | (with_reducible first | refine State.updRoom_kept ?_ | refine State.checkHeads_kept ?_)
    | (with_reducible first | refine State.takeEntries_kept ?_)
    | (with_reducible first | refine State.takeEntries_kept_eq (by assumption) ?_)
    | (with_reducible first | refine State.tokenActed_kept ?_)
    | split
    | dsimp only
    | (with_reducible first | refine Kept.upd ?_)

theorem execFiringConditionsMet_kept {s : State} {r : RoomId} : OKept s (execFiringConditionsMet r s) := by
  unfold execFiringConditionsMet
  have kp := Kept.refl s
  repeat' first
    | (with_reducible first | refine OKept.next ?_ | refine okept_ite ?_ ?_ | assumption | refine kept_ite ?_ ?_)
    | (with_reducible first | refine State.updRoom_kept ?_ | refine State.checkHeads_kept ?_)
    | dsimp only
    | (with_reducible first | refine Kept.upd ?_)

theorem State.stageEntries_kept {s₀ s : State} {r : RoomId} {set a : Nat} {es : List Entry} (kp : Kept s₀ s) :
    Kept s₀ (State.stageEntries s r set a es) := by
  unfold State.stageEntries
  repeat' first
    | (with_reducible first | assumption | refine kept_foldl ?_ ?_ | intro _ _ _ | intro _)
    | (with_reducible first | refine State.write_kept ?_)
    | dsimp only

theorem State.consumeParcels_kept {s₀ s : State} {r : RoomId} {set : Nat} (kp : Kept s₀ s) :
    Kept s₀ (State.consumeParcels s r set) := by
  unfold State.consumeParcels
  repeat' first
    | (with_reducible first | assumption | refine kept_ite ?_ ?_ | refine kept_foldl ?_ ?_ | intro _ _ _)
    | (with_reducible first | intro _ | refine State.takeEntries_kept ?_)
    | (with_reducible first | refine State.takeEntries_kept_eq (by assumption) ?_)
    | (with_reducible first | refine State.tokenActed_kept ?_ | refine State.stageEntries_kept ?_)
    | split
    | dsimp only
    | (with_reducible first | refine Kept.upd ?_)

theorem execFiringIssue_kept {s : State} {r : RoomId} : OKept s (execFiringIssue r s) := by
  unfold execFiringIssue
  have kp := Kept.refl s
  repeat' first
    | (with_reducible first | refine OKept.next ?_ | refine okept_ite ?_ ?_ | assumption | refine kept_ite ?_ ?_)
    | (with_reducible first | refine State.clear_kept ?_ | refine State.updRoom_kept ?_)
    | (with_reducible first | refine State.startProgram_kept ?_ | refine State.checkHeads_kept ?_)
    | (with_reducible first | refine State.consumeParcels_kept ?_)
    | dsimp only
    | (with_reducible first | refine Kept.upd ?_)

theorem execQueueEntryArrival_kept {s : State} {r : RoomId} {p : PortId} {src : RoomId} {out : Bool} : OKept s (execQueueEntryArrival r p src out s) := by
  unfold execQueueEntryArrival
  have kp := Kept.refl s
  repeat' first
    | (with_reducible first | refine OKept.next ?_ | refine okept_ite ?_ ?_ | assumption | refine kept_ite ?_ ?_)
    | (with_reducible first | refine State.updPortIn_kept ?_ | refine State.arriveAt_kept ?_)
    | split
    | dsimp only
    | (with_reducible first | refine Kept.upd ?_)

theorem execStallReport_kept {s : State} {r : RoomId} : OKept s (execStallReport r s) := by
  unfold execStallReport
  have kp := Kept.refl s
  repeat' first
    | (with_reducible first | refine OKept.next ?_ | refine okept_ite ?_ ?_ | assumption | refine kept_ite ?_ ?_)
    | (with_reducible first | refine State.updRoom_kept ?_ | refine State.updCtx_kept ?_)
    | split
    | dsimp only
    | (with_reducible first | refine Kept.upd ?_)

theorem State.haltRooms_kept {s₀ s : State} {c : CtxId} (kp : Kept s₀ s) :
    Kept s₀ (State.haltRooms s c) := by
  unfold State.haltRooms
  repeat' first
    | (with_reducible first | assumption | refine kept_foldl ?_ ?_ | intro _ _ _ | intro _)
    | (with_reducible first | refine State.updRoom_kept ?_)
    | dsimp only
    | (with_reducible first | refine Kept.upd ?_)

theorem State.stallEvent_kept {s₀ s : State} {c : CtxId} {cls : Nat} {reps first : List (BitVec 128)} (kp : Kept s₀ s) :
    Kept s₀ (State.stallEvent s c cls reps first) := by
  unfold State.stallEvent
  repeat' first
    | (with_reducible first | assumption | refine State.ctxEvent_kept ?_)
    | dsimp only

theorem execStallClassify_kept {s : State} {c : CtxId} : OKept s (execStallClassify c s) := by
  unfold execStallClassify
  have kp := Kept.refl s
  repeat' first
    | (with_reducible first | refine OKept.next ?_ | refine okept_ite ?_ ?_ | assumption | refine kept_ite ?_ ?_)
    | (with_reducible first | refine kept_foldl ?_ ?_ | intro _ _ _ | intro _ | refine State.updCtx_kept ?_)
    | (with_reducible first | refine State.raise_kept ?_ | refine State.haltRooms_kept ?_)
    | (with_reducible first | refine State.stallEvent_kept ?_)
    | dsimp only
    | (with_reducible first | refine Kept.upd ?_)

theorem execHangLimitReached_kept {s : State} {r : RoomId} : OKept s (execHangLimitReached r s) := by
  unfold execHangLimitReached
  have kp := Kept.refl s
  repeat' first
    | (with_reducible first | refine OKept.next ?_ | refine okept_ite ?_ ?_ | assumption | refine kept_ite ?_ ?_)
    | (with_reducible first | refine State.raise_kept ?_ | refine State.haltRooms_kept ?_)
    | (with_reducible first | refine State.stallEvent_kept ?_)
    | split
    | dsimp only
    | (with_reducible first | refine Kept.upd ?_)

end Sys2Proof.Machine
end

