-- ==== Sys2Proof/Laws/KeptSlot.lean ====
section
/-! SUPPORT. Every operation of Machine/Slot.lean keeps what every command keeps (`Kept`). -/

namespace Sys2Proof.Machine

theorem execEndTrigger_kept {s : State} {r : RoomId} : OKept s (execEndTrigger r s) := by
  unfold execEndTrigger
  have kp := Kept.refl s
  repeat' first
    | (with_reducible first | refine OKept.next ?_ | refine okept_ite ?_ ?_ | assumption | refine kept_ite ?_ ?_)
    | (with_reducible first | refine kept_foldl ?_ ?_ | refine kept_foldl_snd ?_ ?_)
    | (with_reducible first | refine kept_foldl_fst ?_ ?_ | refine kept_foldl_snd_eq (by assumption) ?_ ?_)
    | (with_reducible first | refine kept_foldl_fst_eq (by assumption) ?_ ?_ | intro _ _ _ | intro _)
    | (with_reducible first | refine State.updRoom_kept ?_ | refine State.checkHeads_kept ?_)
    | (with_reducible first | refine State.takeEntries_kept ?_)
    | (with_reducible first | refine State.takeEntries_kept_eq (by assumption) ?_)
    | dsimp only
    | (with_reducible first | refine Kept.upd ?_)

theorem State.checkTarget_kept {s₀ s : State} {r : RoomId} {target : SlotId} (kp : Kept s₀ s) :
    Kept s₀ (State.checkTarget s r target) := by
  unfold State.checkTarget
  repeat' first
    | (with_reducible first | assumption | refine kept_ite ?_ ?_ | refine State.updRoom_kept ?_)
    | (with_reducible first | refine State.updCtx_kept ?_ | refine State.faultRoom_kept ?_)
    | split
    | dsimp only
    | (with_reducible first | refine Kept.upd ?_)

theorem execSlotRetire_kept {s : State} {r : RoomId} : OKept s (execSlotRetire r s) := by
  unfold execSlotRetire
  have kp := Kept.refl s
  repeat' first
    | (with_reducible first | refine OKept.next ?_ | refine okept_ite ?_ ?_ | assumption | refine kept_ite ?_ ?_)
    | (with_reducible first | refine State.updRoom_kept ?_ | refine State.checkTarget_kept ?_)
    | dsimp only
    | (with_reducible first | refine Kept.upd ?_)

theorem execLoadWaitResume_kept {s : State} {r : RoomId} : OKept s (execLoadWaitResume r s) := by
  unfold execLoadWaitResume
  have kp := Kept.refl s
  repeat' first
    | (with_reducible first | refine OKept.next ?_ | refine okept_ite ?_ ?_ | assumption | refine kept_ite ?_ ?_)
    | (with_reducible first | refine State.updRoom_kept ?_ | refine State.faultRoom_kept ?_)
    | split
    | dsimp only
    | (with_reducible first | refine Kept.upd ?_)

theorem State.registerTrigger_kept {s₀ s : State} {r : RoomId} (kp : Kept s₀ s) :
    Kept s₀ (State.registerTrigger s r) := by
  unfold State.registerTrigger
  repeat' first
    | (with_reducible first | assumption | refine kept_ite ?_ ?_ | refine State.updRoom_kept ?_)
    | (with_reducible first | refine State.boltAsk_kept ?_ | refine State.faultRoom_kept ?_)
    | split
    | dsimp only
    | (with_reducible first | refine Kept.upd ?_)

theorem execSwitchComplete_kept {s : State} {r : RoomId} : OKept s (execSwitchComplete r s) := by
  unfold execSwitchComplete
  have kp := Kept.refl s
  repeat' first
    | (with_reducible first | refine OKept.next ?_ | refine okept_ite ?_ ?_ | assumption | refine kept_ite ?_ ?_)
    | (with_reducible first | refine State.updRoom_kept ?_ | refine State.checkHeads_kept ?_)
    | (with_reducible first | refine State.registerTrigger_kept ?_)
    | split
    | dsimp only
    | (with_reducible first | refine Kept.upd ?_)

theorem State.resume_kept {s₀ s : State} {r : RoomId} (kp : Kept s₀ s) :
    Kept s₀ (State.resume s r) := by
  unfold State.resume
  repeat' first
    | (with_reducible first | assumption | refine kept_ite ?_ ?_ | refine State.updRoom_kept ?_)
    | (with_reducible first | refine State.checkHeads_kept ?_)
    | dsimp only
    | (with_reducible first | refine Kept.upd ?_)

theorem State.ctrlWrite_kept {s₀ s : State} {r : RoomId} {v : Nat} (kp : Kept s₀ s) :
    Kept s₀ (State.ctrlWrite s r v) := by
  unfold State.ctrlWrite
  repeat' first
    | (with_reducible first | assumption | refine kept_ite ?_ ?_ | refine State.updRoom_kept ?_)
    | (with_reducible first | refine State.checkTarget_kept ?_ | refine State.resume_kept ?_)
    | dsimp only
    | (with_reducible first | refine Kept.upd ?_)

theorem execCfbCtrlHalt_kept {s : State} {r : RoomId} : OKept s (execCfbCtrlHalt r s) := by
  unfold execCfbCtrlHalt
  have kp := Kept.refl s
  repeat' first
    | (with_reducible first | refine OKept.next ?_ | assumption | refine State.updRoom_kept ?_)
    | dsimp only
    | (with_reducible first | refine Kept.upd ?_)

theorem execHaltEffect_kept {s : State} {r : RoomId} : OKept s (execHaltEffect r s) := by
  unfold execHaltEffect
  have kp := Kept.refl s
  repeat' first
    | (with_reducible first | refine OKept.next ?_ | refine okept_ite ?_ ?_ | assumption | refine kept_ite ?_ ?_)
    | (with_reducible first | refine State.updRoom_kept ?_)
    | dsimp only
    | (with_reducible first | refine Kept.upd ?_)

theorem execCfbCtrlResume_kept {s : State} {r : RoomId} : OKept s (execCfbCtrlResume r s) := by
  unfold execCfbCtrlResume
  have kp := Kept.refl s
  repeat' first
    | (with_reducible first | refine OKept.next ?_ | assumption | refine State.resume_kept ?_)
    | dsimp only

theorem execCfbCtrlStart_kept {s : State} {r : RoomId} {target : SlotId} : OKept s (execCfbCtrlStart r target s) := by
  unfold execCfbCtrlStart
  have kp := Kept.refl s
  repeat' first
    | (with_reducible first | refine OKept.next ?_ | assumption | refine State.ctrlWrite_kept ?_)
    | dsimp only

theorem execCfbCtrlForce_kept {s : State} {r : RoomId} : OKept s (execCfbCtrlForce r s) := by
  unfold execCfbCtrlForce
  have kp := Kept.refl s
  repeat' first
    | (with_reducible first | refine OKept.next ?_ | refine okept_ite ?_ ?_ | assumption | refine kept_ite ?_ ?_)
    | (with_reducible first | refine State.updRoom_kept ?_)
    | dsimp only
    | (with_reducible first | refine Kept.upd ?_)

theorem execCfbPortprofWrite_kept {s : State} {r : RoomId} {p : PortId} {v : W64} : OKept s (execCfbPortprofWrite r p v s) := by
  unfold execCfbPortprofWrite
  have kp := Kept.refl s
  repeat' first
    | (with_reducible first | refine OKept.next ?_ | refine okept_ite ?_ ?_ | assumption | refine kept_ite ?_ ?_)
    | (with_reducible first | refine State.updRoom_kept ?_ | refine State.updPortIn_kept ?_)
    | dsimp only
    | (with_reducible first | refine Kept.upd ?_)

theorem State.slotUnitWrite_kept {s₀ s : State} {r : RoomId} {slot : SlotId} {a : Nat} {bs : List Byte} (kp : Kept s₀ s) :
    Kept s₀ (State.slotUnitWrite s r slot a bs) := by
  unfold State.slotUnitWrite
  repeat' first
    | (with_reducible first | assumption | refine kept_ite ?_ ?_ | refine State.write_kept ?_)
    | (with_reducible first | refine State.updRoom_kept ?_)
    | split
    | dsimp only
    | (with_reducible first | refine Kept.upd ?_)

theorem execSlotImageWrite_kept {s : State} {r : RoomId} {slot : SlotId} {unit : BitVec 10} {data : W512} : OKept s (execSlotImageWrite r slot unit data s) := by
  unfold execSlotImageWrite
  have kp := Kept.refl s
  repeat' first
    | (with_reducible first | refine OKept.next ?_ | assumption | refine State.slotUnitWrite_kept ?_)
    | dsimp only

theorem State.requestLoad_kept {s₀ s : State} {g : WingId} {q : LoadReq} (kp : Kept s₀ s) :
    Kept s₀ (State.requestLoad s g q) := by
  unfold State.requestLoad
  repeat' first
    | (with_reducible first | assumption | refine kept_ite ?_ ?_ | refine State.updWing_kept ?_)
    | (with_reducible first | refine State.answer_kept ?_)
    | split
    | dsimp only
    | (with_reducible first | refine Kept.upd ?_)

theorem execLoadRequest_kept {s : State} {w : WingId} {loff : BitVec 24} {slot : SlotId} {mask : W16} : OKept s (execLoadRequest w loff slot mask s) := by
  unfold execLoadRequest
  have kp := Kept.refl s
  repeat' first
    | (with_reducible first | refine OKept.next ?_ | assumption | refine State.requestLoad_kept ?_)
    | dsimp only

theorem State.loaderTake_kept_eq {s₀ s x₀ : State} {w : WingId} {y0 y1}
    (e₀ : State.loaderTake s w = some (y0, y1, x₀)) (kp : Kept s₀ s) : Kept s₀ x₀ := by
  unfold State.loaderTake at e₀
  repeat' first
    | (simp only [reduceCtorEq] at e₀; done)
    | dsimp only at e₀
    | split at e₀
  all_goals try simp only [Option.some.injEq, Prod.mk.injEq] at e₀
  all_goals try obtain ⟨_, _, _⟩ := e₀
  all_goals subst_vars
  all_goals repeat' first
      | (with_reducible first | assumption | refine kept_ite ?_ ?_ | refine kept_foldl ?_ ?_ | intro _ _ _)
      | (with_reducible first | intro _ | refine State.updRoom_kept ?_ | refine State.updWing_kept ?_)
      | split
      | dsimp only
      | (with_reducible first | refine Kept.upd ?_)

theorem State.commitRoom_kept {s₀ s : State} {g : WingId} {r : RoomId} {slot : SlotId} {a : Nat} (kp : Kept s₀ s) :
    Kept s₀ (State.commitRoom s g r slot a).2 := by
  unfold State.commitRoom
  repeat' first
    | (with_reducible first | assumption | refine kept_ite ?_ ?_ | refine State.write_kept ?_)
    | (with_reducible first | refine State.updRoom_kept ?_)
    | split
    | dsimp only
    | (with_reducible first | refine Kept.upd ?_)

theorem State.commitRoom_kept_eq {s₀ s x₀ : State} {g : WingId} {r : RoomId} {slot : SlotId} {a : Nat} {y0}
    (e₀ : State.commitRoom s g r slot a = (y0, x₀)) (kp : Kept s₀ s) : Kept s₀ x₀ := by
  have k := @State.commitRoom_kept s₀ s g r slot a  kp
  rw [e₀] at k; exact k

theorem State.loaderCommit_kept_eq {s₀ s x₀ : State} {w : WingId} {y0 y1}
    (e₀ : State.loaderCommit s w = some (y0, y1, x₀)) (kp : Kept s₀ s) : Kept s₀ x₀ := by
  unfold State.loaderCommit at e₀
  repeat' first
    | (simp only [reduceCtorEq] at e₀; done)
    | dsimp only at e₀
    | split at e₀
  all_goals try simp only [Option.some.injEq, Prod.mk.injEq] at e₀
  all_goals try obtain ⟨_, _, _⟩ := e₀
  all_goals subst_vars
  all_goals repeat' first
      | (with_reducible first | assumption | refine kept_ite ?_ ?_ | refine kept_foldl ?_ ?_)
      | (with_reducible first | refine kept_foldl_snd ?_ ?_ | refine kept_foldl_fst ?_ ?_)
      | (with_reducible first | refine kept_foldl_snd_eq (by assumption) ?_ ?_)
      | (with_reducible first | refine kept_foldl_fst_eq (by assumption) ?_ ?_ | intro _ _ _ | intro _)
      | (with_reducible first | refine State.updWing_kept ?_ | refine State.raise_kept ?_)
      | (with_reducible first | refine State.commitRoom_kept ?_)
      | (with_reducible first | refine State.commitRoom_kept_eq (by assumption) ?_)
      | split
      | dsimp only
      | (with_reducible first | refine Kept.upd ?_)

end Sys2Proof.Machine
end

