-- ==== Sys2Proof/Laws/KeptTensor.lean ====
section
/-! SUPPORT. Every operation of Machine/Tensor.lean keeps what every command keeps (`Kept`). -/

namespace Sys2Proof.Machine

theorem State.updTe_kept {s₀ s : State} {r : RoomId} {f : Tensor → Tensor} (kp : Kept s₀ s) :
    Kept s₀ (State.updTe s r f) := by
  unfold State.updTe
  repeat' first
    | (with_reducible first | assumption | refine State.updRoom_kept ?_)
    | dsimp only
    | (with_reducible first | refine Kept.upd ?_)

theorem State.tensorPop_kept {s₀ s : State} {r : RoomId} {k : Nat} (kp : Kept s₀ s) :
    Kept s₀ (State.tensorPop s r k) := by
  unfold State.tensorPop
  repeat' first
    | (with_reducible first | assumption | refine kept_ite ?_ ?_ | refine State.updRoom_kept ?_)
    | (with_reducible first | refine State.settle_kept ?_ | refine State.dropDone_kept ?_)
    | split
    | dsimp only
    | (with_reducible first | refine Kept.upd ?_)

theorem State.tensorOut_kept {u s : State} {r : RoomId} {k : Nat} {o : TOut} (h : Kept u s) (ho : TKept u o) :
    Kept u (s.tensorOut r k o) := by
  cases o
  · exact State.tensorPop_kept ho
  · exact ho
  all_goals (unfold State.tensorOut; exact State.faultRoom_kept h)

theorem State.tensorStep_kept {u s : State} {r : RoomId} {op : Nat} {f : Nat → State → TOut}
    (hf : ∀ w s, Kept u s → TKept u (f w s)) (h : Kept u s) : Kept u (s.tensorStep r op f) := by
  unfold State.tensorStep
  split
  · exact kept_ite (State.tensorOut_kept h (hf _ s h)) h
  · exact h

theorem State.bankUpdate_kept {s₀ s : State} {r : RoomId} {w mb nb : Nat} {gs : List Nat} {b : Nat → Nat → Val} (kp : Kept s₀ s) :
    Kept s₀ (State.bankUpdate s r w mb nb gs b) := by
  unfold State.bankUpdate
  repeat' first
    | (with_reducible first | assumption | refine State.write_kept ?_ | refine State.updTe_kept ?_)
    | dsimp only

theorem State.mmaClass_kept {s₀ s : State} {r : RoomId} {w : Nat} (kp : Kept s₀ s) :
    Kept s₀ (State.mmaClass s r w) := by
  unfold State.mmaClass
  repeat' first
    | (with_reducible first | assumption | refine kept_ite ?_ ?_ | refine kept_foldl ?_ ?_ | intro _ _ _)
    | (with_reducible first | intro _ | refine State.updTe_kept ?_)
    | dsimp only

theorem State.mmaAll_kept {s₀ s : State} {r : RoomId} {w : Nat} (kp : Kept s₀ s) :
    Kept s₀ (State.mmaAll s r w) := by
  unfold State.mmaAll
  repeat' first
    | (with_reducible first | assumption | refine kept_foldl ?_ ?_ | intro _ _ _ | intro _)
    | (with_reducible first | refine State.bankUpdate_kept ?_)
    | dsimp only

theorem State.awaitBlock_kept {s₀ s : State} {r : RoomId} {n : Nat} (kp : Kept s₀ s) :
    Kept s₀ (State.awaitBlock s r n) := by
  unfold State.awaitBlock
  repeat' first
    | (with_reducible first | assumption | refine State.updRoom_kept ?_)
    | dsimp only
    | (with_reducible first | refine Kept.upd ?_)

theorem execMma_kept {s : State} {r : RoomId} : OKept s (execMma r s) := by
  unfold execMma
  have kp := Kept.refl s
  repeat' first
    | (with_reducible first | refine OKept.next ?_ | refine okept_ite ?_ ?_ | assumption | refine kept_ite ?_ ?_)
    | (with_reducible first | refine State.tensorStep_kept ?_ ?_ | refine State.mmaClass_kept ?_)
    | (with_reducible first | refine State.mmaAll_kept ?_ | refine State.awaitBlock_kept ?_)
    | (with_reducible first | refine tkept_ite ?_ ?_ | refine TKept.done ?_ | refine TKept.begun ?_)
    | (with_reducible first | exact TKept.encoding | exact TKept.bounds | exact TKept.poison)
    | exact State.mmaCheck_tkept (by assumption)
    | (with_reducible first | intro _ _ _ | intro _)
    | split
    | dsimp only
    | (with_reducible first | refine Kept.upd ?_)

theorem State.longStore_kept {s₀ s : State} {r : RoomId} {cells : List (Nat × Nat)} (kp : Kept s₀ s) :
    Kept s₀ (State.longStore s r cells) := by
  unfold State.longStore
  repeat' first
    | (with_reducible first | assumption | refine State.write_kept ?_)
    | dsimp only

theorem State.longTile_kept {s₀ s : State} {r : RoomId} {w : Nat} {fresh slice : Bool} {n : Nat} {inexact : Bool} (kp : Kept s₀ s) :
    Kept s₀ (State.longTile s r w fresh slice n inexact) := by
  unfold State.longTile
  repeat' first
    | (with_reducible first | assumption | refine kept_ite ?_ ?_ | refine State.write_kept ?_)
    | (with_reducible first | refine State.updTe_kept ?_)
    | dsimp only
    | (with_reducible first | refine Kept.upd ?_)

theorem State.exactUpdate_kept {s₀ s : State} {r : RoomId} {w : Nat} {fresh : Bool} {ks : List Nat} {b : Nat → Nat → Val} (kp : Kept s₀ s) :
    Kept s₀ (State.exactUpdate s r w fresh ks b) := by
  unfold State.exactUpdate
  repeat' first
    | (with_reducible first | assumption | refine kept_ite ?_ ?_ | refine kept_foldl ?_ ?_)
    | (with_reducible first | refine kept_foldl_snd ?_ ?_ | refine kept_foldl_fst ?_ ?_)
    | (with_reducible first | refine kept_foldl_snd_eq (by assumption) ?_ ?_)
    | (with_reducible first | refine kept_foldl_fst_eq (by assumption) ?_ ?_ | intro _ _ _ | intro _)
    | (with_reducible first | refine State.longStore_kept ?_ | refine State.longTile_kept ?_)
    | dsimp only

theorem execMmaExact_kept {s : State} {r : RoomId} : OKept s (execMmaExact r s) := by
  unfold execMmaExact
  have kp := Kept.refl s
  repeat' first
    | (with_reducible first | refine OKept.next ?_ | refine okept_ite ?_ ?_ | assumption | refine kept_ite ?_ ?_)
    | (with_reducible first | refine State.tensorStep_kept ?_ ?_ | refine State.awaitBlock_kept ?_)
    | (with_reducible first | refine State.exactUpdate_kept ?_ | refine tkept_ite ?_ ?_ | refine TKept.done ?_)
    | (with_reducible first | refine TKept.begun ?_ | exact TKept.encoding | exact TKept.bounds)
    | (with_reducible first | exact TKept.poison)
    | exact State.mmaCheck_tkept (by assumption)
    | (with_reducible first | intro _ _ _ | intro _)
    | split
    | dsimp only
    | (with_reducible first | refine Kept.upd ?_)

theorem execMmaSlice_kept {s : State} {r : RoomId} : OKept s (execMmaSlice r s) := by
  unfold execMmaSlice
  have kp := Kept.refl s
  repeat' first
    | (with_reducible first | refine OKept.next ?_ | refine okept_ite ?_ ?_ | assumption | refine kept_ite ?_ ?_)
    | (with_reducible first | refine State.write_kept ?_ | refine State.tensorStep_kept ?_ ?_)
    | (with_reducible first | refine State.longStore_kept ?_ | refine State.longTile_kept ?_)
    | (with_reducible first | refine tkept_ite ?_ ?_ | refine TKept.done ?_ | refine TKept.begun ?_)
    | (with_reducible first | exact TKept.encoding | exact TKept.bounds | exact TKept.poison)
    | exact State.mmaCheck_tkept (by assumption)
    | (with_reducible first | intro _ _ _ | intro _)
    | split
    | dsimp only
    | (with_reducible first | refine Kept.upd ?_)

theorem execTensorBlockStart_kept {s : State} {r : RoomId} : OKept s (execTensorBlockStart r s) := by
  unfold execTensorBlockStart
  have kp := Kept.refl s
  repeat' first
    | (with_reducible first | refine OKept.next ?_ | refine okept_ite ?_ ?_ | assumption | refine kept_ite ?_ ?_)
    | (with_reducible first | refine kept_foldl ?_ ?_ | intro _ _ _ | intro _ | refine State.updRoom_kept ?_)
    | (with_reducible first | refine State.updStream_kept ?_ | refine State.faultRoom_kept ?_)
    | (with_reducible first | refine State.tensorPop_kept ?_ | refine State.bankUpdate_kept ?_)
    | (with_reducible first | refine State.awaitBlock_kept ?_ | refine State.exactUpdate_kept ?_)
    | split
    | dsimp only
    | (with_reducible first | refine Kept.upd ?_)

theorem State.clearBanks_kept {s₀ s : State} {r : RoomId} {bs : List Nat} (kp : Kept s₀ s) :
    Kept s₀ (State.clearBanks s r bs) := by
  unfold State.clearBanks
  repeat' first
    | (with_reducible first | assumption | refine kept_foldl ?_ ?_ | intro _ _ _ | intro _)
    | (with_reducible first | refine State.clear_kept ?_ | refine State.updTe_kept ?_)
    | dsimp only
    | (with_reducible first | refine Kept.upd ?_)

theorem execAccZero_kept {s : State} {r : RoomId} : OKept s (execAccZero r s) := by
  unfold execAccZero
  have kp := Kept.refl s
  repeat' first
    | (with_reducible first | refine OKept.next ?_ | refine okept_ite ?_ ?_ | assumption | refine kept_ite ?_ ?_)
    | (with_reducible first | refine State.tensorStep_kept ?_ ?_ | refine State.clearBanks_kept ?_)
    | (with_reducible first | refine tkept_ite ?_ ?_ | refine TKept.done ?_ | refine TKept.begun ?_)
    | (with_reducible first | exact TKept.encoding | exact TKept.bounds | exact TKept.poison)
    | exact State.mmaCheck_tkept (by assumption)
    | (with_reducible first | intro _ _ _ | intro _)
    | dsimp only

theorem execAccDrain_kept {s : State} {r : RoomId} : OKept s (execAccDrain r s) := by
  unfold execAccDrain
  have kp := Kept.refl s
  repeat' first
    | (with_reducible first | refine OKept.next ?_ | refine okept_ite ?_ ?_ | assumption | refine kept_ite ?_ ?_)
    | (with_reducible first | refine kept_foldl ?_ ?_ | refine kept_foldl_snd ?_ ?_)
    | (with_reducible first | refine kept_foldl_fst ?_ ?_ | refine kept_foldl_snd_eq (by assumption) ?_ ?_)
    | (with_reducible first | refine kept_foldl_fst_eq (by assumption) ?_ ?_ | intro _ _ _ | intro _)
    | (with_reducible first | refine State.write_kept ?_ | refine State.updTe_kept ?_)
    | (with_reducible first | refine State.tensorStep_kept ?_ ?_ | refine State.clearBanks_kept ?_)
    | (with_reducible first | refine tkept_ite ?_ ?_ | refine TKept.done ?_ | refine TKept.begun ?_)
    | (with_reducible first | exact TKept.encoding | exact TKept.bounds | exact TKept.poison)
    | exact State.mmaCheck_tkept (by assumption)
    | dsimp only

theorem execAccLoad_kept {s : State} {r : RoomId} : OKept s (execAccLoad r s) := by
  unfold execAccLoad
  have kp := Kept.refl s
  repeat' first
    | (with_reducible first | refine OKept.next ?_ | refine okept_ite ?_ ?_ | assumption | refine kept_ite ?_ ?_)
    | (with_reducible first | refine kept_foldl ?_ ?_ | intro _ _ _ | intro _ | refine State.write_kept ?_)
    | (with_reducible first | refine State.updTe_kept ?_ | refine State.tensorStep_kept ?_ ?_)
    | (with_reducible first | refine tkept_ite ?_ ?_ | refine TKept.done ?_ | refine TKept.begun ?_)
    | (with_reducible first | exact TKept.encoding | exact TKept.bounds | exact TKept.poison)
    | exact State.mmaCheck_tkept (by assumption)
    | split
    | dsimp only
    | (with_reducible first | refine Kept.upd ?_)

end Sys2Proof.Machine
end

