-- ==== Sys2Proof/Laws/KeptFabric.lean ====
section
/-! SUPPORT. Every operation of Machine/Fabric.lean keeps what every command keeps (`Kept`). -/

namespace Sys2Proof.Machine

theorem State.updJob_kept {s₀ s : State} {tag : W32} {f : Job → Job} (kp : Kept s₀ s) :
    Kept s₀ (State.updJob s tag f) := by
  unfold State.updJob
  repeat' first
    | (with_reducible first | assumption | refine kept_ite ?_ ?_)
    | dsimp only
    | (with_reducible first | refine Kept.upd ?_)

theorem State.fecCount_kept {s₀ s : State} {p : Nat} {f : RxFlit} (kp : Kept s₀ s) :
    Kept s₀ (State.fecCount s p f) := by
  unfold State.fecCount
  repeat' first
    | (with_reducible first | assumption | refine kept_ite ?_ ?_ | refine State.updPort_kept ?_)
    | dsimp only
    | (with_reducible first | refine Kept.upd ?_)

theorem State.enqueue_kept {s₀ s : State} {p : Nat} {pk : Packet} (kp : Kept s₀ s) :
    Kept s₀ (State.enqueue s p pk) := by
  unfold State.enqueue
  repeat' first
    | (with_reducible first | assumption | refine State.updPort_kept ?_)
    | dsimp only
    | (with_reducible first | refine Kept.upd ?_)

theorem State.sendDirect_kept {s₀ s : State} {d : BitVec 3} {pk : Packet} (kp : Kept s₀ s) :
    Kept s₀ (State.sendDirect s d pk) := by
  unfold State.sendDirect
  repeat' first
    | (with_reducible first | assumption | refine kept_ite ?_ ?_ | refine State.enqueue_kept ?_)
    | split
    | dsimp only
    | (with_reducible first | refine Kept.upd ?_)

theorem State.detourStep_kept {s₀ s : State} {pk : Packet} (kp : Kept s₀ s) :
    Kept s₀ (State.detourStep s pk) := by
  unfold State.detourStep
  repeat' first
    | (with_reducible first | assumption | refine State.sendDirect_kept ?_)
    | dsimp only
    | (with_reducible first | refine Kept.upd ?_)

theorem State.enterDetour_kept {s₀ s : State} {i : Nat} {d : BitVec 3} {pk : Packet} (kp : Kept s₀ s) :
    Kept s₀ (State.enterDetour s i d pk) := by
  unfold State.enterDetour
  repeat' first
    | (with_reducible first | assumption | refine kept_ite ?_ ?_ | refine State.sendDirect_kept ?_)
    | (with_reducible first | refine State.detourStep_kept ?_)
    | dsimp only
    | (with_reducible first | refine Kept.upd ?_)

theorem State.sendDirQuiet_kept {s₀ s : State} {d : BitVec 3} {pk : Packet} (kp : Kept s₀ s) :
    Kept s₀ (State.sendDirQuiet s d pk) := by
  unfold State.sendDirQuiet
  repeat' first
    | (with_reducible first | assumption | refine kept_ite ?_ ?_ | refine State.sendDirect_kept ?_)
    | (with_reducible first | refine State.enterDetour_kept ?_)
    | dsimp only

theorem State.sendQuiet_kept {s₀ s : State} {pk : Packet} (kp : Kept s₀ s) :
    Kept s₀ (State.sendQuiet s pk) := by
  unfold State.sendQuiet
  repeat' first
    | (with_reducible first | assumption | refine State.sendDirQuiet_kept ?_)
    | split
    | dsimp only
    | (with_reducible first | refine Kept.upd ?_)

theorem State.sendDir_kept {s₀ s : State} {d : BitVec 3} {pk : Packet} (kp : Kept s₀ s) :
    Kept s₀ (State.sendDir s d pk) := by
  unfold State.sendDir
  repeat' first
    | (with_reducible first | assumption | refine kept_ite ?_ ?_ | refine State.sendDirQuiet_kept ?_)
    | (with_reducible first | refine State.sendQuiet_kept ?_)
    | dsimp only
    | (with_reducible first | refine Kept.upd ?_)

theorem State.send_kept {s₀ s : State} {pk : Packet} (kp : Kept s₀ s) :
    Kept s₀ (State.send s pk) := by
  unfold State.send
  repeat' first
    | (with_reducible first | assumption | refine State.sendDir_kept ?_)
    | split
    | dsimp only
    | (with_reducible first | refine Kept.upd ?_)

theorem State.respond_kept {s₀ s : State} {port : Nat} {rsp : Packet} (kp : Kept s₀ s) :
    Kept s₀ (State.respond s port rsp) := by
  unfold State.respond
  repeat' first
    | (with_reducible first | assumption | refine kept_ite ?_ ?_ | refine State.enqueue_kept ?_)
    | (with_reducible first | refine State.send_kept ?_)
    | dsimp only

theorem State.discardPacket_kept {s₀ s : State} {p : Nat} (kp : Kept s₀ s) :
    Kept s₀ (State.discardPacket s p) := by
  unfold State.discardPacket
  repeat' first
    | (with_reducible first | assumption | refine State.updPort_kept ?_ | refine State.raise_kept ?_)
    | dsimp only
    | (with_reducible first | refine Kept.upd ?_)

theorem State.forward_kept {s₀ s : State} {p : Nat} {pk : Packet} (kp : Kept s₀ s) :
    Kept s₀ (State.forward s p pk) := by
  unfold State.forward
  repeat' first
    | (with_reducible first | assumption | refine kept_ite ?_ ?_ | refine State.detourStep_kept ?_)
    | (with_reducible first | refine State.sendDir_kept ?_ | refine State.discardPacket_kept ?_)
    | split
    | dsimp only
    | (with_reducible first | refine Kept.upd ?_)

theorem State.sendToward_kept {s₀ s : State} {node : NodeId} {pk : Packet} (kp : Kept s₀ s) :
    Kept s₀ (State.sendToward s node pk) := by
  unfold State.sendToward
  repeat' first
    | (with_reducible first | assumption | refine State.sendDir_kept ?_)
    | split
    | dsimp only
    | (with_reducible first | refine Kept.upd ?_)

theorem State.sendRequest_kept_eq {s₀ s x : State} {node : NodeId} {pk : Packet} {kind what : Nat} {ret : Option (BitVec 4)}
    {n : Nat} (e : State.sendRequest s node pk kind what ret = some (x, n)) (h : Kept s₀ s) : Kept s₀ x := by
  unfold State.sendRequest at e
  generalize List.range 4096 = l at e
  extract_lets south used at e
  split at e
  · exact absurd e (by simp)
  · simp only [Option.some.injEq, Prod.mk.injEq] at e
    obtain ⟨rfl, -⟩ := e
    exact State.sendToward_kept (Kept.upd h)

theorem State.dropRemote_kept {s₀ s : State} {m : Remote} (kp : Kept s₀ s) :
    Kept s₀ (State.dropRemote s m) := by
  unfold State.dropRemote
  repeat' first
    | (with_reducible first | assumption)
    | dsimp only
    | (with_reducible first | refine Kept.upd ?_)

theorem State.takeArrived_kept_eq {s₀ s x₀ : State} {p : BitVec 5} {kind : Nat} {sub : Option Nat} {y0}
    (e₀ : State.takeArrived s p kind sub = some (y0, x₀)) (kp : Kept s₀ s) : Kept s₀ x₀ := by
  unfold State.takeArrived at e₀
  repeat' first
    | (simp only [reduceCtorEq] at e₀; done)
    | dsimp only at e₀
    | split at e₀
  all_goals try simp only [Option.some.injEq, Prod.mk.injEq] at e₀
  all_goals try obtain ⟨_, _⟩ := e₀
  all_goals subst_vars
  all_goals repeat' first
      | (with_reducible first | assumption | refine kept_ite ?_ ?_ | refine State.updPort_kept ?_)
      | split
      | dsimp only
      | (with_reducible first | refine Kept.upd ?_)

theorem State.stew_kept {s₀ s : State} {job : W32} {node : NodeId} {ty : Nat} (kp : Kept s₀ s) :
    Kept s₀ (State.stew s job node ty) := by
  unfold State.stew
  repeat' first
    | (with_reducible first | assumption | refine State.send_kept ?_)
    | dsimp only

theorem State.recompute_kept {s₀ s : State} {job : W32} (kp : Kept s₀ s) :
    Kept s₀ (State.recompute s job) := by
  unfold State.recompute
  repeat' first
    | (with_reducible first | assumption | refine kept_ite ?_ ?_ | refine kept_foldl ?_ ?_ | intro _ _ _)
    | (with_reducible first | intro _ | refine State.stew_kept ?_)
    | split
    | dsimp only
    | (with_reducible first | refine Kept.upd ?_)

theorem State.recomputeAll_kept {s₀ s : State} (kp : Kept s₀ s) : Kept s₀ (State.recomputeAll s) := by
  unfold State.recomputeAll
  refine kept_ite (kept_foldl (fun _ _ h => State.recompute_kept h) kp) kp

end Sys2Proof.Machine
end

