-- ==== Sys2Proof/Laws/KeptPageMap.lean ====
section
/-! SUPPORT. Every operation of Machine/PageMap.lean keeps what every command keeps (`Kept`). -/

namespace Sys2Proof.Machine

theorem State.installBuf_kept {s₀ s : State} {b : Nat} {t : TpmEntry} (kp : Kept s₀ s) :
    Kept s₀ (State.installBuf s b t) := by
  unfold State.installBuf
  repeat' first
    | (with_reducible first | assumption)
    | dsimp only
    | (with_reducible first | refine Kept.upd ?_)

theorem State.installSlice_kept {s₀ s : State} {t : TpmEntry} (kp : Kept s₀ s) :
    Kept s₀ (State.installSlice s t) := by
  unfold State.installSlice
  repeat' first
    | (with_reducible first | assumption)
    | dsimp only
    | (with_reducible first | refine Kept.upd ?_)

theorem State.translateNow_kept {s₀ s : State} {b : Nat} {c : CtxId} {ns off : Nat} (kp : Kept s₀ s) :
    Kept s₀ (State.translateNow s b c ns off).1 := by
  unfold State.translateNow
  repeat' first
    | (with_reducible first | assumption | refine kept_ite ?_ ?_ | refine State.installBuf_kept ?_)
    | (with_reducible first | refine State.installSlice_kept ?_)
    | split
    | dsimp only
    | (with_reducible first | refine Kept.upd ?_)

theorem State.translateNow_kept_eq {s₀ s x₀ : State} {b : Nat} {c : CtxId} {ns off : Nat} {y1}
    (e₀ : State.translateNow s b c ns off = (x₀, y1)) (kp : Kept s₀ s) : Kept s₀ x₀ := by
  have k := @State.translateNow_kept s₀ s b c ns off  kp
  rw [e₀] at k; exact k

theorem State.writeBadUnits_kept {s₀ s : State} {k : Nat} {bs : List Byte} {bad : List Nat} (kp : Kept s₀ s) :
    Kept s₀ (State.writeBadUnits s k bs bad) := by
  unfold State.writeBadUnits
  repeat' first
    | (with_reducible first | assumption | refine kept_foldl ?_ ?_ | intro _ _ _ | intro _)
    | (with_reducible first | refine State.write_kept ?_ | refine State.markPoison_kept ?_)
    | dsimp only

theorem State.dvaWrite_kept {s₀ s : State} {c : CtxId} {d : Dva} {bs : List Byte} (kp : Kept s₀ s) :
    Kept s₀ (State.dvaWrite s c d bs).1 := by
  unfold State.dvaWrite
  repeat' first
    | (with_reducible first | assumption | refine kept_ite ?_ ?_ | refine kept_foldl ?_ ?_)
    | (with_reducible first | refine kept_foldl_snd ?_ ?_ | refine kept_foldl_fst ?_ ?_)
    | (with_reducible first | refine kept_foldl_snd_eq (by assumption) ?_ ?_)
    | (with_reducible first | refine kept_foldl_fst_eq (by assumption) ?_ ?_ | intro _ _ _ | intro _)
    | (with_reducible first | refine State.write_kept ?_)
    | split
    | dsimp only
    | (with_reducible first | refine Kept.upd ?_)

theorem State.dvaWrite_kept_eq {s₀ s x₀ : State} {c : CtxId} {d : Dva} {bs : List Byte} {y1}
    (e₀ : State.dvaWrite s c d bs = (x₀, y1)) (kp : Kept s₀ s) : Kept s₀ x₀ := by
  have k := @State.dvaWrite_kept s₀ s c d bs  kp
  rw [e₀] at k; exact k

end Sys2Proof.Machine
end

