-- ==== Sys2Proof/Laws/KeptMemory.lean ====
section
/-! SUPPORT. Every operation of Machine/Memory.lean keeps what every command keeps (`Kept`). -/

namespace Sys2Proof.Machine

theorem State.violation_kept {s₀ s : State} {who : Who} {offset : Nat} {write : Bool} {code : Nat} (h : Kept s₀ s) :
    Kept s₀ (State.violation s who offset write code) := by
  unfold State.violation
  split
  · refine h.trans ⟨rfl, id, id, fun _ => ?_, fun h => ⟨h, Nat.le_refl _⟩, id⟩
    simp only [List.length_append, List.length_cons, List.length_nil]; omega
  · exact Kept.upd h

theorem State.setDone_kept {s₀ s : State} {id code : Nat} {data : List Byte} {poison : List Nat} (kp : Kept s₀ s) :
    Kept s₀ (State.setDone s id code data poison) := by
  unfold State.setDone
  repeat' first
    | (with_reducible first | assumption | refine State.updAccess_kept ?_)
    | dsimp only
    | (with_reducible first | refine Kept.upd ?_)

theorem State.groupCheck_kept {s₀ s : State} {id : Nat} (kp : Kept s₀ s) :
    Kept s₀ (State.groupCheck s id) := by
  unfold State.groupCheck
  repeat' first
    | (with_reducible first | assumption | refine kept_ite ?_ ?_ | refine State.send_kept ?_)
    | (with_reducible first | refine State.setDone_kept ?_)
    | split
    | dsimp only
    | (with_reducible first | refine Kept.upd ?_)

theorem State.updGroup_kept {s₀ s : State} {id : Nat} {f : GroupWrite → GroupWrite} (kp : Kept s₀ s) :
    Kept s₀ (State.updGroup s id f) := by
  unfold State.updGroup
  repeat' first
    | (with_reducible first | assumption | refine kept_ite ?_ ?_ | refine State.groupCheck_kept ?_)
    | dsimp only
    | (with_reducible first | refine Kept.upd ?_)

theorem State.hostFault_kept {s₀ s : State} {win : Nat} {code : Nat} {aperture : Nat} (kp : Kept s₀ s) :
    Kept s₀ (State.hostFault s win code aperture) := by
  unfold State.hostFault
  repeat' first
    | (with_reducible first | assumption | refine kept_ite ?_ ?_ | refine State.raiseVec_kept ?_)
    | (with_reducible first | refine State.raise_kept ?_)
    | split
    | dsimp only
    | (with_reducible first | refine Kept.upd ?_)

theorem State.windowDone_kept {s₀ s : State} {win : Nat} (kp : Kept s₀ s) :
    Kept s₀ (State.windowDone s win) := by
  unfold State.windowDone
  repeat' first
    | (with_reducible first | assumption | refine kept_ite ?_ ?_ | refine State.answer_kept ?_)
    | split
    | dsimp only
    | (with_reducible first | refine Kept.upd ?_)

theorem State.hostComplete_kept {s₀ s : State} {win : Nat} {write : Bool} {aperture : Nat} {code : Nat} {data : List Byte} {poison : List Nat} (kp : Kept s₀ s) :
    Kept s₀ (State.hostComplete s win write aperture code data poison) := by
  unfold State.hostComplete
  repeat' first
    | (with_reducible first | assumption | refine kept_ite ?_ ?_ | refine State.write_kept ?_)
    | (with_reducible first | refine State.hostFault_kept ?_)
    | dsimp only
    | (with_reducible first | refine Kept.upd ?_)

theorem State.finish_kept {s₀ s : State} {a : Access} {code : Nat} {data : List Byte} {poison : List Nat} (kp : Kept s₀ s) :
    Kept s₀ (State.finish s a code data poison) := by
  unfold State.finish
  repeat' first
    | (with_reducible first | assumption | refine kept_ite ?_ ?_ | refine State.write_kept ?_)
    | (with_reducible first | refine State.respond_kept ?_ | refine State.setDone_kept ?_)
    | (with_reducible first | refine State.updGroup_kept ?_ | refine State.windowDone_kept ?_)
    | (with_reducible first | refine State.hostComplete_kept ?_)
    | split
    | dsimp only
    | (with_reducible first | refine Kept.upd ?_)

theorem State.performAt_kept {s₀ s : State} {a : Access} {e : Option (W64 × Bool)} {wait : Bool} (kp : Kept s₀ s) :
    Kept s₀ (State.performAt s a e wait) := by
  unfold State.performAt
  repeat' first
    | (with_reducible first | assumption | refine kept_ite ?_ ?_ | refine State.write_kept ?_)
    | (with_reducible first | refine State.writeBadUnits_kept ?_ | refine State.finish_kept ?_)
    | split
    | dsimp only
    | (with_reducible first | refine Kept.upd ?_)

theorem State.translated_kept {s₀ s : State} {id : Nat} {e : W64} {sub : Bool} (kp : Kept s₀ s) :
    Kept s₀ (State.translated s id e sub) := by
  unfold State.translated
  repeat' first
    | (with_reducible first | assumption)
    | split
    | dsimp only
    | (with_reducible first | refine Kept.upd ?_)

theorem State.serve_kept {s₀ s : State} {a : Access} (kp : Kept s₀ s) :
    Kept s₀ (State.serve s a) := by
  unfold State.serve
  repeat' first
    | (with_reducible first | assumption | refine kept_ite ?_ ?_ | refine State.updAccess_kept ?_)
    | (with_reducible first | refine State.translateNow_kept ?_)
    | (with_reducible first | refine State.translateNow_kept_eq (by assumption) ?_ | refine State.finish_kept ?_)
    | (with_reducible first | refine State.performAt_kept ?_)
    | split
    | dsimp only
    | (with_reducible first | refine Kept.upd ?_)

theorem State.addAccess_kept {s₀ s : State} {a : Access} (kp : Kept s₀ s) :
    Kept s₀ (State.addAccess s a).1 := by
  unfold State.addAccess
  repeat' first
    | (with_reducible first | assumption)
    | split
    | dsimp only
    | (with_reducible first | refine Kept.upd ?_)

theorem State.addAccess_kept_eq {s₀ s x₀ : State} {a : Access} {y1}
    (e₀ : State.addAccess s a = (x₀, y1)) (kp : Kept s₀ s) : Kept s₀ x₀ := by
  have k := @State.addAccess_kept s₀ s a  kp
  rw [e₀] at k; exact k

theorem State.groupOwn_kept {s₀ s : State} {id : Nat} {job : W32} {dva : Dva} {data : List Byte} (kp : Kept s₀ s) :
    Kept s₀ (State.groupOwn s id job dva data) := by
  unfold State.groupOwn
  repeat' first
    | (with_reducible first | assumption | refine State.write_kept ?_ | refine State.updGroup_kept ?_)
    | (with_reducible first | refine State.serve_kept ?_ | refine State.addAccess_kept ?_)
    | (with_reducible first | refine State.addAccess_kept_eq (by assumption) ?_)
    | split
    | dsimp only
    | (with_reducible first | refine Kept.upd ?_)

theorem State.startGroup_kept {s₀ s : State} {e : Group} {dva : Dva} {data : List Byte} {south : Bool} {parent : Option Packet} {access : Option Nat} (kp : Kept s₀ s) :
    Kept s₀ (State.startGroup s e dva data south parent access) := by
  unfold State.startGroup
  repeat' first
    | (with_reducible first | assumption | refine kept_ite ?_ ?_ | refine kept_foldl ?_ ?_ | intro _ _ _)
    | (with_reducible first | intro _ | refine State.sendRequest_kept_eq (by assumption) ?_)
    | (with_reducible first | refine State.groupCheck_kept ?_ | refine State.groupOwn_kept ?_)
    | split
    | dsimp only
    | (with_reducible first | refine Kept.upd ?_)

theorem State.sendRemote_kept {s₀ s : State} {a : Access} (kp : Kept s₀ s) :
    Kept s₀ (State.sendRemote s a) := by
  unfold State.sendRemote
  repeat' first
    | (with_reducible first | assumption | refine kept_ite ?_ ?_ | refine State.write_kept ?_)
    | (with_reducible first | refine State.updAccess_kept ?_)
    | (with_reducible first | refine State.sendRequest_kept_eq (by assumption) ?_)
    | split
    | dsimp only
    | (with_reducible first | refine Kept.upd ?_)

theorem State.sendGroup_kept {s₀ s : State} {a : Access} (kp : Kept s₀ s) :
    Kept s₀ (State.sendGroup s a) := by
  unfold State.sendGroup
  repeat' first
    | (with_reducible first | assumption | refine kept_ite ?_ ?_ | refine State.updAccess_kept ?_)
    | (with_reducible first | refine State.setDone_kept ?_ | refine State.startGroup_kept ?_)
    | split
    | dsimp only
    | (with_reducible first | refine Kept.upd ?_)

theorem State.issue_kept {s₀ s : State} {a : Access} {pl : Place} (kp : Kept s₀ s) :
    Kept s₀ (State.issue s a pl) := by
  unfold State.issue
  repeat' first
    | (with_reducible first | assumption | refine kept_ite ?_ ?_ | refine State.installBuf_kept ?_)
    | (with_reducible first | refine State.translated_kept ?_ | refine State.addAccess_kept ?_)
    | (with_reducible first | refine State.addAccess_kept_eq (by assumption) ?_)
    | (with_reducible first | refine State.sendRemote_kept ?_ | refine State.sendGroup_kept ?_)
    | split
    | dsimp only
    | (with_reducible first | refine Kept.upd ?_)

theorem State.configStore_kept {s₀ s : State} {from' : RoomId} {c : CtxId} {d : Dva} (kp : Kept s₀ s) :
    Kept s₀ (State.configStore s from' c d) := by
  unfold State.configStore
  repeat' first
    | (with_reducible first | assumption | refine kept_ite ?_ ?_ | refine State.updRoom_kept ?_)
    | (with_reducible first | refine State.raise_kept ?_)
    | dsimp only
    | (with_reducible first | refine Kept.upd ?_)

theorem roomAccess_vkept {s₀ s : State} {r : RoomId} {w : Nat} {who : Requester} {write : Bool} {data : List Byte} (kp : Kept s₀ s) :
    VKept s₀ (roomAccess r w who write data s) := by
  unfold roomAccess
  repeat' first
    | (with_reducible first | assumption | refine kept_ite ?_ ?_ | refine State.write_kept ?_)
    | (with_reducible first | refine State.violation_kept ?_ | refine State.setDone_kept ?_)
    | (with_reducible first | refine State.addAccess_kept ?_ | refine State.addAccess_kept_eq (by assumption) ?_)
    | (with_reducible first | refine State.issue_kept ?_ | refine State.configStore_kept ?_)
    | (with_reducible first | refine vkept_ite ?_ ?_ | refine VKept.ok ?_ | refine VKept.hold ?_)
    | (with_reducible first | exact VKept.bounds | exact VKept.mem | intro _)
    | split
    | dsimp only
    | (with_reducible first | refine Kept.upd ?_)

theorem execVldm_kept {s : State} {r : RoomId} : OKept s (execVldm r s) := by
  unfold execVldm
  have kp := Kept.refl s
  repeat' first
    | (with_reducible first | intro _ _ _ _ | refine OKept.next ?_ | assumption)
    | (with_reducible first | refine State.vecStep_kept ?_ ?_ | refine roomAccess_vkept ?_ | intro _)
    | dsimp only

theorem execVstm_kept {s : State} {r : RoomId} : OKept s (execVstm r s) := by
  unfold execVstm
  have kp := Kept.refl s
  repeat' first
    | (with_reducible first | intro _ _ _ _ | refine OKept.next ?_ | assumption)
    | (with_reducible first | refine State.vecStep_kept ?_ ?_ | refine roomAccess_vkept ?_ | intro _)
    | dsimp only

theorem execMemResponseArrival_kept {s : State} {id : Nat} : OKept s (execMemResponseArrival id s) := by
  unfold execMemResponseArrival
  have kp := Kept.refl s
  repeat' first
    | (with_reducible first | refine OKept.next ?_ | refine okept_ite ?_ ?_ | assumption | refine kept_ite ?_ ?_)
    | (with_reducible first | refine State.updRoom_kept ?_ | refine State.faultRoom_kept ?_)
    | split
    | dsimp only
    | (with_reducible first | refine Kept.upd ?_)

theorem State.memoryAccess_kept {s₀ s : State} {id : Nat} (kp : Kept s₀ s) : Kept s₀ (State.memoryAccess s id) := by
  unfold State.memoryAccess
  cases s.access id with
  | none => exact kp
  | some a =>
    dsimp only
    cases a.st <;> first
      | exact kept_ite kp (State.performAt_kept kp)
      | exact kept_ite kp (kept_ite (State.sendGroup_kept kp) (kept_ite kp (State.sendRemote_kept kp)))
      | exact kp
      | (cases a.who <;> first | exact State.serve_kept kp | exact kp)

theorem State.updSlice_kept {s₀ s : State} {d : Nat} {f : TpmSlice → TpmSlice} (kp : Kept s₀ s) :
    Kept s₀ (State.updSlice s d f) := by
  unfold State.updSlice
  repeat' first
    | (with_reducible first | assumption)
    | dsimp only
    | (with_reducible first | refine Kept.upd ?_)

theorem execTranslationLookup_kept {s : State} {id : Nat} : OKept s (execTranslationLookup id s) := by
  unfold execTranslationLookup
  have kp := Kept.refl s
  repeat' first
    | (with_reducible first | refine OKept.next ?_ | refine okept_ite ?_ ?_ | assumption | refine kept_ite ?_ ?_)
    | (with_reducible first | refine State.installBuf_kept ?_ | refine State.installSlice_kept ?_)
    | (with_reducible first | refine State.translated_kept ?_ | refine State.updSlice_kept ?_)
    | split
    | dsimp only
    | (with_reducible first | refine Kept.upd ?_)

theorem State.walkFault_kept {s₀ s : State} {d k : Nat} {w : Walk} {code : Nat} (kp : Kept s₀ s) :
    Kept s₀ (State.walkFault s d k w code) := by
  unfold State.walkFault
  repeat' first
    | (with_reducible first | assumption | refine kept_foldl ?_ ?_ | intro _ _ _ | intro _)
    | (with_reducible first | refine State.finish_kept ?_ | refine State.updSlice_kept ?_)
    | split
    | dsimp only
    | (with_reducible first | refine Kept.upd ?_)

theorem State.walkDone_kept {s₀ s : State} {d k : Nat} {w : Walk} {t : TpmEntry} (kp : Kept s₀ s) :
    Kept s₀ (State.walkDone s d k w t) := by
  unfold State.walkDone
  repeat' first
    | (with_reducible first | assumption | refine kept_foldl ?_ ?_ | intro _ _ _ | intro _)
    | (with_reducible first | refine State.installBuf_kept ?_ | refine State.installSlice_kept ?_)
    | (with_reducible first | refine State.translated_kept ?_ | refine State.updSlice_kept ?_)
    | split
    | dsimp only
    | (with_reducible first | refine Kept.upd ?_)

theorem State.walkReadReturn_kept {s₀ s : State} {d : DieId} {k : Nat} (kp : Kept s₀ s) :
    Kept s₀ (State.walkReadReturn s d k) := by
  unfold State.walkReadReturn
  repeat' first
    | (with_reducible first | assumption | refine kept_ite ?_ ?_ | refine State.updSlice_kept ?_)
    | (with_reducible first | refine State.walkFault_kept ?_ | refine State.walkDone_kept ?_)
    | split
    | dsimp only
    | (with_reducible first | refine Kept.upd ?_)

theorem execMigRewalk_kept {s : State} {d : DieId} {k : Nat} : OKept s (execMigRewalk d k s) := by
  unfold execMigRewalk
  have kp := Kept.refl s
  repeat' first
    | (with_reducible first | refine OKept.next ?_ | refine okept_ite ?_ ?_ | assumption | refine kept_ite ?_ ?_)
    | (with_reducible first | refine State.updSlice_kept ?_)
    | split
    | dsimp only
    | (with_reducible first | refine Kept.upd ?_)

theorem State.migTimeout_kept {s₀ s : State} {id : Nat} (kp : Kept s₀ s) :
    Kept s₀ (State.migTimeout s id) := by
  unfold State.migTimeout
  repeat' first
    | (with_reducible first | assumption | refine kept_ite ?_ ?_ | refine State.finish_kept ?_)
    | (with_reducible first | refine State.updSlice_kept ?_)
    | split
    | dsimp only
    | (with_reducible first | refine Kept.upd ?_)

theorem State.deliverWalk_kept {s₀ s : State} {w : Walk} (kp : Kept s₀ s) :
    Kept s₀ (State.deliverWalk s w) := by
  unfold State.deliverWalk
  repeat' first
    | (with_reducible first | assumption | refine kept_ite ?_ ?_ | refine kept_foldl ?_ ?_ | intro _ _ _)
    | (with_reducible first | intro _ | refine State.finish_kept ?_ | refine State.translated_kept ?_)
    | split
    | dsimp only
    | (with_reducible first | refine Kept.upd ?_)

theorem State.invalidate_kept {s₀ s : State} {m : CtxId → Nat → Nat → Bool} (kp : Kept s₀ s) :
    Kept s₀ (State.invalidate s m) := by
  unfold State.invalidate
  repeat' first
    | (with_reducible first | assumption | refine kept_ite ?_ ?_ | refine kept_foldl ?_ ?_)
    | (with_reducible first | refine kept_foldl_snd ?_ ?_ | refine kept_foldl_fst ?_ ?_)
    | (with_reducible first | refine kept_foldl_snd_eq (by assumption) ?_ ?_)
    | (with_reducible first | refine kept_foldl_fst_eq (by assumption) ?_ ?_ | intro _ _ _ | intro _)
    | (with_reducible first | refine State.updAccess_kept ?_ | refine State.performAt_kept ?_)
    | (with_reducible first | refine State.translated_kept ?_ | refine State.deliverWalk_kept ?_)
    | split
    | dsimp only
    | (with_reducible first | refine Kept.upd ?_)

theorem State.annexFail_kept {s₀ s : State} {a : Access} {e : W64} {sub : Bool} (kp : Kept s₀ s) :
    Kept s₀ (State.annexFail s a e sub) := by
  unfold State.annexFail
  repeat' first
    | (with_reducible first | assumption | refine kept_ite ?_ ?_ | refine State.write_kept ?_)
    | (with_reducible first | refine State.bumpFree_kept ?_ | refine State.writeBadUnits_kept ?_)
    | (with_reducible first | refine State.finish_kept ?_)
    | dsimp only

theorem execAnnexTimeout_kept {s : State} {id : Nat} : OKept s (execAnnexTimeout id s) := by
  unfold execAnnexTimeout
  have kp := Kept.refl s
  repeat' first
    | (with_reducible first | refine OKept.next ?_ | refine okept_ite ?_ ?_ | assumption | refine kept_ite ?_ ?_)
    | (with_reducible first | refine State.devEvent_kept ?_ | refine State.raise_kept ?_)
    | (with_reducible first | refine State.translated_kept ?_ | refine State.annexFail_kept ?_)
    | split
    | dsimp only
    | (with_reducible first | refine Kept.upd ?_)

theorem execAnnexLinkDown_kept {s : State} {p : Bool} : OKept s (execAnnexLinkDown p s) := by
  unfold execAnnexLinkDown
  have kp := Kept.refl s
  repeat' first
    | (with_reducible first | refine OKept.next ?_ | refine okept_ite ?_ ?_ | assumption | refine kept_ite ?_ ?_)
    | (with_reducible first | refine kept_foldl ?_ ?_ | intro _ _ _ | intro _ | refine State.devEvent_kept ?_)
    | (with_reducible first | refine State.raise_kept ?_ | refine State.translated_kept ?_)
    | (with_reducible first | refine State.annexFail_kept ?_)
    | split
    | dsimp only
    | (with_reducible first | refine Kept.upd ?_)

theorem execAnnexLinkUp_kept {s : State} {p : Bool} : OKept s (execAnnexLinkUp p s) := by
  unfold execAnnexLinkUp
  have kp := Kept.refl s
  repeat' first
    | (with_reducible first | refine OKept.next ?_ | assumption)
    | dsimp only
    | (with_reducible first | refine Kept.upd ?_)

theorem execAnnexExtentOffer_kept {s : State} {p : Bool} {base len : W64} : OKept s (execAnnexExtentOffer p base len s) := by
  unfold execAnnexExtentOffer
  have kp := Kept.refl s
  repeat' first
    | (with_reducible first | refine OKept.next ?_ | refine okept_ite ?_ ?_ | assumption | refine kept_ite ?_ ?_)
    | (with_reducible first | refine State.devEvent_kept ?_ | refine State.raise_kept ?_)
    | dsimp only
    | (with_reducible first | refine Kept.upd ?_)

theorem execAnnexExtentRelease_kept {s : State} {p : Bool} {base len : W64} : OKept s (execAnnexExtentRelease p base len s) := by
  unfold execAnnexExtentRelease
  have kp := Kept.refl s
  repeat' first
    | (with_reducible first | refine OKept.next ?_ | refine okept_ite ?_ ?_ | assumption | refine kept_ite ?_ ?_)
    | dsimp only
    | (with_reducible first | refine Kept.upd ?_)

theorem execPatrolScrub_kept {s : State} {unit : Nat} {found : Scrub} : OKept s (execPatrolScrub unit found s) := by
  unfold execPatrolScrub
  have kp := Kept.refl s
  repeat' first
    | (with_reducible first | refine OKept.next ?_ | refine okept_ite ?_ ?_ | assumption | refine kept_ite ?_ ?_)
    | (with_reducible first | refine State.markPoison_kept ?_ | refine State.raise_kept ?_)
    | split
    | dsimp only
    | (with_reducible first | refine Kept.upd ?_)

theorem execRetrainComplete_kept {s : State} {stack : BitVec 3} {ch : BitVec 5} : OKept s (execRetrainComplete stack ch s) := by
  unfold execRetrainComplete
  have kp := Kept.refl s
  repeat' first
    | (with_reducible first | refine OKept.next ?_ | assumption)
    | dsimp only
    | (with_reducible first | refine Kept.upd ?_)

theorem execRepairHoldEnd_kept {s : State} {tier unit row : Nat} : OKept s (execRepairHoldEnd tier unit row s) := by
  unfold execRepairHoldEnd
  have kp := Kept.refl s
  repeat' first
    | (with_reducible first | refine OKept.next ?_ | assumption)
    | dsimp only
    | (with_reducible first | refine Kept.upd ?_)

end Sys2Proof.Machine
end

