-- ==== Sys2Proof/Laws/KeptCommand.lean ====
section
/-! SUPPORT. Every operation of Machine/Command.lean keeps what every command keeps (`Kept`). -/

namespace Sys2Proof.Machine

theorem State.reply_kept {s₀ s : State} {q : Req} {status : Nat} {detail : Nat} {result : List (Nat × Nat × Nat)} (kp : Kept s₀ s) :
    Kept s₀ (State.reply s q status detail result) := by
  unfold State.reply
  repeat' first
    | (with_reducible first | assumption | refine State.answer_kept ?_)
    | dsimp only

theorem State.accept_kept {s₀ s : State} {q : Req} (kp : Kept s₀ s) :
    Kept s₀ (State.accept s q) := by
  unfold State.accept
  repeat' first
    | (with_reducible first | assumption | refine State.answer_kept ?_)
    | dsimp only

theorem State.badReq_kept {s₀ s : State} {q : Req} {off : Nat} (kp : Kept s₀ s) :
    Kept s₀ (State.badReq s q off) := by
  unfold State.badReq
  repeat' first
    | (with_reducible first | assumption | refine State.reply_kept ?_)
    | dsimp only

theorem lbxSettleGo_kept {s₀ s : State} {l k : Nat} (kp : Kept s₀ s) : Kept s₀ (lbxSettleGo l k s) := by
  induction k generalizing s with
  | zero => simpa only [lbxSettleGo] using kp
  | succ k ih =>
    unfold lbxSettleGo
    repeat' first
      | with_reducible refine ih ?_
      | (with_reducible first | assumption | refine kept_ite ?_ ?_ | refine State.updLbx_kept ?_)
      | (with_reducible first | refine State.reply_kept ?_)
      | split
      | dsimp only
      | (with_reducible first | refine Kept.upd ?_)

theorem State.lbxSettle_kept {s₀ s : State} {l : Nat} (kp : Kept s₀ s) :
    Kept s₀ (State.lbxSettle s l) := by
  unfold State.lbxSettle
  repeat' first
    | (with_reducible first | assumption | refine lbxSettleGo_kept ?_)
    | dsimp only

theorem State.command_kept {s₀ s : State} {q : Req} {op : Nat} {f : State → State} (hf : ∀ s, Kept s₀ s → Kept s₀ (f s))
    (kp : Kept s₀ s) : Kept s₀ (State.command s q op f) := by
  have k := State.lbxSettle_kept (l := q.lbx) kp
  unfold State.command
  dsimp only
  split
  · split
    · exact State.reply_kept (State.updLbx_kept k)
    · exact hf _ (State.updLbx_kept k)
  · exact k

theorem State.commandWith_kept {s₀ s : State} {q : Req} {op : Nat} {fields : List (Nat × Nat × Nat)} {bad : List (Nat × Bool)}
    {f : State → State} (hf : ∀ s, Kept s₀ s → Kept s₀ (f s)) (kp : Kept s₀ s) :
    Kept s₀ (State.commandWith s q op fields bad f) := by
  unfold State.commandWith
  refine State.command_kept (fun s k => ?_) kp
  split
  · exact State.badReq_kept k
  · exact hf s k

end Sys2Proof.Machine
end

