-- ==== Sys2Proof/Laws/KeptPage.lean ====
section
/-! SUPPORT. Every operation of Machine/Page.lean keeps what every command keeps (`Kept`). -/

namespace Sys2Proof.Machine

theorem State.takeFrame_kept {s₀ s : State} {ptier : Nat} {spread : Bool} {f : Nat} (kp : Kept s₀ s) :
    Kept s₀ (State.takeFrame s ptier spread f) := by
  unfold State.takeFrame
  repeat' first
    | (with_reducible first | assumption | refine kept_ite ?_ ?_)
    | dsimp only
    | (with_reducible first | refine Kept.upd ?_)

theorem State.freeFrame_kept {s₀ s : State} {ptier f : Nat} (kp : Kept s₀ s) :
    Kept s₀ (State.freeFrame s ptier f) := by
  unfold State.freeFrame
  repeat' first
    | (with_reducible first | assumption | refine kept_ite ?_ ?_)
    | dsimp only
    | (with_reducible first | refine Kept.upd ?_)

theorem State.takeSlots_kept {s₀ s : State} {g : WingId} {l : List Nat} (kp : Kept s₀ s) :
    Kept s₀ (State.takeSlots s g l) := by
  unfold State.takeSlots
  repeat' first
    | (with_reducible first | assumption | refine kept_foldl ?_ ?_ | intro _ _ _ | intro _)
    | dsimp only
    | (with_reducible first | refine Kept.upd ?_)

theorem State.openLeaf_kept_eq {u s t : State} {c : CtxId} {ns vpn : Nat} (e : s.openLeaf c ns vpn = some t) (k : Kept u s) :
    Kept u t := by
  refine k.ofTables ?_ fun h => State.openLeaf_apart h e
  unfold State.openLeaf at e
  repeat' split at e
  all_goals first | (injection e with e; subst e; exact ⟨rfl, rfl, rfl, rfl, rfl⟩) | exact absurd e (by simp)

theorem State.putLeaf_kept {u s : State} {c : CtxId} {ns vpn : Nat} {e : W64} (k : Kept u s) : Kept u (s.putLeaf c ns vpn e) := by
  refine k.ofTables ?_ fun h => State.putLeaf_apart h
  unfold State.putLeaf
  split
  · split <;> exact ⟨rfl, rfl, rfl, rfl, rfl⟩
  · exact ⟨rfl, rfl, rfl, rfl, rfl⟩

theorem State.putSub_kept {u s : State} {c : CtxId} {ns vpn j : Nat} {e : W64} (k : Kept u s) : Kept u (s.putSub c ns vpn j e) := by
  refine k.ofTables ?_ fun h => State.putSub_apart h
  unfold State.putSub
  split
  · split <;> exact ⟨rfl, rfl, rfl, rfl, rfl⟩
  · exact ⟨rfl, rfl, rfl, rfl, rfl⟩

theorem State.openSub_kept_eq {u s t : State} {c : CtxId} {ns vpn : Nat} (e : s.openSub c ns vpn = some t) (k : Kept u s) :
    Kept u t := by
  refine k.ofTables ?_ fun h => State.openSub_apart h e
  unfold State.openSub at e
  obtain ⟨v, hv, e⟩ := Option.bind_eq_some_iff.1 e
  obtain ⟨w, -, e⟩ := Option.bind_eq_some_iff.1 e
  obtain ⟨n, -, rfl⟩ := Option.map_eq_some_iff.1 e
  unfold State.openLeaf at hv
  repeat' split at hv
  all_goals first | (injection hv with hv; subst hv; exact ⟨rfl, rfl, rfl, rfl, rfl⟩) | exact absurd hv (by simp)

theorem State.clearPage_kept {u s : State} {c : CtxId} {ns vpn : Nat} (k : Kept u s) : Kept u (s.clearPage c ns vpn) := by
  refine k.ofTables ?_ fun h => State.clearPage_apart h
  unfold State.clearPage State.putLeaf
  dsimp only
  repeat' split
  all_goals exact ⟨rfl, rfl, rfl, rfl, rfl⟩

theorem State.makeRoots_kept {u s : State} {c : CtxId} (k : Kept u s) : Kept u (s.makeRoots c) :=
  k.ofTables ⟨rfl, rfl, rfl, rfl, rfl⟩ fun h => State.makeRoots_apart h

theorem State.dropTables_kept {u s : State} {c : CtxId} (k : Kept u s) : Kept u (s.dropTables c) :=
  k.ofTables ⟨rfl, rfl, rfl, rfl, rfl⟩ fun h => State.dropTables_apart h

theorem State.mapSubs_kept_eq {s₀ s x₀ : State} {c : CtxId} {ns vpn perm : Nat} {p : Placement} 
    (e₀ : State.mapSubs s c ns vpn perm p = some x₀) (kp : Kept s₀ s) : Kept s₀ x₀ := by
  unfold State.mapSubs at e₀
  repeat' first
    | (simp only [reduceCtorEq] at e₀; done)
    | (rw [Option.bind_eq_some_iff] at e₀; obtain ⟨_, _, e₀⟩ := e₀)
    | (rw [Option.map_eq_some_iff] at e₀; obtain ⟨_, _, e₀⟩ := e₀)
    | dsimp only at e₀
    | split at e₀
  all_goals try simp only [Option.some.injEq] at e₀
  all_goals subst_vars
  all_goals repeat' first
      | (with_reducible first | assumption | refine kept_ite ?_ ?_ | refine kept_foldl ?_ ?_ | intro _ _ _)
      | (with_reducible first | intro _ | refine State.takeFrame_kept ?_ | refine State.takeSlots_kept ?_)
      | (with_reducible first | refine State.putSub_kept ?_ | refine State.openSub_kept_eq (by assumption) ?_)
      | dsimp only

theorem State.mapPage_kept_eq {s₀ s x₀ : State} {c : CtxId} {ns vpn perm : Nat} {sub : Bool} {p : Placement} 
    (e₀ : State.mapPage s c ns vpn perm sub p = some x₀) (kp : Kept s₀ s) : Kept s₀ x₀ := by
  unfold State.mapPage at e₀
  repeat' first
    | (simp only [reduceCtorEq] at e₀; done)
    | (rw [Option.bind_eq_some_iff] at e₀; obtain ⟨_, _, e₀⟩ := e₀)
    | (rw [Option.map_eq_some_iff] at e₀; obtain ⟨_, _, e₀⟩ := e₀)
    | dsimp only at e₀
    | split at e₀
  all_goals try simp only [Option.some.injEq] at e₀
  all_goals subst_vars
  all_goals repeat' first
      | (with_reducible first | assumption | refine kept_ite ?_ ?_ | refine State.takeFrame_kept ?_)
      | (with_reducible first | refine State.openLeaf_kept_eq (by assumption) ?_ | refine State.putLeaf_kept ?_)
      | (with_reducible first | refine State.mapSubs_kept_eq (by assumption) ?_)
      | dsimp only

theorem State.mapPages_kept_eq {s₀ s x₀ : State} {c : CtxId} {ns perm : Nat} {sub : Bool} {p : Placement} {vpn k : Nat} (e₀ : State.mapPages s c ns perm sub p vpn k = some x₀) (kp : Kept s₀ s) : Kept s₀ x₀ := by
  induction k generalizing s vpn with
  | zero => simp only [State.mapPages, Option.some.injEq] at e₀; exact e₀ ▸ kp
  | succ k ih =>
    unfold State.mapPages at e₀
    split at e₀
    · exact ih e₀ (State.mapPage_kept_eq (by assumption) kp)
    · exact absurd e₀ (by simp)

theorem State.returnEntry_kept {s₀ s : State} {e : W64} {sub : Bool} (kp : Kept s₀ s) :
    Kept s₀ (State.returnEntry s e sub) := by
  unfold State.returnEntry
  repeat' first
    | (with_reducible first | assumption | refine kept_ite ?_ ?_ | refine State.freeFrame_kept ?_)
    | dsimp only
    | (with_reducible first | refine Kept.upd ?_)

theorem State.unmapPage_kept {s₀ s : State} {c : CtxId} {ns vpn : Nat} (kp : Kept s₀ s) :
    Kept s₀ (State.unmapPage s c ns vpn) := by
  unfold State.unmapPage
  repeat' first
    | (with_reducible first | assumption | refine kept_ite ?_ ?_ | refine kept_foldl ?_ ?_ | intro _ _ _)
    | (with_reducible first | intro _ | refine State.clearPage_kept ?_ | refine State.returnEntry_kept ?_)
    | dsimp only

end Sys2Proof.Machine
end

