-- ==== Sys2Proof/Laws/KeptRing.lean ====
section
/-! SUPPORT. Every operation of Machine/Ring.lean keeps what every command keeps (`Kept`). -/

namespace Sys2Proof.Machine

theorem State.updInflow_kept {s₀ s : State} {p : Bool} {f : Inflow → Inflow} (kp : Kept s₀ s) :
    Kept s₀ (State.updInflow s p f) := by
  unfold State.updInflow
  repeat' first
    | (with_reducible first | assumption | refine kept_ite ?_ ?_)
    | dsimp only
    | (with_reducible first | refine Kept.upd ?_)

theorem State.putHeader_kept {s₀ s : State} {p : Bool} (kp : Kept s₀ s) :
    Kept s₀ (State.putHeader s p) := by
  unfold State.putHeader
  repeat' first
    | (with_reducible first | assumption | refine kept_ite ?_ ?_ | refine State.write_kept ?_)
    | split
    | dsimp only
    | (with_reducible first | refine Kept.upd ?_)

end Sys2Proof.Machine
end

