-- ==== Sys2Proof/Laws/KeptMove.lean ====
section
/-! SUPPORT. Every operation of Machine/Move.lean keeps what every command keeps (`Kept`). -/

namespace Sys2Proof.Machine

theorem kept_foldl_opt {α β : Type} {u x : State} {y : β} {l : List α} {f : Option (State × β) → α → Option (State × β)}
    {o : Option (State × β)} (e : l.foldl f o = some (x, y))
    (hf : ∀ o a, (∀ p, o = some p → Kept u p.1) → ∀ p, f o a = some p → Kept u p.1)
    (ho : ∀ p, o = some p → Kept u p.1) : Kept u x := by
  induction l generalizing o with
  | nil => exact ho _ e
  | cons a l ih => exact ih e (hf o a ho)

theorem State.startCopies_kept_eq {s₀ s x₀ : State} {c : CtxId} {l : List (Dva × Dva × Nat)} {resv : List (StreamId × Stream)}
    {y1 : List StreamId} (e₀ : State.startCopies s c l resv = some (x₀, y1)) (kp : Kept s₀ s) : Kept s₀ x₀ := by
  unfold State.startCopies at e₀
  refine kept_foldl_opt e₀ (fun o a ho p e => ?_) fun p e => by injection e with e; exact e ▸ kp
  obtain ⟨q, hq, e⟩ := Option.bind_eq_some_iff.1 e
  have k := ho q hq
  dsimp only at e
  split at e
  · injection e with e; exact e ▸ k
  · obtain ⟨_, -, e⟩ := Option.map_eq_some_iff.1 e
    exact e ▸ State.setStream_kept k

theorem State.dropCopy_kept {s₀ s : State} {sid : StreamId} (kp : Kept s₀ s) :
    Kept s₀ (State.dropCopy s sid) := by
  unfold State.dropCopy
  repeat' first
    | (with_reducible first | assumption)
    | dsimp only
    | (with_reducible first | refine Kept.upd ?_)

theorem State.memoryEvent_kept {s₀ s : State} {tier kind unit : Nat} {addr row spares : Nat} (kp : Kept s₀ s) :
    Kept s₀ (State.memoryEvent s tier kind unit addr row spares) := by
  unfold State.memoryEvent
  repeat' first
    | (with_reducible first | assumption | refine State.devEvent_kept ?_)
    | dsimp only

theorem State.moveParts_kept_eq {s₀ s x₀ : State} {c : CtxId} {ns vpn : Nat} {p : Placement} {y1}
    (e₀ : State.moveParts s c ns vpn p = some (x₀, y1)) (kp : Kept s₀ s) : Kept s₀ x₀ := by
  unfold State.moveParts at e₀
  repeat' first
    | (simp only [reduceCtorEq] at e₀; done)
    | (rw [Option.map_eq_some_iff] at e₀; obtain ⟨_, _, e₀⟩ := e₀)
    | dsimp only at e₀
    | split at e₀
  all_goals try simp only [Option.some.injEq, Prod.mk.injEq] at e₀
  all_goals try obtain ⟨_, _⟩ := e₀
  all_goals subst_vars
  all_goals repeat' first
      | (with_reducible first | assumption | refine kept_ite ?_ ?_ | refine State.takeFrame_kept ?_)
      | (with_reducible first | refine State.takeSlots_kept ?_)
      | dsimp only

theorem State.putParts_kept {s₀ s : State} {c : CtxId} {ns vpn : Nat} {parts : List (Nat × W64 × W64)} {f : W64 × W64 → W64} (kp : Kept s₀ s) :
    Kept s₀ (State.putParts s c ns vpn parts f) := by
  unfold State.putParts
  repeat' first
    | (with_reducible first | assumption | refine kept_ite ?_ ?_ | refine kept_foldl ?_ ?_ | intro _ _ _)
    | (with_reducible first | intro _ | refine State.putLeaf_kept ?_ | refine State.putSub_kept ?_)
    | dsimp only

theorem State.freeParts_kept {s₀ s : State} {parts : List (Nat × W64 × W64)} {f : W64 × W64 → W64} (kp : Kept s₀ s) :
    Kept s₀ (State.freeParts s parts f) := by
  unfold State.freeParts
  repeat' first
    | (with_reducible first | assumption | refine kept_foldl ?_ ?_ | intro _ _ _ | intro _)
    | (with_reducible first | refine State.returnEntry_kept ?_)
    | dsimp only

theorem State.beginMove_kept {s₀ s : State} {c : CtxId} {ns vpn : Nat} {parts : List (Nat × W64 × W64)} {sid : StreamId} (kp : Kept s₀ s) :
    Kept s₀ (State.beginMove s c ns vpn parts sid) := by
  unfold State.beginMove
  repeat' first
    | (with_reducible first | assumption | refine kept_ite ?_ ?_ | refine State.setStream_kept ?_)
    | (with_reducible first | refine State.invalidate_kept ?_ | refine State.putParts_kept ?_)
    | dsimp only

theorem State.resumeRings_kept {s₀ s : State} {parts : List (Nat × W64 × W64)} (kp : Kept s₀ s) :
    Kept s₀ (State.resumeRings s parts) := by
  unfold State.resumeRings
  repeat' first
    | (with_reducible first | assumption | refine kept_ite ?_ ?_ | refine kept_foldl ?_ ?_ | intro _ _ _)
    | (with_reducible first | intro _ | refine State.putHeader_kept ?_)
    | dsimp only

theorem State.endMove_kept {s₀ s : State} {c : CtxId} {ns vpn : Nat} {parts : List (Nat × W64 × W64)} (kp : Kept s₀ s) :
    Kept s₀ (State.endMove s c ns vpn parts) := by
  unfold State.endMove
  repeat' first
    | (with_reducible first | assumption | refine kept_ite ?_ ?_ | refine State.invalidate_kept ?_)
    | (with_reducible first | refine State.putParts_kept ?_ | refine State.freeParts_kept ?_)
    | (with_reducible first | refine State.resumeRings_kept ?_)
    | dsimp only
    | (with_reducible first | refine Kept.upd ?_)

theorem State.undoMove_kept {s₀ s : State} {c : CtxId} {ns vpn : Nat} {parts : List (Nat × W64 × W64)} (kp : Kept s₀ s) :
    Kept s₀ (State.undoMove s c ns vpn parts) := by
  unfold State.undoMove
  repeat' first
    | (with_reducible first | assumption | refine State.putParts_kept ?_ | refine State.freeParts_kept ?_)
    | (with_reducible first | refine State.resumeRings_kept ?_)
    | dsimp only

theorem State.retireDone_kept {s₀ s : State} {unit : Nat} {all : Bool} (kp : Kept s₀ s) :
    Kept s₀ (State.retireDone s unit all) := by
  unfold State.retireDone
  repeat' first
    | (with_reducible first | assumption | refine kept_ite ?_ ?_ | refine State.updIdent_kept ?_)
    | (with_reducible first | refine State.memoryEvent_kept ?_)
    | dsimp only
    | (with_reducible first | refine Kept.upd ?_)

theorem State.moveOver_kept {s₀ s : State} {m : PageMove} {status detail : Nat} (kp : Kept s₀ s) :
    Kept s₀ (State.moveOver s m status detail) := by
  unfold State.moveOver
  repeat' first
    | (with_reducible first | intro _ _ | assumption | refine kept_ite ?_ ?_ | refine kept_foldl ?_ ?_)
    | (with_reducible first | intro _ _ _ | intro _ | refine State.reply_kept ?_)
    | (with_reducible first | refine State.command_kept ?_ ?_ | refine State.memoryEvent_kept ?_)
    | (with_reducible first | refine State.retireDone_kept ?_)
    | split
    | dsimp only
    | (with_reducible first | refine Kept.upd ?_)

theorem State.moveStuck_kept {s₀ s : State} {m : PageMove} {rest : List PageMove} {status detail : Nat} (kp : Kept s₀ s) :
    Kept s₀ (State.moveStuck s m rest status detail) := by
  unfold State.moveStuck
  repeat' first
    | (with_reducible first | intro _ _ | assumption | refine State.command_kept ?_ ?_)
    | (with_reducible first | refine State.moveOver_kept ?_)
    | split
    | dsimp only
    | (with_reducible first | refine Kept.upd ?_)

theorem State.moveNext_kept {s₀ s : State} {k : Nat} (kp : Kept s₀ s) : Kept s₀ (State.moveNext k s) := by
  induction k generalizing s with
  | zero => simpa only [State.moveNext] using kp
  | succ k ih =>
    unfold State.moveNext
    split
    · exact kp
    · split
      · exact kp
      · exact ih (State.moveOver_kept (Kept.upd kp))
      · refine kept_ite (ih (Kept.upd kp)) ?_
        split
        · exact ih (State.moveStuck_kept kp)
        · exact ih (State.moveStuck_kept kp)
        · rename_i e
          obtain ⟨p, -, h⟩ := List.exists_of_findSome?_eq_some e
          exact State.beginMove_kept (Kept.upd (State.moveParts_kept_eq h kp))

theorem State.runMoves_kept {s₀ s : State}  (kp : Kept s₀ s) :
    Kept s₀ (State.runMoves s) := by
  unfold State.runMoves
  repeat' first
    | (with_reducible first | assumption | refine State.moveNext_kept ?_)
    | dsimp only

theorem State.addMove_kept {s₀ s : State} {m : PageMove} (kp : Kept s₀ s) :
    Kept s₀ (State.addMove s m) := by
  unfold State.addMove
  repeat' first
    | (with_reducible first | assumption | refine State.runMoves_kept ?_)
    | dsimp only
    | (with_reducible first | refine Kept.upd ?_)

theorem State.moveEnded_kept {s₀ s : State} {sid : StreamId} {st : StreamSt} {code : Nat} (kp : Kept s₀ s) :
    Kept s₀ (State.moveEnded s sid st code) := by
  unfold State.moveEnded
  repeat' first
    | (with_reducible first | assumption | refine State.dropCopy_kept ?_ | refine State.endMove_kept ?_)
    | (with_reducible first | refine State.undoMove_kept ?_ | refine State.moveStuck_kept ?_)
    | (with_reducible first | refine State.runMoves_kept ?_)
    | split
    | dsimp only
    | (with_reducible first | refine Kept.upd ?_)

theorem State.dropMove_kept {s₀ s : State} {hit : CtxId → Nat → Nat → Bool} (kp : Kept s₀ s) :
    Kept s₀ (State.dropMove s hit) := by
  unfold State.dropMove
  repeat' first
    | (with_reducible first | assumption | refine kept_ite ?_ ?_ | refine State.dropCopy_kept ?_)
    | (with_reducible first | refine State.undoMove_kept ?_)
    | split
    | dsimp only
    | (with_reducible first | refine Kept.upd ?_)

theorem State.abortMoves_kept {s₀ s : State} {c : CtxId} (kp : Kept s₀ s) :
    Kept s₀ (State.abortMoves s c) := by
  unfold State.abortMoves
  repeat' first
    | (with_reducible first | intro _ _ | assumption | refine kept_foldl ?_ ?_ | intro _ _ _ | intro _)
    | (with_reducible first | refine State.command_kept ?_ ?_ | refine State.moveOver_kept ?_)
    | (with_reducible first | refine State.runMoves_kept ?_ | refine State.dropMove_kept ?_)
    | split
    | dsimp only
    | (with_reducible first | refine Kept.upd ?_)

theorem State.unmapRange_kept {s₀ s : State} {c : CtxId} {ns vpn n : Nat} (kp : Kept s₀ s) :
    Kept s₀ (State.unmapRange s c ns vpn n) := by
  unfold State.unmapRange
  repeat' first
    | (with_reducible first | assumption | refine kept_foldl ?_ ?_ | intro _ _ _ | intro _)
    | (with_reducible first | refine State.invalidate_kept ?_ | refine State.unmapPage_kept ?_)
    | (with_reducible first | refine State.runMoves_kept ?_ | refine State.dropMove_kept ?_)
    | dsimp only

theorem State.pageCommand_kept {s₀ s : State} {q : Req} {op : Nat} {fields : List (Nat × Nat × Nat)} {bad : List (Nat × Bool)} {f : State → State} (hf : ∀ s, Kept s₀ s → Kept s₀ (f s))  (kp : Kept s₀ s) :
    Kept s₀ (State.pageCommand s q op fields bad f) := by
  unfold State.pageCommand
  repeat' first
    | (with_reducible first | intro _ _ | assumption | refine kept_ite ?_ ?_)
    | (with_reducible first | refine State.commandWith_kept ?_ ?_ | apply hf | exact PKept.pure kp)
    | (with_reducible first | refine PKept.pure ?_ | refine PKept.throw ?_ | refine PKept.modify ?_)
    | (with_reducible first | refine PKept.set ?_ | refine PKept.getBind ?_ | refine PKept.get ?_)
    | (with_reducible first | refine PKept.map ?_ | refine PKept.ite ?_ ?_ | refine PKept.bind ?_ ?_)
    | (with_reducible first | refine PKept.forM ?_ ?_ | intro _ _ _ | refine PKept.ok (by assumption) ?_)
    | (with_reducible first | refine PKept.error (by assumption) ?_ | intro _)
    | dsimp only

theorem execPageMap_kept {s : State} {q : Req} : OKept s (execPageMap q s) := by
  unfold execPageMap
  have kp := Kept.refl s
  repeat' first
    | (with_reducible first | refine OKept.next ?_ | refine okept_ite ?_ ?_ | assumption | refine kept_ite ?_ ?_)
    | (with_reducible first | intro _ _  | refine State.reply_kept ?_)
    | (with_reducible first | refine State.mapPages_kept_eq (by assumption) ?_)
    | (with_reducible first | refine State.pageCommand_kept ?_ ?_)
    | split
    | dsimp only
    | (with_reducible first | refine Kept.upd ?_)

theorem execPageUnmap_kept {s : State} {q : Req} : OKept s (execPageUnmap q s) := by
  unfold execPageUnmap
  have kp := Kept.refl s
  repeat' first
    | (with_reducible first | refine OKept.next ?_ | refine okept_ite ?_ ?_ | assumption | refine kept_ite ?_ ?_)
    | (with_reducible first | intro _ _  | refine State.reply_kept ?_ | refine State.unmapRange_kept ?_)
    | (with_reducible first | refine State.pageCommand_kept ?_ ?_)
    | dsimp only

theorem execPageProt_kept {s : State} {q : Req} : OKept s (execPageProt q s) := by
  unfold execPageProt
  have kp := Kept.refl s
  repeat' first
    | (with_reducible first | refine OKept.next ?_ | refine okept_ite ?_ ?_ | assumption | refine kept_ite ?_ ?_)
    | (with_reducible first | refine kept_foldl ?_ ?_ | intro _ _ _ | intro _ | intro _ _ )
    | (with_reducible first | refine State.invalidate_kept ?_ | refine State.reply_kept ?_)
    | (with_reducible first | refine State.putLeaf_kept ?_ | refine State.putSub_kept ?_)
    | (with_reducible first | refine State.pageCommand_kept ?_ ?_)
    | dsimp only

theorem execPageMove_kept {s : State} {q : Req} : OKept s (execPageMove q s) := by
  unfold execPageMove
  have kp := Kept.refl s
  repeat' first
    | (with_reducible first | intro _ _ | refine OKept.next ?_ | refine okept_ite ?_ ?_ | assumption)
    | (with_reducible first | refine kept_ite ?_ ?_ | intro _ _  | refine State.reply_kept ?_)
    | (with_reducible first | refine State.accept_kept ?_ | refine State.command_kept ?_ ?_)
    | (with_reducible first | refine State.addMove_kept ?_ | refine State.pageCommand_kept ?_ ?_)
    | dsimp only

theorem execTlbInval_kept {s : State} {q : Req} : OKept s (execTlbInval q s) := by
  unfold execTlbInval
  have kp := Kept.refl s
  repeat' first
    | (with_reducible first | refine OKept.next ?_ | assumption | intro _ _  | refine State.invalidate_kept ?_)
    | (with_reducible first | refine State.reply_kept ?_ | refine State.pageCommand_kept ?_ ?_)
    | split
    | dsimp only
    | (with_reducible first | refine Kept.upd ?_)

end Sys2Proof.Machine
end

