-- ==== Sys2Proof/Laws/KeptRoomCmd.lean ====
section
/-! SUPPORT. Every operation of Machine/RoomCmd.lean keeps what every command keeps (`Kept`). -/

namespace Sys2Proof.Machine

theorem State.cfbWrite_kept {s₀ s : State} {r : RoomId} {off v : Nat} (kp : Kept s₀ s) :
    Kept s₀ (State.cfbWrite s r off v) := by
  unfold State.cfbWrite
  repeat' first
    | (with_reducible first | assumption | refine kept_ite ?_ ?_ | refine kept_foldl ?_ ?_ | intro _ _ _)
    | (with_reducible first | intro _ | refine State.updRoom_kept ?_ | refine State.updPortIn_kept ?_)
    | (with_reducible first | refine State.ctrlWrite_kept ?_)
    | dsimp only
    | (with_reducible first | refine Kept.upd ?_)

theorem State.cfbAccess_kept {s₀ s : State} {q : Req} {wr : Bool} (kp : Kept s₀ s) :
    Kept s₀ (State.cfbAccess s q wr) := by
  unfold State.cfbAccess
  repeat' first
    | (with_reducible first | intro _ _ | assumption | refine kept_ite ?_ ?_ | refine State.reply_kept ?_)
    | (with_reducible first | refine State.commandWith_kept ?_ ?_ | refine State.cfbWrite_kept ?_)
    | split
    | dsimp only
    | (with_reducible first | refine Kept.upd ?_)

theorem execCfbAccessRead_kept {s : State} {q : Req} : OKept s (execCfbAccessRead q s) := by
  unfold execCfbAccessRead
  have kp := Kept.refl s
  repeat' first
    | (with_reducible first | refine OKept.next ?_ | assumption | refine State.cfbAccess_kept ?_)
    | dsimp only

theorem execCfbAccessWrite_kept {s : State} {q : Req} : OKept s (execCfbAccessWrite q s) := by
  unfold execCfbAccessWrite
  have kp := Kept.refl s
  repeat' first
    | (with_reducible first | refine OKept.next ?_ | assumption | refine State.cfbAccess_kept ?_)
    | dsimp only

theorem execSlotLoad_kept {s : State} {q : Req} : OKept s (execSlotLoad q s) := by
  unfold execSlotLoad
  have kp := Kept.refl s
  repeat' first
    | (with_reducible first | intro _ _ | refine OKept.next ?_ | refine okept_ite ?_ ?_ | assumption)
    | (with_reducible first | refine kept_ite ?_ ?_ | refine State.requestLoad_kept ?_)
    | (with_reducible first | refine State.reply_kept ?_ | refine State.commandWith_kept ?_ ?_)
    | dsimp only

theorem execDebugRead_kept {s : State} {q : Req} : OKept s (execDebugRead q s) := by
  unfold execDebugRead
  have kp := Kept.refl s
  repeat' first
    | (with_reducible first | intro _ _ | refine OKept.next ?_ | refine okept_ite ?_ ?_ | assumption)
    | (with_reducible first | refine kept_ite ?_ ?_ | refine State.reply_kept ?_)
    | (with_reducible first | refine State.commandWith_kept ?_ ?_)
    | dsimp only

end Sys2Proof.Machine
end

