-- ==== Sys2Proof/Laws/KeptDumbwaiter.lean ====
section
/-! SUPPORT. Every operation of Machine/Dumbwaiter.lean keeps what every command keeps (`Kept`). -/

namespace Sys2Proof.Machine

theorem State.writeStatus_kept {s₀ s : State} {sid : StreamId} (kp : Kept s₀ s) :
    Kept s₀ (State.writeStatus s sid) := by
  unfold State.writeStatus
  repeat' first
    | (with_reducible first | assumption | refine State.dvaWrite_kept ?_)
    | (with_reducible first | refine State.dvaWrite_kept_eq (by assumption) ?_)
    | split
    | dsimp only
    | (with_reducible first | refine Kept.upd ?_)

theorem State.dropWaits_kept {s₀ s : State} {who : Waiter} (kp : Kept s₀ s) :
    Kept s₀ (State.dropWaits s who) := by
  unfold State.dropWaits
  repeat' first
    | (with_reducible first | assumption | refine kept_ite ?_ ?_)
    | dsimp only
    | (with_reducible first | refine Kept.upd ?_)

theorem State.dropFetch_kept {s₀ s : State} {sid : StreamId} (kp : Kept s₀ s) :
    Kept s₀ (State.dropFetch s sid) := by
  unfold State.dropFetch
  repeat' first
    | (with_reducible first | assumption | refine State.updStream_kept ?_)
    | split
    | dsimp only
    | (with_reducible first | refine Kept.upd ?_)

theorem State.endStream_kept {s₀ s : State} {sid : StreamId} {st : StreamSt} (kp : Kept s₀ s) :
    Kept s₀ (State.endStream s sid st) := by
  unfold State.endStream
  repeat' first
    | (with_reducible first | assumption | refine kept_ite ?_ ?_ | refine State.updStream_kept ?_)
    | (with_reducible first | refine State.ctxEvent_kept ?_ | refine State.moveEnded_kept ?_)
    | (with_reducible first | refine State.writeStatus_kept ?_ | refine State.dropWaits_kept ?_)
    | (with_reducible first | refine State.dropFetch_kept ?_)
    | split
    | dsimp only
    | (with_reducible first | refine Kept.upd ?_)

theorem State.stopStream_kept {s₀ s : State} {sid : StreamId} {code : Nat} {dva : Dva} (kp : Kept s₀ s) :
    Kept s₀ (State.stopStream s sid code dva) := by
  unfold State.stopStream
  repeat' first
    | (with_reducible first | assumption | refine kept_ite ?_ ?_ | refine State.updStream_kept ?_)
    | dsimp only
    | (with_reducible first | refine Kept.upd ?_)

theorem State.settleStreamGo_kept {s₀ s : State} {k : Nat} {sid : StreamId} (kp : Kept s₀ s) : Kept s₀ (State.settleStreamGo k sid s) := by
  induction k generalizing s with
  | zero => simpa only [State.settleStreamGo] using kp
  | succ k ih =>
    unfold State.settleStreamGo
    repeat' first
      | with_reducible refine ih ?_
      | (with_reducible first | assumption | refine kept_ite ?_ ?_ | refine State.updStream_kept ?_)
      | (with_reducible first | refine State.raise_kept ?_ | refine State.endStream_kept ?_)
      | (with_reducible first | refine State.stopStream_kept ?_)
      | split
      | dsimp only
      | (with_reducible first | refine Kept.upd ?_)

theorem State.settleStream_kept {s₀ s : State} {sid : StreamId} (kp : Kept s₀ s) :
    Kept s₀ (State.settleStream s sid) := by
  unfold State.settleStream
  repeat' first
    | (with_reducible first | assumption | refine State.settleStreamGo_kept ?_)
    | dsimp only

theorem State.dwAccess_kept {s₀ s : State} {sid : StreamId} {t : Stream} {write : Bool} {d : Dva} {n : Nat} {data : List Byte} {bad : List Nat} (kp : Kept s₀ s) :
    Kept s₀ (State.dwAccess s sid t write d n data bad).2 := by
  unfold State.dwAccess
  repeat' first
    | (with_reducible first | assumption | refine State.write_kept ?_ | refine State.violation_kept ?_)
    | (with_reducible first | refine State.setDone_kept ?_ | refine State.translated_kept ?_)
    | (with_reducible first | refine State.addAccess_kept ?_ | refine State.addAccess_kept_eq (by assumption) ?_)
    | (with_reducible first | refine State.issue_kept ?_)
    | split
    | dsimp only
    | (with_reducible first | refine Kept.upd ?_)

theorem State.dwAccess_kept_eq {s₀ s x₀ : State} {sid : StreamId} {t : Stream} {write : Bool} {d : Dva} {n : Nat} {data : List Byte} {bad : List Nat} {y0}
    (e₀ : State.dwAccess s sid t write d n data bad = (y0, x₀)) (kp : Kept s₀ s) : Kept s₀ x₀ := by
  have k := @State.dwAccess_kept s₀ s sid t write d n data bad  kp
  rw [e₀] at k; exact k

theorem State.grant_kept {s₀ s : State} {sid : StreamId} {t : Stream} {tm : W32} (kp : Kept s₀ s) :
    Kept s₀ (State.grant s sid t tm) := by
  unfold State.grant
  repeat' first
    | (with_reducible first | assumption | refine kept_ite ?_ ?_ | refine State.updWing_kept ?_)
    | (with_reducible first | refine State.updStream_kept ?_ | refine State.dwAccess_kept ?_)
    | (with_reducible first | refine State.dwAccess_kept_eq (by assumption) ?_)
    | split
    | dsimp only
    | (with_reducible first | refine Kept.upd ?_)

end Sys2Proof.Machine
end

