-- ==== Sys2Proof/Laws/KeptBolt.lean ====
section
/-! SUPPORT. Every operation of Machine/Bolt.lean keeps what every command keeps (`Kept`). -/

namespace Sys2Proof.Machine

theorem State.updBolt_kept {s₀ s : State} {b : BoltId} {f : Bolt → Bolt} (kp : Kept s₀ s) :
    Kept s₀ (State.updBolt s b f) := by
  unfold State.updBolt
  repeat' first
    | (with_reducible first | assumption | refine State.setBolt_kept ?_)
    | dsimp only

theorem State.boltReply_kept {s₀ s : State} {who : Waiter} {error : Bool} {err : Byte} {result : W32} (kp : Kept s₀ s) :
    Kept s₀ (State.boltReply s who error err result) := by
  unfold State.boltReply
  repeat' first
    | (with_reducible first | assumption | refine kept_ite ?_ ?_ | refine State.respond_kept ?_)
    | split
    | dsimp only
    | (with_reducible first | refine Kept.upd ?_)

theorem State.boltAnswer_kept {s₀ s : State} {q : BoltReq} {error : Bool} {err : Byte} {result : W32} (kp : Kept s₀ s) :
    Kept s₀ (State.boltAnswer s q error err result) := by
  unfold State.boltAnswer
  repeat' first
    | (with_reducible first | assumption | refine kept_ite ?_ ?_ | refine State.boltReply_kept ?_)
    | dsimp only

theorem State.wakeGo_kept {s₀ s : State} {k : Nat} {b : BoltId} (kp : Kept s₀ s) : Kept s₀ (State.wakeGo k b s) := by
  induction k generalizing s with
  | zero => simpa only [State.wakeGo] using kp
  | succ k ih =>
    unfold State.wakeGo
    repeat' first
      | with_reducible refine ih ?_
      | (with_reducible first | assumption | refine kept_ite ?_ ?_ | refine State.setBolt_kept ?_)
      | (with_reducible first | refine State.boltReply_kept ?_)
      | split
      | dsimp only
      | (with_reducible first | refine Kept.upd ?_)

theorem State.wake_kept {s₀ s : State} {b : BoltId} (kp : Kept s₀ s) :
    Kept s₀ (State.wake s b) := by
  unfold State.wake
  repeat' first
    | (with_reducible first | assumption | refine State.wakeGo_kept ?_)
    | dsimp only

theorem State.treeSend_kept {s₀ s : State} {b : BoltId} {node : NodeId} {ty : Nat} {err : Nat} (kp : Kept s₀ s) :
    Kept s₀ (State.treeSend s b node ty err) := by
  unfold State.treeSend
  repeat' first
    | (with_reducible first | assumption | refine State.send_kept ?_)
    | split
    | dsimp only
    | (with_reducible first | refine Kept.upd ?_)

theorem State.boltError_kept {s₀ s : State} {b : BoltId} {code : Byte} (kp : Kept s₀ s) :
    Kept s₀ (State.boltError s b code) := by
  unfold State.boltError
  repeat' first
    | (with_reducible first | assumption | refine kept_ite ?_ ?_ | refine kept_foldl ?_ ?_ | intro _ _ _)
    | (with_reducible first | intro _ | refine State.setBolt_kept ?_ | refine State.boltReply_kept ?_)
    | (with_reducible first | refine State.treeSend_kept ?_)
    | dsimp only
    | (with_reducible first | refine Kept.upd ?_)

theorem State.jobError_kept {s₀ s : State} {job : W32} {code : Byte} (kp : Kept s₀ s) :
    Kept s₀ (State.jobError s job code) := by
  unfold State.jobError
  repeat' first
    | (with_reducible first | assumption | refine kept_ite ?_ ?_ | refine kept_foldl ?_ ?_ | intro _ _ _)
    | (with_reducible first | intro _ | refine State.boltError_kept ?_)
    | dsimp only

theorem State.release_kept {s₀ s : State} {b : BoltId} (kp : Kept s₀ s) :
    Kept s₀ (State.release s b) := by
  unfold State.release
  repeat' first
    | (with_reducible first | assumption | refine kept_foldl ?_ ?_ | intro _ _ _ | intro _)
    | (with_reducible first | refine State.setBolt_kept ?_ | refine State.wake_kept ?_)
    | (with_reducible first | refine State.treeSend_kept ?_)
    | dsimp only
    | (with_reducible first | refine Kept.upd ?_)

theorem State.releaseGo_kept {s₀ s : State} {k : Nat} {b : BoltId} (kp : Kept s₀ s) : Kept s₀ (State.releaseGo k b s) := by
  induction k generalizing s with
  | zero => simpa only [State.releaseGo] using kp
  | succ k ih =>
    unfold State.releaseGo
    repeat' first
      | with_reducible refine ih ?_
      | (with_reducible first | assumption | refine kept_ite ?_ ?_ | refine State.updBolt_kept ?_)
      | (with_reducible first | refine State.release_kept ?_)
      | split
      | dsimp only
      | (with_reducible first | refine Kept.upd ?_)

theorem State.evaluate_kept {s₀ s : State} {b : BoltId} (kp : Kept s₀ s) :
    Kept s₀ (State.evaluate s b) := by
  unfold State.evaluate
  repeat' first
    | (with_reducible first | assumption | refine kept_ite ?_ ?_ | refine State.updBolt_kept ?_)
    | (with_reducible first | refine State.treeSend_kept ?_ | refine State.boltError_kept ?_)
    | (with_reducible first | refine State.releaseGo_kept ?_)
    | dsimp only
    | (with_reducible first | refine Kept.upd ?_)

theorem State.arrive_kept {s₀ s : State} {b : BoltId} {n : W32} (kp : Kept s₀ s) :
    Kept s₀ (State.arrive s b n) := by
  unfold State.arrive
  repeat' first
    | (with_reducible first | assumption | refine State.updBolt_kept ?_ | refine State.wake_kept ?_)
    | (with_reducible first | refine State.evaluate_kept ?_)
    | dsimp only
    | (with_reducible first | refine Kept.upd ?_)

theorem State.releaseNow_kept {s₀ s : State} {b : BoltId} (kp : Kept s₀ s) :
    Kept s₀ (State.releaseNow s b) := by
  unfold State.releaseNow
  repeat' first
    | (with_reducible first | assumption | refine kept_ite ?_ ?_ | refine State.updBolt_kept ?_)
    | (with_reducible first | refine State.release_kept ?_ | refine State.evaluate_kept ?_)
    | dsimp only
    | (with_reducible first | refine Kept.upd ?_)

theorem State.releaseHeld_kept {s₀ s : State} {c : CtxId} (kp : Kept s₀ s) :
    Kept s₀ (State.releaseHeld s c) := by
  unfold State.releaseHeld
  repeat' first
    | (with_reducible first | assumption | refine kept_ite ?_ ?_ | refine kept_foldl ?_ ?_ | intro _ _ _)
    | (with_reducible first | intro _ | refine State.releaseNow_kept ?_)
    | dsimp only

theorem State.register_kept_eq {s₀ s x₀ : State} {q : BoltReq} {phase0 : W32} 
    (e₀ : State.register s q phase0 = some x₀) (kp : Kept s₀ s) : Kept s₀ x₀ := by
  unfold State.register at e₀
  repeat' first
    | (simp only [reduceCtorEq] at e₀; done)
    | dsimp only at e₀
    | split at e₀
  all_goals try simp only [Option.some.injEq] at e₀
  all_goals subst_vars
  all_goals repeat' first
      | (with_reducible first | assumption | refine kept_ite ?_ ?_ | refine State.updBolt_kept ?_)
      | dsimp only
      | (with_reducible first | refine Kept.upd ?_)

theorem State.refuseOp_kept {s₀ s : State} {q : BoltReq} (kp : Kept s₀ s) :
    Kept s₀ (State.refuseOp s q) := by
  unfold State.refuseOp
  repeat' first
    | (with_reducible first | assumption | refine kept_ite ?_ ?_ | refine State.faultRoom_kept ?_)
    | (with_reducible first | refine State.respond_kept ?_ | refine State.stopStream_kept ?_)
    | (with_reducible first | refine State.settleStream_kept ?_)
    | split
    | dsimp only
    | (with_reducible first | refine Kept.upd ?_)

theorem State.setValue_kept {s₀ s : State} {b : BoltId} {v : W32} (kp : Kept s₀ s) :
    Kept s₀ (State.setValue s b v) := by
  unfold State.setValue
  repeat' first
    | (with_reducible first | assumption | refine kept_ite ?_ ?_ | refine State.setBolt_kept ?_)
    | (with_reducible first | refine State.wake_kept ?_)
    | dsimp only
    | (with_reducible first | refine Kept.upd ?_)

theorem State.opWait_kept_eq {s₀ s x₀ : State} {q : BoltReq} 
    (e₀ : State.opWait s q = some x₀) (kp : Kept s₀ s) : Kept s₀ x₀ := by
  unfold State.opWait at e₀
  repeat' first
    | (simp only [reduceCtorEq] at e₀; done)
    | dsimp only at e₀
    | split at e₀
  all_goals try simp only [Option.some.injEq] at e₀
  all_goals subst_vars
  all_goals repeat' first
      | (with_reducible first | assumption | refine kept_ite ?_ ?_ | refine State.boltAnswer_kept ?_)
      | (with_reducible first | refine State.register_kept_eq (by assumption) ?_)
      | dsimp only

theorem State.opArrive_kept {s₀ s : State} {q : BoltReq} (kp : Kept s₀ s) :
    Kept s₀ (State.opArrive s q) := by
  unfold State.opArrive
  repeat' first
    | (with_reducible first | assumption | refine State.boltAnswer_kept ?_ | refine State.arrive_kept ?_)
    | dsimp only

theorem State.opArriveWait_kept_eq {s₀ s x₀ : State} {q : BoltReq} 
    (e₀ : State.opArriveWait s q = some x₀) (kp : Kept s₀ s) : Kept s₀ x₀ := by
  unfold State.opArriveWait at e₀
  repeat' first
    | (simp only [reduceCtorEq] at e₀; done)
    | dsimp only at e₀
    | split at e₀
  all_goals try simp only [Option.some.injEq] at e₀
  all_goals subst_vars
  all_goals repeat' first
      | (with_reducible first | assumption | refine kept_ite ?_ ?_ | refine State.boltAnswer_kept ?_)
      | (with_reducible first | refine State.arrive_kept ?_ | refine State.register_kept_eq (by assumption) ?_)
      | dsimp only

theorem State.opAdd_kept {s₀ s : State} {q : BoltReq} (kp : Kept s₀ s) :
    Kept s₀ (State.opAdd s q) := by
  unfold State.opAdd
  repeat' first
    | (with_reducible first | assumption | refine State.boltAnswer_kept ?_ | refine State.setValue_kept ?_)
    | dsimp only

theorem State.opSet_kept {s₀ s : State} {q : BoltReq} (kp : Kept s₀ s) :
    Kept s₀ (State.opSet s q) := by
  unfold State.opSet
  repeat' first
    | (with_reducible first | assumption | refine State.boltAnswer_kept ?_ | refine State.setValue_kept ?_)
    | dsimp only

theorem State.opAcquire_kept_eq {s₀ s x₀ : State} {q : BoltReq} 
    (e₀ : State.opAcquire s q = some x₀) (kp : Kept s₀ s) : Kept s₀ x₀ := by
  unfold State.opAcquire at e₀
  repeat' first
    | (simp only [reduceCtorEq] at e₀; done)
    | dsimp only at e₀
    | split at e₀
  all_goals try simp only [Option.some.injEq] at e₀
  all_goals subst_vars
  all_goals repeat' first
      | (with_reducible first | assumption | refine kept_ite ?_ ?_ | refine State.boltAnswer_kept ?_)
      | (with_reducible first | refine State.register_kept_eq (by assumption) ?_ | refine State.setValue_kept ?_)
      | dsimp only

theorem State.opFault_kept {s₀ s : State} {q : BoltReq} (kp : Kept s₀ s) :
    Kept s₀ (State.opFault s q) := by
  unfold State.opFault
  repeat' first
    | (with_reducible first | assumption | refine kept_ite ?_ ?_ | refine State.bumpFree_kept ?_)
    | (with_reducible first | refine State.raise_kept ?_ | refine State.boltAnswer_kept ?_)
    | dsimp only

theorem State.boltDo_kept_eq {s₀ s x₀ : State} {q : BoltReq} 
    (e₀ : State.boltDo s q = some x₀) (kp : Kept s₀ s) : Kept s₀ x₀ := by
  unfold State.boltDo at e₀
  repeat' first
    | (simp only [reduceCtorEq] at e₀; done)
    | dsimp only at e₀
    | split at e₀
  all_goals try simp only [Option.some.injEq] at e₀
  all_goals subst_vars
  all_goals repeat' first
      | (with_reducible first | assumption | refine kept_ite ?_ ?_ | refine State.boltAnswer_kept ?_)
      | (with_reducible first | refine State.refuseOp_kept ?_ | refine State.opWait_kept_eq (by assumption) ?_)
      | (with_reducible first | refine State.opArrive_kept ?_)
      | (with_reducible first | refine State.opArriveWait_kept_eq (by assumption) ?_)
      | (with_reducible first | refine State.opAdd_kept ?_ | refine State.opSet_kept ?_)
      | (with_reducible first | refine State.opAcquire_kept_eq (by assumption) ?_ | refine State.opFault_kept ?_)
      | split
      | dsimp only
      | (with_reducible first | refine Kept.upd ?_)

theorem State.engineStep_kept {s₀ s : State} {d : DieId} {op : BitVec 4} (kp : Kept s₀ s) :
    Kept s₀ (State.engineStep s d op) := by
  unfold State.engineStep
  repeat' first
    | (with_reducible first | assumption | refine kept_ite ?_ ?_)
    | (with_reducible first | refine State.boltDo_kept_eq (by assumption) ?_ | refine kept_getD ?_ ?_)
    | (with_reducible first | intro _ _)
    | split
    | dsimp only
    | (with_reducible first | refine Kept.upd ?_)

theorem execBoltopWait_kept {s : State} {d : DieId} : OKept s (execBoltopWait d s) := by
  unfold execBoltopWait
  have kp := Kept.refl s
  repeat' first
    | (with_reducible first | refine OKept.next ?_ | assumption | refine State.engineStep_kept ?_)
    | dsimp only

theorem execBoltopArrive_kept {s : State} {d : DieId} : OKept s (execBoltopArrive d s) := by
  unfold execBoltopArrive
  have kp := Kept.refl s
  repeat' first
    | (with_reducible first | refine OKept.next ?_ | assumption | refine State.engineStep_kept ?_)
    | dsimp only

theorem execBoltopArriveWait_kept {s : State} {d : DieId} : OKept s (execBoltopArriveWait d s) := by
  unfold execBoltopArriveWait
  have kp := Kept.refl s
  repeat' first
    | (with_reducible first | refine OKept.next ?_ | assumption | refine State.engineStep_kept ?_)
    | dsimp only

theorem execBoltopAdd_kept {s : State} {d : DieId} : OKept s (execBoltopAdd d s) := by
  unfold execBoltopAdd
  have kp := Kept.refl s
  repeat' first
    | (with_reducible first | refine OKept.next ?_ | assumption | refine State.engineStep_kept ?_)
    | dsimp only

theorem execBoltopAcquire_kept {s : State} {d : DieId} : OKept s (execBoltopAcquire d s) := by
  unfold execBoltopAcquire
  have kp := Kept.refl s
  repeat' first
    | (with_reducible first | refine OKept.next ?_ | assumption | refine State.engineStep_kept ?_)
    | dsimp only

theorem execBoltopSet_kept {s : State} {d : DieId} : OKept s (execBoltopSet d s) := by
  unfold execBoltopSet
  have kp := Kept.refl s
  repeat' first
    | (with_reducible first | refine OKept.next ?_ | assumption | refine State.engineStep_kept ?_)
    | dsimp only

theorem execBoltopRead_kept {s : State} {d : DieId} : OKept s (execBoltopRead d s) := by
  unfold execBoltopRead
  have kp := Kept.refl s
  repeat' first
    | (with_reducible first | refine OKept.next ?_ | assumption | refine State.engineStep_kept ?_)
    | dsimp only

theorem execBoltopReadPhase_kept {s : State} {d : DieId} : OKept s (execBoltopReadPhase d s) := by
  unfold execBoltopReadPhase
  have kp := Kept.refl s
  repeat' first
    | (with_reducible first | refine OKept.next ?_ | assumption | refine State.engineStep_kept ?_)
    | dsimp only

theorem execBoltopFault_kept {s : State} {d : DieId} : OKept s (execBoltopFault d s) := by
  unfold execBoltopFault
  have kp := Kept.refl s
  repeat' first
    | (with_reducible first | refine OKept.next ?_ | assumption | refine State.engineStep_kept ?_)
    | dsimp only

theorem execBoltop_kept {s : State} {r : RoomId} : OKept s (execBoltop r s) := by
  unfold execBoltop
  refine OKept.next (State.vecStep_kept ?_ (Kept.refl s))
  intro w fi v h
  extract_lets x i ga idx operand op ret node blocks hold
  have hh (t : State) (k : Kept s t) : Kept s (hold t) := kept_ite (State.updRoom_kept k) k
  clear_value hold operand op ret node blocks idx i
  split
  · exact VKept.encoding
  · split
    · exact VKept.bolt
    · extract_lets away
      clear_value away
      split
      · exact VKept.bolt
      · split
        · split
          · exact VKept.mem
          · split
            · exact VKept.bolt
            · split
              · exact VKept.ok (hh _ (State.sendRequest_kept_eq (by assumption) h))
              · exact VKept.hold h
        · split
          · exact VKept.bolt
          · exact VKept.ok (State.boltAsk_kept (hh _ h))

theorem State.roomBoltDone_kept {s₀ s : State} {r : RoomId} {error : Bool} {result : W32} (kp : Kept s₀ s) :
    Kept s₀ (State.roomBoltDone s r error result) := by
  unfold State.roomBoltDone
  repeat' first
    | (with_reducible first | assumption | refine kept_ite ?_ ?_ | refine State.updRoom_kept ?_)
    | (with_reducible first | refine State.faultRoom_kept ?_ | refine State.settle_kept ?_)
    | split
    | dsimp only
    | (with_reducible first | refine Kept.upd ?_)

theorem execTriggerRegistrationServed_kept {s : State} {r : RoomId} : OKept s (execTriggerRegistrationServed r s) := by
  unfold execTriggerRegistrationServed
  have kp := Kept.refl s
  repeat' first
    | (with_reducible first | refine OKept.next ?_ | refine okept_ite ?_ ?_ | assumption | refine kept_ite ?_ ?_)
    | (with_reducible first | refine State.updRoom_kept ?_ | refine State.boltReply_kept ?_)
    | (with_reducible first | refine State.register_kept_eq (by assumption) ?_)
    | split
    | dsimp only
    | (with_reducible first | refine Kept.upd ?_)

theorem execBoltTriggerNotice_kept {s : State} {r : RoomId} : OKept s (execBoltTriggerNotice r s) := by
  unfold execBoltTriggerNotice
  have kp := Kept.refl s
  repeat' first
    | (with_reducible first | refine OKept.next ?_ | refine okept_ite ?_ ?_ | assumption | refine kept_ite ?_ ?_)
    | (with_reducible first | refine State.updRoom_kept ?_ | refine State.faultRoom_kept ?_)
    | split
    | dsimp only
    | (with_reducible first | refine Kept.upd ?_)

theorem execBoltWaitReport_kept {s : State} {b : BoltId} {k : Nat} : OKept s (execBoltWaitReport b k s) := by
  unfold execBoltWaitReport
  have kp := Kept.refl s
  repeat' first
    | (with_reducible first | refine OKept.next ?_ | refine okept_ite ?_ ?_ | assumption | refine kept_ite ?_ ?_)
    | (with_reducible first | refine State.ctxEvent_kept ?_ | refine State.raise_kept ?_)
    | split
    | dsimp only
    | (with_reducible first | refine Kept.upd ?_)

theorem execBoltConfig_kept {s : State} {q : Req} : OKept s (execBoltConfig q s) := by
  unfold execBoltConfig
  have kp := Kept.refl s
  repeat' first
    | (with_reducible first | intro _ _ | refine OKept.next ?_ | refine okept_ite ?_ ?_ | assumption)
    | (with_reducible first | refine kept_ite ?_ ?_ | refine State.setBolt_kept ?_ | refine State.reply_kept ?_)
    | (with_reducible first | refine State.commandWith_kept ?_ ?_)
    | dsimp only
    | (with_reducible first | refine Kept.upd ?_)

theorem execBoltRead_kept {s : State} {q : Req} : OKept s (execBoltRead q s) := by
  unfold execBoltRead
  have kp := Kept.refl s
  repeat' first
    | (with_reducible first | intro _ _ | refine OKept.next ?_ | refine okept_ite ?_ ?_ | assumption)
    | (with_reducible first | refine kept_ite ?_ ?_ | refine State.reply_kept ?_)
    | (with_reducible first | refine State.commandWith_kept ?_ ?_)
    | dsimp only

theorem execBoltAbort_kept {s : State} {q : Req} : OKept s (execBoltAbort q s) := by
  unfold execBoltAbort
  have kp := Kept.refl s
  repeat' first
    | (with_reducible first | intro _ _ | refine OKept.next ?_ | refine okept_ite ?_ ?_ | assumption)
    | (with_reducible first | refine kept_ite ?_ ?_ | refine State.reply_kept ?_)
    | (with_reducible first | refine State.commandWith_kept ?_ ?_ | refine State.boltError_kept ?_)
    | dsimp only

end Sys2Proof.Machine
end

