-- ==== Sys2Proof/Laws/KeptStream.lean ====
section
/-! SUPPORT. Every operation of Machine/Stream.lean keeps what every command keeps (`Kept`). -/

namespace Sys2Proof.Machine

theorem State.takeEntry_kept {s₀ s : State} {sid : StreamId} {i v : Nat} (kp : Kept s₀ s) :
    Kept s₀ (State.takeEntry s sid i v) := by
  unfold State.takeEntry
  repeat' first
    | (with_reducible first | assumption | refine State.updStream_kept ?_ | refine State.settleStream_kept ?_)
    | dsimp only
    | (with_reducible first | refine Kept.upd ?_)

theorem execEntryFetch_kept {s : State} {sid : StreamId} : OKept s (execEntryFetch sid s) := by
  unfold execEntryFetch
  have kp := Kept.refl s
  repeat' first
    | (with_reducible first | refine OKept.next ?_ | refine okept_ite ?_ ?_ | assumption | refine kept_ite ?_ ?_)
    | (with_reducible first | refine State.updStream_kept ?_ | refine State.dropFetch_kept ?_)
    | (with_reducible first | refine State.stopStream_kept ?_ | refine State.settleStream_kept ?_)
    | (with_reducible first | refine State.dwAccess_kept ?_ | refine State.dwAccess_kept_eq (by assumption) ?_)
    | (with_reducible first | refine State.takeEntry_kept ?_)
    | split
    | dsimp only
    | (with_reducible first | refine Kept.upd ?_)

theorem State.markEligible_kept {s₀ s : State} {dw : Nat} {tm : W32} (kp : Kept s₀ s) :
    Kept s₀ (State.markEligible s dw tm) := by
  unfold State.markEligible
  repeat' first
    | (with_reducible first | assumption | refine kept_ite ?_ ?_ | refine kept_foldl ?_ ?_ | intro _ _ _)
    | (with_reducible first | intro _ | refine State.updStream_kept ?_)
    | dsimp only
    | (with_reducible first | refine Kept.upd ?_)

theorem State.grantOne_kept {s₀ s : State} {dw : Nat} {tm : W32} {j : Nat} (kp : Kept s₀ s) :
    Kept s₀ (State.grantOne s dw tm j) := by
  unfold State.grantOne
  repeat' first
    | (with_reducible first | assumption | refine kept_ite ?_ ?_ | refine State.settleStream_kept ?_)
    | (with_reducible first | refine State.grant_kept ?_)
    | split
    | dsimp only
    | (with_reducible first | refine Kept.upd ?_)

theorem execDwArbitration_kept {s : State} {dw : BitVec 4} : OKept s (execDwArbitration dw s) := by
  unfold execDwArbitration
  have kp := Kept.refl s
  repeat' first
    | (with_reducible first | refine OKept.next ?_ | refine okept_ite ?_ ?_ | assumption | refine kept_ite ?_ ?_)
    | (with_reducible first | refine State.markEligible_kept ?_ | refine State.grantOne_kept ?_)
    | dsimp only
    | (with_reducible first | refine Kept.upd ?_)

theorem State.dropAccess_kept {s₀ s : State} {id : Nat} (kp : Kept s₀ s) :
    Kept s₀ (State.dropAccess s id) := by
  unfold State.dropAccess
  repeat' first
    | (with_reducible first | assumption)
    | dsimp only
    | (with_reducible first | refine Kept.upd ?_)

theorem State.updGrant_kept {s₀ s : State} {sid : StreamId} {k : Nat} {f : Grant → Grant} (kp : Kept s₀ s) :
    Kept s₀ (State.updGrant s sid k f) := by
  unfold State.updGrant
  repeat' first
    | (with_reducible first | assumption | refine State.updStream_kept ?_)
    | split
    | dsimp only
    | (with_reducible first | refine Kept.upd ?_)

theorem State.dropGrant_kept {s₀ s : State} {sid : StreamId} {k : Nat} (kp : Kept s₀ s) :
    Kept s₀ (State.dropGrant s sid k) := by
  unfold State.dropGrant
  repeat' first
    | (with_reducible first | assumption | refine State.updStream_kept ?_)
    | dsimp only
    | (with_reducible first | refine Kept.upd ?_)

theorem State.copyData_kept {s₀ s : State} {sid : StreamId} {t : Stream} {k : Nat} {g : Grant} {data : List Byte} {bad : List Nat} (kp : Kept s₀ s) :
    Kept s₀ (State.copyData s sid t k g data bad) := by
  unfold State.copyData
  repeat' first
    | (with_reducible first | assumption | refine kept_ite ?_ ?_ | refine kept_foldl ?_ ?_)
    | (with_reducible first | refine kept_foldl_snd ?_ ?_ | refine kept_foldl_fst ?_ ?_)
    | (with_reducible first | refine kept_foldl_snd_eq (by assumption) ?_ ?_)
    | (with_reducible first | refine kept_foldl_fst_eq (by assumption) ?_ ?_ | intro _ _ _ | intro _)
    | (with_reducible first | refine State.updStream_kept ?_ | refine State.dwAccess_kept ?_)
    | (with_reducible first | refine State.dwAccess_kept_eq (by assumption) ?_ | refine State.updGrant_kept ?_)
    | split
    | dsimp only
    | (with_reducible first | refine Kept.upd ?_)

theorem State.chainData_kept {s₀ s : State} {sid : StreamId} {t : Stream} {k : Nat} {g : Grant} {data : List Byte} {bad : List Nat} (kp : Kept s₀ s) :
    Kept s₀ (State.chainData s sid t k g data bad) := by
  unfold State.chainData
  repeat' first
    | (with_reducible first | assumption | refine kept_ite ?_ ?_ | refine State.updWing_kept ?_)
    | (with_reducible first | refine State.updStream_kept ?_ | refine State.updGrant_kept ?_)
    | dsimp only
    | (with_reducible first | refine Kept.upd ?_)

theorem State.dwReadData_kept {s₀ s : State} {sid : StreamId} {k : Nat} (kp : Kept s₀ s) :
    Kept s₀ (State.dwReadData s sid k) := by
  unfold State.dwReadData
  repeat' first
    | (with_reducible first | assumption | refine kept_ite ?_ ?_ | refine State.updStream_kept ?_)
    | (with_reducible first | refine State.stopStream_kept ?_ | refine State.settleStream_kept ?_)
    | (with_reducible first | refine State.dropAccess_kept ?_ | refine State.dropGrant_kept ?_)
    | (with_reducible first | refine State.copyData_kept ?_ | refine State.chainData_kept ?_)
    | split
    | dsimp only
    | (with_reducible first | refine Kept.upd ?_)

theorem State.dwWriteAck_kept {s₀ s : State} {sid : StreamId} {k : Nat} (kp : Kept s₀ s) :
    Kept s₀ (State.dwWriteAck s sid k) := by
  unfold State.dwWriteAck
  repeat' first
    | (with_reducible first | assumption | refine kept_ite ?_ ?_ | refine kept_foldl ?_ ?_)
    | (with_reducible first | refine kept_foldl_snd ?_ ?_ | refine kept_foldl_fst ?_ ?_)
    | (with_reducible first | refine kept_foldl_snd_eq (by assumption) ?_ ?_)
    | (with_reducible first | refine kept_foldl_fst_eq (by assumption) ?_ ?_ | intro _ _ _ | intro _)
    | (with_reducible first | refine State.updStream_kept ?_ | refine State.stopStream_kept ?_)
    | (with_reducible first | refine State.settleStream_kept ?_ | refine State.dropAccess_kept ?_)
    | (with_reducible first | refine State.dropGrant_kept ?_)
    | split
    | dsimp only
    | (with_reducible first | refine Kept.upd ?_)

theorem State.entryStep_kept {s₀ s : State} {sid : StreamId} {op : Nat} {f : Stream → Nat → State → State} (hf : ∀ a0 a1 s, Kept s₀ s → Kept s₀ (f a0 a1 s))  (kp : Kept s₀ s) :
    Kept s₀ (State.entryStep s sid op f) := by
  unfold State.entryStep
  repeat' first
    | (with_reducible first | assumption | refine kept_ite ?_ ?_ | refine State.updStream_kept ?_)
    | (with_reducible first | refine State.raise_kept ?_ | refine State.stopStream_kept ?_)
    | (with_reducible first | refine State.settleStream_kept ?_ | apply hf | exact PKept.pure kp)
    | (with_reducible first | refine PKept.pure ?_ | refine PKept.throw ?_ | refine PKept.modify ?_)
    | (with_reducible first | refine PKept.set ?_ | refine PKept.getBind ?_ | refine PKept.get ?_)
    | (with_reducible first | refine PKept.map ?_ | refine PKept.ite ?_ ?_ | refine PKept.bind ?_ ?_)
    | (with_reducible first | refine PKept.forM ?_ ?_ | intro _ _ _ | refine PKept.ok (by assumption) ?_)
    | (with_reducible first | refine PKept.error (by assumption) ?_ | intro _)
    | split
    | dsimp only
    | (with_reducible first | refine Kept.upd ?_)

theorem execXferEntry_kept {s : State} {sid : StreamId} : OKept s (execXferEntry sid s) := by
  unfold execXferEntry
  have kp := Kept.refl s
  repeat' first
    | (with_reducible first | refine OKept.next ?_ | assumption | intro _ _ _ _ )
    | (with_reducible first | refine State.updStream_kept ?_ | refine State.entryStep_kept ?_ ?_)
    | dsimp only

theorem execChainEntry_kept {s : State} {sid : StreamId} : OKept s (execChainEntry sid s) := by
  unfold execChainEntry
  have kp := Kept.refl s
  repeat' first
    | (with_reducible first | refine OKept.next ?_ | assumption | intro _ _ _ _ )
    | (with_reducible first | refine State.updStream_kept ?_ | refine State.entryStep_kept ?_ ?_)
    | dsimp only

theorem State.streamAsk_kept {s₀ s : State} {sid : StreamId} {t : Stream} {bolt op cond : Nat} {operand : W32} (kp : Kept s₀ s) :
    Kept s₀ (State.streamAsk s sid t bolt op cond operand) := by
  unfold State.streamAsk
  repeat' first
    | (with_reducible first | assumption | refine State.boltAsk_kept ?_)
    | dsimp only

theorem execLayerEnd_kept {s : State} {sid : StreamId} : OKept s (execLayerEnd sid s) := by
  unfold execLayerEnd
  have kp := Kept.refl s
  repeat' first
    | (with_reducible first | refine OKept.next ?_ | refine okept_ite ?_ ?_ | assumption | refine kept_ite ?_ ?_)
    | (with_reducible first | intro _ _ _ _  | refine State.updStream_kept ?_)
    | (with_reducible first | refine State.entryStep_kept ?_ ?_ | refine State.streamAsk_kept ?_)
    | dsimp only
    | (with_reducible first | refine Kept.upd ?_)

theorem State.passGate_kept {s₀ s : State} {sid : StreamId} (kp : Kept s₀ s) :
    Kept s₀ (State.passGate s sid) := by
  unfold State.passGate
  repeat' first
    | (with_reducible first | assumption | refine kept_ite ?_ ?_ | refine State.setStream_kept ?_)
    | (with_reducible first | refine State.updStream_kept ?_ | refine State.dropFetch_kept ?_)
    | (with_reducible first | refine State.streamAsk_kept ?_)
    | split
    | dsimp only
    | (with_reducible first | refine Kept.upd ?_)

theorem State.stepEnd_kept {s₀ s : State} {sid : StreamId} (kp : Kept s₀ s) :
    Kept s₀ (State.stepEnd s sid) := by
  unfold State.stepEnd
  repeat' first
    | (with_reducible first | assumption | refine kept_ite ?_ ?_ | intro _ _ _ _ )
    | (with_reducible first | refine State.updStream_kept ?_ | refine State.entryStep_kept ?_ ?_)
    | (with_reducible first | refine State.passGate_kept ?_)
    | dsimp only
    | (with_reducible first | refine Kept.upd ?_)

theorem execListLoop_kept {s : State} {sid : StreamId} : OKept s (execListLoop sid s) := by
  unfold execListLoop
  have kp := Kept.refl s
  repeat' first
    | (with_reducible first | refine OKept.next ?_ | assumption | intro _ _ _ _ )
    | (with_reducible first | refine State.updStream_kept ?_ | refine State.entryStep_kept ?_ ?_)
    | dsimp only

theorem execGuardEntry_kept {s : State} {sid : StreamId} : OKept s (execGuardEntry sid s) := by
  unfold execGuardEntry
  have kp := Kept.refl s
  repeat' first
    | (with_reducible first | refine OKept.next ?_ | refine okept_ite ?_ ?_ | assumption | refine kept_ite ?_ ?_)
    | (with_reducible first | intro _ _ _ _  | refine State.updStream_kept ?_)
    | (with_reducible first | refine State.entryStep_kept ?_ ?_ | refine State.streamAsk_kept ?_)
    | split
    | dsimp only
    | (with_reducible first | refine Kept.upd ?_)

theorem execListBolt_kept {s : State} {sid : StreamId} : OKept s (execListBolt sid s) := by
  unfold execListBolt
  have kp := Kept.refl s
  repeat' first
    | (with_reducible first | refine OKept.next ?_ | refine okept_ite ?_ ?_ | assumption | refine kept_ite ?_ ?_)
    | (with_reducible first | intro _ _ _ _  | refine State.updStream_kept ?_)
    | (with_reducible first | refine State.entryStep_kept ?_ ?_ | refine State.streamAsk_kept ?_)
    | dsimp only
    | (with_reducible first | refine Kept.upd ?_)

theorem execListWait_kept {s : State} {sid : StreamId} : OKept s (execListWait sid s) := by
  unfold execListWait
  have kp := Kept.refl s
  repeat' first
    | (with_reducible first | refine OKept.next ?_ | assumption | intro _ _ _ _ )
    | (with_reducible first | refine State.updStream_kept ?_ | refine State.entryStep_kept ?_ ?_)
    | (with_reducible first | refine State.streamAsk_kept ?_)
    | dsimp only
    | (with_reducible first | refine Kept.upd ?_)

theorem execListNop_kept {s : State} {sid : StreamId} : OKept s (execListNop sid s) := by
  unfold execListNop
  have kp := Kept.refl s
  repeat' first
    | (with_reducible first | refine OKept.next ?_ | assumption | intro _ _ _ _ )
    | (with_reducible first | refine State.updStream_kept ?_ | refine State.entryStep_kept ?_ ?_)
    | dsimp only

theorem State.stopEntry_kept {s₀ s : State} {sid : StreamId} (kp : Kept s₀ s) :
    Kept s₀ (State.stopEntry s sid) := by
  unfold State.stopEntry
  repeat' first
    | (with_reducible first | assumption | refine kept_ite ?_ ?_ | intro _ _ _ _ )
    | (with_reducible first | refine State.updStream_kept ?_ | refine State.endStream_kept ?_)
    | (with_reducible first | refine State.entryStep_kept ?_ ?_)
    | dsimp only

theorem State.streamBoltDone_kept {s₀ s : State} {sid : StreamId} {error : Bool} (kp : Kept s₀ s) :
    Kept s₀ (State.streamBoltDone s sid error) := by
  unfold State.streamBoltDone
  repeat' first
    | (with_reducible first | assumption | refine kept_ite ?_ ?_ | refine State.updStream_kept ?_)
    | (with_reducible first | refine State.settleStream_kept ?_ | refine State.dwAccess_kept ?_)
    | (with_reducible first | refine State.dwAccess_kept_eq (by assumption) ?_)
    | split
    | dsimp only
    | (with_reducible first | refine Kept.upd ?_)

theorem State.boltResponse_kept {s₀ s : State} {k : Nat} (kp : Kept s₀ s) :
    Kept s₀ (State.boltResponse s k) := by
  unfold State.boltResponse
  repeat' first
    | (with_reducible first | assumption | refine kept_ite ?_ ?_ | refine State.updService_kept ?_)
    | (with_reducible first | refine State.roomBoltDone_kept ?_ | refine State.streamBoltDone_kept ?_)
    | split
    | dsimp only
    | (with_reducible first | refine Kept.upd ?_)

theorem execChainHeadBlockSend_kept {s : State} {w : WingId} : OKept s (execChainHeadBlockSend w s) := by
  unfold execChainHeadBlockSend
  have kp := Kept.refl s
  repeat' first
    | (with_reducible first | refine OKept.next ?_ | refine okept_ite ?_ ?_ | assumption | refine kept_ite ?_ ?_)
    | (with_reducible first | refine State.updWing_kept ?_)
    | split
    | dsimp only
    | (with_reducible first | refine Kept.upd ?_)

theorem execChainBlockDelivered_kept {s : State} {r : RoomId} : OKept s (execChainBlockDelivered r s) := by
  unfold execChainBlockDelivered
  have kp := Kept.refl s
  repeat' first
    | (with_reducible first | refine OKept.next ?_ | refine okept_ite ?_ ?_ | assumption | refine kept_ite ?_ ?_)
    | (with_reducible first | refine State.updRoom_kept ?_ | refine State.updWing_kept ?_)
    | split
    | dsimp only
    | (with_reducible first | refine Kept.upd ?_)

theorem execChainBlockFree_kept {s : State} {r : RoomId} : OKept s (execChainBlockFree r s) := by
  unfold execChainBlockFree
  have kp := Kept.refl s
  repeat' first
    | (with_reducible first | refine OKept.next ?_ | refine okept_ite ?_ ?_ | assumption | refine kept_ite ?_ ?_)
    | (with_reducible first | refine State.updRoom_kept ?_ | refine State.updWing_kept ?_)
    | dsimp only
    | (with_reducible first | refine Kept.upd ?_)

theorem execFreedBytesArrival_kept {s : State} {w : WingId} : OKept s (execFreedBytesArrival w s) := by
  unfold execFreedBytesArrival
  have kp := Kept.refl s
  repeat' first
    | (with_reducible first | refine OKept.next ?_ | assumption | refine State.updWing_kept ?_)
    | (with_reducible first | refine State.updStream_kept ?_)
    | split
    | dsimp only
    | (with_reducible first | refine Kept.upd ?_)

theorem execChainBlockedReport_kept {s : State} {w : WingId} : OKept s (execChainBlockedReport w s) := by
  unfold execChainBlockedReport
  have kp := Kept.refl s
  repeat' first
    | (with_reducible first | refine OKept.next ?_ | refine okept_ite ?_ ?_ | assumption | refine kept_ite ?_ ?_)
    | (with_reducible first | refine State.updStream_kept ?_ | refine State.ctxEvent_kept ?_)
    | (with_reducible first | refine State.raise_kept ?_)
    | split
    | dsimp only
    | (with_reducible first | refine Kept.upd ?_)

theorem State.armGate_kept {s₀ s : State} {sid : StreamId} {step : W32} {pend : Option (Dva × BitVec 24)} {hold : Option (BitVec 15)} (kp : Kept s₀ s) :
    Kept s₀ (State.armGate s sid step pend hold) := by
  unfold State.armGate
  repeat' first
    | (with_reducible first | assumption | refine kept_ite ?_ ?_ | refine State.updStream_kept ?_)
    | split
    | dsimp only
    | (with_reducible first | refine Kept.upd ?_)

theorem execGateArmWrite_kept {s : State} {sid : StreamId} {step : W32} {pend : Option (Dva × BitVec 24)} {hold : Option (BitVec 15)} : OKept s (execGateArmWrite sid step pend hold s) := by
  unfold execGateArmWrite
  have kp := Kept.refl s
  repeat' first
    | (with_reducible first | refine OKept.next ?_ | assumption | refine State.armGate_kept ?_)
    | dsimp only

theorem State.gateDecide_kept {s₀ s : State} {sid : StreamId} {f : Stream → Stream} (kp : Kept s₀ s) :
    Kept s₀ (State.gateDecide s sid f) := by
  unfold State.gateDecide
  repeat' first
    | (with_reducible first | assumption | refine kept_ite ?_ ?_ | refine State.updStream_kept ?_)
    | (with_reducible first | refine State.settleStream_kept ?_ | refine State.passGate_kept ?_)
    | split
    | dsimp only
    | (with_reducible first | refine Kept.upd ?_)

theorem execGateGo_kept {s : State} {sid : StreamId} : OKept s (execGateGo sid s) := by
  unfold execGateGo
  have kp := Kept.refl s
  repeat' first
    | (with_reducible first | refine OKept.next ?_ | assumption | refine State.gateDecide_kept ?_)
    | dsimp only
    | (with_reducible first | refine Kept.upd ?_)

theorem State.gateAbort_kept {s₀ s : State} {sid : StreamId} (kp : Kept s₀ s) :
    Kept s₀ (State.gateAbort s sid) := by
  unfold State.gateAbort
  repeat' first
    | (with_reducible first | assumption | refine State.gateDecide_kept ?_)
    | dsimp only
    | (with_reducible first | refine Kept.upd ?_)

theorem execStreamCreate_kept {s : State} {q : Req} : OKept s (execStreamCreate q s) := by
  unfold execStreamCreate
  have kp := Kept.refl s
  repeat' first
    | (with_reducible first | intro _ _ | refine OKept.next ?_ | refine okept_ite ?_ ?_ | assumption)
    | (with_reducible first | refine kept_ite ?_ ?_ | refine State.setStream_kept ?_)
    | (with_reducible first | refine State.reply_kept ?_ | refine State.commandWith_kept ?_ ?_)
    | split
    | dsimp only
    | (with_reducible first | refine Kept.upd ?_)

theorem State.withStream_kept {s₀ s : State} {q : Req} {op : Nat} {f : StreamId → Stream → State → State} (hf : ∀ a0 a1 s, Kept s₀ s → Kept s₀ (f a0 a1 s))  (kp : Kept s₀ s) :
    Kept s₀ (State.withStream s q op f) := by
  unfold State.withStream
  repeat' first
    | (with_reducible first | intro _ _ | assumption | refine kept_ite ?_ ?_ | refine State.reply_kept ?_)
    | (with_reducible first | refine State.commandWith_kept ?_ ?_ | apply hf | exact PKept.pure kp)
    | (with_reducible first | refine PKept.pure ?_ | refine PKept.throw ?_ | refine PKept.modify ?_)
    | (with_reducible first | refine PKept.set ?_ | refine PKept.getBind ?_ | refine PKept.get ?_)
    | (with_reducible first | refine PKept.map ?_ | refine PKept.ite ?_ ?_ | refine PKept.bind ?_ ?_)
    | (with_reducible first | refine PKept.forM ?_ ?_ | intro _ _ _ | refine PKept.ok (by assumption) ?_)
    | (with_reducible first | refine PKept.error (by assumption) ?_ | intro _)
    | split
    | dsimp only
    | (with_reducible first | refine Kept.upd ?_)

theorem execStreamStart_kept {s : State} {q : Req} : OKept s (execStreamStart q s) := by
  unfold execStreamStart
  have kp := Kept.refl s
  repeat' first
    | (with_reducible first | refine OKept.next ?_ | refine okept_ite ?_ ?_ | assumption | refine kept_ite ?_ ?_)
    | (with_reducible first | intro _ _ _ _  | refine State.updCtx_kept ?_ | refine State.updStream_kept ?_)
    | (with_reducible first | refine State.reply_kept ?_ | refine State.settleStream_kept ?_)
    | (with_reducible first | refine State.withStream_kept ?_ ?_)
    | dsimp only
    | (with_reducible first | refine Kept.upd ?_)

theorem State.cancelStream_kept {s₀ s : State} {sid : StreamId} (kp : Kept s₀ s) :
    Kept s₀ (State.cancelStream s sid) := by
  unfold State.cancelStream
  repeat' first
    | (with_reducible first | assumption | refine State.updStream_kept ?_ | refine State.endStream_kept ?_)
    | (with_reducible first | refine State.settleStream_kept ?_)
    | split
    | dsimp only
    | (with_reducible first | refine Kept.upd ?_)

theorem execStreamCancel_kept {s : State} {q : Req} : OKept s (execStreamCancel q s) := by
  unfold execStreamCancel
  have kp := Kept.refl s
  repeat' first
    | (with_reducible first | refine OKept.next ?_ | refine okept_ite ?_ ?_ | assumption | refine kept_ite ?_ ?_)
    | (with_reducible first | intro _ _ _ _  | refine State.reply_kept ?_ | refine State.withStream_kept ?_ ?_)
    | (with_reducible first | refine State.cancelStream_kept ?_)
    | dsimp only

theorem execStreamSnapshot_kept {s : State} {q : Req} : OKept s (execStreamSnapshot q s) := by
  unfold execStreamSnapshot
  have kp := Kept.refl s
  repeat' first
    | (with_reducible first | refine OKept.next ?_ | assumption | intro _ _ _ _  | refine State.reply_kept ?_)
    | (with_reducible first | refine State.writeStatus_kept ?_ | refine State.withStream_kept ?_ ?_)
    | dsimp only

theorem execStreamFree_kept {s : State} {q : Req} : OKept s (execStreamFree q s) := by
  unfold execStreamFree
  have kp := Kept.refl s
  repeat' first
    | (with_reducible first | refine OKept.next ?_ | refine okept_ite ?_ ?_ | assumption | refine kept_ite ?_ ?_)
    | (with_reducible first | intro _ _ _ _  | refine State.reply_kept ?_ | refine State.withStream_kept ?_ ?_)
    | dsimp only
    | (with_reducible first | refine Kept.upd ?_)

end Sys2Proof.Machine
end

