-- ==== Sys2Proof/Laws/KeptRevision.lean ====
section
/-! SUPPORT. Every operation of Machine/Revision.lean keeps what every command keeps (`Kept`). -/

namespace Sys2Proof.Machine

theorem State.armAll_kept {s₀ s : State} {ts : List (StreamId × Stream)} {at_ : W32} {pend : StreamId × Stream → Option (Dva × BitVec 24)} {hold : Bool} (kp : Kept s₀ s) :
    Kept s₀ (State.armAll s ts at_ pend hold).1 := by
  unfold State.armAll
  repeat' first
    | (with_reducible first | assumption | refine kept_ite ?_ ?_ | refine kept_foldl ?_ ?_ | intro _ _ _)
    | (with_reducible first | intro _ | refine State.armGate_kept ?_ | refine State.gateAbort_kept ?_)
    | split
    | dsimp only

theorem State.armAll_kept_eq {s₀ s x₀ : State} {ts : List (StreamId × Stream)} {at_ : W32} {pend : StreamId × Stream → Option (Dva × BitVec 24)} {hold : Bool} {y1}
    (e₀ : State.armAll s ts at_ pend hold = (x₀, y1)) (kp : Kept s₀ s) : Kept s₀ x₀ := by
  have k := @State.armAll_kept s₀ s ts at_ pend hold  kp
  rw [e₀] at k; exact k

theorem State.goAll_kept {s₀ s : State} {ts : List (StreamId × Stream)} (kp : Kept s₀ s) :
    Kept s₀ (State.goAll s ts) := by
  unfold State.goAll
  repeat' first
    | (with_reducible first | assumption | refine kept_foldl ?_ ?_ | intro _ _ _ | intro _)
    | (with_reducible first | refine State.gateDecide_kept ?_)
    | dsimp only
    | (with_reducible first | refine Kept.upd ?_)

theorem State.writeRuns_kept {s₀ s : State} {c : CtxId} {ws : List (Dva × List Byte)} (kp : Kept s₀ s) :
    Kept s₀ (State.writeRuns s c ws).1 := by
  unfold State.writeRuns
  repeat' first
    | (with_reducible first | assumption | refine kept_ite ?_ ?_ | refine kept_foldl ?_ ?_)
    | (with_reducible first | refine kept_foldl_snd ?_ ?_ | refine kept_foldl_fst ?_ ?_)
    | (with_reducible first | refine kept_foldl_snd_eq (by assumption) ?_ ?_)
    | (with_reducible first | refine kept_foldl_fst_eq (by assumption) ?_ ?_ | intro _ _ _ | intro _)
    | (with_reducible first | refine State.dvaWrite_kept ?_ | refine State.dvaWrite_kept_eq (by assumption) ?_)
    | split
    | dsimp only

theorem State.writeRuns_kept_eq {s₀ s x₀ : State} {c : CtxId} {ws : List (Dva × List Byte)} {y1}
    (e₀ : State.writeRuns s c ws = (x₀, y1)) (kp : Kept s₀ s) : Kept s₀ x₀ := by
  have k := @State.writeRuns_kept s₀ s c ws  kp
  rw [e₀] at k; exact k

theorem State.updModel_kept {s₀ s : State} {c : CtxId} {midx : Nat} {f : Model → Model} (kp : Kept s₀ s) :
    Kept s₀ (State.updModel s c midx f) := by
  unfold State.updModel
  repeat' first
    | (with_reducible first | assumption | refine State.updCtx_kept ?_)
    | split
    | dsimp only
    | (with_reducible first | refine Kept.upd ?_)

theorem State.updRev_kept {s₀ s : State} {v : Revision} {f : Revision → Revision} (kp : Kept s₀ s) :
    Kept s₀ (State.updRev s v f) := by
  unfold State.updRev
  repeat' first
    | (with_reducible first | assumption | refine kept_ite ?_ ?_)
    | dsimp only
    | (with_reducible first | refine Kept.upd ?_)

theorem State.tellPlace_kept {s₀ s : State} {v : Revision} (kp : Kept s₀ s) :
    Kept s₀ (State.tellPlace s v) := by
  unfold State.tellPlace
  repeat' first
    | (with_reducible first | assumption | refine kept_ite ?_ ?_ | refine kept_foldl ?_ ?_ | intro _ _ _)
    | (with_reducible first | intro _ | refine State.stew_kept ?_)
    | split
    | dsimp only
    | (with_reducible first | refine Kept.upd ?_)

theorem State.revPhase_kept {s₀ s : State} {v : Revision} {p : RevPhase} (kp : Kept s₀ s) :
    Kept s₀ (State.revPhase s v p) := by
  unfold State.revPhase
  repeat' first
    | (with_reducible first | assumption | refine State.updRev_kept ?_ | refine State.tellPlace_kept ?_)
    | dsimp only
    | (with_reducible first | refine Kept.upd ?_)

theorem State.disarm_kept {s₀ s : State} {v : Revision} (kp : Kept s₀ s) :
    Kept s₀ (State.disarm s v) := by
  unfold State.disarm
  repeat' first
    | (with_reducible first | assumption | refine kept_foldl ?_ ?_ | intro _ _ _ | intro _)
    | (with_reducible first | refine State.gateAbort_kept ?_)
    | split
    | dsimp only
    | (with_reducible first | refine Kept.upd ?_)

theorem State.undoRev_kept {s₀ s : State} {v : Revision} (kp : Kept s₀ s) :
    Kept s₀ (State.undoRev s v) := by
  unfold State.undoRev
  repeat' first
    | (with_reducible first | assumption | refine kept_ite ?_ ?_ | refine kept_foldl ?_ ?_)
    | (with_reducible first | refine kept_foldl_snd ?_ ?_ | refine kept_foldl_fst ?_ ?_)
    | (with_reducible first | refine kept_foldl_snd_eq (by assumption) ?_ ?_)
    | (with_reducible first | refine kept_foldl_fst_eq (by assumption) ?_ ?_ | intro _ _ _ | intro _)
    | (with_reducible first | refine State.copy_kept ?_ | refine State.dvaWrite_kept ?_)
    | (with_reducible first | refine State.dvaWrite_kept_eq (by assumption) ?_ | refine State.dropCopy_kept ?_)
    | (with_reducible first | refine State.unmapRange_kept ?_ | refine State.disarm_kept ?_)
    | dsimp only
    | (with_reducible first | refine Kept.upd ?_)

theorem State.abandonRev_kept {s₀ s : State} {v : Revision} (kp : Kept s₀ s) :
    Kept s₀ (State.abandonRev s v) := by
  unfold State.abandonRev
  repeat' first
    | (with_reducible first | assumption | refine kept_ite ?_ ?_ | refine State.tellPlace_kept ?_)
    | (with_reducible first | refine State.undoRev_kept ?_)
    | dsimp only

theorem State.abandonRevs_kept {s₀ s : State} {c : CtxId} (kp : Kept s₀ s) :
    Kept s₀ (State.abandonRevs s c) := by
  unfold State.abandonRevs
  repeat' first
    | (with_reducible first | assumption | refine kept_foldl ?_ ?_ | intro _ _ _ | intro _)
    | (with_reducible first | refine State.abandonRev_kept ?_)
    | dsimp only

theorem State.endRevs_kept {s₀ s : State} {c : CtxId} (kp : Kept s₀ s) :
    Kept s₀ (State.endRevs s c) := by
  unfold State.endRevs
  repeat' first
    | (with_reducible first | assumption | refine State.abandonRevs_kept ?_)
    | dsimp only
    | (with_reducible first | refine Kept.upd ?_)

theorem State.mapRevPages_kept_eq {s₀ s x₀ : State} {c : CtxId} {l : List (Nat × Nat)}
    (e₀ : State.mapRevPages s c l = some x₀) (kp : Kept s₀ s) : Kept s₀ x₀ := by
  induction l generalizing s with
  | nil => simp only [State.mapRevPages, Option.some.injEq] at e₀; exact e₀ ▸ kp
  | cons p l ih =>
    obtain ⟨vpn, stack⟩ := p
    unfold State.mapRevPages at e₀
    split at e₀
    · exact absurd e₀ (by simp)
    · obtain ⟨t, h, e⟩ := Option.bind_eq_some_iff.1 e₀
      exact ih e (State.mapPage_kept_eq h kp)

theorem State.prepareRev_kept {s₀ s : State} {v : Revision} {m : Model} (kp : Kept s₀ s) :
    Kept s₀ (State.prepareRev s v m) := by
  unfold State.prepareRev
  repeat' first
    | (with_reducible first | assumption | refine kept_ite ?_ ?_ | refine State.copy_kept ?_)
    | (with_reducible first | refine State.startCopies_kept_eq (by assumption) ?_)
    | (with_reducible first | refine State.writeRuns_kept ?_ | refine State.writeRuns_kept_eq (by assumption) ?_)
    | (with_reducible first | refine State.updRev_kept ?_ | refine State.abandonRev_kept ?_)
    | (with_reducible first | refine State.mapRevPages_kept_eq (by assumption) ?_)
    | split
    | dsimp only
    | (with_reducible first | refine Kept.upd ?_)

theorem State.copiedRev_kept {s₀ s : State} {v : Revision} (kp : Kept s₀ s) :
    Kept s₀ (State.copiedRev s v) := by
  unfold State.copiedRev
  repeat' first
    | (with_reducible first | assumption | refine kept_ite ?_ ?_ | refine kept_foldl ?_ ?_ | intro _ _ _)
    | (with_reducible first | intro _ | refine State.dropCopy_kept ?_ | refine State.updRev_kept ?_)
    | (with_reducible first | refine State.tellPlace_kept ?_ | refine State.abandonRev_kept ?_)
    | split
    | dsimp only
    | (with_reducible first | refine Kept.upd ?_)

theorem State.armRev_kept {s₀ s : State} {v : Revision} {m : Model} {at_ : W32} (kp : Kept s₀ s) :
    Kept s₀ (State.armRev s v m at_).1 := by
  unfold State.armRev
  repeat' first
    | (with_reducible first | assumption | refine State.armAll_kept ?_)
    | (with_reducible first | refine State.armAll_kept_eq (by assumption) ?_)
    | split
    | dsimp only

theorem State.armRev_kept_eq {s₀ s x₀ : State} {v : Revision} {m : Model} {at_ : W32} {y1}
    (e₀ : State.armRev s v m at_ = (x₀, y1)) (kp : Kept s₀ s) : Kept s₀ x₀ := by
  have k := @State.armRev_kept s₀ s v m at_  kp
  rw [e₀] at k; exact k

theorem State.armStep_kept {s₀ s : State} {v : Revision} {m : Model} (kp : Kept s₀ s) :
    Kept s₀ (State.armStep s v m) := by
  unfold State.armStep
  repeat' first
    | (with_reducible first | assumption | refine kept_ite ?_ ?_ | refine kept_foldl ?_ ?_ | intro _ _ _)
    | (with_reducible first | intro _ | refine State.updRev_kept ?_ | refine State.revPhase_kept ?_)
    | (with_reducible first | refine State.armRev_kept ?_ | refine State.armRev_kept_eq (by assumption) ?_)
    | split
    | dsimp only
    | (with_reducible first | refine Kept.upd ?_)

theorem State.validRev_kept {s₀ s : State} {v : Revision} (kp : Kept s₀ s) :
    Kept s₀ (State.validRev s v) := by
  unfold State.validRev
  repeat' first
    | (with_reducible first | assumption | refine State.copy_kept ?_ | refine State.writeRuns_kept ?_)
    | (with_reducible first | refine State.writeRuns_kept_eq (by assumption) ?_ | refine State.revPhase_kept ?_)
    | (with_reducible first | refine State.abandonRev_kept ?_)
    | split
    | dsimp only
    | (with_reducible first | refine Kept.upd ?_)

theorem State.goRev_kept {s₀ s : State} {v : Revision} {m : Model} (kp : Kept s₀ s) :
    Kept s₀ (State.goRev s v m) := by
  unfold State.goRev
  repeat' first
    | (with_reducible first | assumption | refine State.goAll_kept ?_ | refine State.revPhase_kept ?_)
    | dsimp only

theorem State.pastRev_kept {s₀ s : State} {v : Revision} {m : Model} (kp : Kept s₀ s) :
    Kept s₀ (State.pastRev s v m) := by
  unfold State.pastRev
  repeat' first
    | (with_reducible first | assumption | refine kept_ite ?_ ?_ | refine kept_foldl ?_ ?_ | intro _ _ _)
    | (with_reducible first | intro _ | refine State.unmapRange_kept ?_ | refine State.updModel_kept ?_)
    | dsimp only
    | (with_reducible first | refine Kept.upd ?_)

theorem State.settleRev_kept {s₀ s : State} {v : Revision} (kp : Kept s₀ s) :
    Kept s₀ (State.settleRev s v) := by
  unfold State.settleRev
  repeat' first
    | (with_reducible first | assumption | refine kept_ite ?_ ?_ | refine State.ctxEvent_kept ?_)
    | (with_reducible first | refine State.revPhase_kept ?_ | refine State.disarm_kept ?_)
    | (with_reducible first | refine State.prepareRev_kept ?_ | refine State.copiedRev_kept ?_)
    | (with_reducible first | refine State.armStep_kept ?_ | refine State.validRev_kept ?_)
    | (with_reducible first | refine State.goRev_kept ?_ | refine State.pastRev_kept ?_)
    | split
    | dsimp only
    | (with_reducible first | refine Kept.upd ?_)

theorem State.settleRevs_kept {s₀ s : State}  (kp : Kept s₀ s) :
    Kept s₀ (State.settleRevs s) := by
  unfold State.settleRevs
  repeat' first
    | (with_reducible first | assumption | refine kept_foldl ?_ ?_ | intro _ _ _ | intro _)
    | (with_reducible first | refine State.settleRev_kept ?_)
    | dsimp only

theorem State.beginRev_kept {s₀ s : State} {v : Revision} (kp : Kept s₀ s) :
    Kept s₀ (State.beginRev s v) := by
  unfold State.beginRev
  repeat' first
    | (with_reducible first | assumption | refine kept_ite ?_ ?_ | refine State.revPhase_kept ?_)
    | (with_reducible first | refine State.settleRevs_kept ?_)
    | dsimp only
    | (with_reducible first | refine Kept.upd ?_)

theorem State.unloadRevs_kept {s₀ s : State} {c : CtxId} {midx : Nat} {m : Model} (kp : Kept s₀ s) :
    Kept s₀ (State.unloadRevs s c midx m) := by
  unfold State.unloadRevs
  repeat' first
    | (with_reducible first | assumption | refine kept_foldl ?_ ?_ | intro _ _ _ | intro _)
    | (with_reducible first | refine State.unmapRange_kept ?_ | refine State.undoRev_kept ?_)
    | split
    | dsimp only
    | (with_reducible first | refine Kept.upd ?_)

theorem State.placeAtWorker_kept {s₀ s : State} {j : Job} {c : CtxId} {midx : Nat} {route : Dva} {version : W32} {p : PlaceMsg} (kp : Kept s₀ s) :
    Kept s₀ (State.placeAtWorker s j c midx route version p) := by
  unfold State.placeAtWorker
  repeat' first
    | (with_reducible first | assumption | refine kept_ite ?_ ?_ | refine State.copy_kept ?_)
    | (with_reducible first | refine State.stew_kept ?_ | refine State.goAll_kept ?_)
    | (with_reducible first | refine State.updRev_kept ?_ | refine State.tellPlace_kept ?_)
    | (with_reducible first | refine State.revPhase_kept ?_ | refine State.disarm_kept ?_)
    | (with_reducible first | refine State.undoRev_kept ?_ | refine State.armRev_kept ?_)
    | (with_reducible first | refine State.armRev_kept_eq (by assumption) ?_ | refine State.validRev_kept ?_)
    | (with_reducible first | refine State.settleRevs_kept ?_ | refine State.beginRev_kept ?_)
    | split
    | dsimp only
    | (with_reducible first | refine Kept.upd ?_)

theorem State.placeAtManager_kept {s₀ s : State} {c : CtxId} {midx : Nat} {sender : NodeId} {p : PlaceMsg} (kp : Kept s₀ s) :
    Kept s₀ (State.placeAtManager s c midx sender p) := by
  unfold State.placeAtManager
  split
  · exact kp
  · extract_lets took
    have ht f : Kept s₀ (took f) := State.settleRevs_kept (State.updRev_kept kp)
    clear_value took
    cases p <;> first | exact ht _ | exact State.abandonRev_kept kp | exact kp

theorem execStopEntry_kept {s : State} {sid : StreamId} : OKept s (execStopEntry sid s) := by
  unfold execStopEntry
  have kp := Kept.refl s
  repeat' first
    | (with_reducible first | refine OKept.next ?_ | assumption | refine State.stopEntry_kept ?_)
    | (with_reducible first | refine State.settleRevs_kept ?_)
    | dsimp only

end Sys2Proof.Machine
end

