-- ==== Sys2Proof/Laws/KeptPorchBase.lean ====
section
/-! SUPPORT. Every operation of Machine/PorchBase.lean keeps what every command keeps (`Kept`). -/

namespace Sys2Proof.Machine

theorem State.porchViolation_kept {s₀ s : State} {d : Dva} {n : Nat} {write : Bool} (kp : Kept s₀ s) :
    Kept s₀ (State.porchViolation s d n write) := by
  unfold State.porchViolation
  repeat' first
    | (with_reducible first | assumption | refine kept_foldl ?_ ?_ | intro _ _ _ | intro _)
    | (with_reducible first | refine State.write_kept ?_ | refine State.violation_kept ?_)
    | dsimp only

theorem pRead_pkept {s₀ s : State} {c : CtxId} {d : Dva} {n : Nat} (kp : Kept s₀ s) : PKept s₀ (pRead c d n) s := by
  unfold PKept pRead
  cases s.inRegisters d
  · cases s.dvaRead c d n <;> exact kp
  · exact State.porchViolation_kept kp

theorem pTry_pkept {s₀ s : State} {α : Type} {m : Pm α} (hm : ∀ s, Kept s₀ s → PKept s₀ m s) (kp : Kept s₀ s) :
    PKept s₀ (pTry m) s := by
  have k := hm s kp
  unfold PKept at k ⊢
  unfold pTry
  cases h : m s <;> simpa only [h] using k

theorem pNat_pkept {s₀ s : State} {c : CtxId} {d : Dva} {n : Nat} (kp : Kept s₀ s) :
    PKept s₀ (pNat c d n) s := by
  unfold pNat
  repeat' first
    | (with_reducible first | assumption | refine pRead_pkept ?_ | exact PKept.pure kp | refine PKept.pure ?_)
    | (with_reducible first | refine PKept.throw ?_ | refine PKept.modify ?_ | refine PKept.set ?_)
    | (with_reducible first | refine PKept.getBind ?_ | refine PKept.get ?_ | refine PKept.map ?_)
    | (with_reducible first | refine PKept.ite ?_ ?_ | refine PKept.bind ?_ ?_ | refine PKept.forM ?_ ?_)
    | (with_reducible first | intro _ _ _ | refine PKept.ok (by assumption) ?_)
    | (with_reducible first | refine PKept.error (by assumption) ?_ | intro _)
    | dsimp only

theorem pWrite_pkept {s₀ s : State} {c : CtxId} {d : Dva} {bs : List Byte} (kp : Kept s₀ s) : PKept s₀ (pWrite c d bs) s := by
  have k := State.dvaWrite_kept (c := c) (d := d) (bs := bs) kp
  unfold PKept pWrite
  cases s.inRegisters d
  · cases h : s.dvaWrite c d bs with
    | mk t e => rw [h] at k; cases e <;> exact k
  · exact State.porchViolation_kept kp

theorem svc_pkept {s₀ s : State} {i : Nat} (kp : Kept s₀ s) : PKept s₀ (svc i) s := by
  unfold PKept svc
  cases s.service i <;> exact kp

theorem updSvc_pkept {s₀ s : State} {i : Nat} {f : Service → Service} (kp : Kept s₀ s) :
    PKept s₀ (updSvc i f) s := by
  unfold updSvc
  repeat' first
    | (with_reducible first | assumption | refine State.updService_kept ?_ | exact PKept.pure kp)
    | (with_reducible first | refine PKept.pure ?_ | refine PKept.throw ?_ | refine PKept.modify ?_)
    | (with_reducible first | refine PKept.set ?_ | refine PKept.getBind ?_ | refine PKept.get ?_)
    | (with_reducible first | refine PKept.map ?_ | refine PKept.ite ?_ ?_ | refine PKept.bind ?_ ?_)
    | (with_reducible first | refine PKept.forM ?_ ?_ | intro _ _ _ | refine PKept.ok (by assumption) ?_)
    | (with_reducible first | refine PKept.error (by assumption) ?_ | intro _)
    | dsimp only

theorem updEnt_pkept {s₀ s : State} {e : Nat} {f : Seq → Seq} (kp : Kept s₀ s) :
    PKept s₀ (updEnt e f) s := by
  unfold updEnt
  repeat' first
    | (with_reducible first | assumption | refine State.updSeq_kept ?_ | exact PKept.pure kp)
    | (with_reducible first | refine PKept.pure ?_ | refine PKept.throw ?_ | refine PKept.modify ?_)
    | (with_reducible first | refine PKept.set ?_ | refine PKept.getBind ?_ | refine PKept.get ?_)
    | (with_reducible first | refine PKept.map ?_ | refine PKept.ite ?_ ?_ | refine PKept.bind ?_ ?_)
    | (with_reducible first | refine PKept.forM ?_ ?_ | intro _ _ _ | refine PKept.ok (by assumption) ?_)
    | (with_reducible first | refine PKept.error (by assumption) ?_ | intro _)
    | dsimp only

theorem ringCounts_pkept {s₀ s : State} {c : CtxId} {d : Dva} {len : Nat} (kp : Kept s₀ s) :
    PKept s₀ (ringCounts c d len) s := by
  unfold ringCounts
  repeat' first
    | (with_reducible first | assumption | refine kept_ite ?_ ?_ | refine pNat_pkept ?_ | exact PKept.pure kp)
    | (with_reducible first | refine PKept.pure ?_ | refine PKept.throw ?_ | refine PKept.modify ?_)
    | (with_reducible first | refine PKept.set ?_ | refine PKept.getBind ?_ | refine PKept.get ?_)
    | (with_reducible first | refine PKept.map ?_ | refine PKept.ite ?_ ?_ | refine PKept.bind ?_ ?_)
    | (with_reducible first | refine PKept.forM ?_ ?_ | intro _ _ _ | refine PKept.ok (by assumption) ?_)
    | (with_reducible first | refine PKept.error (by assumption) ?_ | intro _)
    | dsimp only

theorem ringPut_pkept {s₀ s : State} {c : CtxId} {d : Dva} {len prod : Nat} {bs : List Byte} (kp : Kept s₀ s) :
    PKept s₀ (ringPut c d len prod bs) s := by
  unfold ringPut
  repeat' first
    | (with_reducible first | assumption | refine pWrite_pkept ?_ | exact PKept.pure kp | refine PKept.pure ?_)
    | (with_reducible first | refine PKept.throw ?_ | refine PKept.modify ?_ | refine PKept.set ?_)
    | (with_reducible first | refine PKept.getBind ?_ | refine PKept.get ?_ | refine PKept.map ?_)
    | (with_reducible first | refine PKept.ite ?_ ?_ | refine PKept.bind ?_ ?_ | refine PKept.forM ?_ ?_)
    | (with_reducible first | intro _ _ _ | refine PKept.ok (by assumption) ?_)
    | (with_reducible first | refine PKept.error (by assumption) ?_ | intro _)
    | dsimp only

theorem setCons_pkept {s₀ s : State} {c : CtxId} {d : Dva} {cons : Nat} (kp : Kept s₀ s) :
    PKept s₀ (setCons c d cons) s := by
  unfold setCons
  repeat' first
    | (with_reducible first | assumption | refine pWrite_pkept ?_ | exact PKept.pure kp | refine PKept.pure ?_)
    | (with_reducible first | refine PKept.throw ?_ | refine PKept.modify ?_ | refine PKept.set ?_)
    | (with_reducible first | refine PKept.getBind ?_ | refine PKept.get ?_ | refine PKept.map ?_)
    | (with_reducible first | refine PKept.ite ?_ ?_ | refine PKept.bind ?_ ?_ | refine PKept.forM ?_ ?_)
    | (with_reducible first | intro _ _ _ | refine PKept.ok (by assumption) ?_)
    | (with_reducible first | refine PKept.error (by assumption) ?_ | intro _)
    | dsimp only

theorem outFree_pkept {s₀ s : State} {i : Nat} (kp : Kept s₀ s) :
    PKept s₀ (outFree i) s := by
  unfold outFree
  repeat' first
    | (with_reducible first | assumption | refine svc_pkept ?_ | refine ringCounts_pkept ?_)
    | (with_reducible first | exact PKept.pure kp | refine PKept.pure ?_ | refine PKept.throw ?_)
    | (with_reducible first | refine PKept.modify ?_ | refine PKept.set ?_ | refine PKept.getBind ?_)
    | (with_reducible first | refine PKept.get ?_ | refine PKept.map ?_ | refine PKept.ite ?_ ?_)
    | (with_reducible first | refine PKept.bind ?_ ?_ | refine PKept.forM ?_ ?_ | intro _ _ _)
    | (with_reducible first | refine PKept.ok (by assumption) ?_ | refine PKept.error (by assumption) ?_)
    | (with_reducible first | intro _)
    | dsimp only

theorem outPut_pkept {s₀ s : State} {i : Nat} {r : BitVec 128} (kp : Kept s₀ s) :
    PKept s₀ (outPut i r) s := by
  unfold outPut
  repeat' first
    | (with_reducible first | assumption | refine svc_pkept ?_ | refine updSvc_pkept ?_)
    | (with_reducible first | refine ringCounts_pkept ?_ | refine ringPut_pkept ?_ | exact PKept.pure kp)
    | (with_reducible first | refine PKept.pure ?_ | refine PKept.throw ?_ | refine PKept.modify ?_)
    | (with_reducible first | refine PKept.set ?_ | refine PKept.getBind ?_ | refine PKept.get ?_)
    | (with_reducible first | refine PKept.map ?_ | refine PKept.ite ?_ ?_ | refine PKept.bind ?_ ?_)
    | (with_reducible first | refine PKept.forM ?_ ?_ | intro _ _ _ | refine PKept.ok (by assumption) ?_)
    | (with_reducible first | refine PKept.error (by assumption) ?_ | intro _)
    | dsimp only
    | (with_reducible first | refine Kept.upd ?_)

theorem outRoom_pkept {s₀ s : State} {i : Nat} (kp : Kept s₀ s) :
    PKept s₀ (outRoom i) s := by
  unfold outRoom
  repeat' first
    | (with_reducible first | assumption | refine kept_ite ?_ ?_ | refine svc_pkept ?_ | refine outFree_pkept ?_)
    | (with_reducible first | exact PKept.pure kp | refine PKept.pure ?_ | refine PKept.throw ?_)
    | (with_reducible first | refine PKept.modify ?_ | refine PKept.set ?_ | refine PKept.getBind ?_)
    | (with_reducible first | refine PKept.get ?_ | refine PKept.map ?_ | refine PKept.ite ?_ ?_)
    | (with_reducible first | refine PKept.bind ?_ ?_ | refine PKept.forM ?_ ?_ | intro _ _ _)
    | (with_reducible first | refine PKept.ok (by assumption) ?_ | refine PKept.error (by assumption) ?_)
    | (with_reducible first | intro _)
    | dsimp only

theorem emit_pkept {s₀ s : State} {i : Nat} {r : BitVec 128} (kp : Kept s₀ s) :
    PKept s₀ (emit i r) s := by
  unfold emit
  repeat' first
    | (with_reducible first | assumption | refine kept_ite ?_ ?_ | refine updSvc_pkept ?_)
    | (with_reducible first | refine outPut_pkept ?_ | refine outRoom_pkept ?_ | exact PKept.pure kp)
    | (with_reducible first | refine PKept.pure ?_ | refine PKept.throw ?_ | refine PKept.modify ?_)
    | (with_reducible first | refine PKept.set ?_ | refine PKept.getBind ?_ | refine PKept.get ?_)
    | (with_reducible first | refine PKept.map ?_ | refine PKept.ite ?_ ?_ | refine PKept.bind ?_ ?_)
    | (with_reducible first | refine PKept.forM ?_ ?_ | intro _ _ _ | refine PKept.ok (by assumption) ?_)
    | (with_reducible first | refine PKept.error (by assumption) ?_ | intro _)
    | dsimp only
    | (with_reducible first | refine Kept.upd ?_)

theorem flushGo_pkept {s₀ s : State} {i : Nat} {x0 : Nat} (kp : Kept s₀ s) :
    PKept s₀ (flushGo i x0) s := by
  induction x0 generalizing s  with
  | zero =>
    unfold flushGo
    repeat' first
        | (with_reducible first | assumption | refine kept_ite ?_ ?_ | refine svc_pkept ?_)
        | (with_reducible first | refine updSvc_pkept ?_ | refine outFree_pkept ?_ | refine outPut_pkept ?_)
        | (with_reducible first | exact PKept.pure kp | refine PKept.pure ?_ | refine PKept.throw ?_)
        | (with_reducible first | refine PKept.modify ?_ | refine PKept.set ?_ | refine PKept.getBind ?_)
        | (with_reducible first | refine PKept.get ?_ | refine PKept.map ?_ | refine PKept.ite ?_ ?_)
        | (with_reducible first | refine PKept.bind ?_ ?_ | refine PKept.forM ?_ ?_ | intro _ _ _)
        | (with_reducible first | refine PKept.ok (by assumption) ?_ | refine PKept.error (by assumption) ?_)
        | (with_reducible first | intro _)
        | split
        | dsimp only
        | (with_reducible first | refine Kept.upd ?_)
  | succ k ih =>
    unfold flushGo
    repeat' first
        | (with_reducible first | assumption | refine kept_ite ?_ ?_ | refine svc_pkept ?_)
        | (with_reducible first | refine updSvc_pkept ?_ | refine outFree_pkept ?_ | refine outPut_pkept ?_)
        | (with_reducible first | refine ih ?_ | exact PKept.pure kp | refine PKept.pure ?_)
        | (with_reducible first | refine PKept.throw ?_ | refine PKept.modify ?_ | refine PKept.set ?_)
        | (with_reducible first | refine PKept.getBind ?_ | refine PKept.get ?_ | refine PKept.map ?_)
        | (with_reducible first | refine PKept.ite ?_ ?_ | refine PKept.bind ?_ ?_ | refine PKept.forM ?_ ?_)
        | (with_reducible first | intro _ _ _ | refine PKept.ok (by assumption) ?_)
        | (with_reducible first | refine PKept.error (by assumption) ?_ | intro _)
        | split
        | dsimp only
        | (with_reducible first | refine Kept.upd ?_)

theorem flush_pkept {s₀ s : State} {i : Nat} (kp : Kept s₀ s) :
    PKept s₀ (flush i) s := by
  unfold flush
  repeat' first
    | (with_reducible first | assumption | refine svc_pkept ?_ | refine flushGo_pkept ?_ | exact PKept.pure kp)
    | (with_reducible first | refine PKept.pure ?_ | refine PKept.throw ?_ | refine PKept.modify ?_)
    | (with_reducible first | refine PKept.set ?_ | refine PKept.getBind ?_ | refine PKept.get ?_)
    | (with_reducible first | refine PKept.map ?_ | refine PKept.ite ?_ ?_ | refine PKept.bind ?_ ?_)
    | (with_reducible first | refine PKept.forM ?_ ?_ | intro _ _ _ | refine PKept.ok (by assumption) ?_)
    | (with_reducible first | refine PKept.error (by assumption) ?_ | intro _)
    | dsimp only

theorem node_pkept {s₀ s : State} {v : Service} {n : Nat} (kp : Kept s₀ s) :
    PKept s₀ (node v n) s := by
  unfold node
  repeat' first
    | (with_reducible first | assumption | refine pNat_pkept ?_ | exact PKept.pure kp | refine PKept.pure ?_)
    | (with_reducible first | refine PKept.throw ?_ | refine PKept.modify ?_ | refine PKept.set ?_)
    | (with_reducible first | refine PKept.getBind ?_ | refine PKept.get ?_ | refine PKept.map ?_)
    | (with_reducible first | refine PKept.ite ?_ ?_ | refine PKept.bind ?_ ?_ | refine PKept.forM ?_ ?_)
    | (with_reducible first | intro _ _ _ | refine PKept.ok (by assumption) ?_)
    | (with_reducible first | refine PKept.error (by assumption) ?_ | intro _)
    | dsimp only

theorem setNodeField_pkept {s₀ s : State} {v : Service} {n byte width value : Nat} (kp : Kept s₀ s) :
    PKept s₀ (setNodeField v n byte width value) s := by
  unfold setNodeField
  repeat' first
    | (with_reducible first | assumption | refine pWrite_pkept ?_ | exact PKept.pure kp | refine PKept.pure ?_)
    | (with_reducible first | refine PKept.throw ?_ | refine PKept.modify ?_ | refine PKept.set ?_)
    | (with_reducible first | refine PKept.getBind ?_ | refine PKept.get ?_ | refine PKept.map ?_)
    | (with_reducible first | refine PKept.ite ?_ ?_ | refine PKept.bind ?_ ?_ | refine PKept.forM ?_ ?_)
    | (with_reducible first | intro _ _ _ | refine PKept.ok (by assumption) ?_)
    | (with_reducible first | refine PKept.error (by assumption) ?_ | intro _)
    | dsimp only

theorem nodeRef_pkept {s₀ s : State} {v : Service} {n : Nat} {up : Bool} (kp : Kept s₀ s) :
    PKept s₀ (nodeRef v n up) s := by
  unfold nodeRef
  repeat' first
    | (with_reducible first | assumption | refine kept_ite ?_ ?_ | refine node_pkept ?_)
    | (with_reducible first | refine setNodeField_pkept ?_ | exact PKept.pure kp | refine PKept.pure ?_)
    | (with_reducible first | refine PKept.throw ?_ | refine PKept.modify ?_ | refine PKept.set ?_)
    | (with_reducible first | refine PKept.getBind ?_ | refine PKept.get ?_ | refine PKept.map ?_)
    | (with_reducible first | refine PKept.ite ?_ ?_ | refine PKept.bind ?_ ?_ | refine PKept.forM ?_ ?_)
    | (with_reducible first | intro _ _ _ | refine PKept.ok (by assumption) ?_)
    | (with_reducible first | refine PKept.error (by assumption) ?_ | intro _)
    | dsimp only

theorem nodeChildren_pkept {s₀ s : State} {v : Service} {n : Nat} {up : Bool} (kp : Kept s₀ s) :
    PKept s₀ (nodeChildren v n up) s := by
  unfold nodeChildren
  repeat' first
    | (with_reducible first | assumption | refine kept_ite ?_ ?_ | refine node_pkept ?_)
    | (with_reducible first | refine setNodeField_pkept ?_ | exact PKept.pure kp | refine PKept.pure ?_)
    | (with_reducible first | refine PKept.throw ?_ | refine PKept.modify ?_ | refine PKept.set ?_)
    | (with_reducible first | refine PKept.getBind ?_ | refine PKept.get ?_ | refine PKept.map ?_)
    | (with_reducible first | refine PKept.ite ?_ ?_ | refine PKept.bind ?_ ?_ | refine PKept.forM ?_ ?_)
    | (with_reducible first | intro _ _ _ | refine PKept.ok (by assumption) ?_)
    | (with_reducible first | refine PKept.error (by assumption) ?_ | intro _)
    | dsimp only

theorem nodeUsed_pkept {s₀ s : State} {v : Service} {n : Nat} (kp : Kept s₀ s) :
    PKept s₀ (nodeUsed v n) s := by
  unfold nodeUsed
  repeat' first
    | (with_reducible first | assumption | refine setNodeField_pkept ?_ | exact PKept.pure kp)
    | (with_reducible first | refine PKept.pure ?_ | refine PKept.throw ?_ | refine PKept.modify ?_)
    | (with_reducible first | refine PKept.set ?_ | refine PKept.getBind ?_ | refine PKept.get ?_)
    | (with_reducible first | refine PKept.map ?_ | refine PKept.ite ?_ ?_ | refine PKept.bind ?_ ?_)
    | (with_reducible first | refine PKept.forM ?_ ?_ | intro _ _ _ | refine PKept.ok (by assumption) ?_)
    | (with_reducible first | refine PKept.error (by assumption) ?_ | intro _)
    | dsimp only

theorem bucket_pkept {s₀ s : State} {v : Service} {hash : Nat} (kp : Kept s₀ s) :
    PKept s₀ (bucket v hash) s := by
  unfold bucket
  repeat' first
    | (with_reducible first | assumption | refine pNat_pkept ?_ | exact PKept.pure kp | refine PKept.pure ?_)
    | (with_reducible first | refine PKept.throw ?_ | refine PKept.modify ?_ | refine PKept.set ?_)
    | (with_reducible first | refine PKept.getBind ?_ | refine PKept.get ?_ | refine PKept.map ?_)
    | (with_reducible first | refine PKept.ite ?_ ?_ | refine PKept.bind ?_ ?_ | refine PKept.forM ?_ ?_)
    | (with_reducible first | intro _ _ _ | refine PKept.ok (by assumption) ?_)
    | (with_reducible first | refine PKept.error (by assumption) ?_ | intro _)
    | dsimp only

theorem matchGo_pkept {s₀ s : State} {v : Service} {parent tokens : Nat} {x0 : List Nat} (kp : Kept s₀ s) :
    PKept s₀ (matchGo v parent tokens x0) s := by
  induction x0 generalizing s  with
  | nil =>
    unfold matchGo
    repeat' first
        | (with_reducible first | assumption | refine kept_ite ?_ ?_ | refine node_pkept ?_)
        | (with_reducible first | exact PKept.pure kp | refine PKept.pure ?_ | refine PKept.throw ?_)
        | (with_reducible first | refine PKept.modify ?_ | refine PKept.set ?_ | refine PKept.getBind ?_)
        | (with_reducible first | refine PKept.get ?_ | refine PKept.map ?_ | refine PKept.ite ?_ ?_)
        | (with_reducible first | refine PKept.bind ?_ ?_ | refine PKept.forM ?_ ?_ | intro _ _ _)
        | (with_reducible first | refine PKept.ok (by assumption) ?_ | refine PKept.error (by assumption) ?_)
        | (with_reducible first | intro _)
        | split
        | dsimp only
  | cons y l ih =>
    unfold matchGo
    repeat' first
        | (with_reducible first | assumption | refine kept_ite ?_ ?_ | refine node_pkept ?_ | refine ih ?_)
        | (with_reducible first | exact PKept.pure kp | refine PKept.pure ?_ | refine PKept.throw ?_)
        | (with_reducible first | refine PKept.modify ?_ | refine PKept.set ?_ | refine PKept.getBind ?_)
        | (with_reducible first | refine PKept.get ?_ | refine PKept.map ?_ | refine PKept.ite ?_ ?_)
        | (with_reducible first | refine PKept.bind ?_ ?_ | refine PKept.forM ?_ ?_ | intro _ _ _)
        | (with_reducible first | refine PKept.ok (by assumption) ?_ | refine PKept.error (by assumption) ?_)
        | (with_reducible first | intro _)
        | split
        | dsimp only

theorem findNode_pkept {s₀ s : State} {v : Service} {parent : Nat} {tokens : List Byte} (kp : Kept s₀ s) :
    PKept s₀ (findNode v parent tokens) s := by
  unfold findNode
  repeat' first
    | (with_reducible first | assumption | refine bucket_pkept ?_ | refine matchGo_pkept ?_)
    | (with_reducible first | exact PKept.pure kp | refine PKept.pure ?_ | refine PKept.throw ?_)
    | (with_reducible first | refine PKept.modify ?_ | refine PKept.set ?_ | refine PKept.getBind ?_)
    | (with_reducible first | refine PKept.get ?_ | refine PKept.map ?_ | refine PKept.ite ?_ ?_)
    | (with_reducible first | refine PKept.bind ?_ ?_ | refine PKept.forM ?_ ?_ | intro _ _ _)
    | (with_reducible first | refine PKept.ok (by assumption) ?_ | refine PKept.error (by assumption) ?_)
    | (with_reducible first | intro _)
    | dsimp only

theorem walkGo_pkept {s₀ s : State} {v : Service} {prompt : List Byte} {x0 : Nat} {x1 : Nat} {x2 : Nat} (kp : Kept s₀ s) :
    PKept s₀ (walkGo v prompt x0 x1 x2) s := by
  induction x0 generalizing s x1 x2 with
  | zero =>
    unfold walkGo
    repeat' first
        | (with_reducible first | assumption | refine findNode_pkept ?_ | exact PKept.pure kp)
        | (with_reducible first | refine PKept.pure ?_ | refine PKept.throw ?_ | refine PKept.modify ?_)
        | (with_reducible first | refine PKept.set ?_ | refine PKept.getBind ?_ | refine PKept.get ?_)
        | (with_reducible first | refine PKept.map ?_ | refine PKept.ite ?_ ?_ | refine PKept.bind ?_ ?_)
        | (with_reducible first | refine PKept.forM ?_ ?_ | intro _ _ _ | refine PKept.ok (by assumption) ?_)
        | (with_reducible first | refine PKept.error (by assumption) ?_ | intro _)
        | split
        | dsimp only
        | (with_reducible first | refine Kept.upd ?_)
  | succ k ih =>
    unfold walkGo
    repeat' first
        | (with_reducible first | assumption | refine findNode_pkept ?_ | refine ih ?_ | exact PKept.pure kp)
        | (with_reducible first | refine PKept.pure ?_ | refine PKept.throw ?_ | refine PKept.modify ?_)
        | (with_reducible first | refine PKept.set ?_ | refine PKept.getBind ?_ | refine PKept.get ?_)
        | (with_reducible first | refine PKept.map ?_ | refine PKept.ite ?_ ?_ | refine PKept.bind ?_ ?_)
        | (with_reducible first | refine PKept.forM ?_ ?_ | intro _ _ _ | refine PKept.ok (by assumption) ?_)
        | (with_reducible first | refine PKept.error (by assumption) ?_ | intro _)
        | split
        | dsimp only
        | (with_reducible first | refine Kept.upd ?_)

theorem liveGo_pkept {s₀ s : State} {v : Service} {x0 : Nat} {x1 : Nat} (kp : Kept s₀ s) :
    PKept s₀ (liveGo v x0 x1) s := by
  induction x0 generalizing s x1 with
  | zero =>
    unfold liveGo
    repeat' first
        | (with_reducible first | assumption | refine kept_ite ?_ ?_ | refine node_pkept ?_)
        | (with_reducible first | exact PKept.pure kp | refine PKept.pure ?_ | refine PKept.throw ?_)
        | (with_reducible first | refine PKept.modify ?_ | refine PKept.set ?_ | refine PKept.getBind ?_)
        | (with_reducible first | refine PKept.get ?_ | refine PKept.map ?_ | refine PKept.ite ?_ ?_)
        | (with_reducible first | refine PKept.bind ?_ ?_ | refine PKept.forM ?_ ?_ | intro _ _ _)
        | (with_reducible first | refine PKept.ok (by assumption) ?_ | refine PKept.error (by assumption) ?_)
        | (with_reducible first | intro _)
        | split
        | dsimp only
  | succ k ih =>
    unfold liveGo
    repeat' first
        | (with_reducible first | assumption | refine kept_ite ?_ ?_ | refine node_pkept ?_ | refine ih ?_)
        | (with_reducible first | exact PKept.pure kp | refine PKept.pure ?_ | refine PKept.throw ?_)
        | (with_reducible first | refine PKept.modify ?_ | refine PKept.set ?_ | refine PKept.getBind ?_)
        | (with_reducible first | refine PKept.get ?_ | refine PKept.map ?_ | refine PKept.ite ?_ ?_)
        | (with_reducible first | refine PKept.bind ?_ ?_ | refine PKept.forM ?_ ?_ | intro _ _ _)
        | (with_reducible first | refine PKept.ok (by assumption) ?_ | refine PKept.error (by assumption) ?_)
        | (with_reducible first | intro _)
        | split
        | dsimp only

theorem freeSlotGo_pkept {s₀ s : State} {v : Service} {x0 : Nat} {x1 : Nat} (kp : Kept s₀ s) :
    PKept s₀ (freeSlotGo v x0 x1) s := by
  induction x0 generalizing s x1 with
  | zero =>
    unfold freeSlotGo
    repeat' first
        | (with_reducible first | assumption | refine kept_ite ?_ ?_ | refine node_pkept ?_)
        | (with_reducible first | exact PKept.pure kp | refine PKept.pure ?_ | refine PKept.throw ?_)
        | (with_reducible first | refine PKept.modify ?_ | refine PKept.set ?_ | refine PKept.getBind ?_)
        | (with_reducible first | refine PKept.get ?_ | refine PKept.map ?_ | refine PKept.ite ?_ ?_)
        | (with_reducible first | refine PKept.bind ?_ ?_ | refine PKept.forM ?_ ?_ | intro _ _ _)
        | (with_reducible first | refine PKept.ok (by assumption) ?_ | refine PKept.error (by assumption) ?_)
        | (with_reducible first | intro _)
        | split
        | dsimp only
  | succ k ih =>
    unfold freeSlotGo
    repeat' first
        | (with_reducible first | assumption | refine kept_ite ?_ ?_ | refine node_pkept ?_ | refine ih ?_)
        | (with_reducible first | exact PKept.pure kp | refine PKept.pure ?_ | refine PKept.throw ?_)
        | (with_reducible first | refine PKept.modify ?_ | refine PKept.set ?_ | refine PKept.getBind ?_)
        | (with_reducible first | refine PKept.get ?_ | refine PKept.map ?_ | refine PKept.ite ?_ ?_)
        | (with_reducible first | refine PKept.bind ?_ ?_ | refine PKept.forM ?_ ?_ | intro _ _ _)
        | (with_reducible first | refine PKept.ok (by assumption) ?_ | refine PKept.error (by assumption) ?_)
        | (with_reducible first | intro _)
        | split
        | dsimp only

theorem freeSlot_pkept {s₀ s : State} {v : Service} (kp : Kept s₀ s) :
    PKept s₀ (freeSlot v) s := by
  unfold freeSlot
  repeat' first
    | (with_reducible first | assumption | refine freeSlotGo_pkept ?_ | exact PKept.pure kp)
    | (with_reducible first | refine PKept.pure ?_ | refine PKept.throw ?_ | refine PKept.modify ?_)
    | (with_reducible first | refine PKept.set ?_ | refine PKept.getBind ?_ | refine PKept.get ?_)
    | (with_reducible first | refine PKept.map ?_ | refine PKept.ite ?_ ?_ | refine PKept.bind ?_ ?_)
    | (with_reducible first | refine PKept.forM ?_ ?_ | intro _ _ _ | refine PKept.ok (by assumption) ?_)
    | (with_reducible first | refine PKept.error (by assumption) ?_ | intro _)
    | dsimp only

theorem setEntry_pkept {s₀ s : State} {v : Service} {hash i e : Nat} (kp : Kept s₀ s) :
    PKept s₀ (setEntry v hash i e) s := by
  unfold setEntry
  repeat' first
    | (with_reducible first | assumption | refine pWrite_pkept ?_ | exact PKept.pure kp | refine PKept.pure ?_)
    | (with_reducible first | refine PKept.throw ?_ | refine PKept.modify ?_ | refine PKept.set ?_)
    | (with_reducible first | refine PKept.getBind ?_ | refine PKept.get ?_ | refine PKept.map ?_)
    | (with_reducible first | refine PKept.ite ?_ ?_ | refine PKept.bind ?_ ?_ | refine PKept.forM ?_ ?_)
    | (with_reducible first | intro _ _ _ | refine PKept.ok (by assumption) ?_)
    | (with_reducible first | refine PKept.error (by assumption) ?_ | intro _)
    | dsimp only

theorem evictableGo_pkept {s₀ s : State} {v : Service} {x0 : Nat} {x1 : Nat} {x2 : Option (Nat × Nat)} {x3 : Nat} (kp : Kept s₀ s) :
    PKept s₀ (evictableGo v x0 x1 x2 x3) s := by
  induction x0 generalizing s x1 x2 x3 with
  | zero =>
    unfold evictableGo
    repeat' first
        | (with_reducible first | assumption | refine kept_ite ?_ ?_ | refine node_pkept ?_)
        | (with_reducible first | exact PKept.pure kp | refine PKept.pure ?_ | refine PKept.throw ?_)
        | (with_reducible first | refine PKept.modify ?_ | refine PKept.set ?_ | refine PKept.getBind ?_)
        | (with_reducible first | refine PKept.get ?_ | refine PKept.map ?_ | refine PKept.ite ?_ ?_)
        | (with_reducible first | refine PKept.bind ?_ ?_ | refine PKept.forM ?_ ?_ | intro _ _ _)
        | (with_reducible first | refine PKept.ok (by assumption) ?_ | refine PKept.error (by assumption) ?_)
        | (with_reducible first | intro _)
        | split
        | dsimp only
        | (with_reducible first | refine Kept.upd ?_)
  | succ k ih =>
    unfold evictableGo
    repeat' first
        | (with_reducible first | assumption | refine kept_ite ?_ ?_ | refine node_pkept ?_ | refine ih ?_)
        | (with_reducible first | exact PKept.pure kp | refine PKept.pure ?_ | refine PKept.throw ?_)
        | (with_reducible first | refine PKept.modify ?_ | refine PKept.set ?_ | refine PKept.getBind ?_)
        | (with_reducible first | refine PKept.get ?_ | refine PKept.map ?_ | refine PKept.ite ?_ ?_)
        | (with_reducible first | refine PKept.bind ?_ ?_ | refine PKept.forM ?_ ?_ | intro _ _ _)
        | (with_reducible first | refine PKept.ok (by assumption) ?_ | refine PKept.error (by assumption) ?_)
        | (with_reducible first | intro _)
        | split
        | dsimp only
        | (with_reducible first | refine Kept.upd ?_)

theorem evictable_pkept {s₀ s : State} {v : Service} (kp : Kept s₀ s) :
    PKept s₀ (evictable v) s := by
  unfold evictable
  repeat' first
    | (with_reducible first | assumption | refine kept_ite ?_ ?_ | refine evictableGo_pkept ?_)
    | (with_reducible first | exact PKept.pure kp | refine PKept.pure ?_ | refine PKept.throw ?_)
    | (with_reducible first | refine PKept.modify ?_ | refine PKept.set ?_ | refine PKept.getBind ?_)
    | (with_reducible first | refine PKept.get ?_ | refine PKept.map ?_ | refine PKept.ite ?_ ?_)
    | (with_reducible first | refine PKept.bind ?_ ?_ | refine PKept.forM ?_ ?_ | intro _ _ _)
    | (with_reducible first | refine PKept.ok (by assumption) ?_ | refine PKept.error (by assumption) ?_)
    | (with_reducible first | intro _)
    | dsimp only

theorem evict_pkept {s₀ s : State} {i n : Nat} (kp : Kept s₀ s) :
    PKept s₀ (evict i n) s := by
  unfold evict
  repeat' first
    | (with_reducible first | assumption | refine kept_ite ?_ ?_ | refine svc_pkept ?_ | refine updSvc_pkept ?_)
    | (with_reducible first | refine node_pkept ?_ | refine setNodeField_pkept ?_ | refine nodeChildren_pkept ?_)
    | (with_reducible first | refine bucket_pkept ?_ | refine setEntry_pkept ?_ | exact PKept.pure kp)
    | (with_reducible first | refine PKept.pure ?_ | refine PKept.throw ?_ | refine PKept.modify ?_)
    | (with_reducible first | refine PKept.set ?_ | refine PKept.getBind ?_ | refine PKept.get ?_)
    | (with_reducible first | refine PKept.map ?_ | refine PKept.ite ?_ ?_ | refine PKept.bind ?_ ?_)
    | (with_reducible first | refine PKept.forM ?_ ?_ | intro _ _ _ | refine PKept.ok (by assumption) ?_)
    | (with_reducible first | refine PKept.error (by assumption) ?_ | intro _)
    | split
    | dsimp only
    | (with_reducible first | refine Kept.upd ?_)

theorem makeRoomGo_pkept {s₀ s : State} {i need : Nat} {x0 : Nat} (kp : Kept s₀ s) :
    PKept s₀ (makeRoomGo i need x0) s := by
  induction x0 generalizing s  with
  | zero =>
    unfold makeRoomGo
    repeat' first
        | (with_reducible first | assumption | refine kept_ite ?_ ?_ | refine svc_pkept ?_)
        | (with_reducible first | refine evictable_pkept ?_ | refine evict_pkept ?_ | exact PKept.pure kp)
        | (with_reducible first | refine PKept.pure ?_ | refine PKept.throw ?_ | refine PKept.modify ?_)
        | (with_reducible first | refine PKept.set ?_ | refine PKept.getBind ?_ | refine PKept.get ?_)
        | (with_reducible first | refine PKept.map ?_ | refine PKept.ite ?_ ?_ | refine PKept.bind ?_ ?_)
        | (with_reducible first | refine PKept.forM ?_ ?_ | intro _ _ _ | refine PKept.ok (by assumption) ?_)
        | (with_reducible first | refine PKept.error (by assumption) ?_ | intro _)
        | split
        | dsimp only
        | (with_reducible first | refine Kept.upd ?_)
  | succ k ih =>
    unfold makeRoomGo
    repeat' first
        | (with_reducible first | assumption | refine kept_ite ?_ ?_ | refine svc_pkept ?_)
        | (with_reducible first | refine evictable_pkept ?_ | refine evict_pkept ?_ | refine ih ?_)
        | (with_reducible first | exact PKept.pure kp | refine PKept.pure ?_ | refine PKept.throw ?_)
        | (with_reducible first | refine PKept.modify ?_ | refine PKept.set ?_ | refine PKept.getBind ?_)
        | (with_reducible first | refine PKept.get ?_ | refine PKept.map ?_ | refine PKept.ite ?_ ?_)
        | (with_reducible first | refine PKept.bind ?_ ?_ | refine PKept.forM ?_ ?_ | intro _ _ _)
        | (with_reducible first | refine PKept.ok (by assumption) ?_ | refine PKept.error (by assumption) ?_)
        | (with_reducible first | intro _)
        | split
        | dsimp only
        | (with_reducible first | refine Kept.upd ?_)

theorem canReserve_pkept {s₀ s : State} {i need : Nat} (kp : Kept s₀ s) :
    PKept s₀ (canReserve i need) s := by
  unfold canReserve
  repeat' first
    | (with_reducible first | assumption | refine kept_ite ?_ ?_ | refine svc_pkept ?_)
    | (with_reducible first | refine evictable_pkept ?_ | exact PKept.pure kp | refine PKept.pure ?_)
    | (with_reducible first | refine PKept.throw ?_ | refine PKept.modify ?_ | refine PKept.set ?_)
    | (with_reducible first | refine PKept.getBind ?_ | refine PKept.get ?_ | refine PKept.map ?_)
    | (with_reducible first | refine PKept.ite ?_ ?_ | refine PKept.bind ?_ ?_ | refine PKept.forM ?_ ?_)
    | (with_reducible first | intro _ _ _ | refine PKept.ok (by assumption) ?_)
    | (with_reducible first | refine PKept.error (by assumption) ?_ | intro _)
    | dsimp only

theorem reserve_pkept {s₀ s : State} {i need : Nat} (kp : Kept s₀ s) :
    PKept s₀ (reserve i need) s := by
  unfold reserve
  repeat' first
    | (with_reducible first | assumption | refine makeRoomGo_pkept ?_ | exact PKept.pure kp)
    | (with_reducible first | refine PKept.pure ?_ | refine PKept.throw ?_ | refine PKept.modify ?_)
    | (with_reducible first | refine PKept.set ?_ | refine PKept.getBind ?_ | refine PKept.get ?_)
    | (with_reducible first | refine PKept.map ?_ | refine PKept.ite ?_ ?_ | refine PKept.bind ?_ ?_)
    | (with_reducible first | refine PKept.forM ?_ ?_ | intro _ _ _ | refine PKept.ok (by assumption) ?_)
    | (with_reducible first | refine PKept.error (by assumption) ?_ | intro _)
    | dsimp only

theorem growGo_pkept {s₀ s : State} {i e n : Nat} {x0 : Nat} (kp : Kept s₀ s) :
    PKept s₀ (growGo i e n x0) s := by
  induction x0 generalizing s  with
  | zero =>
    unfold growGo
    repeat' first
        | (with_reducible first | assumption | refine kept_ite ?_ ?_ | refine pWrite_pkept ?_)
        | (with_reducible first | refine svc_pkept ?_ | refine updSvc_pkept ?_ | refine updEnt_pkept ?_)
        | (with_reducible first | exact PKept.pure kp | refine PKept.pure ?_ | refine PKept.throw ?_)
        | (with_reducible first | refine PKept.modify ?_ | refine PKept.set ?_ | refine PKept.getBind ?_)
        | (with_reducible first | refine PKept.get ?_ | refine PKept.map ?_ | refine PKept.ite ?_ ?_)
        | (with_reducible first | refine PKept.bind ?_ ?_ | refine PKept.forM ?_ ?_ | intro _ _ _)
        | (with_reducible first | refine PKept.ok (by assumption) ?_ | refine PKept.error (by assumption) ?_)
        | (with_reducible first | intro _)
        | split
        | dsimp only
        | (with_reducible first | refine Kept.upd ?_)
  | succ k ih =>
    unfold growGo
    repeat' first
        | (with_reducible first | assumption | refine kept_ite ?_ ?_ | refine pWrite_pkept ?_)
        | (with_reducible first | refine svc_pkept ?_ | refine updSvc_pkept ?_ | refine updEnt_pkept ?_)
        | (with_reducible first | refine ih ?_ | exact PKept.pure kp | refine PKept.pure ?_)
        | (with_reducible first | refine PKept.throw ?_ | refine PKept.modify ?_ | refine PKept.set ?_)
        | (with_reducible first | refine PKept.getBind ?_ | refine PKept.get ?_ | refine PKept.map ?_)
        | (with_reducible first | refine PKept.ite ?_ ?_ | refine PKept.bind ?_ ?_ | refine PKept.forM ?_ ?_)
        | (with_reducible first | intro _ _ _ | refine PKept.ok (by assumption) ?_)
        | (with_reducible first | refine PKept.error (by assumption) ?_ | intro _)
        | split
        | dsimp only
        | (with_reducible first | refine Kept.upd ?_)

theorem grow_pkept {s₀ s : State} {i e n : Nat} (kp : Kept s₀ s) :
    PKept s₀ (grow i e n) s := by
  unfold grow
  repeat' first
    | (with_reducible first | assumption | refine growGo_pkept ?_ | exact PKept.pure kp | refine PKept.pure ?_)
    | (with_reducible first | refine PKept.throw ?_ | refine PKept.modify ?_ | refine PKept.set ?_)
    | (with_reducible first | refine PKept.getBind ?_ | refine PKept.get ?_ | refine PKept.map ?_)
    | (with_reducible first | refine PKept.ite ?_ ?_ | refine PKept.bind ?_ ?_ | refine PKept.forM ?_ ?_)
    | (with_reducible first | intro _ _ _ | refine PKept.ok (by assumption) ?_)
    | (with_reducible first | refine PKept.error (by assumption) ?_ | intro _)
    | dsimp only

theorem State.dropHandoff_kept {s₀ s : State} {e : Nat} (kp : Kept s₀ s) :
    Kept s₀ (State.dropHandoff s e) := by
  unfold State.dropHandoff
  repeat' first
    | (with_reducible first | assumption | refine State.updSeq_kept ?_ | refine State.dropCopy_kept ?_)
    | split
    | dsimp only
    | (with_reducible first | refine Kept.upd ?_)

theorem State.freeEntry_kept {s₀ s : State} {e : Nat} (kp : Kept s₀ s) :
    Kept s₀ (State.freeEntry s e) := by
  unfold State.freeEntry
  repeat' first
    | (with_reducible first | assumption | refine State.updService_kept ?_ | refine State.dropHandoff_kept ?_)
    | split
    | dsimp only
    | (with_reducible first | refine Kept.upd ?_)

theorem releaseSeq_pkept {s₀ s : State} {i e : Nat} (kp : Kept s₀ s) :
    PKept s₀ (releaseSeq i e) s := by
  unfold releaseSeq
  repeat' first
    | (with_reducible first | assumption | refine kept_ite ?_ ?_ | refine svc_pkept ?_ | refine updSvc_pkept ?_)
    | (with_reducible first | refine nodeRef_pkept ?_ | refine nodeUsed_pkept ?_)
    | (with_reducible first | refine State.freeEntry_kept ?_ | exact PKept.pure kp | refine PKept.pure ?_)
    | (with_reducible first | refine PKept.throw ?_ | refine PKept.modify ?_ | refine PKept.set ?_)
    | (with_reducible first | refine PKept.getBind ?_ | refine PKept.get ?_ | refine PKept.map ?_)
    | (with_reducible first | refine PKept.ite ?_ ?_ | refine PKept.bind ?_ ?_ | refine PKept.forM ?_ ?_)
    | (with_reducible first | intro _ _ _ | refine PKept.ok (by assumption) ?_)
    | (with_reducible first | refine PKept.error (by assumption) ?_ | intro _)
    | split
    | dsimp only
    | (with_reducible first | refine Kept.upd ?_)

theorem endSeq_pkept {s₀ s : State} {i e code : Nat} {str : Nat} {tail : Nat} (kp : Kept s₀ s) :
    PKept s₀ (endSeq i e code str tail) s := by
  unfold endSeq
  repeat' first
    | (with_reducible first | assumption | refine kept_ite ?_ ?_ | refine updSvc_pkept ?_)
    | (with_reducible first | refine updEnt_pkept ?_ | refine outPut_pkept ?_ | refine outRoom_pkept ?_)
    | (with_reducible first | refine releaseSeq_pkept ?_ | exact PKept.pure kp | refine PKept.pure ?_)
    | (with_reducible first | refine PKept.throw ?_ | refine PKept.modify ?_ | refine PKept.set ?_)
    | (with_reducible first | refine PKept.getBind ?_ | refine PKept.get ?_ | refine PKept.map ?_)
    | (with_reducible first | refine PKept.ite ?_ ?_ | refine PKept.bind ?_ ?_ | refine PKept.forM ?_ ?_)
    | (with_reducible first | intro _ _ _ | refine PKept.ok (by assumption) ?_)
    | (with_reducible first | refine PKept.error (by assumption) ?_ | intro _)
    | split
    | dsimp only
    | (with_reducible first | refine Kept.upd ?_)

theorem putToken_pkept {s₀ s : State} {i : Nat} {q : Seq} {tok flags : Nat} (kp : Kept s₀ s) :
    PKept s₀ (putToken i q tok flags) s := by
  unfold putToken
  repeat' first
    | (with_reducible first | assumption | refine kept_ite ?_ ?_ | refine svc_pkept ?_)
    | (with_reducible first | refine ringCounts_pkept ?_ | refine ringPut_pkept ?_ | refine outPut_pkept ?_)
    | (with_reducible first | refine outRoom_pkept ?_ | exact PKept.pure kp | refine PKept.pure ?_)
    | (with_reducible first | refine PKept.throw ?_ | refine PKept.modify ?_ | refine PKept.set ?_)
    | (with_reducible first | refine PKept.getBind ?_ | refine PKept.get ?_ | refine PKept.map ?_)
    | (with_reducible first | refine PKept.ite ?_ ?_ | refine PKept.bind ?_ ?_ | refine PKept.forM ?_ ?_)
    | (with_reducible first | intro _ _ _ | refine PKept.ok (by assumption) ?_)
    | (with_reducible first | refine PKept.error (by assumption) ?_ | intro _)
    | dsimp only

theorem deliver_pkept {s₀ s : State} {i e tok flags : Nat} (kp : Kept s₀ s) :
    PKept s₀ (deliver i e tok flags) s := by
  unfold deliver
  repeat' first
    | (with_reducible first | assumption | refine kept_ite ?_ ?_ | refine updSvc_pkept ?_)
    | (with_reducible first | refine updEnt_pkept ?_ | refine putToken_pkept ?_ | exact PKept.pure kp)
    | (with_reducible first | refine PKept.pure ?_ | refine PKept.throw ?_ | refine PKept.modify ?_)
    | (with_reducible first | refine PKept.set ?_ | refine PKept.getBind ?_ | refine PKept.get ?_)
    | (with_reducible first | refine PKept.map ?_ | refine PKept.ite ?_ ?_ | refine PKept.bind ?_ ?_)
    | (with_reducible first | refine PKept.forM ?_ ?_ | intro _ _ _ | refine PKept.ok (by assumption) ?_)
    | (with_reducible first | refine PKept.error (by assumption) ?_ | intro _)
    | split
    | dsimp only
    | (with_reducible first | refine Kept.upd ?_)

theorem pending_pkept {s₀ s : State} {i e : Nat} (kp : Kept s₀ s) :
    PKept s₀ (pending i e) s := by
  unfold pending
  repeat' first
    | (with_reducible first | assumption | refine kept_ite ?_ ?_ | refine updEnt_pkept ?_)
    | (with_reducible first | refine endSeq_pkept ?_ | refine putToken_pkept ?_ | exact PKept.pure kp)
    | (with_reducible first | refine PKept.pure ?_ | refine PKept.throw ?_ | refine PKept.modify ?_)
    | (with_reducible first | refine PKept.set ?_ | refine PKept.getBind ?_ | refine PKept.get ?_)
    | (with_reducible first | refine PKept.map ?_ | refine PKept.ite ?_ ?_ | refine PKept.bind ?_ ?_)
    | (with_reducible first | refine PKept.forM ?_ ?_ | intro _ _ _ | refine PKept.ok (by assumption) ?_)
    | (with_reducible first | refine PKept.error (by assumption) ?_ | intro _)
    | split
    | dsimp only
    | (with_reducible first | refine Kept.upd ?_)

theorem pendings_pkept {s₀ s : State} {i : Nat} (kp : Kept s₀ s) :
    PKept s₀ (pendings i) s := by
  unfold pendings
  repeat' first
    | (with_reducible first | assumption | refine flush_pkept ?_ | refine pending_pkept ?_ | exact PKept.pure kp)
    | (with_reducible first | refine PKept.pure ?_ | refine PKept.throw ?_ | refine PKept.modify ?_)
    | (with_reducible first | refine PKept.set ?_ | refine PKept.getBind ?_ | refine PKept.get ?_)
    | (with_reducible first | refine PKept.map ?_ | refine PKept.ite ?_ ?_ | refine PKept.bind ?_ ?_)
    | (with_reducible first | refine PKept.forM ?_ ?_ | intro _ _ _ | refine PKept.ok (by assumption) ?_)
    | (with_reducible first | refine PKept.error (by assumption) ?_ | intro _)
    | dsimp only

end Sys2Proof.Machine
end

