-- ==== Sys2Proof/Laws/KeptPorchStep.lean ====
section
/-! SUPPORT. Every operation of Machine/PorchStep.lean keeps what every command keeps (`Kept`). -/

namespace Sys2Proof.Machine

theorem peerEntry_pkept {s₀ s : State} {v : Service} {p : Nat} (kp : Kept s₀ s) :
    PKept s₀ (peerEntry v p) s := by
  unfold peerEntry
  repeat' first
    | (with_reducible first | assumption | refine pNat_pkept ?_ | exact PKept.pure kp | refine PKept.pure ?_)
    | (with_reducible first | refine PKept.throw ?_ | refine PKept.modify ?_ | refine PKept.set ?_)
    | (with_reducible first | refine PKept.getBind ?_ | refine PKept.get ?_ | refine PKept.map ?_)
    | (with_reducible first | refine PKept.ite ?_ ?_ | refine PKept.bind ?_ ?_ | refine PKept.forM ?_ ?_)
    | (with_reducible first | intro _ _ _ | refine PKept.ok (by assumption) ?_)
    | (with_reducible first | refine PKept.error (by assumption) ?_ | intro _)
    | dsimp only

theorem State.sendMsg_kept {s₀ s : State} {i p : Nat} {r : BitVec 512} {phase : Nat} (kp : Kept s₀ s) :
    Kept s₀ (State.sendMsg s i p r phase) := by
  unfold State.sendMsg
  repeat' first
    | (with_reducible first | assumption | refine svc_pkept ?_ | exact PKept.pure kp | refine PKept.pure ?_)
    | (with_reducible first | refine PKept.throw ?_ | refine PKept.modify ?_ | refine PKept.set ?_)
    | (with_reducible first | refine PKept.getBind ?_ | refine PKept.get ?_ | refine PKept.map ?_)
    | (with_reducible first | refine PKept.ite ?_ ?_ | refine PKept.bind ?_ ?_ | refine PKept.forM ?_ ?_)
    | (with_reducible first | intro _ _ _ | refine PKept.ok (by assumption) ?_)
    | (with_reducible first | refine PKept.error (by assumption) ?_ | intro _)
    | dsimp only
    | (with_reducible first | refine Kept.upd ?_)

theorem sendRec_pkept {s₀ s : State} {i p : Nat} {r : BitVec 512} (kp : Kept s₀ s) :
    PKept s₀ (sendRec i p r) s := by
  unfold sendRec
  repeat' first
    | (with_reducible first | assumption | refine State.sendMsg_kept ?_ | exact PKept.pure kp)
    | (with_reducible first | refine PKept.pure ?_ | refine PKept.throw ?_ | refine PKept.modify ?_)
    | (with_reducible first | refine PKept.set ?_ | refine PKept.getBind ?_ | refine PKept.get ?_)
    | (with_reducible first | refine PKept.map ?_ | refine PKept.ite ?_ ?_ | refine PKept.bind ?_ ?_)
    | (with_reducible first | refine PKept.forM ?_ ?_ | intro _ _ _ | refine PKept.ok (by assumption) ?_)
    | (with_reducible first | refine PKept.error (by assumption) ?_ | intro _)
    | dsimp only

theorem offerNext_pkept {s₀ s : State} {i e : Nat} (kp : Kept s₀ s) :
    PKept s₀ (offerNext i e) s := by
  unfold offerNext
  repeat' first
    | (with_reducible first | assumption | refine kept_ite ?_ ?_ | refine svc_pkept ?_ | refine updEnt_pkept ?_)
    | (with_reducible first | refine peerEntry_pkept ?_ | refine sendRec_pkept ?_ | exact PKept.pure kp)
    | (with_reducible first | refine PKept.pure ?_ | refine PKept.throw ?_ | refine PKept.modify ?_)
    | (with_reducible first | refine PKept.set ?_ | refine PKept.getBind ?_ | refine PKept.get ?_)
    | (with_reducible first | refine PKept.map ?_ | refine PKept.ite ?_ ?_ | refine PKept.bind ?_ ?_)
    | (with_reducible first | refine PKept.forM ?_ ?_ | intro _ _ _ | refine PKept.ok (by assumption) ?_)
    | (with_reducible first | refine PKept.error (by assumption) ?_ | intro _)
    | split
    | dsimp only
    | (with_reducible first | refine Kept.upd ?_)

theorem offerAgain_pkept {s₀ s : State} {i e : Nat} (kp : Kept s₀ s) :
    PKept s₀ (offerAgain i e) s := by
  unfold offerAgain
  repeat' first
    | (with_reducible first | assumption | refine updEnt_pkept ?_ | refine offerNext_pkept ?_)
    | (with_reducible first | exact PKept.pure kp | refine PKept.pure ?_ | refine PKept.throw ?_)
    | (with_reducible first | refine PKept.modify ?_ | refine PKept.set ?_ | refine PKept.getBind ?_)
    | (with_reducible first | refine PKept.get ?_ | refine PKept.map ?_ | refine PKept.ite ?_ ?_)
    | (with_reducible first | refine PKept.bind ?_ ?_ | refine PKept.forM ?_ ?_ | intro _ _ _)
    | (with_reducible first | refine PKept.ok (by assumption) ?_ | refine PKept.error (by assumption) ?_)
    | (with_reducible first | intro _)
    | dsimp only
    | (with_reducible first | refine Kept.upd ?_)

theorem startHandoff_pkept {s₀ s : State} {i e : Nat} (kp : Kept s₀ s) :
    PKept s₀ (startHandoff i e) s := by
  unfold startHandoff
  repeat' first
    | (with_reducible first | assumption | refine pWrite_pkept ?_ | refine svc_pkept ?_ | refine updEnt_pkept ?_)
    | (with_reducible first | refine offerNext_pkept ?_ | exact PKept.pure kp | refine PKept.pure ?_)
    | (with_reducible first | refine PKept.throw ?_ | refine PKept.modify ?_ | refine PKept.set ?_)
    | (with_reducible first | refine PKept.getBind ?_ | refine PKept.get ?_ | refine PKept.map ?_)
    | (with_reducible first | refine PKept.ite ?_ ?_ | refine PKept.bind ?_ ?_ | refine PKept.forM ?_ ?_)
    | (with_reducible first | intro _ _ _ | refine PKept.ok (by assumption) ?_)
    | (with_reducible first | refine PKept.error (by assumption) ?_ | intro _)
    | split
    | dsimp only
    | (with_reducible first | refine Kept.upd ?_)

theorem State.porchAccess_kept {s₀ s : State} {c : CtxId} {msg : Nat} {write : Bool} {d : Dva} {len : Nat} {data : List Byte} (kp : Kept s₀ s) :
    Kept s₀ (State.porchAccess s c msg write d len data) := by
  unfold State.porchAccess
  repeat' first
    | (with_reducible first | assumption | refine kept_ite ?_ ?_ | refine State.write_kept ?_)
    | (with_reducible first | refine State.setDone_kept ?_ | refine State.addAccess_kept ?_)
    | (with_reducible first | refine State.addAccess_kept_eq (by assumption) ?_ | refine State.issue_kept ?_)
    | split
    | dsimp only
    | (with_reducible first | refine Kept.upd ?_)

theorem State.porchReads_kept {s₀ s : State} {c : CtxId} {msg : Nat} {d : Dva} {n : Nat} (kp : Kept s₀ s) :
    Kept s₀ (State.porchReads s c msg d n) := by
  unfold State.porchReads
  repeat' first
    | (with_reducible first | assumption | refine kept_foldl ?_ ?_ | intro _ _ _ | intro _)
    | (with_reducible first | refine State.porchAccess_kept ?_)
    | dsimp only

theorem State.updMsg_kept {s₀ s : State} {id : Nat} {f : PorchMsg → PorchMsg} (kp : Kept s₀ s) :
    Kept s₀ (State.updMsg s id f) := by
  unfold State.updMsg
  repeat' first
    | (with_reducible first | assumption | refine kept_ite ?_ ?_)
    | dsimp only
    | (with_reducible first | refine Kept.upd ?_)

theorem State.clearAccs_kept {s₀ s : State} {m : PorchMsg} (kp : Kept s₀ s) :
    Kept s₀ (State.clearAccs s m) := by
  unfold State.clearAccs
  repeat' first
    | (with_reducible first | assumption | refine State.updMsg_kept ?_)
    | dsimp only
    | (with_reducible first | refine Kept.upd ?_)

theorem State.dropMsg_kept {s₀ s : State} {m : PorchMsg} (kp : Kept s₀ s) :
    Kept s₀ (State.dropMsg s m) := by
  unfold State.dropMsg
  repeat' first
    | (with_reducible first | assumption | refine State.clearAccs_kept ?_)
    | dsimp only
    | (with_reducible first | refine Kept.upd ?_)

theorem takeResult_pkept {s₀ s : State} {i : Nat} {w : WaitReq} (kp : Kept s₀ s) :
    PKept s₀ (takeResult i w) s := by
  unfold takeResult
  repeat' first
    | (with_reducible first | assumption | refine kept_ite ?_ ?_ | refine svc_pkept ?_ | refine node_pkept ?_)
    | (with_reducible first | refine nodeRef_pkept ?_ | refine nodeUsed_pkept ?_ | refine liveGo_pkept ?_)
    | (with_reducible first | exact PKept.pure kp | refine PKept.pure ?_ | refine PKept.throw ?_)
    | (with_reducible first | refine PKept.modify ?_ | refine PKept.set ?_ | refine PKept.getBind ?_)
    | (with_reducible first | refine PKept.get ?_ | refine PKept.map ?_ | refine PKept.ite ?_ ?_)
    | (with_reducible first | refine PKept.bind ?_ ?_ | refine PKept.forM ?_ ?_ | intro _ _ _)
    | (with_reducible first | refine PKept.ok (by assumption) ?_ | refine PKept.error (by assumption) ?_)
    | (with_reducible first | intro _)
    | split
    | dsimp only
    | (with_reducible first | refine Kept.upd ?_)

theorem takeGo_pkept {s₀ s : State} {i : Nat} {x0 : List WaitReq} {x1 : List WaitReq} (kp : Kept s₀ s) :
    PKept s₀ (takeGo i x0 x1) s := by
  induction x1 generalizing s x0 with
  | nil =>
    unfold takeGo
    repeat' first
        | (with_reducible first | assumption | refine kept_ite ?_ ?_ | refine updSvc_pkept ?_)
        | (with_reducible first | refine takeResult_pkept ?_ | exact PKept.pure kp | refine PKept.pure ?_)
        | (with_reducible first | refine PKept.throw ?_ | refine PKept.modify ?_ | refine PKept.set ?_)
        | (with_reducible first | refine PKept.getBind ?_ | refine PKept.get ?_ | refine PKept.map ?_)
        | (with_reducible first | refine PKept.ite ?_ ?_ | refine PKept.bind ?_ ?_ | refine PKept.forM ?_ ?_)
        | (with_reducible first | intro _ _ _ | refine PKept.ok (by assumption) ?_)
        | (with_reducible first | refine PKept.error (by assumption) ?_ | intro _)
        | split
        | dsimp only
        | (with_reducible first | refine Kept.upd ?_)
  | cons y l ih =>
    unfold takeGo
    repeat' first
        | (with_reducible first | assumption | refine kept_ite ?_ ?_ | refine updSvc_pkept ?_)
        | (with_reducible first | refine takeResult_pkept ?_ | refine ih ?_ | exact PKept.pure kp)
        | (with_reducible first | refine PKept.pure ?_ | refine PKept.throw ?_ | refine PKept.modify ?_)
        | (with_reducible first | refine PKept.set ?_ | refine PKept.getBind ?_ | refine PKept.get ?_)
        | (with_reducible first | refine PKept.map ?_ | refine PKept.ite ?_ ?_ | refine PKept.bind ?_ ?_)
        | (with_reducible first | refine PKept.forM ?_ ?_ | intro _ _ _ | refine PKept.ok (by assumption) ?_)
        | (with_reducible first | refine PKept.error (by assumption) ?_ | intro _)
        | split
        | dsimp only
        | (with_reducible first | refine Kept.upd ?_)

theorem takeResults_pkept {s₀ s : State} {i : Nat} (kp : Kept s₀ s) :
    PKept s₀ (takeResults i) s := by
  unfold takeResults
  repeat' first
    | (with_reducible first | assumption | refine svc_pkept ?_ | refine takeGo_pkept ?_ | exact PKept.pure kp)
    | (with_reducible first | refine PKept.pure ?_ | refine PKept.throw ?_ | refine PKept.modify ?_)
    | (with_reducible first | refine PKept.set ?_ | refine PKept.getBind ?_ | refine PKept.get ?_)
    | (with_reducible first | refine PKept.map ?_ | refine PKept.ite ?_ ?_ | refine PKept.bind ?_ ?_)
    | (with_reducible first | refine PKept.forM ?_ ?_ | intro _ _ _ | refine PKept.ok (by assumption) ?_)
    | (with_reducible first | refine PKept.error (by assumption) ?_ | intro _)
    | dsimp only

theorem pinDepth_pkept {s₀ s : State} {v : Service} {w : WaitReq} (kp : Kept s₀ s) :
    PKept s₀ (pinDepth v w) s := by
  unfold pinDepth
  repeat' first
    | (with_reducible first | assumption | refine node_pkept ?_ | exact PKept.pure kp | refine PKept.pure ?_)
    | (with_reducible first | refine PKept.throw ?_ | refine PKept.modify ?_ | refine PKept.set ?_)
    | (with_reducible first | refine PKept.getBind ?_ | refine PKept.get ?_ | refine PKept.map ?_)
    | (with_reducible first | refine PKept.ite ?_ ?_ | refine PKept.bind ?_ ?_ | refine PKept.forM ?_ ?_)
    | (with_reducible first | intro _ _ _ | refine PKept.ok (by assumption) ?_)
    | (with_reducible first | refine PKept.error (by assumption) ?_ | intro _)
    | split
    | dsimp only
    | (with_reducible first | refine Kept.upd ?_)

theorem headReason_pkept {s₀ s : State} {i : Nat} {w : WaitReq} (kp : Kept s₀ s) :
    PKept s₀ (headReason i w) s := by
  unfold headReason
  repeat' first
    | (with_reducible first | assumption | refine kept_ite ?_ ?_ | refine svc_pkept ?_)
    | (with_reducible first | refine canReserve_pkept ?_ | refine pinDepth_pkept ?_ | exact PKept.pure kp)
    | (with_reducible first | refine PKept.pure ?_ | refine PKept.throw ?_ | refine PKept.modify ?_)
    | (with_reducible first | refine PKept.set ?_ | refine PKept.getBind ?_ | refine PKept.get ?_)
    | (with_reducible first | refine PKept.map ?_ | refine PKept.ite ?_ ?_ | refine PKept.bind ?_ ?_)
    | (with_reducible first | refine PKept.forM ?_ ?_ | intro _ _ _ | refine PKept.ok (by assumption) ?_)
    | (with_reducible first | refine PKept.error (by assumption) ?_ | intro _)
    | dsimp only

theorem admitHead_pkept {s₀ s : State} {i : Nat} {w : WaitReq} (kp : Kept s₀ s) :
    PKept s₀ (admitHead i w) s := by
  unfold admitHead
  repeat' first
    | (with_reducible first | assumption | refine pRead_pkept ?_ | refine svc_pkept ?_ | refine updSvc_pkept ?_)
    | (with_reducible first | refine emit_pkept ?_ | refine reserve_pkept ?_ | refine pinDepth_pkept ?_)
    | (with_reducible first | exact PKept.pure kp | refine PKept.pure ?_ | refine PKept.throw ?_)
    | (with_reducible first | refine PKept.modify ?_ | refine PKept.set ?_ | refine PKept.getBind ?_)
    | (with_reducible first | refine PKept.get ?_ | refine PKept.map ?_ | refine PKept.ite ?_ ?_)
    | (with_reducible first | refine PKept.bind ?_ ?_ | refine PKept.forM ?_ ?_ | intro _ _ _)
    | (with_reducible first | refine PKept.ok (by assumption) ?_ | refine PKept.error (by assumption) ?_)
    | (with_reducible first | intro _)
    | split
    | dsimp only
    | (with_reducible first | refine Kept.upd ?_)

theorem admitGo_pkept {s₀ s : State} {i : Nat} {x0 : Nat} (kp : Kept s₀ s) :
    PKept s₀ (admitGo i x0) s := by
  induction x0 generalizing s  with
  | zero =>
    unfold admitGo
    repeat' first
        | (with_reducible first | assumption | refine kept_ite ?_ ?_ | refine svc_pkept ?_)
        | (with_reducible first | apply headReason_pkept | refine admitHead_pkept ?_ | exact PKept.pure kp)
        | (with_reducible first | refine PKept.pure ?_ | refine PKept.throw ?_ | refine PKept.modify ?_)
        | (with_reducible first | refine PKept.set ?_ | refine PKept.getBind ?_ | refine PKept.get ?_)
        | (with_reducible first | refine PKept.map ?_ | refine PKept.ite ?_ ?_ | refine PKept.bind ?_ ?_)
        | (with_reducible first | refine PKept.forM ?_ ?_ | intro _ _ _ | refine PKept.ok (by assumption) ?_)
        | (with_reducible first | refine PKept.error (by assumption) ?_ | intro _)
        | split
        | dsimp only
        | (with_reducible first | refine Kept.upd ?_)
  | succ k ih =>
    unfold admitGo
    repeat' first
        | (with_reducible first | assumption | refine kept_ite ?_ ?_ | refine svc_pkept ?_)
        | (with_reducible first | apply headReason_pkept | refine admitHead_pkept ?_ | refine ih ?_)
        | (with_reducible first | exact PKept.pure kp | refine PKept.pure ?_ | refine PKept.throw ?_)
        | (with_reducible first | refine PKept.modify ?_ | refine PKept.set ?_ | refine PKept.getBind ?_)
        | (with_reducible first | refine PKept.get ?_ | refine PKept.map ?_ | refine PKept.ite ?_ ?_)
        | (with_reducible first | refine PKept.bind ?_ ?_ | refine PKept.forM ?_ ?_ | intro _ _ _)
        | (with_reducible first | refine PKept.ok (by assumption) ?_ | refine PKept.error (by assumption) ?_)
        | (with_reducible first | intro _)
        | split
        | dsimp only
        | (with_reducible first | refine Kept.upd ?_)

theorem tellGo_pkept {s₀ s : State} {i reason : Nat} {x0 : Nat} {x1 : List WaitReq} (kp : Kept s₀ s) :
    PKept s₀ (tellGo i reason x0 x1) s := by
  induction x1 generalizing s x0 with
  | nil =>
    unfold tellGo
    repeat' first
        | (with_reducible first | assumption | refine kept_ite ?_ ?_ | refine emit_pkept ?_)
        | (with_reducible first | exact PKept.pure kp | refine PKept.pure ?_ | refine PKept.throw ?_)
        | (with_reducible first | refine PKept.modify ?_ | refine PKept.set ?_ | refine PKept.getBind ?_)
        | (with_reducible first | refine PKept.get ?_ | refine PKept.map ?_ | refine PKept.ite ?_ ?_)
        | (with_reducible first | refine PKept.bind ?_ ?_ | refine PKept.forM ?_ ?_ | intro _ _ _)
        | (with_reducible first | refine PKept.ok (by assumption) ?_ | refine PKept.error (by assumption) ?_)
        | (with_reducible first | intro _)
        | split
        | dsimp only
        | (with_reducible first | refine Kept.upd ?_)
  | cons y l ih =>
    unfold tellGo
    repeat' first
        | (with_reducible first | assumption | refine kept_ite ?_ ?_ | refine emit_pkept ?_ | refine ih ?_)
        | (with_reducible first | exact PKept.pure kp | refine PKept.pure ?_ | refine PKept.throw ?_)
        | (with_reducible first | refine PKept.modify ?_ | refine PKept.set ?_ | refine PKept.getBind ?_)
        | (with_reducible first | refine PKept.get ?_ | refine PKept.map ?_ | refine PKept.ite ?_ ?_)
        | (with_reducible first | refine PKept.bind ?_ ?_ | refine PKept.forM ?_ ?_ | intro _ _ _)
        | (with_reducible first | refine PKept.ok (by assumption) ?_ | refine PKept.error (by assumption) ?_)
        | (with_reducible first | intro _)
        | split
        | dsimp only
        | (with_reducible first | refine Kept.upd ?_)

theorem admits_pkept {s₀ s : State} {i : Nat} (kp : Kept s₀ s) :
    PKept s₀ (admits i) s := by
  unfold admits
  repeat' first
    | (with_reducible first | assumption | refine svc_pkept ?_ | refine updSvc_pkept ?_)
    | (with_reducible first | refine takeResults_pkept ?_ | refine admitGo_pkept ?_ | refine tellGo_pkept ?_)
    | (with_reducible first | exact PKept.pure kp | refine PKept.pure ?_ | refine PKept.throw ?_)
    | (with_reducible first | refine PKept.modify ?_ | refine PKept.set ?_ | refine PKept.getBind ?_)
    | (with_reducible first | refine PKept.get ?_ | refine PKept.map ?_ | refine PKept.ite ?_ ?_)
    | (with_reducible first | refine PKept.bind ?_ ?_ | refine PKept.forM ?_ ?_ | intro _ _ _)
    | (with_reducible first | refine PKept.ok (by assumption) ?_ | refine PKept.error (by assumption) ?_)
    | (with_reducible first | intro _)
    | dsimp only
    | (with_reducible first | refine Kept.upd ?_)

theorem requestRoom_pkept {s₀ s : State} {i : Nat} (kp : Kept s₀ s) :
    PKept s₀ (requestRoom i) s := by
  unfold requestRoom
  repeat' first
    | (with_reducible first | assumption | refine svc_pkept ?_ | refine outFree_pkept ?_ | exact PKept.pure kp)
    | (with_reducible first | refine PKept.pure ?_ | refine PKept.throw ?_ | refine PKept.modify ?_)
    | (with_reducible first | refine PKept.set ?_ | refine PKept.getBind ?_ | refine PKept.get ?_)
    | (with_reducible first | refine PKept.map ?_ | refine PKept.ite ?_ ?_ | refine PKept.bind ?_ ?_)
    | (with_reducible first | refine PKept.forM ?_ ?_ | intro _ _ _ | refine PKept.ok (by assumption) ?_)
    | (with_reducible first | refine PKept.error (by assumption) ?_ | intro _)
    | dsimp only

theorem moveGo_pkept {s₀ s : State} {i : Nat} {x0 : Nat} (kp : Kept s₀ s) :
    PKept s₀ (moveGo i x0) s := by
  induction x0 generalizing s  with
  | zero =>
    unfold moveGo
    repeat' first
        | (with_reducible first | assumption | refine kept_ite ?_ ?_ | refine pWrite_pkept ?_)
        | (with_reducible first | refine svc_pkept ?_ | refine updSvc_pkept ?_ | refine ringCounts_pkept ?_)
        | (with_reducible first | refine setCons_pkept ?_ | refine emit_pkept ?_ | refine node_pkept ?_)
        | (with_reducible first | refine requestRoom_pkept ?_ | exact PKept.pure kp | refine PKept.pure ?_)
        | (with_reducible first | refine PKept.throw ?_ | refine PKept.modify ?_ | refine PKept.set ?_)
        | (with_reducible first | refine PKept.getBind ?_ | refine PKept.get ?_ | refine PKept.map ?_)
        | (with_reducible first | refine PKept.ite ?_ ?_ | refine PKept.bind ?_ ?_ | refine PKept.forM ?_ ?_)
        | (with_reducible first | intro _ _ _ | refine PKept.ok (by assumption) ?_)
        | (with_reducible first | refine PKept.error (by assumption) ?_ | intro _)
        | split
        | dsimp only
        | (with_reducible first | refine Kept.upd ?_)
  | succ k ih =>
    unfold moveGo
    repeat' first
        | (with_reducible first | assumption | refine kept_ite ?_ ?_ | refine pWrite_pkept ?_)
        | (with_reducible first | refine svc_pkept ?_ | refine updSvc_pkept ?_ | refine ringCounts_pkept ?_)
        | (with_reducible first | refine setCons_pkept ?_ | refine emit_pkept ?_ | refine node_pkept ?_)
        | (with_reducible first | refine requestRoom_pkept ?_ | refine ih ?_ | exact PKept.pure kp)
        | (with_reducible first | refine PKept.pure ?_ | refine PKept.throw ?_ | refine PKept.modify ?_)
        | (with_reducible first | refine PKept.set ?_ | refine PKept.getBind ?_ | refine PKept.get ?_)
        | (with_reducible first | refine PKept.map ?_ | refine PKept.ite ?_ ?_ | refine PKept.bind ?_ ?_)
        | (with_reducible first | refine PKept.forM ?_ ?_ | intro _ _ _ | refine PKept.ok (by assumption) ?_)
        | (with_reducible first | refine PKept.error (by assumption) ?_ | intro _)
        | split
        | dsimp only
        | (with_reducible first | refine Kept.upd ?_)

theorem readRequest_pkept {s₀ s : State} {i : Nat} {at_ : Nat} (kp : Kept s₀ s) :
    PKept s₀ (readRequest i at_) s := by
  unfold readRequest
  repeat' first
    | (with_reducible first | assumption | refine kept_ite ?_ ?_ | refine pNat_pkept ?_ | refine svc_pkept ?_)
    | (with_reducible first | refine updSvc_pkept ?_ | exact PKept.pure kp | refine PKept.pure ?_)
    | (with_reducible first | refine PKept.throw ?_ | refine PKept.modify ?_ | refine PKept.set ?_)
    | (with_reducible first | refine PKept.getBind ?_ | refine PKept.get ?_ | refine PKept.map ?_)
    | (with_reducible first | refine PKept.ite ?_ ?_ | refine PKept.bind ?_ ?_ | refine PKept.forM ?_ ?_)
    | (with_reducible first | intro _ _ _ | refine PKept.ok (by assumption) ?_)
    | (with_reducible first | refine PKept.error (by assumption) ?_ | intro _)
    | dsimp only
    | (with_reducible first | refine Kept.upd ?_)

theorem readGo_pkept {s₀ s : State} {i : Nat} {x0 : Nat} (kp : Kept s₀ s) :
    PKept s₀ (readGo i x0) s := by
  induction x0 generalizing s  with
  | zero =>
    unfold readGo
    repeat' first
        | (with_reducible first | assumption | refine kept_ite ?_ ?_ | refine svc_pkept ?_)
        | (with_reducible first | refine ringCounts_pkept ?_ | refine requestRoom_pkept ?_)
        | (with_reducible first | refine readRequest_pkept ?_ | exact PKept.pure kp | refine PKept.pure ?_)
        | (with_reducible first | refine PKept.throw ?_ | refine PKept.modify ?_ | refine PKept.set ?_)
        | (with_reducible first | refine PKept.getBind ?_ | refine PKept.get ?_ | refine PKept.map ?_)
        | (with_reducible first | refine PKept.ite ?_ ?_ | refine PKept.bind ?_ ?_ | refine PKept.forM ?_ ?_)
        | (with_reducible first | intro _ _ _ | refine PKept.ok (by assumption) ?_)
        | (with_reducible first | refine PKept.error (by assumption) ?_ | intro _)
        | split
        | dsimp only
  | succ k ih =>
    unfold readGo
    repeat' first
        | (with_reducible first | assumption | refine kept_ite ?_ ?_ | refine svc_pkept ?_)
        | (with_reducible first | refine ringCounts_pkept ?_ | refine requestRoom_pkept ?_)
        | (with_reducible first | refine readRequest_pkept ?_ | refine ih ?_ | exact PKept.pure kp)
        | (with_reducible first | refine PKept.pure ?_ | refine PKept.throw ?_ | refine PKept.modify ?_)
        | (with_reducible first | refine PKept.set ?_ | refine PKept.getBind ?_ | refine PKept.get ?_)
        | (with_reducible first | refine PKept.map ?_ | refine PKept.ite ?_ ?_ | refine PKept.bind ?_ ?_)
        | (with_reducible first | refine PKept.forM ?_ ?_ | intro _ _ _ | refine PKept.ok (by assumption) ?_)
        | (with_reducible first | refine PKept.error (by assumption) ?_ | intro _)
        | split
        | dsimp only

theorem requests_pkept {s₀ s : State} {i : Nat} (kp : Kept s₀ s) :
    PKept s₀ (requests i) s := by
  unfold requests
  repeat' first
    | (with_reducible first | assumption | refine kept_ite ?_ ?_ | refine svc_pkept ?_ | refine moveGo_pkept ?_)
    | (with_reducible first | refine readGo_pkept ?_ | exact PKept.pure kp | refine PKept.pure ?_)
    | (with_reducible first | refine PKept.throw ?_ | refine PKept.modify ?_ | refine PKept.set ?_)
    | (with_reducible first | refine PKept.getBind ?_ | refine PKept.get ?_ | refine PKept.map ?_)
    | (with_reducible first | refine PKept.ite ?_ ?_ | refine PKept.bind ?_ ?_ | refine PKept.forM ?_ ?_)
    | (with_reducible first | intro _ _ _ | refine PKept.ok (by assumption) ?_)
    | (with_reducible first | refine PKept.error (by assumption) ?_ | intro _)
    | dsimp only

theorem tokenBytes_pkept {s₀ s : State} {v : Service} {t : Nat} (kp : Kept s₀ s) :
    PKept s₀ (tokenBytes v t) s := by
  unfold tokenBytes
  repeat' first
    | (with_reducible first | assumption | refine pRead_pkept ?_ | exact PKept.pure kp | refine PKept.pure ?_)
    | (with_reducible first | refine PKept.throw ?_ | refine PKept.modify ?_ | refine PKept.set ?_)
    | (with_reducible first | refine PKept.getBind ?_ | refine PKept.get ?_ | refine PKept.map ?_)
    | (with_reducible first | refine PKept.ite ?_ ?_ | refine PKept.bind ?_ ?_ | refine PKept.forM ?_ ?_)
    | (with_reducible first | intro _ _ _ | refine PKept.ok (by assumption) ?_)
    | (with_reducible first | refine PKept.error (by assumption) ?_ | intro _)
    | dsimp only

theorem insertChunk_pkept {s₀ s : State} {i e k : Nat} (kp : Kept s₀ s) :
    PKept s₀ (insertChunk i e k) s := by
  unfold insertChunk
  repeat' first
    | (with_reducible first | assumption | refine kept_ite ?_ ?_ | refine pRead_pkept ?_)
    | (with_reducible first | refine pWrite_pkept ?_ | refine svc_pkept ?_ | refine updSvc_pkept ?_)
    | (with_reducible first | refine updEnt_pkept ?_ | refine nodeRef_pkept ?_ | refine nodeChildren_pkept ?_)
    | (with_reducible first | refine bucket_pkept ?_ | refine findNode_pkept ?_ | refine freeSlot_pkept ?_)
    | (with_reducible first | refine setEntry_pkept ?_ | exact PKept.pure kp | refine PKept.pure ?_)
    | (with_reducible first | refine PKept.throw ?_ | refine PKept.modify ?_ | refine PKept.set ?_)
    | (with_reducible first | refine PKept.getBind ?_ | refine PKept.get ?_ | refine PKept.map ?_)
    | (with_reducible first | refine PKept.ite ?_ ?_ | refine PKept.bind ?_ ?_ | refine PKept.forM ?_ ?_)
    | (with_reducible first | intro _ _ _ | refine PKept.ok (by assumption) ?_)
    | (with_reducible first | refine PKept.error (by assumption) ?_ | intro _)
    | split
    | dsimp only
    | (with_reducible first | refine Kept.upd ?_)

theorem insertGo_pkept {s₀ s : State} {i e pos : Nat} {x0 : Nat} (kp : Kept s₀ s) :
    PKept s₀ (insertGo i e pos x0) s := by
  induction x0 generalizing s  with
  | zero =>
    unfold insertGo
    repeat' first
        | (with_reducible first | assumption | refine kept_ite ?_ ?_ | refine svc_pkept ?_)
        | (with_reducible first | refine insertChunk_pkept ?_ | exact PKept.pure kp | refine PKept.pure ?_)
        | (with_reducible first | refine PKept.throw ?_ | refine PKept.modify ?_ | refine PKept.set ?_)
        | (with_reducible first | refine PKept.getBind ?_ | refine PKept.get ?_ | refine PKept.map ?_)
        | (with_reducible first | refine PKept.ite ?_ ?_ | refine PKept.bind ?_ ?_ | refine PKept.forM ?_ ?_)
        | (with_reducible first | intro _ _ _ | refine PKept.ok (by assumption) ?_)
        | (with_reducible first | refine PKept.error (by assumption) ?_ | intro _)
        | split
        | dsimp only
        | (with_reducible first | refine Kept.upd ?_)
  | succ k ih =>
    unfold insertGo
    repeat' first
        | (with_reducible first | assumption | refine kept_ite ?_ ?_ | refine svc_pkept ?_)
        | (with_reducible first | refine insertChunk_pkept ?_ | refine ih ?_ | exact PKept.pure kp)
        | (with_reducible first | refine PKept.pure ?_ | refine PKept.throw ?_ | refine PKept.modify ?_)
        | (with_reducible first | refine PKept.set ?_ | refine PKept.getBind ?_ | refine PKept.get ?_)
        | (with_reducible first | refine PKept.map ?_ | refine PKept.ite ?_ ?_ | refine PKept.bind ?_ ?_)
        | (with_reducible first | refine PKept.forM ?_ ?_ | intro _ _ _ | refine PKept.ok (by assumption) ?_)
        | (with_reducible first | refine PKept.error (by assumption) ?_ | intro _)
        | split
        | dsimp only
        | (with_reducible first | refine Kept.upd ?_)

theorem finishEntry_pkept {s₀ s : State} {i : Nat} {se : StepEntry} {t : Nat} (kp : Kept s₀ s) :
    PKept s₀ (finishEntry i se t) s := by
  unfold finishEntry
  repeat' first
    | (with_reducible first | assumption | refine kept_ite ?_ ?_ | refine svc_pkept ?_ | refine updEnt_pkept ?_)
    | (with_reducible first | refine endSeq_pkept ?_ | refine deliver_pkept ?_ | refine tokenBytes_pkept ?_)
    | (with_reducible first | refine insertGo_pkept ?_ | exact PKept.pure kp | refine PKept.pure ?_)
    | (with_reducible first | refine PKept.throw ?_ | refine PKept.modify ?_ | refine PKept.set ?_)
    | (with_reducible first | refine PKept.getBind ?_ | refine PKept.get ?_ | refine PKept.map ?_)
    | (with_reducible first | refine PKept.ite ?_ ?_ | refine PKept.bind ?_ ?_ | refine PKept.forM ?_ ?_)
    | (with_reducible first | intro _ _ _ | refine PKept.ok (by assumption) ?_)
    | (with_reducible first | refine PKept.error (by assumption) ?_ | intro _)
    | split
    | dsimp only
    | (with_reducible first | refine Kept.upd ?_)

theorem ship_pkept {s₀ s : State} {i : Nat} (kp : Kept s₀ s) :
    PKept s₀ (ship i) s := by
  unfold ship
  repeat' first
    | (with_reducible first | assumption | refine kept_ite ?_ ?_ | refine svc_pkept ?_)
    | (with_reducible first | refine startHandoff_pkept ?_ | exact PKept.pure kp | refine PKept.pure ?_)
    | (with_reducible first | refine PKept.throw ?_ | refine PKept.modify ?_ | refine PKept.set ?_)
    | (with_reducible first | refine PKept.getBind ?_ | refine PKept.get ?_ | refine PKept.map ?_)
    | (with_reducible first | refine PKept.ite ?_ ?_ | refine PKept.bind ?_ ?_ | refine PKept.forM ?_ ?_)
    | (with_reducible first | intro _ _ _ | refine PKept.ok (by assumption) ?_)
    | (with_reducible first | refine PKept.error (by assumption) ?_ | intro _)
    | dsimp only

theorem stageOne_pkept {s₀ s : State} {i : Nat} (kp : Kept s₀ s) :
    PKept s₀ (stageOne i) s := by
  unfold stageOne
  repeat' first
    | (with_reducible first | assumption | refine kept_ite ?_ ?_ | refine pNat_pkept ?_ | refine svc_pkept ?_)
    | (with_reducible first | refine updSvc_pkept ?_ | refine pendings_pkept ?_ | refine finishEntry_pkept ?_)
    | (with_reducible first | refine ship_pkept ?_ | exact PKept.pure kp | refine PKept.pure ?_)
    | (with_reducible first | refine PKept.throw ?_ | refine PKept.modify ?_ | refine PKept.set ?_)
    | (with_reducible first | refine PKept.getBind ?_ | refine PKept.get ?_ | refine PKept.map ?_)
    | (with_reducible first | refine PKept.ite ?_ ?_ | refine PKept.bind ?_ ?_ | refine PKept.forM ?_ ?_)
    | (with_reducible first | intro _ _ _ | refine PKept.ok (by assumption) ?_)
    | (with_reducible first | refine PKept.error (by assumption) ?_ | intro _)
    | split
    | dsimp only
    | (with_reducible first | refine Kept.upd ?_)

theorem endWaiting_pkept {s₀ s : State} {i : Nat} {w : WaitReq} {code : Nat} (kp : Kept s₀ s) :
    PKept s₀ (endWaiting i w code) s := by
  unfold endWaiting
  repeat' first
    | (with_reducible first | assumption | refine svc_pkept ?_ | refine updSvc_pkept ?_ | refine emit_pkept ?_)
    | (with_reducible first | refine nodeRef_pkept ?_ | exact PKept.pure kp | refine PKept.pure ?_)
    | (with_reducible first | refine PKept.throw ?_ | refine PKept.modify ?_ | refine PKept.set ?_)
    | (with_reducible first | refine PKept.getBind ?_ | refine PKept.get ?_ | refine PKept.map ?_)
    | (with_reducible first | refine PKept.ite ?_ ?_ | refine PKept.bind ?_ ?_ | refine PKept.forM ?_ ?_)
    | (with_reducible first | intro _ _ _ | refine PKept.ok (by assumption) ?_)
    | (with_reducible first | refine PKept.error (by assumption) ?_ | intro _)
    | split
    | dsimp only
    | (with_reducible first | refine Kept.upd ?_)

theorem endByHost_pkept {s₀ s : State} {i e : Nat} {q : Seq} {code : Nat} (kp : Kept s₀ s) :
    PKept s₀ (endByHost i e q code) s := by
  unfold endByHost
  repeat' first
    | (with_reducible first | assumption | refine kept_ite ?_ ?_ | refine State.dropHandoff_kept ?_)
    | (with_reducible first | refine endSeq_pkept ?_ | refine sendRec_pkept ?_ | exact PKept.pure kp)
    | (with_reducible first | refine PKept.pure ?_ | refine PKept.throw ?_ | refine PKept.modify ?_)
    | (with_reducible first | refine PKept.set ?_ | refine PKept.getBind ?_ | refine PKept.get ?_)
    | (with_reducible first | refine PKept.map ?_ | refine PKept.ite ?_ ?_ | refine PKept.bind ?_ ?_)
    | (with_reducible first | refine PKept.forM ?_ ?_ | intro _ _ _ | refine PKept.ok (by assumption) ?_)
    | (with_reducible first | refine PKept.error (by assumption) ?_ | intro _)
    | dsimp only

theorem control_pkept {s₀ s : State} {i : Nat} {r : Nat} (kp : Kept s₀ s) :
    PKept s₀ (control i r) s := by
  unfold control
  repeat' first
    | (with_reducible first | assumption | refine kept_ite ?_ ?_ | refine svc_pkept ?_ | refine updSvc_pkept ?_)
    | (with_reducible first | refine emit_pkept ?_ | refine endWaiting_pkept ?_ | refine endByHost_pkept ?_)
    | (with_reducible first | exact PKept.pure kp | refine PKept.pure ?_ | refine PKept.throw ?_)
    | (with_reducible first | refine PKept.modify ?_ | refine PKept.set ?_ | refine PKept.getBind ?_)
    | (with_reducible first | refine PKept.get ?_ | refine PKept.map ?_ | refine PKept.ite ?_ ?_)
    | (with_reducible first | refine PKept.bind ?_ ?_ | refine PKept.forM ?_ ?_ | intro _ _ _)
    | (with_reducible first | refine PKept.ok (by assumption) ?_ | refine PKept.error (by assumption) ?_)
    | (with_reducible first | intro _)
    | split
    | dsimp only
    | (with_reducible first | refine Kept.upd ?_)

theorem controlsGo_pkept {s₀ s : State} {i : Nat} {x0 : Nat} (kp : Kept s₀ s) :
    PKept s₀ (controlsGo i x0) s := by
  induction x0 generalizing s  with
  | zero =>
    unfold controlsGo
    repeat' first
        | (with_reducible first | assumption | refine kept_ite ?_ ?_ | refine pNat_pkept ?_)
        | (with_reducible first | refine svc_pkept ?_ | refine ringCounts_pkept ?_ | refine setCons_pkept ?_)
        | (with_reducible first | refine control_pkept ?_ | exact PKept.pure kp | refine PKept.pure ?_)
        | (with_reducible first | refine PKept.throw ?_ | refine PKept.modify ?_ | refine PKept.set ?_)
        | (with_reducible first | refine PKept.getBind ?_ | refine PKept.get ?_ | refine PKept.map ?_)
        | (with_reducible first | refine PKept.ite ?_ ?_ | refine PKept.bind ?_ ?_ | refine PKept.forM ?_ ?_)
        | (with_reducible first | intro _ _ _ | refine PKept.ok (by assumption) ?_)
        | (with_reducible first | refine PKept.error (by assumption) ?_ | intro _)
        | split
        | dsimp only
  | succ k ih =>
    unfold controlsGo
    repeat' first
        | (with_reducible first | assumption | refine kept_ite ?_ ?_ | refine pNat_pkept ?_)
        | (with_reducible first | refine svc_pkept ?_ | refine ringCounts_pkept ?_ | refine setCons_pkept ?_)
        | (with_reducible first | refine control_pkept ?_ | refine ih ?_ | exact PKept.pure kp)
        | (with_reducible first | refine PKept.pure ?_ | refine PKept.throw ?_ | refine PKept.modify ?_)
        | (with_reducible first | refine PKept.set ?_ | refine PKept.getBind ?_ | refine PKept.get ?_)
        | (with_reducible first | refine PKept.map ?_ | refine PKept.ite ?_ ?_ | refine PKept.bind ?_ ?_)
        | (with_reducible first | refine PKept.forM ?_ ?_ | intro _ _ _ | refine PKept.ok (by assumption) ?_)
        | (with_reducible first | refine PKept.error (by assumption) ?_ | intro _)
        | split
        | dsimp only

theorem controls_pkept {s₀ s : State} {i : Nat} (kp : Kept s₀ s) :
    PKept s₀ (controls i) s := by
  unfold controls
  repeat' first
    | (with_reducible first | assumption | refine svc_pkept ?_ | refine controlsGo_pkept ?_)
    | (with_reducible first | exact PKept.pure kp | refine PKept.pure ?_ | refine PKept.throw ?_)
    | (with_reducible first | refine PKept.modify ?_ | refine PKept.set ?_ | refine PKept.getBind ?_)
    | (with_reducible first | refine PKept.get ?_ | refine PKept.map ?_ | refine PKept.ite ?_ ?_)
    | (with_reducible first | refine PKept.bind ?_ ?_ | refine PKept.forM ?_ ?_ | intro _ _ _)
    | (with_reducible first | refine PKept.ok (by assumption) ?_ | refine PKept.error (by assumption) ?_)
    | (with_reducible first | intro _)
    | dsimp only

theorem denyCode_pkept {s₀ s : State} {i : Nat} {r : BitVec 512} {d : Nat} {stops : List Byte} (kp : Kept s₀ s) :
    PKept s₀ (denyCode i r d stops) s := by
  unfold denyCode
  repeat' first
    | (with_reducible first | assumption | refine kept_ite ?_ ?_ | refine svc_pkept ?_)
    | (with_reducible first | refine canReserve_pkept ?_ | exact PKept.pure kp | refine PKept.pure ?_)
    | (with_reducible first | refine PKept.throw ?_ | refine PKept.modify ?_ | refine PKept.set ?_)
    | (with_reducible first | refine PKept.getBind ?_ | refine PKept.get ?_ | refine PKept.map ?_)
    | (with_reducible first | refine PKept.ite ?_ ?_ | refine PKept.bind ?_ ?_ | refine PKept.forM ?_ ?_)
    | (with_reducible first | intro _ _ _ | refine PKept.ok (by assumption) ?_)
    | (with_reducible first | refine PKept.error (by assumption) ?_ | intro _)
    | dsimp only

theorem grantOffer_pkept {s₀ s : State} {i p : Nat} {r : BitVec 512} {area : List Byte} (kp : Kept s₀ s) :
    PKept s₀ (grantOffer i p r area) s := by
  unfold grantOffer
  repeat' first
    | (with_reducible first | assumption | refine svc_pkept ?_ | refine updSvc_pkept ?_)
    | (with_reducible first | refine reserve_pkept ?_ | refine grow_pkept ?_ | refine peerEntry_pkept ?_)
    | (with_reducible first | refine sendRec_pkept ?_ | exact PKept.pure kp | refine PKept.pure ?_)
    | (with_reducible first | refine PKept.throw ?_ | refine PKept.modify ?_ | refine PKept.set ?_)
    | (with_reducible first | refine PKept.getBind ?_ | refine PKept.get ?_ | refine PKept.map ?_)
    | (with_reducible first | refine PKept.ite ?_ ?_ | refine PKept.bind ?_ ?_ | refine PKept.forM ?_ ?_)
    | (with_reducible first | intro _ _ _ | refine PKept.ok (by assumption) ?_)
    | (with_reducible first | refine PKept.error (by assumption) ?_ | intro _)
    | split
    | dsimp only
    | (with_reducible first | refine Kept.upd ?_)

theorem decideOffer_pkept {s₀ s : State} {i p : Nat} {r : BitVec 512} {area : List Byte} (kp : Kept s₀ s) :
    PKept s₀ (decideOffer i p r area) s := by
  unfold decideOffer
  repeat' first
    | (with_reducible first | assumption | refine kept_ite ?_ ?_ | refine sendRec_pkept ?_)
    | (with_reducible first | refine denyCode_pkept ?_ | refine grantOffer_pkept ?_ | exact PKept.pure kp)
    | (with_reducible first | refine PKept.pure ?_ | refine PKept.throw ?_ | refine PKept.modify ?_)
    | (with_reducible first | refine PKept.set ?_ | refine PKept.getBind ?_ | refine PKept.get ?_)
    | (with_reducible first | refine PKept.map ?_ | refine PKept.ite ?_ ?_ | refine PKept.bind ?_ ?_)
    | (with_reducible first | refine PKept.forM ?_ ?_ | intro _ _ _ | refine PKept.ok (by assumption) ?_)
    | (with_reducible first | refine PKept.error (by assumption) ?_ | intro _)
    | dsimp only

theorem sourceRecord_pkept {s₀ s : State} {i p : Nat} {r : BitVec 512} (kp : Kept s₀ s) :
    PKept s₀ (sourceRecord i p r) s := by
  unfold sourceRecord
  repeat' first
    | (with_reducible first | assumption | refine kept_ite ?_ ?_ | refine svc_pkept ?_ | refine updSvc_pkept ?_)
    | (with_reducible first | refine updEnt_pkept ?_ | refine emit_pkept ?_ | refine releaseSeq_pkept ?_)
    | (with_reducible first | refine peerEntry_pkept ?_ | refine State.sendMsg_kept ?_ | refine sendRec_pkept ?_)
    | (with_reducible first | refine offerNext_pkept ?_ | refine offerAgain_pkept ?_)
    | (with_reducible first | refine State.porchReads_kept ?_ | exact PKept.pure kp | refine PKept.pure ?_)
    | (with_reducible first | refine PKept.throw ?_ | refine PKept.modify ?_ | refine PKept.set ?_)
    | (with_reducible first | refine PKept.getBind ?_ | refine PKept.get ?_ | refine PKept.map ?_)
    | (with_reducible first | refine PKept.ite ?_ ?_ | refine PKept.bind ?_ ?_ | refine PKept.forM ?_ ?_)
    | (with_reducible first | intro _ _ _ | refine PKept.ok (by assumption) ?_)
    | (with_reducible first | refine PKept.error (by assumption) ?_ | intro _)
    | split
    | dsimp only
    | (with_reducible first | refine Kept.upd ?_)

theorem targetRecord_pkept {s₀ s : State} {i p : Nat} {r : BitVec 512} (kp : Kept s₀ s) :
    PKept s₀ (targetRecord i p r) s := by
  unfold targetRecord
  repeat' first
    | (with_reducible first | assumption | refine kept_ite ?_ ?_ | refine svc_pkept ?_ | refine updSvc_pkept ?_)
    | (with_reducible first | refine updEnt_pkept ?_ | refine emit_pkept ?_ | refine releaseSeq_pkept ?_)
    | (with_reducible first | refine peerEntry_pkept ?_ | refine State.sendMsg_kept ?_ | refine sendRec_pkept ?_)
    | (with_reducible first | refine State.porchReads_kept ?_ | exact PKept.pure kp | refine PKept.pure ?_)
    | (with_reducible first | refine PKept.throw ?_ | refine PKept.modify ?_ | refine PKept.set ?_)
    | (with_reducible first | refine PKept.getBind ?_ | refine PKept.get ?_ | refine PKept.map ?_)
    | (with_reducible first | refine PKept.ite ?_ ?_ | refine PKept.bind ?_ ?_ | refine PKept.forM ?_ ?_)
    | (with_reducible first | intro _ _ _ | refine PKept.ok (by assumption) ?_)
    | (with_reducible first | refine PKept.error (by assumption) ?_ | intro _)
    | split
    | dsimp only
    | (with_reducible first | refine Kept.upd ?_)

theorem inboxGo_pkept {s₀ s : State} {i p : Nat} {x0 : Nat} (kp : Kept s₀ s) :
    PKept s₀ (inboxGo i p x0) s := by
  induction x0 generalizing s  with
  | zero =>
    unfold inboxGo
    repeat' first
        | (with_reducible first | assumption | refine kept_ite ?_ ?_ | refine pNat_pkept ?_)
        | (with_reducible first | refine svc_pkept ?_ | refine updSvc_pkept ?_ | refine setCons_pkept ?_)
        | (with_reducible first | refine sourceRecord_pkept ?_ | refine targetRecord_pkept ?_)
        | (with_reducible first | exact PKept.pure kp | refine PKept.pure ?_ | refine PKept.throw ?_)
        | (with_reducible first | refine PKept.modify ?_ | refine PKept.set ?_ | refine PKept.getBind ?_)
        | (with_reducible first | refine PKept.get ?_ | refine PKept.map ?_ | refine PKept.ite ?_ ?_)
        | (with_reducible first | refine PKept.bind ?_ ?_ | refine PKept.forM ?_ ?_ | intro _ _ _)
        | (with_reducible first | refine PKept.ok (by assumption) ?_ | refine PKept.error (by assumption) ?_)
        | (with_reducible first | intro _)
        | split
        | dsimp only
        | (with_reducible first | refine Kept.upd ?_)
  | succ k ih =>
    unfold inboxGo
    repeat' first
        | (with_reducible first | assumption | refine kept_ite ?_ ?_ | refine pNat_pkept ?_)
        | (with_reducible first | refine svc_pkept ?_ | refine updSvc_pkept ?_ | refine setCons_pkept ?_)
        | (with_reducible first | refine sourceRecord_pkept ?_ | refine targetRecord_pkept ?_ | refine ih ?_)
        | (with_reducible first | exact PKept.pure kp | refine PKept.pure ?_ | refine PKept.throw ?_)
        | (with_reducible first | refine PKept.modify ?_ | refine PKept.set ?_ | refine PKept.getBind ?_)
        | (with_reducible first | refine PKept.get ?_ | refine PKept.map ?_ | refine PKept.ite ?_ ?_)
        | (with_reducible first | refine PKept.bind ?_ ?_ | refine PKept.forM ?_ ?_ | intro _ _ _)
        | (with_reducible first | refine PKept.ok (by assumption) ?_ | refine PKept.error (by assumption) ?_)
        | (with_reducible first | intro _)
        | split
        | dsimp only
        | (with_reducible first | refine Kept.upd ?_)

theorem handoffFailed_pkept {s₀ s : State} {i e code : Nat} (kp : Kept s₀ s) :
    PKept s₀ (handoffFailed i e code) s := by
  unfold handoffFailed
  repeat' first
    | (with_reducible first | assumption | refine kept_ite ?_ ?_ | refine updEnt_pkept ?_)
    | (with_reducible first | refine State.dropHandoff_kept ?_ | refine sendRec_pkept ?_)
    | (with_reducible first | refine offerAgain_pkept ?_ | exact PKept.pure kp | refine PKept.pure ?_)
    | (with_reducible first | refine PKept.throw ?_ | refine PKept.modify ?_ | refine PKept.set ?_)
    | (with_reducible first | refine PKept.getBind ?_ | refine PKept.get ?_ | refine PKept.map ?_)
    | (with_reducible first | refine PKept.ite ?_ ?_ | refine PKept.bind ?_ ?_ | refine PKept.forM ?_ ?_)
    | (with_reducible first | intro _ _ _ | refine PKept.ok (by assumption) ?_)
    | (with_reducible first | refine PKept.error (by assumption) ?_ | intro _)
    | split
    | dsimp only
    | (with_reducible first | refine Kept.upd ?_)

theorem startShip_pkept {s₀ s : State} {i e : Nat} {q : Seq} {m : PorchMsg} {list : List Byte} (kp : Kept s₀ s) :
    PKept s₀ (startShip i e q m list) s := by
  unfold startShip
  repeat' first
    | (with_reducible first | assumption | refine State.setStream_kept ?_ | refine State.updSeq_kept ?_)
    | (with_reducible first | refine svc_pkept ?_ | refine State.dropMsg_kept ?_ | exact PKept.pure kp)
    | (with_reducible first | refine PKept.pure ?_ | refine PKept.throw ?_ | refine PKept.modify ?_)
    | (with_reducible first | refine PKept.set ?_ | refine PKept.getBind ?_ | refine PKept.get ?_)
    | (with_reducible first | refine PKept.map ?_ | refine PKept.ite ?_ ?_ | refine PKept.bind ?_ ?_)
    | (with_reducible first | refine PKept.forM ?_ ?_ | intro _ _ _ | refine PKept.ok (by assumption) ?_)
    | (with_reducible first | refine PKept.error (by assumption) ?_ | intro _)
    | split
    | dsimp only
    | (with_reducible first | refine Kept.upd ?_)

theorem msgStep_pkept {s₀ s : State} {i : Nat} {m : PorchMsg} (kp : Kept s₀ s) :
    PKept s₀ (msgStep i m) s := by
  unfold msgStep
  repeat' first
    | (with_reducible first | assumption | refine kept_ite ?_ ?_ | refine svc_pkept ?_)
    | (with_reducible first | refine peerEntry_pkept ?_ | refine offerNext_pkept ?_)
    | (with_reducible first | refine State.porchAccess_kept ?_ | refine State.updMsg_kept ?_)
    | (with_reducible first | refine State.clearAccs_kept ?_ | refine State.dropMsg_kept ?_)
    | (with_reducible first | refine decideOffer_pkept ?_ | apply handoffFailed_pkept)
    | (with_reducible first | refine startShip_pkept ?_ | exact PKept.pure kp | refine PKept.pure ?_)
    | (with_reducible first | refine PKept.throw ?_ | refine PKept.modify ?_ | refine PKept.set ?_)
    | (with_reducible first | refine PKept.getBind ?_ | refine PKept.get ?_ | refine PKept.map ?_)
    | (with_reducible first | refine PKept.ite ?_ ?_ | refine PKept.bind ?_ ?_ | refine PKept.forM ?_ ?_)
    | (with_reducible first | intro _ _ _ | refine PKept.ok (by assumption) ?_)
    | (with_reducible first | refine PKept.error (by assumption) ?_ | intro _)
    | split
    | dsimp only
    | (with_reducible first | refine Kept.upd ?_)

theorem messages_pkept {s₀ s : State} {i : Nat} (kp : Kept s₀ s) :
    PKept s₀ (messages i) s := by
  unfold messages
  repeat' first
    | (with_reducible first | assumption | refine msgStep_pkept ?_ | exact PKept.pure kp | refine PKept.pure ?_)
    | (with_reducible first | refine PKept.throw ?_ | refine PKept.modify ?_ | refine PKept.set ?_)
    | (with_reducible first | refine PKept.getBind ?_ | refine PKept.get ?_ | refine PKept.map ?_)
    | (with_reducible first | refine PKept.ite ?_ ?_ | refine PKept.bind ?_ ?_ | refine PKept.forM ?_ ?_)
    | (with_reducible first | intro _ _ _ | refine PKept.ok (by assumption) ?_)
    | (with_reducible first | refine PKept.error (by assumption) ?_ | intro _)
    | dsimp only

theorem reoffer_pkept {s₀ s : State} {i : Nat} (kp : Kept s₀ s) :
    PKept s₀ (reoffer i) s := by
  unfold reoffer
  repeat' first
    | (with_reducible first | assumption | refine offerAgain_pkept ?_ | exact PKept.pure kp)
    | (with_reducible first | refine PKept.pure ?_ | refine PKept.throw ?_ | refine PKept.modify ?_)
    | (with_reducible first | refine PKept.set ?_ | refine PKept.getBind ?_ | refine PKept.get ?_)
    | (with_reducible first | refine PKept.map ?_ | refine PKept.ite ?_ ?_ | refine PKept.bind ?_ ?_)
    | (with_reducible first | refine PKept.forM ?_ ?_ | intro _ _ _ | refine PKept.ok (by assumption) ?_)
    | (with_reducible first | refine PKept.error (by assumption) ?_ | intro _)
    | dsimp only

theorem endsDue_pkept {s₀ s : State} {i : Nat} (kp : Kept s₀ s) :
    PKept s₀ (endsDue i) s := by
  unfold endsDue
  repeat' first
    | (with_reducible first | assumption | refine endSeq_pkept ?_ | exact PKept.pure kp | refine PKept.pure ?_)
    | (with_reducible first | refine PKept.throw ?_ | refine PKept.modify ?_ | refine PKept.set ?_)
    | (with_reducible first | refine PKept.getBind ?_ | refine PKept.get ?_ | refine PKept.map ?_)
    | (with_reducible first | refine PKept.ite ?_ ?_ | refine PKept.bind ?_ ?_ | refine PKept.forM ?_ ?_)
    | (with_reducible first | intro _ _ _ | refine PKept.ok (by assumption) ?_)
    | (with_reducible first | refine PKept.error (by assumption) ?_ | intro _)
    | dsimp only

theorem join_pkept {s₀ s : State} {i : Nat} (kp : Kept s₀ s) :
    PKept s₀ (join i) s := by
  unfold join
  repeat' first
    | (with_reducible first | assumption | refine updEnt_pkept ?_ | exact PKept.pure kp | refine PKept.pure ?_)
    | (with_reducible first | refine PKept.throw ?_ | refine PKept.modify ?_ | refine PKept.set ?_)
    | (with_reducible first | refine PKept.getBind ?_ | refine PKept.get ?_ | refine PKept.map ?_)
    | (with_reducible first | refine PKept.ite ?_ ?_ | refine PKept.bind ?_ ?_ | refine PKept.forM ?_ ?_)
    | (with_reducible first | intro _ _ _ | refine PKept.ok (by assumption) ?_)
    | (with_reducible first | refine PKept.error (by assumption) ?_ | intro _)
    | dsimp only
    | (with_reducible first | refine Kept.upd ?_)

theorem stageFour_pkept {s₀ s : State} {i : Nat} (kp : Kept s₀ s) :
    PKept s₀ (stageFour i) s := by
  unfold stageFour
  repeat' first
    | (with_reducible first | assumption | refine kept_ite ?_ ?_ | refine svc_pkept ?_ | refine inboxGo_pkept ?_)
    | (with_reducible first | refine messages_pkept ?_ | exact PKept.pure kp | refine PKept.pure ?_)
    | (with_reducible first | refine PKept.throw ?_ | refine PKept.modify ?_ | refine PKept.set ?_)
    | (with_reducible first | refine PKept.getBind ?_ | refine PKept.get ?_ | refine PKept.map ?_)
    | (with_reducible first | refine PKept.ite ?_ ?_ | refine PKept.bind ?_ ?_ | refine PKept.forM ?_ ?_)
    | (with_reducible first | intro _ _ _ | refine PKept.ok (by assumption) ?_)
    | (with_reducible first | refine PKept.error (by assumption) ?_ | intro _)
    | dsimp only

theorem writeEntries_pkept {s₀ s : State} {i : Nat} {base : Dva} {x0 : Nat} {x1 : Nat} {x2 : List StepEntry} (kp : Kept s₀ s) :
    PKept s₀ (writeEntries i base x0 x1 x2) s := by
  induction x2 generalizing s x0 x1 with
  | nil =>
    unfold writeEntries
    repeat' first
        | (with_reducible first | assumption | refine kept_ite ?_ ?_ | refine pRead_pkept ?_)
        | (with_reducible first | refine pWrite_pkept ?_ | refine svc_pkept ?_ | exact PKept.pure kp)
        | (with_reducible first | refine PKept.pure ?_ | refine PKept.throw ?_ | refine PKept.modify ?_)
        | (with_reducible first | refine PKept.set ?_ | refine PKept.getBind ?_ | refine PKept.get ?_)
        | (with_reducible first | refine PKept.map ?_ | refine PKept.ite ?_ ?_ | refine PKept.bind ?_ ?_)
        | (with_reducible first | refine PKept.forM ?_ ?_ | intro _ _ _ | refine PKept.ok (by assumption) ?_)
        | (with_reducible first | refine PKept.error (by assumption) ?_ | intro _)
        | split
        | dsimp only
        | (with_reducible first | refine Kept.upd ?_)
  | cons y l ih =>
    unfold writeEntries
    repeat' first
        | (with_reducible first | assumption | refine kept_ite ?_ ?_ | refine pRead_pkept ?_)
        | (with_reducible first | refine pWrite_pkept ?_ | refine svc_pkept ?_ | refine ih ?_)
        | (with_reducible first | exact PKept.pure kp | refine PKept.pure ?_ | refine PKept.throw ?_)
        | (with_reducible first | refine PKept.modify ?_ | refine PKept.set ?_ | refine PKept.getBind ?_)
        | (with_reducible first | refine PKept.get ?_ | refine PKept.map ?_ | refine PKept.ite ?_ ?_)
        | (with_reducible first | refine PKept.bind ?_ ?_ | refine PKept.forM ?_ ?_ | intro _ _ _)
        | (with_reducible first | refine PKept.ok (by assumption) ?_ | refine PKept.error (by assumption) ?_)
        | (with_reducible first | intro _)
        | split
        | dsimp only
        | (with_reducible first | refine Kept.upd ?_)

theorem writeStep_pkept {s₀ s : State} {i n : Nat} {es : List StepEntry} (kp : Kept s₀ s) :
    PKept s₀ (writeStep i n es) s := by
  unfold writeStep
  repeat' first
    | (with_reducible first | assumption | refine pWrite_pkept ?_ | refine svc_pkept ?_)
    | (with_reducible first | refine writeEntries_pkept ?_ | exact PKept.pure kp | refine PKept.pure ?_)
    | (with_reducible first | refine PKept.throw ?_ | refine PKept.modify ?_ | refine PKept.set ?_)
    | (with_reducible first | refine PKept.getBind ?_ | refine PKept.get ?_ | refine PKept.map ?_)
    | (with_reducible first | refine PKept.ite ?_ ?_ | refine PKept.bind ?_ ?_ | refine PKept.forM ?_ ?_)
    | (with_reducible first | intro _ _ _ | refine PKept.ok (by assumption) ?_)
    | (with_reducible first | refine PKept.error (by assumption) ?_ | intro _)
    | dsimp only

theorem State.awaitDone_kept {s₀ s : State} {i : Nat} {v : Service} (kp : Kept s₀ s) :
    Kept s₀ (State.awaitDone s i v) := by
  unfold State.awaitDone
  repeat' first
    | (with_reducible first | assumption | refine State.updService_kept ?_ | refine State.boltAsk_kept ?_)
    | dsimp only
    | (with_reducible first | refine Kept.upd ?_)

theorem composeStep_pkept {s₀ s : State} {i : Nat} (kp : Kept s₀ s) :
    PKept s₀ (composeStep i) s := by
  unfold composeStep
  repeat' first
    | (with_reducible first | assumption | refine kept_ite ?_ ?_ | refine State.boltAsk_kept ?_)
    | (with_reducible first | refine svc_pkept ?_ | refine updSvc_pkept ?_ | refine updEnt_pkept ?_)
    | (with_reducible first | refine grow_pkept ?_ | refine writeStep_pkept ?_ | refine State.awaitDone_kept ?_)
    | (with_reducible first | exact PKept.pure kp | refine PKept.pure ?_ | refine PKept.throw ?_)
    | (with_reducible first | refine PKept.modify ?_ | refine PKept.set ?_ | refine PKept.getBind ?_)
    | (with_reducible first | refine PKept.get ?_ | refine PKept.map ?_ | refine PKept.ite ?_ ?_)
    | (with_reducible first | refine PKept.bind ?_ ?_ | refine PKept.forM ?_ ?_ | intro _ _ _)
    | (with_reducible first | refine PKept.ok (by assumption) ?_ | refine PKept.error (by assumption) ?_)
    | (with_reducible first | intro _)
    | dsimp only
    | (with_reducible first | refine Kept.upd ?_)

end Sys2Proof.Machine
end

