-- ==== Sys2Proof/Laws/KeptPorch.lean ====
section
/-! SUPPORT. Every operation of Machine/Porch.lean keeps what every command keeps (`Kept`). -/

namespace Sys2Proof.Machine

theorem State.porchEvent_kept {s₀ s : State} {i kind : Nat} (kp : Kept s₀ s) :
    Kept s₀ (State.porchEvent s i kind) := by
  unfold State.porchEvent
  repeat' first
    | (with_reducible first | assumption | refine State.ctxEvent_kept ?_)
    | split
    | dsimp only
    | (with_reducible first | refine Kept.upd ?_)

theorem State.porchFault_kept {s₀ s : State} {i code : Nat} (kp : Kept s₀ s) :
    Kept s₀ (State.porchFault s i code) := by
  unfold State.porchFault
  repeat' first
    | (with_reducible first | assumption | refine State.updService_kept ?_ | refine State.porchEvent_kept ?_)
    | dsimp only
    | (with_reducible first | refine Kept.upd ?_)

theorem State.runPorch_kept {s₀ s : State} {i : Nat} {m : Pm Unit} (hm : ∀ s, Kept s₀ s → PKept s₀ m s)  (kp : Kept s₀ s) :
    Kept s₀ (State.runPorch s i m) := by
  unfold State.runPorch
  repeat' first
    | (with_reducible first | assumption | refine State.porchFault_kept ?_ | refine hm _ ?_)
    | (with_reducible first | exact PKept.pure kp | refine PKept.pure ?_ | refine PKept.throw ?_)
    | (with_reducible first | refine PKept.modify ?_ | refine PKept.set ?_ | refine PKept.getBind ?_)
    | (with_reducible first | refine PKept.get ?_ | refine PKept.map ?_ | refine PKept.ite ?_ ?_)
    | (with_reducible first | refine PKept.bind ?_ ?_ | refine PKept.forM ?_ ?_ | intro _ _ _)
    | (with_reducible first | refine PKept.ok (by assumption) ?_ | refine PKept.error (by assumption) ?_)
    | (with_reducible first | intro _)
    | split
    | dsimp only
    | (with_reducible first | refine Kept.upd ?_)

theorem State.closeDone_kept {s₀ s : State} {i : Nat} (kp : Kept s₀ s) :
    Kept s₀ (State.closeDone s i) := by
  unfold State.closeDone
  repeat' first
    | (with_reducible first | assumption | refine kept_foldl ?_ ?_ | intro _ _ _ | intro _)
    | (with_reducible first | refine State.answer_kept ?_ | refine State.dropWaits_kept ?_ | refine svc_pkept ?_)
    | (with_reducible first | refine State.freeEntry_kept ?_ | refine State.dropMsg_kept ?_)
    | (with_reducible first | refine State.porchEvent_kept ?_ | exact PKept.pure kp | refine PKept.pure ?_)
    | (with_reducible first | refine PKept.throw ?_ | refine PKept.modify ?_ | refine PKept.set ?_)
    | (with_reducible first | refine PKept.getBind ?_ | refine PKept.get ?_ | refine PKept.map ?_)
    | (with_reducible first | refine PKept.ite ?_ ?_ | refine PKept.bind ?_ ?_ | refine PKept.forM ?_ ?_)
    | (with_reducible first | refine PKept.ok (by assumption) ?_ | refine PKept.error (by assumption) ?_)
    | split
    | dsimp only
    | (with_reducible first | refine Kept.upd ?_)

theorem endAll_pkept {s₀ s : State} {i code : Nat} (kp : Kept s₀ s) :
    PKept s₀ (endAll i code) s := by
  unfold endAll
  repeat' first
    | (with_reducible first | assumption | refine kept_ite ?_ ?_ | refine svc_pkept ?_ | refine updSvc_pkept ?_)
    | (with_reducible first | refine State.freeEntry_kept ?_ | refine endSeq_pkept ?_ | refine pending_pkept ?_)
    | (with_reducible first | refine endWaiting_pkept ?_ | exact PKept.pure kp | refine PKept.pure ?_)
    | (with_reducible first | refine PKept.throw ?_ | refine PKept.modify ?_ | refine PKept.set ?_)
    | (with_reducible first | refine PKept.getBind ?_ | refine PKept.get ?_ | refine PKept.map ?_)
    | (with_reducible first | refine PKept.ite ?_ ?_ | refine PKept.bind ?_ ?_ | refine PKept.forM ?_ ?_)
    | (with_reducible first | intro _ _ _ | refine PKept.ok (by assumption) ?_)
    | (with_reducible first | refine PKept.error (by assumption) ?_ | intro _)
    | split
    | dsimp only
    | (with_reducible first | refine Kept.upd ?_)

theorem State.closeNow_kept {s₀ s : State} {i code : Nat} (kp : Kept s₀ s) :
    Kept s₀ (State.closeNow s i code) := by
  unfold State.closeNow
  repeat' first
    | (with_reducible first | assumption | refine kept_ite ?_ ?_ | refine State.updService_kept ?_)
    | (with_reducible first | refine flush_pkept ?_ | refine State.closeDone_kept ?_ | refine endAll_pkept ?_)
    | (with_reducible first | exact PKept.pure kp | refine PKept.pure ?_ | refine PKept.throw ?_)
    | (with_reducible first | refine PKept.modify ?_ | refine PKept.set ?_ | refine PKept.getBind ?_)
    | (with_reducible first | refine PKept.get ?_ | refine PKept.map ?_ | refine PKept.ite ?_ ?_)
    | (with_reducible first | refine PKept.bind ?_ ?_ | refine PKept.forM ?_ ?_ | intro _ _ _)
    | (with_reducible first | refine PKept.ok (by assumption) ?_ | refine PKept.error (by assumption) ?_)
    | (with_reducible first | intro _)
    | split
    | dsimp only
    | (with_reducible first | refine Kept.upd ?_)

theorem State.drainCheck_kept {s₀ s : State} {i : Nat} (kp : Kept s₀ s) :
    Kept s₀ (State.drainCheck s i) := by
  unfold State.drainCheck
  repeat' first
    | (with_reducible first | assumption | refine kept_ite ?_ ?_ | refine State.closeDone_kept ?_)
    | split
    | dsimp only
    | (with_reducible first | refine Kept.upd ?_)

theorem clearIndex_pkept {s₀ s : State} {v : Service} (kp : Kept s₀ s) :
    PKept s₀ (clearIndex v) s := by
  unfold clearIndex
  repeat' first
    | (with_reducible first | assumption | refine kept_ite ?_ ?_ | refine pWrite_pkept ?_ | exact PKept.pure kp)
    | (with_reducible first | refine PKept.pure ?_ | refine PKept.throw ?_ | refine PKept.modify ?_)
    | (with_reducible first | refine PKept.set ?_ | refine PKept.getBind ?_ | refine PKept.get ?_)
    | (with_reducible first | refine PKept.map ?_ | refine PKept.ite ?_ ?_ | refine PKept.bind ?_ ?_)
    | (with_reducible first | refine PKept.forM ?_ ?_ | intro _ _ _ | refine PKept.ok (by assumption) ?_)
    | (with_reducible first | refine PKept.error (by assumption) ?_ | intro _)
    | dsimp only

theorem execPorchOpen_kept {s : State} {q : Req} : OKept s (execPorchOpen q s) := by
  unfold execPorchOpen
  have kp := Kept.refl s
  repeat' first
    | (with_reducible first | intro _ _ | refine OKept.next ?_ | refine okept_ite ?_ ?_ | assumption)
    | (with_reducible first | refine kept_ite ?_ ?_ | refine State.updCtx_kept ?_ | refine State.reply_kept ?_)
    | (with_reducible first | refine State.badReq_kept ?_ | refine State.commandWith_kept ?_ ?_)
    | (with_reducible first | refine clearIndex_pkept ?_ | exact PKept.pure kp | refine PKept.pure ?_)
    | (with_reducible first | refine PKept.throw ?_ | refine PKept.modify ?_ | refine PKept.set ?_)
    | (with_reducible first | refine PKept.getBind ?_ | refine PKept.get ?_ | refine PKept.map ?_)
    | (with_reducible first | refine PKept.ite ?_ ?_ | refine PKept.bind ?_ ?_ | refine PKept.forM ?_ ?_)
    | (with_reducible first | intro _ _ _ | refine PKept.ok (by assumption) ?_)
    | (with_reducible first | refine PKept.error (by assumption) ?_ | intro _)
    | split
    | dsimp only
    | (with_reducible first | refine Kept.upd ?_)

theorem execPorchDrain_kept {s : State} {q : Req} : OKept s (execPorchDrain q s) := by
  unfold execPorchDrain
  have kp := Kept.refl s
  repeat' first
    | (with_reducible first | intro _ _ | refine OKept.next ?_ | refine okept_ite ?_ ?_ | assumption)
    | (with_reducible first | refine kept_ite ?_ ?_ | refine State.updService_kept ?_)
    | (with_reducible first | refine State.reply_kept ?_ | refine State.commandWith_kept ?_ ?_)
    | (with_reducible first | refine State.drainCheck_kept ?_)
    | split
    | dsimp only
    | (with_reducible first | refine Kept.upd ?_)

theorem execPorchClose_kept {s : State} {q : Req} : OKept s (execPorchClose q s) := by
  unfold execPorchClose
  have kp := Kept.refl s
  repeat' first
    | (with_reducible first | intro _ _ | refine OKept.next ?_ | refine okept_ite ?_ ?_ | assumption)
    | (with_reducible first | refine kept_ite ?_ ?_ | refine State.updService_kept ?_)
    | (with_reducible first | refine State.reply_kept ?_ | refine State.accept_kept ?_)
    | (with_reducible first | refine State.commandWith_kept ?_ ?_ | refine State.closeNow_kept ?_)
    | split
    | dsimp only
    | (with_reducible first | refine Kept.upd ?_)

theorem execPorchSeqRead_kept {s : State} {q : Req} : OKept s (execPorchSeqRead q s) := by
  unfold execPorchSeqRead
  have kp := Kept.refl s
  repeat' first
    | (with_reducible first | intro _ _ | refine OKept.next ?_ | refine okept_ite ?_ ?_ | assumption)
    | (with_reducible first | refine kept_ite ?_ ?_ | refine State.reply_kept ?_)
    | (with_reducible first | refine State.commandWith_kept ?_ ?_)
    | split
    | dsimp only
    | (with_reducible first | refine Kept.upd ?_)

theorem execPorchStats_kept {s : State} {q : Req} : OKept s (execPorchStats q s) := by
  unfold execPorchStats
  have kp := Kept.refl s
  repeat' first
    | (with_reducible first | intro _ _ | refine OKept.next ?_ | assumption | refine State.reply_kept ?_)
    | (with_reducible first | refine State.commandWith_kept ?_ ?_)
    | split
    | dsimp only
    | (with_reducible first | refine Kept.upd ?_)

theorem State.porchNotify_kept {s₀ s : State} {i : Nat} (kp : Kept s₀ s) :
    Kept s₀ (State.porchNotify s i) := by
  unfold State.porchNotify
  repeat' first
    | (with_reducible first | assumption | refine kept_ite ?_ ?_ | refine State.porchEvent_kept ?_)
    | split
    | dsimp only
    | (with_reducible first | refine Kept.upd ?_)

theorem laterStages_pkept {s₀ s : State} {i : Nat} (kp : Kept s₀ s) :
    PKept s₀ (laterStages i) s := by
  unfold laterStages
  repeat' first
    | (with_reducible first | assumption | refine admits_pkept ?_ | refine requests_pkept ?_)
    | (with_reducible first | refine controls_pkept ?_ | refine reoffer_pkept ?_ | refine endsDue_pkept ?_)
    | (with_reducible first | refine join_pkept ?_ | refine stageFour_pkept ?_ | refine composeStep_pkept ?_)
    | (with_reducible first | exact PKept.pure kp | refine PKept.pure ?_ | refine PKept.throw ?_)
    | (with_reducible first | refine PKept.modify ?_ | refine PKept.set ?_ | refine PKept.getBind ?_)
    | (with_reducible first | refine PKept.get ?_ | refine PKept.map ?_ | refine PKept.ite ?_ ?_)
    | (with_reducible first | refine PKept.bind ?_ ?_ | refine PKept.forM ?_ ?_ | intro _ _ _)
    | (with_reducible first | refine PKept.ok (by assumption) ?_ | refine PKept.error (by assumption) ?_)
    | (with_reducible first | intro _)
    | dsimp only

theorem State.porchBuild_kept {s₀ s : State} {i : Nat} (kp : Kept s₀ s) :
    Kept s₀ (State.porchBuild s i) := by
  unfold State.porchBuild
  repeat' first
    | (with_reducible first | assumption | refine kept_ite ?_ ?_ | intro _ _  | refine State.updService_kept ?_)
    | (with_reducible first | refine stageOne_pkept ?_ | refine State.runPorch_kept ?_ ?_)
    | (with_reducible first | refine State.closeNow_kept ?_ | refine State.drainCheck_kept ?_)
    | (with_reducible first | refine State.porchNotify_kept ?_ | refine laterStages_pkept ?_)
    | (with_reducible first | exact PKept.pure kp | refine PKept.pure ?_ | refine PKept.throw ?_)
    | (with_reducible first | refine PKept.modify ?_ | refine PKept.set ?_ | refine PKept.getBind ?_)
    | (with_reducible first | refine PKept.get ?_ | refine PKept.map ?_ | refine PKept.ite ?_ ?_)
    | (with_reducible first | refine PKept.bind ?_ ?_ | refine PKept.forM ?_ ?_ | intro _ _ _)
    | (with_reducible first | refine PKept.ok (by assumption) ?_ | refine PKept.error (by assumption) ?_)
    | (with_reducible first | intro _)
    | split
    | dsimp only
    | (with_reducible first | refine Kept.upd ?_)

theorem State.porchPoll_kept {s₀ s : State} {i : Nat} (kp : Kept s₀ s) :
    Kept s₀ (State.porchPoll s i) := by
  unfold State.porchPoll
  repeat' first
    | (with_reducible first | assumption | refine kept_ite ?_ ?_ | intro _ _  | refine State.updService_kept ?_)
    | (with_reducible first | refine pendings_pkept ?_ | refine requests_pkept ?_ | refine ship_pkept ?_)
    | (with_reducible first | refine stageFour_pkept ?_ | refine State.runPorch_kept ?_ ?_)
    | (with_reducible first | refine State.closeNow_kept ?_ | refine State.drainCheck_kept ?_)
    | (with_reducible first | refine State.porchNotify_kept ?_ | refine laterStages_pkept ?_)
    | (with_reducible first | exact PKept.pure kp | refine PKept.pure ?_ | refine PKept.throw ?_)
    | (with_reducible first | refine PKept.modify ?_ | refine PKept.set ?_ | refine PKept.getBind ?_)
    | (with_reducible first | refine PKept.get ?_ | refine PKept.map ?_ | refine PKept.ite ?_ ?_)
    | (with_reducible first | refine PKept.bind ?_ ?_ | refine PKept.forM ?_ ?_ | intro _ _ _)
    | (with_reducible first | refine PKept.ok (by assumption) ?_ | refine PKept.error (by assumption) ?_)
    | (with_reducible first | intro _)
    | split
    | dsimp only
    | (with_reducible first | refine Kept.upd ?_)

theorem walkRequest_pkept {s₀ s : State} {v : Service} {w : WaitReq} (kp : Kept s₀ s) :
    PKept s₀ (walkRequest v w) s := by
  unfold walkRequest
  repeat' first
    | (with_reducible first | assumption | refine kept_ite ?_ ?_ | intro _ _  | refine pRead_pkept ?_)
    | (with_reducible first | refine pTry_pkept ?_ ?_ | refine node_pkept ?_ | refine walkGo_pkept ?_)
    | (with_reducible first | exact PKept.pure kp | refine PKept.pure ?_ | refine PKept.throw ?_)
    | (with_reducible first | refine PKept.modify ?_ | refine PKept.set ?_ | refine PKept.getBind ?_)
    | (with_reducible first | refine PKept.get ?_ | refine PKept.map ?_ | refine PKept.ite ?_ ?_)
    | (with_reducible first | refine PKept.bind ?_ ?_ | refine PKept.forM ?_ ?_ | intro _ _ _)
    | (with_reducible first | refine PKept.ok (by assumption) ?_ | refine PKept.error (by assumption) ?_)
    | (with_reducible first | intro _)
    | split
    | dsimp only
    | (with_reducible first | refine Kept.upd ?_)

theorem execPrefixWalk_kept {s : State} {i k : Nat} : OKept s (execPrefixWalk i k s) := by
  unfold execPrefixWalk
  have kp := Kept.refl s
  repeat' first
    | (with_reducible first | refine OKept.next ?_ | refine okept_ite ?_ ?_ | assumption | refine kept_ite ?_ ?_)
    | (with_reducible first | intro _ _  | refine updSvc_pkept ?_ | refine State.runPorch_kept ?_ ?_)
    | (with_reducible first | refine walkRequest_pkept ?_ | exact PKept.pure kp | refine PKept.pure ?_)
    | (with_reducible first | refine PKept.throw ?_ | refine PKept.modify ?_ | refine PKept.set ?_)
    | (with_reducible first | refine PKept.getBind ?_ | refine PKept.get ?_ | refine PKept.map ?_)
    | (with_reducible first | refine PKept.ite ?_ ?_ | refine PKept.bind ?_ ?_ | refine PKept.forM ?_ ?_)
    | (with_reducible first | intro _ _ _ | refine PKept.ok (by assumption) ?_)
    | (with_reducible first | refine PKept.error (by assumption) ?_ | intro _)
    | split
    | dsimp only
    | (with_reducible first | refine Kept.upd ?_)

theorem pathGo_pkept {s₀ s : State} {v : Service} {x0 : Nat} {x1 : Nat} {x2 : List Nat} (kp : Kept s₀ s) :
    PKept s₀ (pathGo v x0 x1 x2) s := by
  induction x0 generalizing s x1 x2 with
  | zero =>
    unfold pathGo
    repeat' first
        | (with_reducible first | assumption | refine kept_ite ?_ ?_ | refine node_pkept ?_)
        | (with_reducible first | exact PKept.pure kp | refine PKept.pure ?_ | refine PKept.throw ?_)
        | (with_reducible first | refine PKept.modify ?_ | refine PKept.set ?_ | refine PKept.getBind ?_)
        | (with_reducible first | refine PKept.get ?_ | refine PKept.map ?_ | refine PKept.ite ?_ ?_)
        | (with_reducible first | refine PKept.bind ?_ ?_ | refine PKept.forM ?_ ?_ | intro _ _ _)
        | (with_reducible first | refine PKept.ok (by assumption) ?_ | refine PKept.error (by assumption) ?_)
        | (with_reducible first | intro _)
        | split
        | dsimp only
  | succ k ih =>
    unfold pathGo
    repeat' first
        | (with_reducible first | assumption | refine kept_ite ?_ ?_ | refine node_pkept ?_ | refine ih ?_)
        | (with_reducible first | exact PKept.pure kp | refine PKept.pure ?_ | refine PKept.throw ?_)
        | (with_reducible first | refine PKept.modify ?_ | refine PKept.set ?_ | refine PKept.getBind ?_)
        | (with_reducible first | refine PKept.get ?_ | refine PKept.map ?_ | refine PKept.ite ?_ ?_)
        | (with_reducible first | refine PKept.bind ?_ ?_ | refine PKept.forM ?_ ?_ | intro _ _ _)
        | (with_reducible first | refine PKept.ok (by assumption) ?_ | refine PKept.error (by assumption) ?_)
        | (with_reducible first | intro _)
        | split
        | dsimp only

theorem execChunkListFillDone_kept {s : State} {seq : Nat} : OKept s (execChunkListFillDone seq s) := by
  unfold execChunkListFillDone
  have kp := Kept.refl s
  repeat' first
    | (with_reducible first | refine OKept.next ?_ | refine okept_ite ?_ ?_ | assumption | refine kept_ite ?_ ?_)
    | (with_reducible first | intro _ _  | refine pWrite_pkept ?_ | refine svc_pkept ?_ | refine updEnt_pkept ?_)
    | (with_reducible first | refine State.runPorch_kept ?_ ?_ | refine pathGo_pkept ?_ | exact PKept.pure kp)
    | (with_reducible first | refine PKept.pure ?_ | refine PKept.throw ?_ | refine PKept.modify ?_)
    | (with_reducible first | refine PKept.set ?_ | refine PKept.getBind ?_ | refine PKept.get ?_)
    | (with_reducible first | refine PKept.map ?_ | refine PKept.ite ?_ ?_ | refine PKept.bind ?_ ?_)
    | (with_reducible first | refine PKept.forM ?_ ?_ | intro _ _ _ | refine PKept.ok (by assumption) ?_)
    | (with_reducible first | refine PKept.error (by assumption) ?_ | intro _)
    | split
    | dsimp only
    | (with_reducible first | refine Kept.upd ?_)

theorem compactBucket_pkept {s₀ s : State} {v : Service} {b : Nat} (kp : Kept s₀ s) :
    PKept s₀ (compactBucket v b) s := by
  unfold compactBucket
  repeat' first
    | (with_reducible first | assumption | refine kept_ite ?_ ?_ | refine pWrite_pkept ?_)
    | (with_reducible first | refine bucket_pkept ?_ | exact PKept.pure kp | refine PKept.pure ?_)
    | (with_reducible first | refine PKept.throw ?_ | refine PKept.modify ?_ | refine PKept.set ?_)
    | (with_reducible first | refine PKept.getBind ?_ | refine PKept.get ?_ | refine PKept.map ?_)
    | (with_reducible first | refine PKept.ite ?_ ?_ | refine PKept.bind ?_ ?_ | refine PKept.forM ?_ ?_)
    | (with_reducible first | intro _ _ _ | refine PKept.ok (by assumption) ?_)
    | (with_reducible first | refine PKept.error (by assumption) ?_ | intro _)
    | dsimp only

theorem execPrefixCompaction_kept {s : State} {i : Nat} : OKept s (execPrefixCompaction i s) := by
  unfold execPrefixCompaction
  have kp := Kept.refl s
  repeat' first
    | (with_reducible first | refine OKept.next ?_ | refine okept_ite ?_ ?_ | assumption | refine kept_ite ?_ ?_)
    | (with_reducible first | intro _ _  | refine updSvc_pkept ?_ | refine State.runPorch_kept ?_ ?_)
    | (with_reducible first | refine compactBucket_pkept ?_ | exact PKept.pure kp | refine PKept.pure ?_)
    | (with_reducible first | refine PKept.throw ?_ | refine PKept.modify ?_ | refine PKept.set ?_)
    | (with_reducible first | refine PKept.getBind ?_ | refine PKept.get ?_ | refine PKept.map ?_)
    | (with_reducible first | refine PKept.ite ?_ ?_ | refine PKept.bind ?_ ?_ | refine PKept.forM ?_ ?_)
    | (with_reducible first | intro _ _ _ | refine PKept.ok (by assumption) ?_)
    | (with_reducible first | refine PKept.error (by assumption) ?_ | intro _)
    | split
    | dsimp only
    | (with_reducible first | refine Kept.upd ?_)

theorem execHandoffCopyDone_kept {s : State} {e : Nat} {sid : StreamId} : OKept s (execHandoffCopyDone e sid s) := by
  unfold execHandoffCopyDone
  have kp := Kept.refl s
  repeat' first
    | (with_reducible first | refine OKept.next ?_ | refine okept_ite ?_ ?_ | assumption | refine kept_ite ?_ ?_)
    | (with_reducible first | intro _ _  | refine updEnt_pkept ?_ | refine State.dropHandoff_kept ?_)
    | (with_reducible first | refine sendRec_pkept ?_ | apply handoffFailed_pkept | refine messages_pkept ?_)
    | (with_reducible first | refine State.runPorch_kept ?_ ?_ | exact PKept.pure kp | refine PKept.pure ?_)
    | (with_reducible first | refine PKept.throw ?_ | refine PKept.modify ?_ | refine PKept.set ?_)
    | (with_reducible first | refine PKept.getBind ?_ | refine PKept.get ?_ | refine PKept.map ?_)
    | (with_reducible first | refine PKept.ite ?_ ?_ | refine PKept.bind ?_ ?_ | refine PKept.forM ?_ ?_)
    | (with_reducible first | intro _ _ _ | refine PKept.ok (by assumption) ?_)
    | (with_reducible first | refine PKept.error (by assumption) ?_ | intro _)
    | split
    | dsimp only
    | (with_reducible first | refine Kept.upd ?_)

theorem execHandoffTimeout_kept {s : State} {e : Nat} : OKept s (execHandoffTimeout e s) := by
  unfold execHandoffTimeout
  have kp := Kept.refl s
  repeat' first
    | (with_reducible first | refine OKept.next ?_ | refine okept_ite ?_ ?_ | assumption | refine kept_ite ?_ ?_)
    | (with_reducible first | intro _ _  | refine State.updSeq_kept ?_ | refine offerNext_pkept ?_)
    | (with_reducible first | refine State.runPorch_kept ?_ ?_ | exact PKept.pure kp | refine PKept.pure ?_)
    | (with_reducible first | refine PKept.throw ?_ | refine PKept.modify ?_ | refine PKept.set ?_)
    | (with_reducible first | refine PKept.getBind ?_ | refine PKept.get ?_ | refine PKept.map ?_)
    | (with_reducible first | refine PKept.ite ?_ ?_ | refine PKept.bind ?_ ?_ | refine PKept.forM ?_ ?_)
    | (with_reducible first | intro _ _ _ | refine PKept.ok (by assumption) ?_)
    | (with_reducible first | refine PKept.error (by assumption) ?_ | intro _)
    | split
    | dsimp only
    | (with_reducible first | refine Kept.upd ?_)

theorem State.porchCtxFailed_kept {s₀ s : State} {c : CtxId} (kp : Kept s₀ s) :
    Kept s₀ (State.porchCtxFailed s c) := by
  unfold State.porchCtxFailed
  repeat' first
    | (with_reducible first | assumption | refine kept_foldl ?_ ?_ | intro _ _ _ | intro _)
    | (with_reducible first | refine State.updService_kept ?_)
    | dsimp only
    | (with_reducible first | refine Kept.upd ?_)

theorem State.porchPreempted_kept {s₀ s : State} {c : CtxId} (kp : Kept s₀ s) :
    Kept s₀ (State.porchPreempted s c) := by
  unfold State.porchPreempted
  repeat' first
    | (with_reducible first | assumption | refine kept_ite ?_ ?_ | refine kept_foldl ?_ ?_ | intro _ _ _)
    | (with_reducible first | intro _ | refine State.updService_kept ?_)
    | dsimp only

theorem State.porchRestored_kept {s₀ s : State} {c : CtxId} {again : Bool} (kp : Kept s₀ s) :
    Kept s₀ (State.porchRestored s c again) := by
  unfold State.porchRestored
  repeat' first
    | (with_reducible first | assumption | refine kept_ite ?_ ?_ | refine kept_foldl ?_ ?_ | intro _ _ _)
    | (with_reducible first | intro _ | intro _ _  | refine State.updService_kept ?_)
    | (with_reducible first | refine State.dropWaits_kept ?_ | refine writeStep_pkept ?_)
    | (with_reducible first | refine State.awaitDone_kept ?_ | refine State.runPorch_kept ?_ ?_)
    | (with_reducible first | exact PKept.pure kp | refine PKept.pure ?_ | refine PKept.throw ?_)
    | (with_reducible first | refine PKept.modify ?_ | refine PKept.set ?_ | refine PKept.getBind ?_)
    | (with_reducible first | refine PKept.get ?_ | refine PKept.map ?_ | refine PKept.ite ?_ ?_)
    | (with_reducible first | refine PKept.bind ?_ ?_ | refine PKept.forM ?_ ?_)
    | (with_reducible first | refine PKept.ok (by assumption) ?_ | refine PKept.error (by assumption) ?_)
    | split
    | dsimp only
    | (with_reducible first | refine Kept.upd ?_)

theorem State.porchReleased_kept {s₀ s : State} {c : CtxId} (kp : Kept s₀ s) :
    Kept s₀ (State.porchReleased s c) := by
  unfold State.porchReleased
  repeat' first
    | (with_reducible first | assumption | refine kept_foldl ?_ ?_ | intro _ _ _ | intro _)
    | (with_reducible first | refine State.closeNow_kept ?_)
    | dsimp only

theorem State.porchUnload_kept {s₀ s : State} {c : CtxId} {base n : Nat} (kp : Kept s₀ s) :
    Kept s₀ (State.porchUnload s c base n) := by
  unfold State.porchUnload
  repeat' first
    | (with_reducible first | assumption | refine kept_ite ?_ ?_ | refine kept_foldl ?_ ?_ | intro _ _ _)
    | (with_reducible first | intro _ | refine State.updService_kept ?_ | refine State.closeNow_kept ?_)
    | dsimp only
    | (with_reducible first | refine Kept.upd ?_)

end Sys2Proof.Machine
end

