-- ==== Sys2Proof/Laws/KeptModel.lean ====
section
/-! SUPPORT. Every operation of Machine/Model.lean keeps what every command keeps (`Kept`). -/

namespace Sys2Proof.Machine

theorem State.mapModel_kept_eq {s₀ s x₀ : State} {c : CtxId} {m : Manifest} {vpn i k : Nat} (e₀ : State.mapModel s c m vpn i k = some x₀) (kp : Kept s₀ s) : Kept s₀ x₀ := by
  induction k generalizing s i with
  | zero => simp only [State.mapModel, Option.some.injEq] at e₀; exact e₀ ▸ kp
  | succ k ih =>
    unfold State.mapModel at e₀
    split at e₀
    · exact ih e₀ (State.mapPage_kept_eq (by assumption) kp)
    · exact absurd e₀ (by simp)

theorem State.updWork_kept {s₀ s : State} {id : Nat} {f : ModelWork → ModelWork} (kp : Kept s₀ s) :
    Kept s₀ (State.updWork s id f) := by
  unfold State.updWork
  repeat' first
    | (with_reducible first | assumption | refine kept_ite ?_ ?_)
    | dsimp only
    | (with_reducible first | refine Kept.upd ?_)

theorem State.emptySlots_kept {s₀ s : State} {gs : List WingId} (kp : Kept s₀ s) :
    Kept s₀ (State.emptySlots s gs) := by
  unfold State.emptySlots
  repeat' first
    | (with_reducible first | assumption | refine kept_ite ?_ ?_ | refine kept_foldl ?_ ?_ | intro _ _ _)
    | (with_reducible first | intro _ | refine State.updRoom_kept ?_)
    | dsimp only
    | (with_reducible first | refine Kept.upd ?_)

theorem State.dropCopies_kept {s₀ s : State} {w : ModelWork} (kp : Kept s₀ s) :
    Kept s₀ (State.dropCopies s w) := by
  unfold State.dropCopies
  repeat' first
    | (with_reducible first | assumption | refine kept_foldl ?_ ?_ | intro _ _ _ | intro _)
    | (with_reducible first | refine State.dropCopy_kept ?_)
    | dsimp only

theorem State.abandonLoad_kept {s₀ s : State} {w : ModelWork} (kp : Kept s₀ s) :
    Kept s₀ (State.abandonLoad s w) := by
  unfold State.abandonLoad
  repeat' first
    | (with_reducible first | assumption | refine State.clear_kept ?_ | refine State.unmapRange_kept ?_)
    | (with_reducible first | refine State.emptySlots_kept ?_ | refine State.dropCopies_kept ?_)
    | split
    | dsimp only
    | (with_reducible first | refine Kept.upd ?_)

theorem State.pushLoads_kept {s₀ s : State} {id : Nat} (kp : Kept s₀ s) :
    Kept s₀ (State.pushLoads s id) := by
  unfold State.pushLoads
  repeat' first
    | (with_reducible first | assumption | refine kept_ite ?_ ?_ | refine kept_foldl ?_ ?_ | intro _ _ _)
    | (with_reducible first | intro _ | refine State.requestLoad_kept ?_ | refine State.updWork_kept ?_)
    | split
    | dsimp only
    | (with_reducible first | refine Kept.upd ?_)

theorem State.copying_kept_eq {s₀ x₀ : State} {o : Option State} {c : CtxId} {l : List (Dva × Dva × Nat)}
    {resv : List (StreamId × Stream)} {f : List StreamId → State → State} (e₀ : State.copying o c l resv f = .inl x₀)
    (ho : ∀ t, o = some t → Kept s₀ t) (hf : ∀ ids t, Kept s₀ t → Kept s₀ (f ids t)) : Kept s₀ x₀ := by
  unfold State.copying at e₀
  split at e₀
  · exact absurd e₀ (by simp)
  · split at e₀
    · exact absurd e₀ (by simp)
    · injection e₀ with e₀
      subst e₀
      exact hf _ _ (State.startCopies_kept_eq (by assumption) (ho _ rfl))

theorem State.beginLoad_kept_eq {s₀ s x₀ : State} {w : ModelWork} (e₀ : State.beginLoad s w = .inl x₀) (kp : Kept s₀ s) :
    Kept s₀ x₀ := by
  unfold State.beginLoad at e₀
  extract_lets q c at e₀
  repeat' first
    | (simp only [reduceCtorEq] at e₀; done)
    | split at e₀
    | extract_lets at e₀
  exact State.copying_kept_eq e₀ (fun _ h => State.mapModel_kept_eq h kp) fun _ _ k => State.updWork_kept k

theorem State.beginUnload_kept_eq {s₀ s x₀ : State} {w : ModelWork} 
    (e₀ : State.beginUnload s w = .inl x₀) (kp : Kept s₀ s) : Kept s₀ x₀ := by
  unfold State.beginUnload at e₀
  repeat' first
    | (simp only [reduceCtorEq] at e₀; done)
    | (rw [Option.map_eq_some_iff] at e₀; obtain ⟨_, _, e₀⟩ := e₀)
    | dsimp only at e₀
    | split at e₀
  all_goals try simp only [Sum.inl.injEq] at e₀
  all_goals subst_vars
  all_goals repeat' first
      | (with_reducible first | assumption | refine kept_ite ?_ ?_ | refine kept_foldl ?_ ?_ | intro _ _ _)
      | (with_reducible first | intro _ | refine State.updCtx_kept ?_ | refine State.unmapRange_kept ?_)
      | (with_reducible first | refine State.cancelStream_kept ?_ | refine State.unloadRevs_kept ?_)
      | (with_reducible first | refine State.porchUnload_kept ?_ | refine State.emptySlots_kept ?_)
      | split
      | dsimp only
      | (with_reducible first | refine Kept.upd ?_)

theorem State.armModel_kept {s₀ s : State} {m : Model} {pend : Option (Dva × Dva)} {hold : Bool} (kp : Kept s₀ s) :
    Kept s₀ (State.armModel s m pend hold).1 := by
  unfold State.armModel
  repeat' first
    | (with_reducible first | assumption | refine kept_ite ?_ ?_ | refine State.armAll_kept ?_)
    | (with_reducible first | refine State.armAll_kept_eq (by assumption) ?_ | refine State.goAll_kept ?_)
    | split
    | dsimp only
    | (with_reducible first | refine Kept.upd ?_)

theorem State.armModel_kept_eq {s₀ s x₀ : State} {m : Model} {pend : Option (Dva × Dva)} {hold : Bool} {y1}
    (e₀ : State.armModel s m pend hold = (x₀, y1)) (kp : Kept s₀ s) : Kept s₀ x₀ := by
  have k := @State.armModel_kept s₀ s m pend hold  kp
  rw [e₀] at k; exact k

theorem State.settleArm_kept {s₀ s : State} {w : ModelWork} (kp : Kept s₀ s) :
    Kept s₀ (State.settleArm s w) := by
  unfold State.settleArm
  repeat' first
    | (with_reducible first | assumption | refine State.updWork_kept ?_ | refine State.armModel_kept ?_)
    | (with_reducible first | refine State.armModel_kept_eq (by assumption) ?_)
    | split
    | dsimp only
    | (with_reducible first | refine Kept.upd ?_)

theorem State.settleArms_kept {s₀ s : State}  (kp : Kept s₀ s) :
    Kept s₀ (State.settleArms s) := by
  unfold State.settleArms
  repeat' first
    | (with_reducible first | assumption | refine kept_foldl ?_ ?_ | intro _ _ _ | intro _)
    | (with_reducible first | refine State.settleArm_kept ?_)
    | dsimp only

theorem State.beginInPlace_kept_eq {s₀ s x₀ : State} {w : ModelWork} 
    (e₀ : State.beginInPlace s w = .inl x₀) (kp : Kept s₀ s) : Kept s₀ x₀ := by
  unfold State.beginInPlace at e₀
  repeat' first
    | (simp only [reduceCtorEq] at e₀; done)
    | dsimp only at e₀
    | split at e₀
  all_goals try simp only [Sum.inl.injEq] at e₀
  all_goals subst_vars
  all_goals repeat' first
      | (with_reducible first | assumption | refine kept_ite ?_ ?_ | refine State.updWork_kept ?_)
      | (with_reducible first | refine State.settleArms_kept ?_)
      | split
      | dsimp only
      | (with_reducible first | refine Kept.upd ?_)

theorem State.beginShadow_kept_eq {s₀ s x₀ : State} {w : ModelWork} (e₀ : State.beginShadow s w = .inl x₀) (kp : Kept s₀ s) :
    Kept s₀ x₀ := by
  unfold State.beginShadow at e₀
  extract_lets va at e₀
  repeat' first
    | (simp only [reduceCtorEq] at e₀; done)
    | split at e₀
    | extract_lets at e₀
  exact State.copying_kept_eq e₀ (fun _ h => State.mapModel_kept_eq h kp) fun _ _ k => State.updWork_kept k

theorem State.beginWork_kept {s₀ s : State} {w : ModelWork} (kp : Kept s₀ s) : Kept s₀ (State.beginWork s w) := by
  unfold State.beginWork
  extract_lets drop
  have hd (t : State) (k : Kept s₀ t) : Kept s₀ (drop t) := Kept.upd k
  clear_value drop
  split
  · split
    · exact State.accept_kept (State.beginLoad_kept_eq (by assumption) kp)
    · exact State.reply_kept (hd _ kp)
  · split
    · exact State.reply_kept (State.accept_kept (hd _ (State.beginUnload_kept_eq (by assumption) kp)))
    · exact State.reply_kept (hd _ kp)
  · split
    · rename_i t h
      refine State.accept_kept ?_
      split at h
      · exact State.beginShadow_kept_eq h kp
      · exact State.beginInPlace_kept_eq h kp
    · exact State.reply_kept (hd _ kp)

theorem State.startNext_kept {s₀ s : State} {k : Nat} {c : CtxId} (kp : Kept s₀ s) : Kept s₀ (State.startNext k c s) := by
  induction k generalizing s with
  | zero => simpa only [State.startNext] using kp
  | succ k ih =>
    unfold State.startNext
    repeat' first
      | with_reducible refine ih ?_
      | (with_reducible first | assumption | refine kept_ite ?_ ?_ | refine State.beginWork_kept ?_)
      | split
      | dsimp only
      | (with_reducible first | refine Kept.upd ?_)

theorem State.settleWork_kept {s₀ s : State} {c : CtxId} (kp : Kept s₀ s) :
    Kept s₀ (State.settleWork s c) := by
  unfold State.settleWork
  repeat' first
    | (with_reducible first | assumption | refine State.startNext_kept ?_)
    | dsimp only

theorem State.endWork_kept {s₀ s : State} {w : ModelWork} {status detail : Nat} {result : List (Nat × Nat × Nat)} (kp : Kept s₀ s) :
    Kept s₀ (State.endWork s w status detail result) := by
  unfold State.endWork
  repeat' first
    | (with_reducible first | assumption | refine State.reply_kept ?_ | refine State.settleWork_kept ?_)
    | dsimp only
    | (with_reducible first | refine Kept.upd ?_)

theorem State.failLoad_kept {s₀ s : State} {w : ModelWork} {code : Nat} {dva : Dva} (kp : Kept s₀ s) :
    Kept s₀ (State.failLoad s w code dva) := by
  unfold State.failLoad
  repeat' first
    | (with_reducible first | assumption | refine State.abandonLoad_kept ?_ | refine State.endWork_kept ?_)
    | dsimp only

theorem State.takeWork_kept {s₀ s : State} {q : Req} (kp : Kept s₀ s) :
    Kept s₀ (State.takeWork s q) := by
  unfold State.takeWork
  repeat' first
    | (with_reducible first | assumption | refine kept_ite ?_ ?_ | refine State.reply_kept ?_)
    | (with_reducible first | refine State.settleWork_kept ?_)
    | dsimp only
    | (with_reducible first | refine Kept.upd ?_)

theorem copyUnits_kept {s₀ s : State} {c : CtxId} {src : Dva} {dst : State → Nat → Nat ⊕ Nat} {n k : Nat} (kp : Kept s₀ s) : Kept s₀ (copyUnits c src dst n k s).1 := by
  induction k generalizing s with
  | zero => simpa only [copyUnits] using kp
  | succ k ih =>
    unfold copyUnits
    repeat' first
      | with_reducible refine ih ?_
      | (with_reducible first | assumption | refine kept_ite ?_ ?_ | refine State.write_kept ?_)
      | split
      | dsimp only
      | (with_reducible first | refine Kept.upd ?_)

theorem copyUnits_kept_eq {s₀ s x₀ : State} {c : CtxId} {src : Dva} {dst : State → Nat → Nat ⊕ Nat} {n k : Nat} {y1} (e₀ : copyUnits c src dst n k s = (x₀, y1)) (kp : Kept s₀ s) :
    Kept s₀ x₀ := by
  have k := copyUnits_kept (s₀ := s₀) (c := c) (src := src) (dst := dst) (n := n) (k := k) (s := s) kp
  rw [e₀] at k; exact k

theorem State.copyFrom_kept {s₀ s : State} {c : CtxId} {src : Dva} {dst : State → Nat → Nat ⊕ Nat} {n : Nat} (kp : Kept s₀ s) :
    Kept s₀ (State.copyFrom s c src dst n).1 := by
  unfold State.copyFrom
  repeat' first
    | (with_reducible first | assumption | refine copyUnits_kept ?_)
    | split
    | dsimp only

theorem State.copyFrom_kept_eq {s₀ s x₀ : State} {c : CtxId} {src : Dva} {dst : State → Nat → Nat ⊕ Nat} {n : Nat} {y1}
    (e₀ : State.copyFrom s c src dst n = (x₀, y1)) (kp : Kept s₀ s) : Kept s₀ x₀ := by
  have k := @State.copyFrom_kept s₀ s c src dst n  kp
  rw [e₀] at k; exact k

theorem State.copySection_kept {s₀ s : State} {c : CtxId} {m : Manifest} {va : Dva} {x : Section} (kp : Kept s₀ s) :
    Kept s₀ (State.copySection s c m va x).1 := by
  unfold State.copySection
  repeat' first
    | (with_reducible first | assumption | refine State.copyFrom_kept ?_)
    | (with_reducible first | refine State.copyFrom_kept_eq (by assumption) ?_)
    | split
    | dsimp only
    | (with_reducible first | refine Kept.upd ?_)

theorem State.copySection_kept_eq {s₀ s x₀ : State} {c : CtxId} {m : Manifest} {va : Dva} {x : Section} {y1}
    (e₀ : State.copySection s c m va x = (x₀, y1)) (kp : Kept s₀ s) : Kept s₀ x₀ := by
  have k := @State.copySection_kept s₀ s c m va x  kp
  rw [e₀] at k; exact k

theorem State.copySections_kept {s₀ s : State} {c : CtxId} {m : Manifest} {va : Dva} {kinds : List Nat} (kp : Kept s₀ s) :
    Kept s₀ (State.copySections s c m va kinds).1 := by
  unfold State.copySections
  repeat' first
    | (with_reducible first | assumption | refine kept_foldl ?_ ?_ | refine kept_foldl_snd ?_ ?_)
    | (with_reducible first | refine kept_foldl_fst ?_ ?_ | refine kept_foldl_snd_eq (by assumption) ?_ ?_)
    | (with_reducible first | refine kept_foldl_fst_eq (by assumption) ?_ ?_ | intro _ _ _ | intro _)
    | (with_reducible first | refine State.copySection_kept ?_)
    | (with_reducible first | refine State.copySection_kept_eq (by assumption) ?_)
    | split
    | dsimp only
    | (with_reducible first | refine Kept.upd ?_)

theorem State.copySections_kept_eq {s₀ s x₀ : State} {c : CtxId} {m : Manifest} {va : Dva} {kinds : List Nat} {y1}
    (e₀ : State.copySections s c m va kinds = (x₀, y1)) (kp : Kept s₀ s) : Kept s₀ x₀ := by
  have k := @State.copySections_kept s₀ s c m va kinds  kp
  rw [e₀] at k; exact k

theorem State.shadowLists_kept {s₀ s : State} {c : CtxId} {b : Manifest} {old new : Dva} (kp : Kept s₀ s) :
    Kept s₀ (State.shadowLists s c b old new).1 := by
  unfold State.shadowLists
  repeat' first
    | (with_reducible first | assumption | refine kept_ite ?_ ?_ | refine kept_foldl ?_ ?_)
    | (with_reducible first | refine kept_foldl_snd ?_ ?_ | refine kept_foldl_fst ?_ ?_)
    | (with_reducible first | refine kept_foldl_snd_eq (by assumption) ?_ ?_)
    | (with_reducible first | refine kept_foldl_fst_eq (by assumption) ?_ ?_ | intro _ _ _ | intro _)
    | (with_reducible first | refine State.dvaWrite_kept ?_ | refine State.dvaWrite_kept_eq (by assumption) ?_)
    | split
    | dsimp only
    | (with_reducible first | refine Kept.upd ?_)

theorem State.shadowLists_kept_eq {s₀ s x₀ : State} {c : CtxId} {b : Manifest} {old new : Dva} {y1}
    (e₀ : State.shadowLists s c b old new = (x₀, y1)) (kp : Kept s₀ s) : Kept s₀ x₀ := by
  have k := @State.shadowLists_kept s₀ s c b old new  kp
  rw [e₀] at k; exact k

theorem execModelLoad_kept {s : State} {q : Req} : OKept s (execModelLoad q s) := by
  unfold execModelLoad
  have kp := Kept.refl s
  repeat' first
    | (with_reducible first | intro _ _ | refine OKept.next ?_ | assumption)
    | (with_reducible first | refine State.commandWith_kept ?_ ?_ | refine State.takeWork_kept ?_)
    | dsimp only

theorem State.replaceCommand_kept {s₀ s : State} {q : Req} {shadow : Bool} (kp : Kept s₀ s) :
    Kept s₀ (State.replaceCommand s q shadow) := by
  unfold State.replaceCommand
  repeat' first
    | (with_reducible first | intro _ _ | assumption | refine kept_ite ?_ ?_)
    | (with_reducible first | refine State.commandWith_kept ?_ ?_ | refine State.takeWork_kept ?_)
    | dsimp only

theorem execModelReplaceInPlace_kept {s : State} {q : Req} : OKept s (execModelReplaceInPlace q s) := by
  unfold execModelReplaceInPlace
  have kp := Kept.refl s
  repeat' first
    | (with_reducible first | refine OKept.next ?_ | assumption | refine State.replaceCommand_kept ?_)
    | dsimp only

theorem execModelReplaceShadow_kept {s : State} {q : Req} : OKept s (execModelReplaceShadow q s) := by
  unfold execModelReplaceShadow
  have kp := Kept.refl s
  repeat' first
    | (with_reducible first | refine OKept.next ?_ | assumption | refine State.replaceCommand_kept ?_)
    | dsimp only

theorem execModelUnload_kept {s : State} {q : Req} : OKept s (execModelUnload q s) := by
  unfold execModelUnload
  have kp := Kept.refl s
  repeat' first
    | (with_reducible first | intro _ _ | refine OKept.next ?_ | assumption)
    | (with_reducible first | refine State.commandWith_kept ?_ ?_ | refine State.takeWork_kept ?_)
    | dsimp only

theorem State.finishLoad_kept {s₀ s : State} {id : Nat} (kp : Kept s₀ s) :
    Kept s₀ (State.finishLoad s id) := by
  unfold State.finishLoad
  repeat' first
    | (with_reducible first | assumption | refine kept_ite ?_ ?_ | refine kept_foldl ?_ ?_ | intro _ _ _)
    | (with_reducible first | intro _ | refine State.updCtx_kept ?_ | refine State.setStream_kept ?_)
    | (with_reducible first | refine State.endWork_kept ?_)
    | split
    | dsimp only
    | (with_reducible first | refine Kept.upd ?_)

theorem State.loadSlots_kept {s₀ s : State} {w : ModelWork} {m : Model} (kp : Kept s₀ s) :
    Kept s₀ (State.loadSlots s w m) := by
  unfold State.loadSlots
  repeat' first
    | (with_reducible first | assumption | refine State.updWork_kept ?_ | refine State.dropCopies_kept ?_)
    | (with_reducible first | refine State.pushLoads_kept ?_ | refine State.finishLoad_kept ?_)
    | dsimp only
    | (with_reducible first | refine Kept.upd ?_)

theorem State.shadowReady_kept {s₀ s : State} {w : ModelWork} {m : Model} (kp : Kept s₀ s) :
    Kept s₀ (State.shadowReady s w m) := by
  unfold State.shadowReady
  repeat' first
    | (with_reducible first | assumption | refine State.updWork_kept ?_ | refine State.dropCopies_kept ?_)
    | (with_reducible first | refine State.settleArms_kept ?_ | refine State.failLoad_kept ?_)
    | (with_reducible first | refine State.shadowLists_kept ?_)
    | (with_reducible first | refine State.shadowLists_kept_eq (by assumption) ?_)
    | split
    | dsimp only
    | (with_reducible first | refine Kept.upd ?_)

theorem execModelLoadCopiesDone_kept {s : State} {work : Nat} : OKept s (execModelLoadCopiesDone work s) := by
  unfold execModelLoadCopiesDone
  have kp := Kept.refl s
  repeat' first
    | (with_reducible first | refine OKept.next ?_ | refine okept_ite ?_ ?_ | assumption | refine kept_ite ?_ ?_)
    | (with_reducible first | refine State.failLoad_kept ?_ | refine State.loadSlots_kept ?_)
    | (with_reducible first | refine State.shadowReady_kept ?_)
    | split
    | dsimp only
    | (with_reducible first | refine Kept.upd ?_)

theorem execReplaceHoldReached_kept {s : State} {work : Nat} : OKept s (execReplaceHoldReached work s) := by
  unfold execReplaceHoldReached
  have kp := Kept.refl s
  repeat' first
    | (with_reducible first | refine OKept.next ?_ | refine okept_ite ?_ ?_ | assumption | refine kept_ite ?_ ?_)
    | (with_reducible first | refine State.startCopies_kept_eq (by assumption) ?_ | refine State.updWork_kept ?_)
    | (with_reducible first | refine State.endWork_kept ?_)
    | split
    | dsimp only
    | (with_reducible first | refine Kept.upd ?_)

theorem execReplaceGroupCopied_kept {s : State} {work : Nat} : OKept s (execReplaceGroupCopied work s) := by
  unfold execReplaceGroupCopied
  have kp := Kept.refl s
  repeat' first
    | (with_reducible first | refine OKept.next ?_ | refine okept_ite ?_ ?_ | assumption | refine kept_ite ?_ ?_)
    | (with_reducible first | refine kept_foldl ?_ ?_ | intro _ _ _ | intro _ | refine State.updCtx_kept ?_)
    | (with_reducible first | refine State.boltAsk_kept ?_ | refine State.updWork_kept ?_)
    | (with_reducible first | refine State.dropCopies_kept ?_ | refine State.settleArms_kept ?_)
    | (with_reducible first | refine State.endWork_kept ?_)
    | split
    | dsimp only
    | (with_reducible first | refine Kept.upd ?_)

theorem execStepEnd_kept {s : State} {sid : StreamId} : OKept s (execStepEnd sid s) := by
  unfold execStepEnd
  have kp := Kept.refl s
  repeat' first
    | (with_reducible first | refine OKept.next ?_ | assumption | refine State.stepEnd_kept ?_)
    | (with_reducible first | refine State.settleRevs_kept ?_ | refine State.settleArms_kept ?_)
    | dsimp only

theorem execGateAbort_kept {s : State} {sid : StreamId} : OKept s (execGateAbort sid s) := by
  unfold execGateAbort
  have kp := Kept.refl s
  repeat' first
    | (with_reducible first | refine OKept.next ?_ | assumption | refine State.gateAbort_kept ?_)
    | (with_reducible first | refine State.settleRevs_kept ?_ | refine State.settleArms_kept ?_)
    | dsimp only

theorem execBoltResponseArrival_kept {s : State} {k : Nat} : OKept s (execBoltResponseArrival k s) := by
  unfold execBoltResponseArrival
  have kp := Kept.refl s
  repeat' first
    | (with_reducible first | refine OKept.next ?_ | assumption | refine State.boltResponse_kept ?_)
    | (with_reducible first | refine State.settleRevs_kept ?_ | refine State.settleArms_kept ?_)
    | dsimp only

theorem execShadowGatePassed_kept {s : State} {work : Nat} : OKept s (execShadowGatePassed work s) := by
  unfold execShadowGatePassed
  have kp := Kept.refl s
  repeat' first
    | (with_reducible first | refine OKept.next ?_ | refine okept_ite ?_ ?_ | assumption | refine kept_ite ?_ ?_)
    | (with_reducible first | refine State.updCtx_kept ?_ | refine State.unmapRange_kept ?_)
    | (with_reducible first | refine State.endWork_kept ?_)
    | split
    | dsimp only
    | (with_reducible first | refine Kept.upd ?_)

theorem execLoaderTakeRequest_kept {s : State} {w : WingId} : OKept s (execLoaderTakeRequest w s) := by
  unfold execLoaderTakeRequest
  have kp := Kept.refl s
  repeat' first
    | (with_reducible first | refine OKept.next ?_ | refine okept_ite ?_ ?_ | assumption | refine kept_ite ?_ ?_)
    | (with_reducible first | refine State.answer_kept ?_ | refine State.loaderTake_kept_eq (by assumption) ?_)
    | (with_reducible first | refine State.pushLoads_kept ?_ | refine State.failLoad_kept ?_)
    | split
    | dsimp only
    | (with_reducible first | refine Kept.upd ?_)

theorem execLoadCommit_kept {s : State} {w : WingId} : OKept s (execLoadCommit w s) := by
  unfold execLoadCommit
  have kp := Kept.refl s
  repeat' first
    | (with_reducible first | refine OKept.next ?_ | refine okept_ite ?_ ?_ | assumption | refine kept_ite ?_ ?_)
    | (with_reducible first | refine State.answer_kept ?_ | refine State.loaderCommit_kept_eq (by assumption) ?_)
    | (with_reducible first | refine State.updWork_kept ?_ | refine State.pushLoads_kept ?_)
    | (with_reducible first | refine State.failLoad_kept ?_ | refine State.finishLoad_kept ?_)
    | split
    | dsimp only
    | (with_reducible first | refine Kept.upd ?_)

end Sys2Proof.Machine
end

