-- ==== Sys2Proof/Laws/KeptInflow.lean ====
section
/-! SUPPORT. Every operation of Machine/Inflow.lean keeps what every command keeps (`Kept`). -/

namespace Sys2Proof.Machine

theorem State.readCons_kept {s₀ s : State} {p : Bool} (kp : Kept s₀ s) :
    Kept s₀ (State.readCons s p) := by
  unfold State.readCons
  repeat' first
    | (with_reducible first | assumption | refine State.updInflow_kept ?_)
    | split
    | dsimp only
    | (with_reducible first | refine Kept.upd ?_)

theorem State.inflowDrop_kept {s₀ s : State} {p : Bool} {reason : Nat} (kp : Kept s₀ s) :
    Kept s₀ (State.inflowDrop s p reason) := by
  unfold State.inflowDrop
  repeat' first
    | (with_reducible first | assumption | refine kept_ite ?_ ?_ | refine State.devEvent_kept ?_)
    | (with_reducible first | refine State.raise_kept ?_ | refine State.updInflow_kept ?_)
    | (with_reducible first | refine State.putHeader_kept ?_)
    | split
    | dsimp only
    | (with_reducible first | refine Kept.upd ?_)

theorem State.headerDone_kept {s₀ s : State} {p : Bool} {h : List Byte} (kp : Kept s₀ s) :
    Kept s₀ (State.headerDone s p h) := by
  unfold State.headerDone
  repeat' first
    | (with_reducible first | assumption | refine kept_ite ?_ ?_ | refine State.updInflow_kept ?_)
    | (with_reducible first | refine State.inflowDrop_kept ?_)
    | split
    | dsimp only
    | (with_reducible first | refine Kept.upd ?_)

theorem State.recordDone_kept {s₀ s : State} {p : Bool} {b : InPartial} (kp : Kept s₀ s) :
    Kept s₀ (State.recordDone s p b) := by
  unfold State.recordDone
  repeat' first
    | (with_reducible first | assumption | refine kept_ite ?_ ?_ | refine State.updInflow_kept ?_)
    | (with_reducible first | refine State.inflowDrop_kept ?_)
    | dsimp only
    | (with_reducible first | refine Kept.upd ?_)

theorem State.feedGo_kept {s₀ s : State} {p : Bool} {k : Nat} {bs : List Byte} (kp : Kept s₀ s) : Kept s₀ (State.feedGo p k bs s) := by
  induction k generalizing s bs with
  | zero => simpa only [State.feedGo] using kp
  | succ k ih =>
    unfold State.feedGo
    repeat' first
      | with_reducible refine ih ?_
      | (with_reducible first | assumption | refine kept_ite ?_ ?_ | refine State.updInflow_kept ?_)
      | (with_reducible first | refine State.headerDone_kept ?_ | refine State.recordDone_kept ?_)
      | split
      | dsimp only
      | (with_reducible first | refine Kept.upd ?_)

theorem State.inflowLost_kept {s₀ s : State} {p : Bool} (kp : Kept s₀ s) :
    Kept s₀ (State.inflowLost s p) := by
  unfold State.inflowLost
  repeat' first
    | (with_reducible first | assumption | refine kept_ite ?_ ?_ | refine State.updInflow_kept ?_)
    | (with_reducible first | refine State.inflowDrop_kept ?_)
    | split
    | dsimp only
    | (with_reducible first | refine Kept.upd ?_)

theorem execInflowFlit_kept {s : State} {p : Bool} {f : RxFlit} : OKept s (execInflowFlit p f s) := by
  unfold execInflowFlit
  have kp := Kept.refl s
  repeat' first
    | (with_reducible first | refine OKept.next ?_ | refine okept_ite ?_ ?_ | assumption | refine kept_ite ?_ ?_)
    | (with_reducible first | refine State.fecCount_kept ?_ | refine State.updInflow_kept ?_)
    | (with_reducible first | refine State.feedGo_kept ?_ | refine State.inflowLost_kept ?_)
    | split
    | dsimp only
    | (with_reducible first | refine Kept.upd ?_)

theorem State.putUnits_kept {s₀ s : State} {x : Inflow} {d : BitVec 512} {n k : Nat} {bs : List Byte} (kp : Kept s₀ s) : Kept s₀ (State.putUnits s x d n k bs).1 := by
  induction k generalizing s n bs with
  | zero => simpa only [State.putUnits] using kp
  | succ k ih =>
    unfold State.putUnits
    repeat' first
      | with_reducible refine ih ?_
      | (with_reducible first | assumption | refine State.write_kept ?_)
      | split
      | dsimp only
      | (with_reducible first | refine Kept.upd ?_)

theorem State.putUnits_kept_eq {s₀ s x₀ : State} {x : Inflow} {d : BitVec 512} {n k : Nat} {bs : List Byte} {y1} (e₀ : State.putUnits s x d n k bs = (x₀, y1)) (kp : Kept s₀ s) :
    Kept s₀ x₀ := by
  have k := State.putUnits_kept (s₀ := s₀) (x := x) (d := d) (n := n) (k := k) (bs := bs) (s := s) kp
  rw [e₀] at k; exact k

theorem State.checkCons_kept {s₀ s : State} {p : Bool} {d : BitVec 512} (kp : Kept s₀ s) :
    Kept s₀ (State.checkCons s p d) := by
  unfold State.checkCons
  repeat' first
    | (with_reducible first | assumption | refine kept_ite ?_ ?_ | refine State.raise_kept ?_)
    | (with_reducible first | refine State.updInflow_kept ?_)
    | dsimp only
    | (with_reducible first | refine Kept.upd ?_)

theorem State.inflowTell_kept {s₀ s : State} {p : Bool} {d : BitVec 512} (kp : Kept s₀ s) :
    Kept s₀ (State.inflowTell s p d) := by
  unfold State.inflowTell
  repeat' first
    | (with_reducible first | assumption | refine kept_ite ?_ ?_ | refine State.boltAsk_kept ?_)
    | (with_reducible first | refine State.raiseVec_kept ?_ | refine State.updInflow_kept ?_)
    | split
    | dsimp only
    | (with_reducible first | refine Kept.upd ?_)

theorem execInflowRecordWrite_kept {s : State} {p : Bool} : OKept s (execInflowRecordWrite p s) := by
  unfold execInflowRecordWrite
  have kp := Kept.refl s
  repeat' first
    | (with_reducible first | refine OKept.next ?_ | refine okept_ite ?_ ?_ | assumption | refine kept_ite ?_ ?_)
    | (with_reducible first | refine State.updInflow_kept ?_ | refine State.putHeader_kept ?_)
    | (with_reducible first | refine State.readCons_kept ?_ | refine State.inflowDrop_kept ?_)
    | (with_reducible first | refine State.putUnits_kept ?_ | refine State.putUnits_kept_eq (by assumption) ?_)
    | (with_reducible first | refine State.checkCons_kept ?_ | refine State.inflowTell_kept ?_)
    | split
    | dsimp only
    | (with_reducible first | refine Kept.upd ?_)

theorem execInflowConsRead_kept {s : State} {p : Bool} : OKept s (execInflowConsRead p s) := by
  unfold execInflowConsRead
  have kp := Kept.refl s
  repeat' first
    | (with_reducible first | refine OKept.next ?_ | refine okept_ite ?_ ?_ | assumption | refine kept_ite ?_ ?_)
    | (with_reducible first | refine State.readCons_kept ?_ | refine State.checkCons_kept ?_)
    | split
    | dsimp only
    | (with_reducible first | refine Kept.upd ?_)

theorem execInflowAttach_kept {s : State} {q : Req} : OKept s (execInflowAttach q s) := by
  unfold execInflowAttach
  have kp := Kept.refl s
  repeat' first
    | (with_reducible first | intro _ _ | refine OKept.next ?_ | refine okept_ite ?_ ?_ | assumption)
    | (with_reducible first | refine kept_ite ?_ ?_ | refine State.write_kept ?_ | refine State.reply_kept ?_)
    | (with_reducible first | refine State.commandWith_kept ?_ ?_ | refine State.updInflow_kept ?_)
    | (with_reducible first | refine State.putHeader_kept ?_)
    | split
    | dsimp only
    | (with_reducible first | refine Kept.upd ?_)

theorem execInflowDetach_kept {s : State} {q : Req} : OKept s (execInflowDetach q s) := by
  unfold execInflowDetach
  have kp := Kept.refl s
  repeat' first
    | (with_reducible first | intro _ _ | refine OKept.next ?_ | refine okept_ite ?_ ?_ | assumption)
    | (with_reducible first | refine kept_ite ?_ ?_ | refine State.reply_kept ?_ | refine State.accept_kept ?_)
    | (with_reducible first | refine State.commandWith_kept ?_ ?_ | refine State.updInflow_kept ?_)
    | dsimp only
    | (with_reducible first | refine Kept.upd ?_)

theorem State.detachNow_kept {s₀ s : State} {p : Bool} (kp : Kept s₀ s) :
    Kept s₀ (State.detachNow s p) := by
  unfold State.detachNow
  repeat' first
    | (with_reducible first | assumption | refine kept_ite ?_ ?_ | refine State.reply_kept ?_)
    | (with_reducible first | refine State.updInflow_kept ?_ | refine State.putHeader_kept ?_)
    | (with_reducible first | refine State.readCons_kept ?_ | refine State.putUnits_kept ?_)
    | (with_reducible first | refine State.putUnits_kept_eq (by assumption) ?_ | refine State.checkCons_kept ?_)
    | split
    | dsimp only
    | (with_reducible first | refine Kept.upd ?_)

end Sys2Proof.Machine
end

