-- ==== Sys2Proof/Laws/KeptHostPort.lean ====
section
/-! SUPPORT. Every operation of Machine/HostPort.lean keeps what every command keeps (`Kept`). -/

namespace Sys2Proof.Machine

theorem State.hostRequest_kept {s₀ s : State} {unit : BitVec 36} {write : Bool} {data : W512} {bad : Bool} (kp : Kept s₀ s) :
    Kept s₀ (State.hostRequest s unit write data bad) := by
  unfold State.hostRequest
  repeat' first
    | (with_reducible first | assumption | refine kept_ite ?_ ?_ | refine State.write_kept ?_)
    | (with_reducible first | refine State.issue_kept ?_)
    | split
    | dsimp only
    | (with_reducible first | refine Kept.upd ?_)

theorem execHostWindowRead_kept {s : State} {unit : BitVec 36} : OKept s (execHostWindowRead unit s) := by
  unfold execHostWindowRead
  have kp := Kept.refl s
  repeat' first
    | (with_reducible first | refine OKept.next ?_ | assumption | refine State.hostRequest_kept ?_)
    | dsimp only

theorem execHostWindowWrite_kept {s : State} {unit : BitVec 36} {data : W512} {bad : Bool} : OKept s (execHostWindowWrite unit data bad s) := by
  unfold execHostWindowWrite
  have kp := Kept.refl s
  repeat' first
    | (with_reducible first | refine OKept.next ?_ | assumption | refine State.hostRequest_kept ?_)
    | dsimp only

theorem execHwinCreate_kept {s : State} {q : Req} : OKept s (execHwinCreate q s) := by
  unfold execHwinCreate
  have kp := Kept.refl s
  repeat' first
    | (with_reducible first | intro _ _ | refine OKept.next ?_ | refine okept_ite ?_ ?_ | assumption)
    | (with_reducible first | refine kept_ite ?_ ?_ | refine State.write_kept ?_ | refine State.reply_kept ?_)
    | (with_reducible first | refine State.badReq_kept ?_ | refine State.commandWith_kept ?_ ?_)
    | split
    | dsimp only
    | (with_reducible first | refine Kept.upd ?_)

theorem execHwinRemove_kept {s : State} {q : Req} : OKept s (execHwinRemove q s) := by
  unfold execHwinRemove
  have kp := Kept.refl s
  repeat' first
    | (with_reducible first | intro _ _ | refine OKept.next ?_ | refine okept_ite ?_ ?_ | assumption)
    | (with_reducible first | refine kept_ite ?_ ?_ | refine State.windowDone_kept ?_)
    | (with_reducible first | refine State.reply_kept ?_ | refine State.commandWith_kept ?_ ?_)
    | split
    | dsimp only
    | (with_reducible first | refine Kept.upd ?_)

theorem execNumvfsWrite_kept {s : State} {n : W16} : OKept s (execNumvfsWrite n s) := by
  unfold execNumvfsWrite
  have kp := Kept.refl s
  repeat' first
    | (with_reducible first | refine OKept.next ?_ | refine okept_ite ?_ ?_ | assumption | refine kept_ite ?_ ?_)
    | dsimp only
    | (with_reducible first | refine Kept.upd ?_)

theorem execMsixVectorUnmask_kept {s : State} {fn : BitVec 7} {vec : BitVec 3} : OKept s (execMsixVectorUnmask fn vec s) := by
  unfold execMsixVectorUnmask
  have kp := Kept.refl s
  repeat' first
    | (with_reducible first | refine OKept.next ?_ | refine okept_ite ?_ ?_ | assumption | refine kept_ite ?_ ?_)
    | dsimp only
    | (with_reducible first | refine Kept.upd ?_)

end Sys2Proof.Machine
end

