-- ==== Sys2Proof/Laws/KeptContext.lean ====
section
/-! SUPPORT. Every operation of Machine/Context.lean keeps what every command keeps (`Kept`). -/

namespace Sys2Proof.Machine

theorem execCtxCreate_kept {s : State} {q : Req} : OKept s (execCtxCreate q s) := by
  unfold execCtxCreate
  have kp := Kept.refl s
  repeat' first
    | (with_reducible first | intro _ _ | refine OKept.next ?_ | refine okept_ite ?_ ?_ | assumption)
    | (with_reducible first | refine kept_ite ?_ ?_ | refine kept_foldl ?_ ?_ | intro _ _ _ | intro _)
    | (with_reducible first | refine State.updWing_kept ?_ | refine State.reply_kept ?_)
    | (with_reducible first | refine State.commandWith_kept ?_ ?_ | refine State.makeRoots_kept ?_)
    | split
    | dsimp only
    | (with_reducible first | refine Kept.upd ?_)

theorem State.countWings_kept {s₀ s : State}  (kp : Kept s₀ s) :
    Kept s₀ (State.countWings s) := by
  unfold State.countWings
  repeat' first
    | (with_reducible first | assumption | refine State.updIdent_kept ?_)
    | dsimp only
    | (with_reducible first | refine Kept.upd ?_)

theorem State.loseWing_kept {s₀ s : State} {g : WingId} (kp : Kept s₀ s) :
    Kept s₀ (State.loseWing s g) := by
  unfold State.loseWing
  repeat' first
    | (with_reducible first | assumption | refine State.updWing_kept ?_ | refine State.raise_kept ?_)
    | (with_reducible first | refine State.countWings_kept ?_)
    | dsimp only
    | (with_reducible first | refine Kept.upd ?_)

theorem State.remapWing_kept {s₀ s : State} {g : WingId} (kp : Kept s₀ s) :
    Kept s₀ (State.remapWing s g) := by
  unfold State.remapWing
  repeat' first
    | (with_reducible first | assumption | refine kept_ite ?_ ?_ | refine State.updRoom_kept ?_)
    | (with_reducible first | refine State.updWing_kept ?_ | refine State.raise_kept ?_)
    | (with_reducible first | refine State.loseWing_kept ?_)
    | split
    | dsimp only
    | (with_reducible first | refine Kept.upd ?_)

theorem State.remapCtx_kept {s₀ s : State} {c : CtxId} (kp : Kept s₀ s) :
    Kept s₀ (State.remapCtx s c) := by
  unfold State.remapCtx
  repeat' first
    | (with_reducible first | assumption | refine kept_foldl ?_ ?_ | intro _ _ _ | intro _)
    | (with_reducible first | refine State.remapWing_kept ?_)
    | dsimp only

theorem State.clearRooms_kept {s₀ s : State} {c : CtxId} (kp : Kept s₀ s) :
    Kept s₀ (State.clearRooms s c) := by
  unfold State.clearRooms
  repeat' first
    | (with_reducible first | assumption | refine kept_foldl ?_ ?_ | intro _ _ _ | intro _)
    | (with_reducible first | refine State.updRoom_kept ?_ | refine State.updWing_kept ?_)
    | dsimp only
    | (with_reducible first | refine Kept.upd ?_)

theorem State.dropStreams_kept {s₀ s : State} {c : CtxId} {bye : Bool} {post : Bool} (kp : Kept s₀ s) :
    Kept s₀ (State.dropStreams s c bye post) := by
  unfold State.dropStreams
  repeat' first
    | (with_reducible first | assumption | refine kept_ite ?_ ?_)
    | split
    | dsimp only
    | (with_reducible first | refine Kept.upd ?_)

theorem State.abortCommands_kept {s₀ s : State} {c : CtxId} (kp : Kept s₀ s) :
    Kept s₀ (State.abortCommands s c) := by
  unfold State.abortCommands
  repeat' first
    | (with_reducible first | assumption | refine kept_ite ?_ ?_ | refine kept_foldl ?_ ?_ | intro _ _ _)
    | (with_reducible first | intro _ | refine State.reply_kept ?_ | refine State.abandonLoad_kept ?_)
    | split
    | dsimp only
    | (with_reducible first | refine Kept.upd ?_)

theorem State.releaseDone_kept {s₀ s : State} {c : CtxId} (kp : Kept s₀ s) :
    Kept s₀ (State.releaseDone s c) := by
  unfold State.releaseDone
  repeat' first
    | (with_reducible first | assumption | refine kept_ite ?_ ?_ | refine kept_foldl ?_ ?_ | intro _ _ _)
    | (with_reducible first | intro _ | refine State.updWing_kept ?_ | refine State.reply_kept ?_)
    | (with_reducible first | refine State.dropTables_kept ?_ | refine State.unmapRange_kept ?_)
    | (with_reducible first | refine State.remapCtx_kept ?_ | refine State.clearRooms_kept ?_)
    | (with_reducible first | refine State.dropStreams_kept ?_)
    | split
    | dsimp only
    | (with_reducible first | refine Kept.upd ?_)

theorem State.releaseCtx_kept {s₀ s : State} {c : CtxId} {req : Option Req} (kp : Kept s₀ s) :
    Kept s₀ (State.releaseCtx s c req) := by
  unfold State.releaseCtx
  repeat' first
    | (with_reducible first | assumption | refine kept_ite ?_ ?_ | refine kept_foldl ?_ ?_ | intro _ _ _)
    | (with_reducible first | intro _ | refine State.updCtx_kept ?_ | refine State.haltRooms_kept ?_)
    | (with_reducible first | refine State.windowDone_kept ?_ | refine State.updInflow_kept ?_)
    | (with_reducible first | refine State.abortMoves_kept ?_ | refine State.cancelStream_kept ?_)
    | (with_reducible first | refine State.endRevs_kept ?_ | refine State.porchReleased_kept ?_)
    | (with_reducible first | refine State.abortCommands_kept ?_ | refine State.releaseDone_kept ?_)
    | dsimp only
    | (with_reducible first | refine Kept.upd ?_)

theorem State.settleReleases_kept {s₀ s : State}  (kp : Kept s₀ s) :
    Kept s₀ (State.settleReleases s) := by
  unfold State.settleReleases
  repeat' first
    | (with_reducible first | assumption | refine kept_foldl ?_ ?_ | intro _ _ _ | intro _)
    | (with_reducible first | refine State.releaseDone_kept ?_)
    | dsimp only

theorem execCtxRelease_kept {s : State} {q : Req} : OKept s (execCtxRelease q s) := by
  unfold execCtxRelease
  have kp := Kept.refl s
  repeat' first
    | (with_reducible first | intro _ _ | refine OKept.next ?_ | refine okept_ite ?_ ?_ | assumption)
    | (with_reducible first | refine kept_ite ?_ ?_ | refine State.reply_kept ?_ | refine State.accept_kept ?_)
    | (with_reducible first | refine State.commandWith_kept ?_ ?_ | refine State.releaseCtx_kept ?_)
    | dsimp only

theorem execDwReadData_kept {s : State} {sid : StreamId} {k : Nat} : OKept s (execDwReadData sid k s) := by
  unfold execDwReadData
  have kp := Kept.refl s
  repeat' first
    | (with_reducible first | refine OKept.next ?_ | assumption | refine State.dwReadData_kept ?_)
    | (with_reducible first | refine State.settleRevs_kept ?_ | refine State.settleReleases_kept ?_)
    | dsimp only

theorem execDwWriteAck_kept {s : State} {sid : StreamId} {k : Nat} : OKept s (execDwWriteAck sid k s) := by
  unfold execDwWriteAck
  have kp := Kept.refl s
  repeat' first
    | (with_reducible first | refine OKept.next ?_ | assumption | refine State.dwWriteAck_kept ?_)
    | (with_reducible first | refine State.settleRevs_kept ?_ | refine State.settleReleases_kept ?_)
    | dsimp only

theorem execMemoryAccess_kept {s : State} {id : Nat} : OKept s (execMemoryAccess id s) := by
  unfold execMemoryAccess
  have kp := Kept.refl s
  repeat' first
    | (with_reducible first | refine OKept.next ?_ | assumption | refine State.memoryAccess_kept ?_)
    | (with_reducible first | refine State.settleReleases_kept ?_)
    | dsimp only

theorem execWalkReadReturn_kept {s : State} {d : DieId} {k : Nat} : OKept s (execWalkReadReturn d k s) := by
  unfold execWalkReadReturn
  have kp := Kept.refl s
  repeat' first
    | (with_reducible first | refine OKept.next ?_ | assumption | refine State.walkReadReturn_kept ?_)
    | (with_reducible first | refine State.settleReleases_kept ?_)
    | dsimp only

theorem execPorchBuild_kept {s : State} {i : Nat} : OKept s (execPorchBuild i s) := by
  unfold execPorchBuild
  have kp := Kept.refl s
  repeat' first
    | (with_reducible first | refine OKept.next ?_ | assumption | refine State.porchBuild_kept ?_)
    | (with_reducible first | refine State.settleReleases_kept ?_)
    | dsimp only

theorem execPorchPoll_kept {s : State} {i : Nat} : OKept s (execPorchPoll i s) := by
  unfold execPorchPoll
  have kp := Kept.refl s
  repeat' first
    | (with_reducible first | refine OKept.next ?_ | assumption | refine State.porchPoll_kept ?_)
    | (with_reducible first | refine State.settleReleases_kept ?_)
    | dsimp only

theorem execMigTimeout_kept {s : State} {id : Nat} : OKept s (execMigTimeout id s) := by
  unfold execMigTimeout
  have kp := Kept.refl s
  repeat' first
    | (with_reducible first | refine OKept.next ?_ | assumption | refine State.migTimeout_kept ?_)
    | (with_reducible first | refine State.settleReleases_kept ?_)
    | dsimp only

theorem execInflowDetachEffect_kept {s : State} {p : Bool} : OKept s (execInflowDetachEffect p s) := by
  unfold execInflowDetachEffect
  have kp := Kept.refl s
  repeat' first
    | (with_reducible first | refine OKept.next ?_ | refine okept_ite ?_ ?_ | assumption | refine kept_ite ?_ ?_)
    | (with_reducible first | refine State.detachNow_kept ?_ | refine State.settleReleases_kept ?_)
    | dsimp only

theorem State.failWorks_kept {s₀ s : State} {c : CtxId} (kp : Kept s₀ s) :
    Kept s₀ (State.failWorks s c) := by
  unfold State.failWorks
  repeat' first
    | (with_reducible first | assumption | refine kept_foldl ?_ ?_ | intro _ _ _ | intro _)
    | (with_reducible first | refine State.dropCopies_kept ?_ | refine State.endWork_kept ?_)
    | (with_reducible first | refine State.failLoad_kept ?_)
    | split
    | dsimp only
    | (with_reducible first | refine Kept.upd ?_)

theorem State.failContext_kept {s₀ s : State} {c : CtxId} {cause : Nat} {failId : Nat} {code : Nat} {sw : Nat} (kp : Kept s₀ s) :
    Kept s₀ (State.failContext s c cause failId code sw) := by
  unfold State.failContext
  repeat' first
    | (with_reducible first | assumption | refine kept_ite ?_ ?_ | refine State.updCtx_kept ?_)
    | (with_reducible first | refine State.event_kept ?_ | refine State.ctxEvent_kept ?_)
    | (with_reducible first | refine State.haltRooms_kept ?_ | refine State.reply_kept ?_)
    | (with_reducible first | refine State.jobError_kept ?_ | refine State.endRevs_kept ?_)
    | (with_reducible first | refine State.porchCtxFailed_kept ?_ | refine State.failWorks_kept ?_)
    | split
    | dsimp only
    | (with_reducible first | refine Kept.upd ?_)

theorem execCtxStatus_kept {s : State} {q : Req} : OKept s (execCtxStatus q s) := by
  unfold execCtxStatus
  have kp := Kept.refl s
  repeat' first
    | (with_reducible first | intro _ _ | refine OKept.next ?_ | assumption | refine State.reply_kept ?_)
    | (with_reducible first | refine State.commandWith_kept ?_ ?_)
    | dsimp only

theorem execCtxPoints_kept {s : State} {q : Req} {hostOk : Bool} : OKept s (execCtxPoints q hostOk s) := by
  unfold execCtxPoints
  have kp := Kept.refl s
  repeat' first
    | (with_reducible first | intro _ _ | refine OKept.next ?_ | refine okept_ite ?_ ?_ | assumption)
    | (with_reducible first | refine kept_ite ?_ ?_ | refine State.updCtx_kept ?_ | refine State.reply_kept ?_)
    | (with_reducible first | refine State.badReq_kept ?_ | refine State.commandWith_kept ?_ ?_)
    | (with_reducible first | refine kept_findSome (by assumption) ?_ | intro _ _ _)
    | split
    | dsimp only
    | (with_reducible first | refine Kept.upd ?_)

theorem State.holdCopies_kept {s₀ s : State} {c : CtxId} {on : Bool} (kp : Kept s₀ s) :
    Kept s₀ (State.holdCopies s c on) := by
  unfold State.holdCopies
  repeat' first
    | (with_reducible first | assumption | refine kept_ite ?_ ?_)
    | dsimp only
    | (with_reducible first | refine Kept.upd ?_)

theorem State.preemptCommand_kept {s₀ s : State} {q : Req} {op : Nat} {checkpoint : Bool} (kp : Kept s₀ s) :
    Kept s₀ (State.preemptCommand s q op checkpoint) := by
  unfold State.preemptCommand
  repeat' first
    | (with_reducible first | intro _ _ | assumption | refine kept_ite ?_ ?_ | refine State.updCtx_kept ?_)
    | (with_reducible first | refine State.reply_kept ?_ | refine State.accept_kept ?_)
    | (with_reducible first | refine State.badReq_kept ?_ | refine State.commandWith_kept ?_ ?_)
    | (with_reducible first | refine State.abandonRevs_kept ?_ | refine State.holdCopies_kept ?_)
    | dsimp only
    | (with_reducible first | refine Kept.upd ?_)

theorem execCtxPreempt_kept {s : State} {q : Req} : OKept s (execCtxPreempt q s) := by
  unfold execCtxPreempt
  have kp := Kept.refl s
  repeat' first
    | (with_reducible first | refine OKept.next ?_ | assumption | refine State.preemptCommand_kept ?_)
    | dsimp only

theorem execCtxCheckpoint_kept {s : State} {q : Req} : OKept s (execCtxCheckpoint q s) := by
  unfold execCtxCheckpoint
  have kp := Kept.refl s
  repeat' first
    | (with_reducible first | refine OKept.next ?_ | assumption | refine State.preemptCommand_kept ?_)
    | dsimp only

theorem State.dvaWriteAll_kept {s₀ s : State} {c : CtxId} {d : Dva} {l : List (List Byte)} (kp : Kept s₀ s) : Kept s₀ (State.dvaWriteAll s c d l).1 := by
  induction l generalizing s d with
  | nil => simpa only [State.dvaWriteAll] using kp
  | cons x l ih =>
    unfold State.dvaWriteAll
    repeat' first
      | with_reducible refine ih ?_
      | (with_reducible first | assumption | refine State.dvaWrite_kept ?_)
      | (with_reducible first | refine State.dvaWrite_kept_eq (by assumption) ?_)
      | split
      | dsimp only
      | (with_reducible first | refine Kept.upd ?_)

theorem State.dvaWriteAll_kept_eq {s₀ s x₀ : State} {c : CtxId} {d : Dva} {l : List (List Byte)} {y1} (e₀ : State.dvaWriteAll s c d l = (x₀, y1)) (kp : Kept s₀ s) :
    Kept s₀ x₀ := by
  have k := State.dvaWriteAll_kept (s₀ := s₀) (c := c) (d := d) (l := l) (s := s) kp
  rw [e₀] at k; exact k

theorem State.writeCopy_kept {s₀ s : State} {c : CtxId} {k : Bool} {gen : W32} {b : BoltId} {ranges : List (Nat × Nat)} (kp : Kept s₀ s) :
    Kept s₀ (State.writeCopy s c k gen b ranges).1 := by
  unfold State.writeCopy
  repeat' first
    | (with_reducible first | assumption | refine kept_ite ?_ ?_ | refine State.dvaWriteAll_kept ?_)
    | (with_reducible first | refine State.dvaWriteAll_kept_eq (by assumption) ?_)
    | split
    | dsimp only

theorem State.writeCopy_kept_eq {s₀ s x₀ : State} {c : CtxId} {k : Bool} {gen : W32} {b : BoltId} {ranges : List (Nat × Nat)} {y1}
    (e₀ : State.writeCopy s c k gen b ranges = (x₀, y1)) (kp : Kept s₀ s) : Kept s₀ x₀ := by
  have k := @State.writeCopy_kept s₀ s c k gen b ranges  kp
  rw [e₀] at k; exact k

theorem execPreemptPointReached_kept {s : State} {c : CtxId} : OKept s (execPreemptPointReached c s) := by
  unfold execPreemptPointReached
  have kp := Kept.refl s
  repeat' first
    | (with_reducible first | refine OKept.next ?_ | refine okept_ite ?_ ?_ | assumption | refine kept_ite ?_ ?_)
    | (with_reducible first | refine State.copy_kept ?_ | refine State.updCtx_kept ?_)
    | (with_reducible first | refine State.writeCopy_kept ?_ | refine State.writeCopy_kept_eq (by assumption) ?_)
    | split
    | dsimp only
    | (with_reducible first | refine Kept.upd ?_)

theorem State.preemptOff_kept {s₀ s : State} {c : CtxId} {p : Preempt} {status detail : Nat} {result : List (Nat × Nat × Nat)} (kp : Kept s₀ s) :
    Kept s₀ (State.preemptOff s c p status detail result) := by
  unfold State.preemptOff
  repeat' first
    | (with_reducible first | assumption | refine State.updCtx_kept ?_ | refine State.reply_kept ?_)
    | (with_reducible first | refine State.releaseHeld_kept ?_ | refine State.settleWork_kept ?_)
    | (with_reducible first | refine State.holdCopies_kept ?_)
    | dsimp only
    | (with_reducible first | refine Kept.upd ?_)

theorem execPreemptTimeout_kept {s : State} {c : CtxId} : OKept s (execPreemptTimeout c s) := by
  unfold execPreemptTimeout
  have kp := Kept.refl s
  repeat' first
    | (with_reducible first | refine OKept.next ?_ | refine okept_ite ?_ ?_ | assumption | refine kept_ite ?_ ?_)
    | (with_reducible first | refine State.preemptOff_kept ?_)
    | split
    | dsimp only
    | (with_reducible first | refine Kept.upd ?_)

theorem State.preempted_kept {s₀ s : State} {c : CtxId} (kp : Kept s₀ s) :
    Kept s₀ (State.preempted s c) := by
  unfold State.preempted
  repeat' first
    | (with_reducible first | assumption | refine kept_foldl ?_ ?_ | intro _ _ _ | intro _)
    | (with_reducible first | refine State.updWing_kept ?_ | refine State.updCtx_kept ?_)
    | (with_reducible first | refine State.writeStatus_kept ?_ | refine State.porchPreempted_kept ?_)
    | (with_reducible first | refine State.clearRooms_kept ?_ | refine State.dropStreams_kept ?_)
    | dsimp only
    | (with_reducible first | refine Kept.upd ?_)

theorem execPreemptSaveDone_kept {s : State} {c : CtxId} {code : Byte} : OKept s (execPreemptSaveDone c code s) := by
  unfold execPreemptSaveDone
  have kp := Kept.refl s
  repeat' first
    | (with_reducible first | refine OKept.next ?_ | refine okept_ite ?_ ?_ | assumption | refine kept_ite ?_ ?_)
    | (with_reducible first | refine State.copy_kept ?_ | refine State.updCtx_kept ?_)
    | (with_reducible first | refine State.dvaWrite_kept ?_ | refine State.dvaWrite_kept_eq (by assumption) ?_)
    | (with_reducible first | refine State.reply_kept ?_ | refine State.preemptOff_kept ?_)
    | (with_reducible first | refine State.preempted_kept ?_)
    | split
    | dsimp only
    | (with_reducible first | refine Kept.upd ?_)

theorem State.restoreBolts_kept {s₀ s : State} {c : CtxId} {bolts : List Bolt} (kp : Kept s₀ s) :
    Kept s₀ (State.restoreBolts s c bolts) := by
  unfold State.restoreBolts
  repeat' first
    | (with_reducible first | assumption | refine kept_foldl ?_ ?_ | intro _ _ _ | intro _)
    | (with_reducible first | refine State.updWing_kept ?_ | refine State.updBolt_kept ?_)
    | (with_reducible first | refine State.clearRooms_kept ?_ | refine State.dropStreams_kept ?_)
    | dsimp only
    | (with_reducible first | refine Kept.upd ?_)

theorem State.restoreBegins_kept {s₀ s : State} {q : Req} {k : Bool} {g : W32} {sts : List (StreamId × Stream)} {bolts : List Bolt} (kp : Kept s₀ s) :
    Kept s₀ (State.restoreBegins s q k g sts bolts) := by
  unfold State.restoreBegins
  repeat' first
    | (with_reducible first | assumption | refine kept_ite ?_ ?_ | refine kept_foldl ?_ ?_ | intro _ _ _)
    | (with_reducible first | intro _ | refine State.updWing_kept ?_ | refine State.updCtx_kept ?_)
    | (with_reducible first | refine State.reply_kept ?_ | refine State.accept_kept ?_)
    | (with_reducible first | refine State.loseWing_kept ?_ | refine State.remapCtx_kept ?_)
    | (with_reducible first | refine State.preempted_kept ?_ | refine State.restoreBolts_kept ?_)
    | dsimp only
    | (with_reducible first | refine Kept.upd ?_)

theorem execCtxRestore_kept {s : State} {q : Req} : OKept s (execCtxRestore q s) := by
  unfold execCtxRestore
  refine OKept.next (State.commandWith_kept (fun t kp => ?_) (Kept.refl s))
  extract_lets c x
  clear_value c x
  refine kept_ite (State.reply_kept kp) ?_
  obtain ⟨o, ho⟩ : ∃ x, t.newestCopy c = x := ⟨_, rfl⟩
  simp only [ho]
  obtain ⟨head, hhead⟩ : ∃ x, t.copyHead c = x := ⟨_, rfl⟩
  simp only [hhead]
  obtain ⟨cs, hcs⟩ : ∃ x, t.copyStreams c = x := ⟨_, rfl⟩
  simp only [hcs]
  obtain ⟨cb, hcb⟩ : ∃ x, t.copyBolts c = x := ⟨_, rfl⟩
  simp only [hcb]
  rcases o with _ | ⟨k, g⟩
  · exact State.reply_kept kp
  · dsimp only
    rcases head k with _ | f
    · exact State.reply_kept kp
    · dsimp only
      generalize f 20 1 = w, f 22 2 = n, f 24 4 = b
      cases cs k w n with
      | inr _ => exact State.reply_kept kp
      | inl sts =>
        cases cb k w n b with
        | inr _ => exact State.reply_kept kp
        | inl bolts => exact kept_ite (State.reply_kept kp) (State.restoreBegins_kept kp)

theorem State.recopySets_kept {s₀ s : State} {c : CtxId} {ws : List WingId} (kp : Kept s₀ s) :
    Kept s₀ (State.recopySets s c ws).1 := by
  unfold State.recopySets
  repeat' first
    | (with_reducible first | assumption | refine kept_foldl ?_ ?_ | refine kept_foldl_snd ?_ ?_)
    | (with_reducible first | refine kept_foldl_fst ?_ ?_ | refine kept_foldl_snd_eq (by assumption) ?_ ?_)
    | (with_reducible first | refine kept_foldl_fst_eq (by assumption) ?_ ?_ | intro _ _ _ | intro _)
    | (with_reducible first | refine State.copySections_kept ?_)
    | (with_reducible first | refine State.copySections_kept_eq (by assumption) ?_)
    | split
    | dsimp only
    | (with_reducible first | refine Kept.upd ?_)

theorem State.recopySets_kept_eq {s₀ s x₀ : State} {c : CtxId} {ws : List WingId} {y1}
    (e₀ : State.recopySets s c ws = (x₀, y1)) (kp : Kept s₀ s) : Kept s₀ x₀ := by
  have k := @State.recopySets_kept s₀ s c ws  kp
  rw [e₀] at k; exact k

theorem State.reloadSlots_kept {s₀ s : State} {r : RoomId} {x : Room} (kp : Kept s₀ s) :
    Kept s₀ (State.reloadSlots s r x).1 := by
  unfold State.reloadSlots
  repeat' first
    | (with_reducible first | assumption | refine kept_ite ?_ ?_ | refine kept_foldl ?_ ?_)
    | (with_reducible first | refine kept_foldl_snd ?_ ?_ | refine kept_foldl_fst ?_ ?_)
    | (with_reducible first | refine kept_foldl_snd_eq (by assumption) ?_ ?_)
    | (with_reducible first | refine kept_foldl_fst_eq (by assumption) ?_ ?_ | intro _ _ _ | intro _)
    | (with_reducible first | refine State.commitRoom_kept ?_)
    | (with_reducible first | refine State.commitRoom_kept_eq (by assumption) ?_)
    | split
    | dsimp only
    | (with_reducible first | refine Kept.upd ?_)

theorem State.reloadSlots_kept_eq {s₀ s x₀ : State} {r : RoomId} {x : Room} {y1}
    (e₀ : State.reloadSlots s r x = (x₀, y1)) (kp : Kept s₀ s) : Kept s₀ x₀ := by
  have k := @State.reloadSlots_kept s₀ s r x  kp
  rw [e₀] at k; exact k

theorem State.copyRanges_kept {u s : State} {c : CtxId} {d : Dva} {l : List (Nat × Nat)} (kp : Kept u s) :
    Kept u (State.copyRanges s c d l).1 := by
  induction l generalizing s d with
  | nil => exact kp
  | cons p l ih =>
    unfold State.copyRanges
    cases s.dvaRead c d p.2 with
    | inl bs => exact ih (State.write_kept kp)
    | inr e => exact kp

theorem thenPart_kept {u : State} {r : State × Option Nat} {f : State → State × Option Nat} (k : Kept u r.1)
    (hf : ∀ t, Kept u t → Kept u (f t).1) : Kept u (thenPart r f).1 := by
  rcases r with ⟨t, _ | e⟩
  · exact hf t k
  · exact k

theorem withRead_kept {α : Type} {u s : State} {r : α ⊕ Nat} {f : α → State × Option Nat} (k : Kept u s)
    (hf : ∀ a, Kept u (f a).1) : Kept u (withRead s r f).1 := by
  cases r with
  | inl a => exact hf a
  | inr e => exact k

theorem State.freeRange_kept {s₀ s : State} {key n : Nat} (kp : Kept s₀ s) :
    Kept s₀ (State.freeRange s key n) := by
  unfold State.freeRange
  repeat' first
    | (with_reducible first | assumption | refine State.write_kept ?_)
    | dsimp only
    | (with_reducible first | refine Kept.upd ?_)

theorem State.freeRoom_kept {s₀ s : State} {r : RoomId} (kp : Kept s₀ s) :
    Kept s₀ (State.freeRoom s r) := by
  unfold State.freeRoom
  repeat' first
    | (with_reducible first | assumption | refine State.updRoom_kept ?_ | refine State.freeRange_kept ?_)
    | dsimp only
    | (with_reducible first | refine Kept.upd ?_)

theorem State.freeWing_kept {s₀ s : State} {c : CtxId} {g : WingId} (kp : Kept s₀ s) :
    Kept s₀ (State.freeWing s c g) := by
  unfold State.freeWing
  repeat' first
    | (with_reducible first | assumption | refine kept_foldl ?_ ?_ | intro _ _ _ | intro _)
    | (with_reducible first | refine State.write_kept ?_ | refine State.freeRange_kept ?_)
    | (with_reducible first | refine State.freeRoom_kept ?_)
    | dsimp only

theorem State.restoreTrigger_kept {s₀ s : State} {c : CtxId} {r : RoomId} (kp : Kept s₀ s) :
    Kept s₀ (State.restoreTrigger s c r) := by
  unfold State.restoreTrigger
  repeat' first
    | (with_reducible first | assumption | refine State.registerTrigger_kept ?_ | refine State.updBolt_kept ?_)
    | split
    | dsimp only
    | (with_reducible first | refine Kept.upd ?_)

theorem State.restoreWait_kept {s₀ s : State} {c : CtxId} {phases : List W32} {sid : StreamId} {t : Stream} (kp : Kept s₀ s) :
    Kept s₀ (State.restoreWait s c phases sid t) := by
  unfold State.restoreWait
  repeat' first
    | (with_reducible first | assumption | refine kept_ite ?_ ?_ | refine State.updBolt_kept ?_)
    | (with_reducible first | refine kept_getD ?_ ?_ | intro _ _)
    | dsimp only
    | (with_reducible first | refine Kept.upd ?_)

theorem State.finishRestore_kept {s₀ s : State} {c : CtxId} {again : Bool} {rooms : List (RoomId × Room)} {sts : List (StreamId × Stream)} {phases : List W32} (kp : Kept s₀ s) :
    Kept s₀ (State.finishRestore s c again rooms sts phases) := by
  unfold State.finishRestore
  repeat' first
    | (with_reducible first | assumption | refine kept_foldl ?_ ?_ | intro _ _ _ | intro _)
    | (with_reducible first | refine State.updRoom_kept ?_ | refine State.updCtx_kept ?_)
    | (with_reducible first | refine State.setStream_kept ?_ | refine State.wake_kept ?_)
    | (with_reducible first | refine State.releaseHeld_kept ?_ | refine State.porchRestored_kept ?_)
    | (with_reducible first | refine State.settleWork_kept ?_ | refine State.restoreTrigger_kept ?_)
    | (with_reducible first | refine State.restoreWait_kept ?_)
    | dsimp only
    | (with_reducible first | refine Kept.upd ?_)

theorem State.restoreFails_kept {s₀ s : State} {c : CtxId} {q : Req} {st : CtxSt} {code : Nat} (kp : Kept s₀ s) :
    Kept s₀ (State.restoreFails s c q st code) := by
  unfold State.restoreFails
  repeat' first
    | (with_reducible first | assumption | refine kept_ite ?_ ?_ | refine kept_foldl ?_ ?_ | intro _ _ _)
    | (with_reducible first | intro _ | refine State.updWing_kept ?_ | refine State.updCtx_kept ?_)
    | (with_reducible first | refine State.reply_kept ?_ | refine State.preempted_kept ?_)
    | dsimp only
    | (with_reducible first | refine Kept.upd ?_)

theorem State.restoreMemory_kept {u s : State} {c : CtxId} {ws stale : List WingId} {rooms : List (RoomId × Room)} {base : Dva}
    {ranges : List (Nat × Nat)} (kp : Kept u s) : Kept u (State.restoreMemory s c ws stale rooms base ranges).1 := by
  unfold State.restoreMemory
  refine thenPart_kept (State.recopySets_kept (kept_foldl (fun _ _ h => State.freeWing_kept h) kp)) fun t k => ?_
  refine thenPart_kept (kept_foldl_fst (fun _ _ h => thenPart_kept h fun _ h => State.reloadSlots_kept h) k) fun t k => ?_
  exact State.copyRanges_kept k

theorem State.restoreParts_kept {u s : State} {c : CtxId} {again : Bool} {y : Copy} (kp : Kept u s) :
    Kept u (State.restoreParts s c again y).1 := by
  unfold State.restoreParts
  extract_lets x rooms ranges base
  split
  · exact kp
  · refine thenPart_kept (State.restoreMemory_kept kp) fun t k => ?_
    dsimp only
    exact State.finishRestore_kept k

theorem State.restoreSteps_kept {u s : State} {c : CtxId} {st : CtxSt} (kp : Kept u s) :
    Kept u (State.restoreSteps s c st).1 :=
  withRead_kept kp fun _ => State.restoreParts_kept kp

theorem execRestoreCopyDone_kept {s : State} {c : CtxId} {code : Byte} : OKept s (execRestoreCopyDone c code s) := by
  unfold execRestoreCopyDone
  refine OKept.next ?_
  have kp := Kept.refl s
  split
  · exact kp
  · rename_i st _
    refine kept_ite (State.restoreFails_kept kp) ?_
    have k := State.restoreSteps_kept (c := c) (st := st) kp
    generalize s.restoreSteps c st = r at k
    rcases r with ⟨t, _ | e⟩
    · exact State.reply_kept k
    · exact State.restoreFails_kept k

end Sys2Proof.Machine
end

