-- ==== Sys2Proof/Laws/KeptLink.lean ====
section
/-! SUPPORT. Every operation of Machine/Link.lean keeps what every command keeps (`Kept`). -/

namespace Sys2Proof.Machine

theorem State.portEvent_kept {s₀ s : State} {p : Nat} (kp : Kept s₀ s) :
    Kept s₀ (State.portEvent s p) := by
  unfold State.portEvent
  repeat' first
    | (with_reducible first | assumption | refine kept_ite ?_ ?_ | refine State.raiseVec_kept ?_)
    | (with_reducible first | refine State.devEvent_kept ?_)
    | dsimp only

theorem State.setSlot_kept {s₀ s : State} {d : BitVec 3} {k p : Nat} (kp : Kept s₀ s) :
    Kept s₀ (State.setSlot s d k p) := by
  unfold State.setSlot
  repeat' first
    | (with_reducible first | assumption)
    | dsimp only
    | (with_reducible first | refine Kept.upd ?_)

theorem State.slotGo_kept {s₀ s : State} {d : BitVec 3} {k p : Nat} (kp : Kept s₀ s) :
    Kept s₀ (State.slotGo s d k p) := by
  unfold State.slotGo
  repeat' first
    | (with_reducible first | assumption | refine kept_foldl ?_ ?_ | intro _ _ _ | intro _)
    | (with_reducible first | refine State.enqueue_kept ?_)
    | dsimp only
    | (with_reducible first | refine Kept.upd ?_)

theorem State.dealSlot_kept {s₀ s : State} {d : BitVec 3} {k p : Nat} (kp : Kept s₀ s) :
    Kept s₀ (State.dealSlot s d k p) := by
  unfold State.dealSlot
  repeat' first
    | (with_reducible first | assumption | refine kept_ite ?_ ?_ | refine State.setSlot_kept ?_)
    | (with_reducible first | refine State.slotGo_kept ?_)
    | split
    | dsimp only
    | (with_reducible first | refine Kept.upd ?_)

theorem State.redeal_kept {s₀ s : State} {d : BitVec 3} (kp : Kept s₀ s) :
    Kept s₀ (State.redeal s d) := by
  unfold State.redeal
  repeat' first
    | (with_reducible first | assumption | refine kept_foldl ?_ ?_ | intro _ _ _ | intro _)
    | (with_reducible first | refine State.dealSlot_kept ?_)
    | split
    | dsimp only
    | (with_reducible first | refine Kept.upd ?_)

theorem execSlotReturn_kept {s : State} {dir : BitVec 3} {slot : BitVec 6} : OKept s (execSlotReturn dir slot s) := by
  unfold execSlotReturn
  have kp := Kept.refl s
  repeat' first
    | (with_reducible first | refine OKept.next ?_ | refine okept_ite ?_ ?_ | assumption | refine kept_ite ?_ ?_)
    | (with_reducible first | refine State.setSlot_kept ?_ | refine State.slotGo_kept ?_)
    | split
    | dsimp only
    | (with_reducible first | refine Kept.upd ?_)

theorem State.setLanes_kept {s₀ s : State} {p : Nat} {w : Nat} {spare : Bool} (kp : Kept s₀ s) :
    Kept s₀ (State.setLanes s p w spare) := by
  unfold State.setLanes
  repeat' first
    | (with_reducible first | assumption | refine kept_ite ?_ ?_ | refine State.updPort_kept ?_)
    | (with_reducible first | refine State.portEvent_kept ?_ | refine State.redeal_kept ?_)
    | dsimp only
    | (with_reducible first | refine Kept.upd ?_)

theorem State.reassign_kept {s₀ s : State} {d : BitVec 3} {p : Nat} {others : List Nat} (kp : Kept s₀ s) :
    Kept s₀ (State.reassign s d p others) := by
  unfold State.reassign
  repeat' first
    | (with_reducible first | assumption | refine kept_foldl ?_ ?_ | intro _ _ _ | intro _)
    | (with_reducible first | refine State.setSlot_kept ?_ | refine State.slotGo_kept ?_)
    | split
    | dsimp only
    | (with_reducible first | refine Kept.upd ?_)

theorem State.headQueue_kept {s₀ s : State} {d : BitVec 3} {pks : List Packet} (kp : Kept s₀ s) :
    Kept s₀ (State.headQueue s d pks) := by
  unfold State.headQueue
  repeat' first
    | (with_reducible first | assumption | refine kept_foldl ?_ ?_ | intro _ _ _ | intro _)
    | (with_reducible first | refine State.updPort_kept ?_)
    | dsimp only
    | (with_reducible first | refine Kept.upd ?_)

theorem State.portDown_kept {s₀ s : State} {p : Nat} {reason : Byte} (kp : Kept s₀ s) :
    Kept s₀ (State.portDown s p reason) := by
  unfold State.portDown
  repeat' first
    | (with_reducible first | assumption | refine kept_ite ?_ ?_ | refine kept_foldl ?_ ?_ | intro _ _ _)
    | (with_reducible first | intro _ | refine State.updPort_kept ?_ | refine State.raise_kept ?_)
    | (with_reducible first | refine State.enterDetour_kept ?_ | refine State.inflowLost_kept ?_)
    | (with_reducible first | refine State.portEvent_kept ?_ | refine State.reassign_kept ?_)
    | (with_reducible first | refine State.headQueue_kept ?_ | refine State.recomputeAll_kept ?_)
    | dsimp only
    | (with_reducible first | refine Kept.upd ?_)

theorem execPortDown_kept {s : State} {p : BitVec 5} {reason : Byte} : OKept s (execPortDown p reason s) := by
  unfold execPortDown
  have kp := Kept.refl s
  repeat' first
    | (with_reducible first | refine OKept.next ?_ | refine okept_ite ?_ ?_ | assumption | refine kept_ite ?_ ?_)
    | (with_reducible first | refine State.portDown_kept ?_)
    | dsimp only

theorem execLaneRetire_kept {s : State} {p : BitVec 5} {lane : BitVec 4} : OKept s (execLaneRetire p lane s) := by
  unfold execLaneRetire
  have kp := Kept.refl s
  repeat' first
    | (with_reducible first | refine OKept.next ?_ | refine okept_ite ?_ ?_ | assumption | refine kept_ite ?_ ?_)
    | (with_reducible first | refine State.updPort_kept ?_ | refine State.raise_kept ?_)
    | (with_reducible first | refine State.setLanes_kept ?_ | refine State.portDown_kept ?_)
    | dsimp only
    | (with_reducible first | refine Kept.upd ?_)

theorem execPortTrainingDone_kept {s : State} {p : BitVec 5} {t : TrainResult} : OKept s (execPortTrainingDone p t s) := by
  unfold execPortTrainingDone
  have kp := Kept.refl s
  repeat' first
    | (with_reducible first | refine OKept.next ?_ | refine okept_ite ?_ ?_ | assumption | refine kept_ite ?_ ?_)
    | (with_reducible first | refine State.updPort_kept ?_ | refine State.updInflow_kept ?_)
    | (with_reducible first | refine State.setLanes_kept ?_ | refine State.portDown_kept ?_ | refine State.recomputeAll_kept ?_)
    | dsimp only
    | (with_reducible first | refine Kept.upd ?_)

theorem State.startTraining_kept {s₀ s : State} {p : Nat} (kp : Kept s₀ s) :
    Kept s₀ (State.startTraining s p) := by
  unfold State.startTraining
  repeat' first
    | (with_reducible first | assumption | refine State.updPort_kept ?_ | refine State.portEvent_kept ?_)
    | dsimp only
    | (with_reducible first | refine Kept.upd ?_)

theorem execPortRetrainRetry_kept {s : State} {p : BitVec 5} : OKept s (execPortRetrainRetry p s) := by
  unfold execPortRetrainRetry
  have kp := Kept.refl s
  repeat' first
    | (with_reducible first | refine OKept.next ?_ | refine okept_ite ?_ ?_ | assumption | refine kept_ite ?_ ?_)
    | (with_reducible first | refine State.startTraining_kept ?_)
    | dsimp only

theorem State.freeRx_kept {s₀ s : State} {p : Nat} {pk : Packet} (kp : Kept s₀ s) :
    Kept s₀ (State.freeRx s p pk) := by
  unfold State.freeRx
  repeat' first
    | (with_reducible first | assumption | refine State.updPort_kept ?_)
    | dsimp only

theorem State.packetIn_kept {s₀ s : State} {p : Nat} {pk : Packet} (kp : Kept s₀ s) :
    Kept s₀ (State.packetIn s p pk) := by
  unfold State.packetIn
  repeat' first
    | (with_reducible first | assumption | refine kept_ite ?_ ?_ | refine State.updPort_kept ?_)
    | (with_reducible first | refine State.discardPacket_kept ?_ | refine State.forward_kept ?_)
    | (with_reducible first | refine State.freeRx_kept ?_)
    | dsimp only
    | (with_reducible first | refine Kept.upd ?_)

theorem State.flitBad_kept {s₀ s : State} {p : Nat} (kp : Kept s₀ s) :
    Kept s₀ (State.flitBad s p) := by
  unfold State.flitBad
  repeat' first
    | (with_reducible first | assumption | refine kept_ite ?_ ?_ | refine State.updPort_kept ?_)
    | (with_reducible first | refine State.raise_kept ?_)
    | dsimp only
    | (with_reducible first | refine Kept.upd ?_)

theorem execFlitReceive_kept {s : State} {p : BitVec 5} {f : RxFlit} : OKept s (execFlitReceive p f s) := by
  unfold execFlitReceive
  have kp := Kept.refl s
  repeat' first
    | (with_reducible first | refine OKept.next ?_ | refine okept_ite ?_ ?_ | assumption | refine kept_ite ?_ ?_)
    | (with_reducible first | refine kept_foldl ?_ ?_ | intro _ _ _ | intro _ | refine State.updPort_kept ?_)
    | (with_reducible first | refine State.fecCount_kept ?_ | refine State.portDown_kept ?_)
    | (with_reducible first | refine State.packetIn_kept ?_ | refine State.flitBad_kept ?_)
    | split
    | dsimp only
    | (with_reducible first | refine Kept.upd ?_)

theorem execProbePkt_kept {s : State} {p : BitVec 5} : OKept s (execProbePkt p s) := by
  unfold execProbePkt
  have kp := Kept.refl s
  repeat' first
    | (with_reducible first | refine OKept.next ?_ | assumption | refine State.send_kept ?_)
    | (with_reducible first | refine State.takeArrived_kept_eq (by assumption) ?_)
    | split
    | dsimp only
    | (with_reducible first | refine Kept.upd ?_)

theorem execReplayEnd_kept {s : State} {p : BitVec 5} : OKept s (execReplayEnd p s) := by
  unfold execReplayEnd
  have kp := Kept.refl s
  repeat' first
    | (with_reducible first | refine OKept.next ?_ | refine okept_ite ?_ ?_ | assumption | refine kept_ite ?_ ?_)
    | (with_reducible first | refine State.updPort_kept ?_ | refine State.send_kept ?_)
    | (with_reducible first | refine State.takeArrived_kept_eq (by assumption) ?_)
    | (with_reducible first | refine State.portDown_kept ?_)
    | split
    | dsimp only
    | (with_reducible first | refine Kept.upd ?_)

theorem execReplayEndAck_kept {s : State} {p : BitVec 5} : OKept s (execReplayEndAck p s) := by
  unfold execReplayEndAck
  have kp := Kept.refl s
  repeat' first
    | (with_reducible first | refine OKept.next ?_ | refine okept_ite ?_ ?_ | assumption | refine kept_ite ?_ ?_)
    | (with_reducible first | refine State.updPort_kept ?_ | refine State.takeArrived_kept_eq (by assumption) ?_)
    | split
    | dsimp only
    | (with_reducible first | refine Kept.upd ?_)

end Sys2Proof.Machine
end

