-- ==== Sys2Proof/Laws/KeptRemote.lean ====
section
/-! SUPPORT. Every operation of Machine/Remote.lean keeps what every command keeps (`Kept`). -/

namespace Sys2Proof.Machine

theorem State.serveRequest_kept {s₀ s : State} {p : BitVec 5} {pk : Packet} {write : Bool} (kp : Kept s₀ s) :
    Kept s₀ (State.serveRequest s p pk write) := by
  unfold State.serveRequest
  repeat' first
    | (with_reducible first | assumption | refine kept_ite ?_ ?_ | refine State.write_kept ?_)
    | (with_reducible first | refine State.respond_kept ?_ | refine State.serve_kept ?_)
    | (with_reducible first | refine State.addAccess_kept ?_ | refine State.addAccess_kept_eq (by assumption) ?_)
    | split
    | dsimp only
    | (with_reducible first | refine Kept.upd ?_)

theorem execRdReq_kept {s : State} {p : BitVec 5} : OKept s (execRdReq p s) := by
  unfold execRdReq
  have kp := Kept.refl s
  repeat' first
    | (with_reducible first | refine OKept.next ?_ | refine okept_ite ?_ ?_ | assumption | refine kept_ite ?_ ?_)
    | (with_reducible first | refine State.takeArrived_kept_eq (by assumption) ?_)
    | (with_reducible first | refine State.serveRequest_kept ?_)
    | split
    | dsimp only
    | (with_reducible first | refine Kept.upd ?_)

theorem execWrReq_kept {s : State} {p : BitVec 5} : OKept s (execWrReq p s) := by
  unfold execWrReq
  have kp := Kept.refl s
  repeat' first
    | (with_reducible first | refine OKept.next ?_ | refine okept_ite ?_ ?_ | assumption | refine kept_ite ?_ ?_)
    | (with_reducible first | refine State.takeArrived_kept_eq (by assumption) ?_)
    | (with_reducible first | refine State.serveRequest_kept ?_)
    | split
    | dsimp only
    | (with_reducible first | refine Kept.upd ?_)

theorem State.remoteBoltDone_kept {s₀ s : State} {r : RoomId} {waits : Bool} {code : Nat} {err : Nat} {result : W32} (kp : Kept s₀ s) :
    Kept s₀ (State.remoteBoltDone s r waits code err result) := by
  unfold State.remoteBoltDone
  repeat' first
    | (with_reducible first | assumption | refine kept_ite ?_ ?_ | refine State.faultRoom_kept ?_)
    | (with_reducible first | refine State.roomBoltDone_kept ?_)
    | dsimp only

theorem State.remoteDone_kept {s₀ s : State} {m : Remote} {code : Byte} {arg : Nat} {data : List Byte} (kp : Kept s₀ s) :
    Kept s₀ (State.remoteDone s m code arg data) := by
  unfold State.remoteDone
  repeat' first
    | (with_reducible first | assumption | refine kept_ite ?_ ?_ | refine State.write_kept ?_)
    | (with_reducible first | refine State.dropRemote_kept ?_ | refine State.updGroup_kept ?_)
    | (with_reducible first | refine State.finish_kept ?_ | refine node_kept_eq (by assumption) ?_)
    | (with_reducible first | refine State.remoteBoltDone_kept ?_)
    | split
    | dsimp only
    | (with_reducible first | refine Kept.upd ?_)

theorem State.responseIn_kept {s₀ s : State} {p : BitVec 5} {kind : Nat} (kp : Kept s₀ s) :
    Kept s₀ (State.responseIn s p kind) := by
  unfold State.responseIn
  repeat' first
    | (with_reducible first | assumption | refine State.discardPacket_kept ?_)
    | (with_reducible first | refine State.takeArrived_kept_eq (by assumption) ?_)
    | (with_reducible first | refine State.remoteDone_kept ?_)
    | split
    | dsimp only
    | (with_reducible first | refine Kept.upd ?_)

theorem execRdRsp_kept {s : State} {p : BitVec 5} : OKept s (execRdRsp p s) := by
  unfold execRdRsp
  have kp := Kept.refl s
  repeat' first
    | (with_reducible first | refine OKept.next ?_ | assumption | refine State.responseIn_kept ?_)
    | dsimp only

theorem execWrAck_kept {s : State} {p : BitVec 5} : OKept s (execWrAck p s) := by
  unfold execWrAck
  have kp := Kept.refl s
  repeat' first
    | (with_reducible first | refine OKept.next ?_ | assumption | refine State.responseIn_kept ?_)
    | dsimp only

theorem execBoltRsp_kept {s : State} {p : BitVec 5} : OKept s (execBoltRsp p s) := by
  unfold execBoltRsp
  have kp := Kept.refl s
  repeat' first
    | (with_reducible first | refine OKept.next ?_ | assumption | refine State.responseIn_kept ?_)
    | dsimp only

theorem execGwrAck_kept {s : State} {p : BitVec 5} : OKept s (execGwrAck p s) := by
  unfold execGwrAck
  have kp := Kept.refl s
  repeat' first
    | (with_reducible first | refine OKept.next ?_ | assumption | refine State.responseIn_kept ?_)
    | dsimp only

theorem execRemoteTimeout_kept {s : State} {south : Bool} {rtag : BitVec 12} : OKept s (execRemoteTimeout south rtag s) := by
  unfold execRemoteTimeout
  have kp := Kept.refl s
  repeat' first
    | (with_reducible first | refine OKept.next ?_ | assumption | refine State.remoteDone_kept ?_)
    | split
    | dsimp only
    | (with_reducible first | refine Kept.upd ?_)

theorem execBoltReq_kept {s : State} {p : BitVec 5} : OKept s (execBoltReq p s) := by
  unfold execBoltReq
  have kp := Kept.refl s
  repeat' first
    | (with_reducible first | refine OKept.next ?_ | refine okept_ite ?_ ?_ | assumption | refine kept_ite ?_ ?_)
    | (with_reducible first | refine State.boltAsk_kept ?_ | refine State.respond_kept ?_)
    | (with_reducible first | refine State.takeArrived_kept_eq (by assumption) ?_)
    | split
    | dsimp only
    | (with_reducible first | refine Kept.upd ?_)

theorem State.treeIn_kept {s₀ s : State} {p : BitVec 5} {ty : Nat} {f : BoltId → Byte → State → State} (hf : ∀ a0 a1 s, Kept s₀ s → Kept s₀ (f a0 a1 s))  (kp : Kept s₀ s) :
    Kept s₀ (State.treeIn s p ty f) := by
  unfold State.treeIn
  repeat' first
    | (with_reducible first | assumption | refine kept_ite ?_ ?_ | refine State.send_kept ?_)
    | (with_reducible first | refine State.takeArrived_kept_eq (by assumption) ?_ | apply hf)
    | (with_reducible first | exact PKept.pure kp | refine PKept.pure ?_ | refine PKept.throw ?_)
    | (with_reducible first | refine PKept.modify ?_ | refine PKept.set ?_ | refine PKept.getBind ?_)
    | (with_reducible first | refine PKept.get ?_ | refine PKept.map ?_ | refine PKept.ite ?_ ?_)
    | (with_reducible first | refine PKept.bind ?_ ?_ | refine PKept.forM ?_ ?_ | intro _ _ _)
    | (with_reducible first | refine PKept.ok (by assumption) ?_ | refine PKept.error (by assumption) ?_)
    | (with_reducible first | intro _)
    | split
    | dsimp only
    | (with_reducible first | refine Kept.upd ?_)

theorem execTreeArrive_kept {s : State} {p : BitVec 5} : OKept s (execTreeArrive p s) := by
  unfold execTreeArrive
  have kp := Kept.refl s
  repeat' first
    | (with_reducible first | refine OKept.next ?_ | refine okept_ite ?_ ?_ | assumption | refine kept_ite ?_ ?_)
    | (with_reducible first | intro _ _ _ _  | refine State.arrive_kept ?_ | refine State.treeIn_kept ?_ ?_)
    | dsimp only

theorem execTreeRelease_kept {s : State} {p : BitVec 5} : OKept s (execTreeRelease p s) := by
  unfold execTreeRelease
  have kp := Kept.refl s
  repeat' first
    | (with_reducible first | refine OKept.next ?_ | refine okept_ite ?_ ?_ | assumption | refine kept_ite ?_ ?_)
    | (with_reducible first | intro _ _ _ _  | refine State.updBolt_kept ?_ | refine State.releaseNow_kept ?_)
    | (with_reducible first | refine State.treeIn_kept ?_ ?_)
    | dsimp only
    | (with_reducible first | refine Kept.upd ?_)

theorem execTreeAbort_kept {s : State} {p : BitVec 5} : OKept s (execTreeAbort p s) := by
  unfold execTreeAbort
  have kp := Kept.refl s
  repeat' first
    | (with_reducible first | refine OKept.next ?_ | assumption | intro _ _ _ _ )
    | (with_reducible first | refine State.boltError_kept ?_ | refine State.treeIn_kept ?_ ?_)
    | dsimp only

theorem execTreeRefused_kept {s : State} {p : BitVec 5} : OKept s (execTreeRefused p s) := by
  unfold execTreeRefused
  have kp := Kept.refl s
  repeat' first
    | (with_reducible first | refine OKept.next ?_ | assumption | intro _ _ _ _ )
    | (with_reducible first | refine State.boltError_kept ?_ | refine State.treeIn_kept ?_ ?_)
    | dsimp only

theorem execGwrReq_kept {s : State} {p : BitVec 5} : OKept s (execGwrReq p s) := by
  unfold execGwrReq
  have kp := Kept.refl s
  repeat' first
    | (with_reducible first | refine OKept.next ?_ | refine okept_ite ?_ ?_ | assumption | refine kept_ite ?_ ?_)
    | (with_reducible first | refine State.send_kept ?_ | refine State.takeArrived_kept_eq (by assumption) ?_)
    | (with_reducible first | refine State.startGroup_kept ?_)
    | split
    | dsimp only
    | (with_reducible first | refine Kept.upd ?_)

end Sys2Proof.Machine
end

