-- ==== Sys2Proof/Laws/KeptSteward.lean ====
section
/-! SUPPORT. Every operation of Machine/Steward.lean keeps what every command keeps (`Kept`). -/

namespace Sys2Proof.Machine

theorem State.jobEvent_kept {s₀ s : State} {kind : Nat} {node : NodeId} {job : W32} (kp : Kept s₀ s) :
    Kept s₀ (State.jobEvent s kind node job) := by
  unfold State.jobEvent
  repeat' first
    | (with_reducible first | assumption | refine State.devEvent_kept ?_)
    | (with_reducible first | refine node_kept_eq (by assumption) ?_)
    | dsimp only

theorem State.peerLost_kept {s₀ s : State} {job : W32} (kp : Kept s₀ s) :
    Kept s₀ (State.peerLost s job) := by
  unfold State.peerLost
  repeat' first
    | (with_reducible first | assumption | refine State.raise_kept ?_ | refine State.jobError_kept ?_)
    | dsimp only

theorem State.nodeLost_kept {s₀ s : State} {job : W32} {node : NodeId} (kp : Kept s₀ s) :
    Kept s₀ (State.nodeLost s job node) := by
  unfold State.nodeLost
  repeat' first
    | (with_reducible first | assumption | refine kept_foldl ?_ ?_ | intro _ _ _ | intro _)
    | (with_reducible first | refine State.updJob_kept ?_ | refine State.finish_kept ?_)
    | (with_reducible first | refine State.abandonRev_kept ?_ | refine node_kept_eq (by assumption) ?_)
    | (with_reducible first | refine State.remoteDone_kept ?_ | refine State.jobEvent_kept ?_)
    | (with_reducible first | refine State.peerLost_kept ?_)
    | dsimp only
    | (with_reducible first | refine Kept.upd ?_)

theorem State.managerLost_kept {s₀ s : State} {j : Job} (kp : Kept s₀ s) :
    Kept s₀ (State.managerLost s j) := by
  unfold State.managerLost
  repeat' first
    | (with_reducible first | assumption | refine State.updJob_kept ?_ | refine State.jobEvent_kept ?_)
    | (with_reducible first | refine State.peerLost_kept ?_)
    | dsimp only
    | (with_reducible first | refine Kept.upd ?_)

theorem State.declareLost_kept {s₀ s : State} {j : Job} {node : NodeId} (kp : Kept s₀ s) :
    Kept s₀ (State.declareLost s j node) := by
  unfold State.declareLost
  repeat' first
    | (with_reducible first | assumption | refine kept_ite ?_ ?_ | refine kept_foldl ?_ ?_ | intro _ _ _)
    | (with_reducible first | intro _ | refine State.stew_kept ?_ | refine node_kept_eq (by assumption) ?_)
    | (with_reducible first | refine State.recompute_kept ?_ | refine State.nodeLost_kept ?_)
    | dsimp only

theorem State.onJob_kept {s₀ s : State} {job : W32} {f : Job → State → State} (hf : ∀ a0 s, Kept s₀ s → Kept s₀ (f a0 s))  (kp : Kept s₀ s) :
    Kept s₀ (State.onJob s job f) := by
  unfold State.onJob
  repeat' first
    | (with_reducible first | assumption | refine kept_ite ?_ ?_ | apply hf | exact PKept.pure kp)
    | (with_reducible first | refine PKept.pure ?_ | refine PKept.throw ?_ | refine PKept.modify ?_)
    | (with_reducible first | refine PKept.set ?_ | refine PKept.getBind ?_ | refine PKept.get ?_)
    | (with_reducible first | refine PKept.map ?_ | refine PKept.ite ?_ ?_ | refine PKept.bind ?_ ?_)
    | (with_reducible first | refine PKept.forM ?_ ?_ | intro _ _ _ | refine PKept.ok (by assumption) ?_)
    | (with_reducible first | refine PKept.error (by assumption) ?_ | intro _)
    | split
    | dsimp only
    | (with_reducible first | refine Kept.upd ?_)

theorem execHeartbeatMsg_kept {s : State} {job : W32} : OKept s (execHeartbeatMsg job s) := by
  unfold execHeartbeatMsg
  have kp := Kept.refl s
  repeat' first
    | (with_reducible first | refine OKept.next ?_ | refine okept_ite ?_ ?_ | assumption | refine kept_ite ?_ ?_)
    | (with_reducible first | intro _ _ _  | refine State.updJob_kept ?_ | refine State.stew_kept ?_)
    | (with_reducible first | refine State.onJob_kept ?_ ?_)
    | dsimp only
    | (with_reducible first | refine Kept.upd ?_)

theorem execHbAckMsg_kept {s : State} {job : W32} {node : NodeId} : OKept s (execHbAckMsg job node s) := by
  unfold execHbAckMsg
  have kp := Kept.refl s
  repeat' first
    | (with_reducible first | refine OKept.next ?_ | refine okept_ite ?_ ?_ | assumption | refine kept_ite ?_ ?_)
    | (with_reducible first | intro _ _ _  | refine State.updJob_kept ?_)
    | (with_reducible first | refine node_kept_eq (by assumption) ?_ | refine State.onJob_kept ?_ ?_)
    | dsimp only
    | (with_reducible first | refine Kept.upd ?_)

theorem State.suspect_kept {s₀ s : State} {j : Job} {node sender : NodeId} (kp : Kept s₀ s) :
    Kept s₀ (State.suspect s j node sender) := by
  unfold State.suspect
  repeat' first
    | (with_reducible first | assumption | refine kept_ite ?_ ?_ | refine State.updJob_kept ?_)
    | (with_reducible first | refine State.send_kept ?_ | refine node_kept_eq (by assumption) ?_)
    | (with_reducible first | refine State.jobEvent_kept ?_ | refine State.declareLost_kept ?_)
    | dsimp only
    | (with_reducible first | refine Kept.upd ?_)

theorem execSuspectMsg_kept {s : State} {job : W32} {node sender : NodeId} : OKept s (execSuspectMsg job node sender s) := by
  unfold execSuspectMsg
  have kp := Kept.refl s
  repeat' first
    | (with_reducible first | refine OKept.next ?_ | assumption | intro _ _ _ )
    | (with_reducible first | refine node_kept_eq (by assumption) ?_ | refine State.onJob_kept ?_ ?_)
    | (with_reducible first | refine State.suspect_kept ?_)
    | dsimp only

theorem execLostMsg_kept {s : State} {job : W32} {node : NodeId} : OKept s (execLostMsg job node s) := by
  unfold execLostMsg
  have kp := Kept.refl s
  repeat' first
    | (with_reducible first | refine OKept.next ?_ | refine okept_ite ?_ ?_ | assumption | refine kept_ite ?_ ?_)
    | (with_reducible first | intro _ _ _  | refine node_kept_eq (by assumption) ?_)
    | (with_reducible first | refine State.nodeLost_kept ?_ | refine State.managerLost_kept ?_)
    | (with_reducible first | refine State.onJob_kept ?_ ?_)
    | dsimp only

theorem execHeartbeatTick_kept {s : State} {job : W32} : OKept s (execHeartbeatTick job s) := by
  unfold execHeartbeatTick
  have kp := Kept.refl s
  repeat' first
    | (with_reducible first | refine OKept.next ?_ | refine okept_ite ?_ ?_ | assumption | refine kept_ite ?_ ?_)
    | (with_reducible first | refine kept_foldl ?_ ?_ | intro _ _ _ | intro _ | intro _ _ _ )
    | (with_reducible first | refine State.updJob_kept ?_ | refine State.stew_kept ?_)
    | (with_reducible first | refine State.declareLost_kept ?_ | refine State.onJob_kept ?_ ?_)
    | dsimp only
    | (with_reducible first | refine Kept.upd ?_)

theorem execProbeTimeout_kept {s : State} {job : W32} {node : NodeId} : OKept s (execProbeTimeout job node s) := by
  unfold execProbeTimeout
  have kp := Kept.refl s
  repeat' first
    | (with_reducible first | refine OKept.next ?_ | refine okept_ite ?_ ?_ | assumption | refine kept_ite ?_ ?_)
    | (with_reducible first | intro _ _ _  | refine node_kept_eq (by assumption) ?_)
    | (with_reducible first | refine State.declareLost_kept ?_ | refine State.onJob_kept ?_ ?_)
    | dsimp only

theorem execManagerLost_kept {s : State} {job : W32} : OKept s (execManagerLost job s) := by
  unfold execManagerLost
  have kp := Kept.refl s
  repeat' first
    | (with_reducible first | refine OKept.next ?_ | refine okept_ite ?_ ?_ | assumption | refine kept_ite ?_ ?_)
    | (with_reducible first | intro _ _ _  | refine State.managerLost_kept ?_ | refine State.onJob_kept ?_ ?_)
    | dsimp only

theorem execNeighbourUnreachable_kept {s : State} {dir : BitVec 3} : OKept s (execNeighbourUnreachable dir s) := by
  unfold execNeighbourUnreachable
  have kp := Kept.refl s
  repeat' first
    | (with_reducible first | refine OKept.next ?_ | refine okept_ite ?_ ?_ | assumption | refine kept_ite ?_ ?_)
    | (with_reducible first | refine kept_foldl ?_ ?_ | intro _ _ _ | intro _ | refine State.updPort_kept ?_)
    | (with_reducible first | refine State.raise_kept ?_ | refine State.sendDir_kept ?_)
    | (with_reducible first | refine State.stew_kept ?_ | refine node_kept_eq (by assumption) ?_)
    | (with_reducible first | refine State.jobEvent_kept ?_ | refine State.suspect_kept ?_ | refine State.recomputeAll_kept ?_)
    | dsimp only
    | (with_reducible first | refine Kept.upd ?_)

theorem State.tellWorkers_kept {s₀ s : State} {j : Job} {ty : Nat} (kp : Kept s₀ s) :
    Kept s₀ (State.tellWorkers s j ty) := by
  unfold State.tellWorkers
  repeat' first
    | (with_reducible first | assumption | refine kept_ite ?_ ?_ | refine kept_foldl ?_ ?_ | intro _ _ _)
    | (with_reducible first | intro _ | refine State.stew_kept ?_)
    | dsimp only

theorem execTreeSet_kept {s : State} {job : W32} {index : BitVec 15} {t : TreeFields} : OKept s (execTreeSet job index t s) := by
  unfold execTreeSet
  have kp := Kept.refl s
  repeat' first
    | (with_reducible first | refine OKept.next ?_ | refine okept_ite ?_ ?_ | assumption | refine kept_ite ?_ ?_)
    | (with_reducible first | intro _ _ _  | refine State.updBolt_kept ?_ | refine State.onJob_kept ?_ ?_)
    | (with_reducible first | refine State.tellWorkers_kept ?_)
    | split
    | dsimp only
    | (with_reducible first | refine Kept.upd ?_)

theorem execGroupSet_kept {s : State} {e : Group} {clear : Bool} : OKept s (execGroupSet e clear s) := by
  unfold execGroupSet
  have kp := Kept.refl s
  repeat' first
    | (with_reducible first | refine OKept.next ?_ | refine okept_ite ?_ ?_ | assumption | refine kept_ite ?_ ?_)
    | (with_reducible first | intro _ _ _  | refine State.clear_kept ?_ | refine State.onJob_kept ?_ ?_)
    | (with_reducible first | refine State.tellWorkers_kept ?_)
    | dsimp only
    | (with_reducible first | refine Kept.upd ?_)

theorem execDetourSet_kept {s : State} {job : W32} {entries : List (BitVec 24)} : OKept s (execDetourSet job entries s) := by
  unfold execDetourSet
  have kp := Kept.refl s
  repeat' first
    | (with_reducible first | refine OKept.next ?_ | refine okept_ite ?_ ?_ | assumption | refine kept_ite ?_ ?_)
    | (with_reducible first | intro _ _ _  | refine State.updJob_kept ?_ | refine State.onJob_kept ?_ ?_)
    | dsimp only
    | (with_reducible first | refine Kept.upd ?_)

theorem execStewardRevision_kept {s : State} {c : CtxId} {midx : Byte} {route : Dva} {plan : RevPlan} : OKept s (execStewardRevision c midx route plan s) := by
  unfold execStewardRevision
  have kp := Kept.refl s
  repeat' first
    | (with_reducible first | refine OKept.next ?_ | refine okept_ite ?_ ?_ | assumption | refine kept_ite ?_ ?_)
    | (with_reducible first | refine State.copy_kept ?_ | refine State.updCtx_kept ?_)
    | (with_reducible first | refine State.stew_kept ?_ | refine State.updModel_kept ?_)
    | (with_reducible first | refine State.beginRev_kept ?_)
    | split
    | dsimp only
    | (with_reducible first | refine Kept.upd ?_)

theorem execPlaceMsg_kept {s : State} {job : W32} {midx : Byte} {sender : NodeId} {route : Dva} {version : W32} {p : PlaceMsg} :
    OKept s (execPlaceMsg job midx sender route version p s) := by
  unfold execPlaceMsg
  have kp := Kept.refl s
  repeat' first
    | (with_reducible first | refine OKept.next ?_ | refine okept_ite ?_ ?_ | assumption | refine kept_ite ?_ ?_)
    | (with_reducible first | intro _ _ _  | refine State.placeAtWorker_kept ?_)
    | (with_reducible first | refine State.placeAtManager_kept ?_ | refine State.onJob_kept ?_ ?_)
    | split
    | dsimp only
    | (with_reducible first | refine Kept.upd ?_)

theorem execStatsMsg_kept {s : State} {job : W32} {midx : Byte} {route : Dva} {loads : List W32} {dropped invalid : W32} : OKept s (execStatsMsg job midx route loads dropped invalid s) := by
  unfold execStatsMsg
  have kp := Kept.refl s
  repeat' first
    | (with_reducible first | refine OKept.next ?_ | refine okept_ite ?_ ?_ | assumption | refine kept_ite ?_ ?_)
    | (with_reducible first | intro _ _ _  | refine State.updCtx_kept ?_ | refine State.updModel_kept ?_)
    | (with_reducible first | refine State.onJob_kept ?_ ?_)
    | split
    | dsimp only
    | (with_reducible first | refine Kept.upd ?_)

theorem execFabConfig_kept {s : State} {q : Req} : OKept s (execFabConfig q s) := by
  unfold execFabConfig
  have kp := Kept.refl s
  repeat' first
    | (with_reducible first | intro _ _ | refine OKept.next ?_ | refine okept_ite ?_ ?_ | assumption)
    | (with_reducible first | refine kept_ite ?_ ?_ | refine kept_foldl ?_ ?_ | refine kept_foldl_snd ?_ ?_)
    | (with_reducible first | refine kept_foldl_fst ?_ ?_ | refine kept_foldl_snd_eq (by assumption) ?_ ?_)
    | (with_reducible first | refine kept_foldl_fst_eq (by assumption) ?_ ?_ | intro _ _ _ | intro _)
    | (with_reducible first | refine State.updPort_kept ?_ | refine State.reply_kept ?_)
    | (with_reducible first | refine State.commandWith_kept ?_ ?_ | refine node_kept_eq (by assumption) ?_)
    | (with_reducible first | refine State.startTraining_kept ?_)
    | dsimp only
    | (with_reducible first | refine Kept.upd ?_)

theorem execFabRole_kept {s : State} {q : Req} : OKept s (execFabRole q s) := by
  unfold execFabRole
  have kp := Kept.refl s
  repeat' first
    | (with_reducible first | intro _ _ | refine OKept.next ?_ | refine okept_ite ?_ ?_ | assumption)
    | (with_reducible first | refine kept_ite ?_ ?_ | refine State.reply_kept ?_ | refine State.badReq_kept ?_)
    | (with_reducible first | refine State.commandWith_kept ?_ ?_ | refine State.recompute_kept ?_)
    | dsimp only
    | (with_reducible first | refine Kept.upd ?_)

theorem execPortStatus_kept {s : State} {q : Req} : OKept s (execPortStatus q s) := by
  unfold execPortStatus
  have kp := Kept.refl s
  repeat' first
    | (with_reducible first | intro _ _ | refine OKept.next ?_ | assumption | refine State.reply_kept ?_)
    | (with_reducible first | refine State.commandWith_kept ?_ ?_)
    | dsimp only

theorem State.portCtl_kept {s₀ s : State} {q : Req} {disable : Bool} {f : Nat → State → State} (hf : ∀ a0 s, Kept s₀ s → Kept s₀ (f a0 s))  (kp : Kept s₀ s) :
    Kept s₀ (State.portCtl s q disable f) := by
  unfold State.portCtl
  repeat' first
    | (with_reducible first | intro _ _ | assumption | refine kept_ite ?_ ?_ | refine State.reply_kept ?_)
    | (with_reducible first | refine State.commandWith_kept ?_ ?_ | apply hf | exact PKept.pure kp)
    | (with_reducible first | refine PKept.pure ?_ | refine PKept.throw ?_ | refine PKept.modify ?_)
    | (with_reducible first | refine PKept.set ?_ | refine PKept.getBind ?_ | refine PKept.get ?_)
    | (with_reducible first | refine PKept.map ?_ | refine PKept.ite ?_ ?_ | refine PKept.bind ?_ ?_)
    | (with_reducible first | refine PKept.forM ?_ ?_ | intro _ _ _ | refine PKept.ok (by assumption) ?_)
    | (with_reducible first | refine PKept.error (by assumption) ?_ | intro _)
    | dsimp only

theorem execPortCtlDisable_kept {s : State} {q : Req} : OKept s (execPortCtlDisable q s) := by
  unfold execPortCtlDisable
  have kp := Kept.refl s
  repeat' first
    | (with_reducible first | refine OKept.next ?_ | refine okept_ite ?_ ?_ | assumption | refine kept_ite ?_ ?_)
    | (with_reducible first | intro _ _ _  | refine State.updPort_kept ?_ | refine State.reply_kept ?_)
    | (with_reducible first | refine State.portDown_kept ?_ | refine State.portCtl_kept ?_ ?_)
    | dsimp only
    | (with_reducible first | refine Kept.upd ?_)

theorem execPortCtlEnable_kept {s : State} {q : Req} : OKept s (execPortCtlEnable q s) := by
  unfold execPortCtlEnable
  have kp := Kept.refl s
  repeat' first
    | (with_reducible first | refine OKept.next ?_ | refine okept_ite ?_ ?_ | assumption | refine kept_ite ?_ ?_)
    | (with_reducible first | intro _ _ _  | refine State.reply_kept ?_ | refine State.startTraining_kept ?_)
    | (with_reducible first | refine State.portCtl_kept ?_ ?_)
    | dsimp only

end Sys2Proof.Machine
end

