-- ==== Sys2Proof/Laws/KeptRecorder.lean ====
section
/-! SUPPORT. Every operation of Machine/Recorder.lean keeps what every command keeps (`Kept`). -/

namespace Sys2Proof.Machine

theorem State.writeRecord_kept {s₀ s : State} {e : Err} {sev : Nat} {esc : Bool} {absorbed : Bool} {episode : Option W64} (kp : Kept s₀ s) :
    Kept s₀ (State.writeRecord s e sev esc absorbed episode) := by
  unfold State.writeRecord
  repeat' first
    | (with_reducible first | assumption | refine kept_ite ?_ ?_ | refine State.updEvr_kept ?_)
    | (with_reducible first | refine kept_getD ?_ ?_ | intro _ _)
    | dsimp only
    | (with_reducible first | refine Kept.upd ?_)

theorem State.directRecord_kept {s₀ s : State} {cls unit : Nat} {src : Nat} {count : W32} {detail : W64} (kp : Kept s₀ s) :
    Kept s₀ (State.directRecord s cls unit src count detail) := by
  unfold State.directRecord
  repeat' first
    | (with_reducible first | assumption | refine State.writeRecord_kept ?_)
    | dsimp only

theorem State.unfreeze_kept {s₀ s : State}  (kp : Kept s₀ s) :
    Kept s₀ (State.unfreeze s) := by
  unfold State.unfreeze
  repeat' first
    | (with_reducible first | assumption | refine kept_ite ?_ ?_ | refine State.updEvr_kept ?_)
    | (with_reducible first | refine State.updI3c_kept ?_ | refine State.writeRecord_kept ?_)
    | (with_reducible first | refine State.directRecord_kept ?_)
    | dsimp only
    | (with_reducible first | refine Kept.upd ?_)

theorem State.hostPush_kept {s₀ s : State} {hostOk : Bool} (kp : Kept s₀ s) : Kept s₀ (State.hostPush s hostOk) := by
  unfold State.hostPush
  split
  rename_i t v e
  have k := State.readTv_kept_eq e (fun _ _ h => State.updEvr_kept h) kp
  clear e
  exact kept_ite (State.updEvr_kept k) (Kept.updMem (fun h => memWf_foldl _ (memWf_memClear _ _ h)) k)

end Sys2Proof.Machine
end

