-- ==== Sys2Proof/Laws/KeptLetterbox.lean ====
section
/-! SUPPORT. Every operation of Machine/Letterbox.lean keeps what every command keeps (`Kept`). -/

namespace Sys2Proof.Machine

theorem State.lbxFault_kept {s₀ s : State} {l : Nat} {code : Byte} (kp : Kept s₀ s) :
    Kept s₀ (State.lbxFault s l code) := by
  unfold State.lbxFault
  repeat' first
    | (with_reducible first | assumption | refine State.updLbx_kept ?_ | refine State.raise_kept ?_)
    | dsimp only
    | (with_reducible first | refine Kept.upd ?_)

theorem State.reqRing_kept {s₀ s : State} {l : Nat} (kp : Kept s₀ s) :
    Kept s₀ (State.reqRing s l).1 := by
  unfold State.reqRing
  repeat' first
    | (with_reducible first | assumption | intro _ _ _  | refine State.updLbx_kept ?_)
    | (with_reducible first | refine State.readTv_kept ?_ ?_ | refine State.readTv_kept_eq (by assumption) ?_ ?_)
    | split
    | dsimp only
    | (with_reducible first | refine Kept.upd ?_)

theorem State.reqRing_kept_eq {s₀ s x₀ : State} {l : Nat} {y1}
    (e₀ : State.reqRing s l = (x₀, y1)) (kp : Kept s₀ s) : Kept s₀ x₀ := by
  have k := @State.reqRing_kept s₀ s l  kp
  rw [e₀] at k; exact k

theorem State.rspRing_kept {s₀ s : State} {l : Nat} (kp : Kept s₀ s) :
    Kept s₀ (State.rspRing s l).1 := by
  unfold State.rspRing
  repeat' first
    | (with_reducible first | assumption | intro _ _ _  | refine State.updLbx_kept ?_)
    | (with_reducible first | refine State.readTv_kept ?_ ?_ | refine State.readTv_kept_eq (by assumption) ?_ ?_)
    | split
    | dsimp only
    | (with_reducible first | refine Kept.upd ?_)

theorem State.rspRing_kept_eq {s₀ s x₀ : State} {l : Nat} {y1}
    (e₀ : State.rspRing s l = (x₀, y1)) (kp : Kept s₀ s) : Kept s₀ x₀ := by
  have k := @State.rspRing_kept s₀ s l  kp
  rw [e₀] at k; exact k

theorem execLetterboxEnableCheck_kept {s : State} {l : Nat} : OKept s (execLetterboxEnableCheck l s) := by
  unfold execLetterboxEnableCheck
  have kp := Kept.refl s
  repeat' first
    | (with_reducible first | refine OKept.next ?_ | refine okept_ite ?_ ?_ | assumption | refine kept_ite ?_ ?_)
    | (with_reducible first | refine State.updLbx_kept ?_ | refine State.lbxFault_kept ?_)
    | (with_reducible first | refine State.reqRing_kept ?_ | refine State.reqRing_kept_eq (by assumption) ?_)
    | (with_reducible first | refine State.rspRing_kept ?_ | refine State.rspRing_kept_eq (by assumption) ?_)
    | dsimp only
    | (with_reducible first | refine Kept.upd ?_)

theorem execLetterboxRequestTake_kept {s : State} {l : Nat} {hostOk : Bool} : OKept s (execLetterboxRequestTake l hostOk s) := by
  unfold execLetterboxRequestTake
  have kp := Kept.refl s
  repeat' first
    | (with_reducible first | refine OKept.next ?_ | refine okept_ite ?_ ?_ | assumption | refine kept_ite ?_ ?_)
    | (with_reducible first | refine State.updLbx_kept ?_ | refine State.lbxFault_kept ?_)
    | (with_reducible first | refine State.reqRing_kept ?_ | refine State.reqRing_kept_eq (by assumption) ?_)
    | split
    | dsimp only
    | (with_reducible first | refine Kept.upd ?_)

theorem State.lbxVector_kept {s₀ s : State} {l : Nat} {evt : Bool} (kp : Kept s₀ s) :
    Kept s₀ (State.lbxVector s l evt) := by
  unfold State.lbxVector
  repeat' first
    | (with_reducible first | assumption | refine kept_ite ?_ ?_ | refine State.updLbx_kept ?_)
    | (with_reducible first | refine State.raiseVec_kept ?_)
    | dsimp only
    | (with_reducible first | refine Kept.upd ?_)

theorem State.ringWrite_kept {s₀ s : State} {l : Nat} {hostOk : Bool} (kp : Kept s₀ s) :
    Kept s₀ (State.ringWrite s l hostOk) := by
  unfold State.ringWrite
  repeat' first
    | (with_reducible first | assumption | refine kept_ite ?_ ?_ | refine State.write_kept ?_)
    | (with_reducible first | refine State.updLbx_kept ?_ | refine State.event_kept ?_)
    | (with_reducible first | refine State.lbxFault_kept ?_ | refine State.rspRing_kept ?_)
    | (with_reducible first | refine State.rspRing_kept_eq (by assumption) ?_ | refine State.lbxVector_kept ?_)
    | split
    | dsimp only
    | (with_reducible first | refine Kept.upd ?_)

theorem execResponseRingWrite_kept {s : State} {l : Nat} {hostOk : Bool} : OKept s (execResponseRingWrite l hostOk s) := by
  unfold execResponseRingWrite
  have kp := Kept.refl s
  repeat' first
    | (with_reducible first | refine OKept.next ?_ | assumption | refine State.ringWrite_kept ?_)
    | dsimp only

theorem State.ringFlush_kept {s₀ s : State} {k l : Nat} (kp : Kept s₀ s) : Kept s₀ (State.ringFlush k l s) := by
  induction k generalizing s with
  | zero => simpa only [State.ringFlush] using kp
  | succ k ih =>
    unfold State.ringFlush
    repeat' first
      | with_reducible refine ih ?_
      | (with_reducible first | assumption | refine State.ringWrite_kept ?_)
      | split
      | dsimp only

theorem execVectorHoldoffEnd_kept {s : State} {l : Nat} {evt : Bool} : OKept s (execVectorHoldoffEnd l evt s) := by
  unfold execVectorHoldoffEnd
  have kp := Kept.refl s
  repeat' first
    | (with_reducible first | refine OKept.next ?_ | refine okept_ite ?_ ?_ | assumption | refine kept_ite ?_ ?_)
    | (with_reducible first | refine State.updLbx_kept ?_ | refine State.lbxVector_kept ?_)
    | dsimp only
    | (with_reducible first | refine Kept.upd ?_)

theorem State.lbxReset_kept {s₀ s : State} {l : Nat} (kp : Kept s₀ s) :
    Kept s₀ (State.lbxReset s l) := by
  unfold State.lbxReset
  repeat' first
    | (with_reducible first | assumption | refine kept_ite ?_ ?_ | refine State.updLbx_kept ?_)
    | dsimp only
    | (with_reducible first | refine Kept.upd ?_)

end Sys2Proof.Machine
end

