-- ==== Sys2Proof/Laws/KeptBoot.lean ====
section
/-! SUPPORT. Every operation of Machine/Boot.lean keeps what every command keeps (`Kept`). -/

namespace Sys2Proof.Machine

theorem State.ibi_kept {s₀ s : State} {b : Byte} (kp : Kept s₀ s) :
    Kept s₀ (State.ibi s b) := by
  unfold State.ibi
  repeat' first
    | (with_reducible first | assumption | refine kept_ite ?_ ?_)
    | dsimp only
    | (with_reducible first | refine Kept.upd ?_)

theorem State.putStartRec_kept {s₀ s : State} {r : StartRec} (kp : Kept s₀ s) :
    Kept s₀ (State.putStartRec s r) := by
  unfold State.putStartRec
  repeat' first
    | (with_reducible first | assumption | refine State.ibi_kept ?_)
    | dsimp only
    | (with_reducible first | refine Kept.upd ?_)

theorem State.dropFirmware_kept {s₀ s : State}  (kp : Kept s₀ s) :
    Kept s₀ (State.dropFirmware s) := by
  unfold State.dropFirmware
  repeat' first
    | (with_reducible first | assumption)
    | dsimp only
    | (with_reducible first | refine Kept.upd ?_)

theorem State.keepKeys_kept {s₀ s : State} {p : Nat → Bool} (kp : Kept s₀ s) : Kept s₀ (State.keepKeys s p) :=
  Kept.updMem (memWf_filter _) kp

theorem State.afterReset_kept {s₀ s : State} {keep : Nat → Bool} (kp : Kept s₀ s) : Kept s₀ (State.afterReset s keep) :=
  kp.trans ⟨rfl, memWf_filter _, fun _ => Nat.zero_le _, fun _ => Nat.zero_le _, fun h => ⟨h, Nat.le_refl _⟩, fun _ => tablesFit_nil⟩

theorem State.enterMinimal_kept {s₀ s : State} (kp : Kept s₀ s) : Kept s₀ (State.enterMinimal s) :=
  (State.dropFirmware_kept kp).trans ⟨rfl, memWf_filter _, id, id, fun h => ⟨h, Nat.le_refl _⟩, fun _ => tablesFit_nil⟩

theorem State.startFail_kept {s₀ s : State} {reason : Nat} {detail : W64} {step : Nat} (kp : Kept s₀ s) :
    Kept s₀ (State.startFail s reason detail step) := by
  unfold State.startFail
  repeat' first
    | (with_reducible first | assumption | refine kept_ite ?_ ?_ | refine State.putStartRec_kept ?_)
    | (with_reducible first | refine State.dropFirmware_kept ?_ | refine State.enterMinimal_kept ?_)
    | dsimp only
    | (with_reducible first | refine Kept.upd ?_)

theorem State.recordReady_kept {s₀ s : State} {r : StartRec} (kp : Kept s₀ s) :
    Kept s₀ (State.recordReady s r) := by
  unfold State.recordReady
  repeat' first
    | (with_reducible first | assumption | refine kept_ite ?_ ?_ | refine pending_kept_eq (by assumption) ?_)
    | (with_reducible first | refine State.putStartRec_kept ?_ | refine State.enterMinimal_kept ?_)
    | dsimp only
    | (with_reducible first | refine Kept.upd ?_)

theorem State.recordMissing_kept {s₀ s : State}  (kp : Kept s₀ s) :
    Kept s₀ (State.recordMissing s) := by
  unfold State.recordMissing
  repeat' first
    | (with_reducible first | assumption | refine State.directRecord_kept ?_ | refine State.recordReady_kept ?_)
    | dsimp only

theorem State.retireWing_kept {s₀ s : State} {g : WingId} (kp : Kept s₀ s) :
    Kept s₀ (State.retireWing s g) := by
  unfold State.retireWing
  repeat' first
    | (with_reducible first | assumption | refine State.updWing_kept ?_ | refine State.updIdent_kept ?_)
    | dsimp only
    | (with_reducible first | refine Kept.upd ?_)

theorem State.applySram_kept {s₀ s : State}  (kp : Kept s₀ s) :
    Kept s₀ (State.applySram s) := by
  unfold State.applySram
  repeat' first
    | (with_reducible first | assumption | refine kept_ite ?_ ?_ | refine kept_foldl ?_ ?_ | intro _ _ _)
    | (with_reducible first | intro _ | refine State.updWing_kept ?_ | refine State.retireWing_kept ?_)
    | dsimp only
    | (with_reducible first | refine Kept.upd ?_)

theorem State.trainCold_kept {s₀ s : State} {t : Training} (kp : Kept s₀ s) :
    Kept s₀ (State.trainCold s t) := by
  unfold State.trainCold
  repeat' first
    | (with_reducible first | assumption | refine kept_ite ?_ ?_ | refine kept_foldl ?_ ?_ | intro _ _ _)
    | (with_reducible first | intro _ | refine State.raise_kept ?_)
    | dsimp only
    | (with_reducible first | refine Kept.upd ?_)

theorem State.trainWarm_kept {s₀ s : State} {t : Training} (kp : Kept s₀ s) :
    Kept s₀ (State.trainWarm s t) := by
  unfold State.trainWarm
  repeat' first
    | (with_reducible first | assumption | refine kept_ite ?_ ?_ | refine State.directRecord_kept ?_)
    | (with_reducible first | refine State.keepKeys_kept ?_)
    | dsimp only
    | (with_reducible first | refine Kept.upd ?_)

theorem State.guardAtStart_kept {s₀ s : State}  (kp : Kept s₀ s) :
    Kept s₀ (State.guardAtStart s) := by
  unfold State.guardAtStart
  repeat' first
    | (with_reducible first | assumption | refine kept_ite ?_ ?_)
    | dsimp only
    | (with_reducible first | refine Kept.upd ?_)

theorem State.romStart_kept {s₀ s : State} {t : Training} (kp : Kept s₀ s) :
    Kept s₀ (State.romStart s t) := by
  unfold State.romStart
  repeat' first
    | (with_reducible first | assumption | refine kept_ite ?_ ?_ | refine kept_foldl ?_ ?_ | intro _ _ _)
    | (with_reducible first | intro _ | refine State.raise_kept ?_ | refine State.directRecord_kept ?_)
    | (with_reducible first | refine State.ibi_kept ?_ | refine State.recordReady_kept ?_)
    | (with_reducible first | refine State.retireWing_kept ?_ | refine State.applySram_kept ?_)
    | (with_reducible first | refine State.trainCold_kept ?_ | refine State.trainWarm_kept ?_)
    | (with_reducible first | refine State.guardAtStart_kept ?_)
    | dsimp only
    | (with_reducible first | refine Kept.upd ?_)

theorem State.coldReset_kept {s₀ s : State} {cause : Nat} (kp : Kept s₀ s) :
    Kept s₀ (State.coldReset s cause) := by
  unfold State.coldReset
  repeat' first
    | (with_reducible first | assumption | refine State.afterReset_kept ?_)
    | dsimp only
    | (with_reducible first | refine Kept.upd ?_)

theorem State.lateWrites_kept {s₀ s : State}  (kp : Kept s₀ s) :
    Kept s₀ (State.lateWrites s) := by
  unfold State.lateWrites
  repeat' first
    | (with_reducible first | assumption | refine kept_ite ?_ ?_ | refine kept_foldl ?_ ?_ | intro _ _ _)
    | (with_reducible first | intro _ | refine State.write_kept ?_ | refine State.bumpFree_kept ?_)
    | (with_reducible first | refine State.writeBadUnits_kept ?_ | refine State.translated_kept ?_)
    | split
    | dsimp only
    | (with_reducible first | refine Kept.upd ?_)

theorem State.warmReset_kept {s₀ s : State} {cause : Nat} {t : Training} (kp : Kept s₀ s) :
    Kept s₀ (State.warmReset s cause t) := by
  unfold State.warmReset
  repeat' first
    | (with_reducible first | assumption | refine State.directRecord_kept ?_ | refine State.afterReset_kept ?_)
    | (with_reducible first | refine State.romStart_kept ?_ | refine State.lateWrites_kept ?_)
    | dsimp only
    | (with_reducible first | refine Kept.upd ?_)

theorem execPfFunctionLevelReset_kept {s : State} {t : Training} : OKept s (execPfFunctionLevelReset t s) := by
  unfold execPfFunctionLevelReset
  have kp := Kept.refl s
  repeat' first
    | (with_reducible first | refine OKept.next ?_ | refine okept_ite ?_ ?_ | assumption | refine kept_ite ?_ ?_)
    | (with_reducible first | refine State.warmReset_kept ?_)
    | dsimp only

theorem execHotReset_kept {s : State} {t : Training} : OKept s (execHotReset t s) := by
  unfold execHotReset
  have kp := Kept.refl s
  repeat' first
    | (with_reducible first | refine OKept.next ?_ | refine okept_ite ?_ ?_ | assumption | refine kept_ite ?_ ?_)
    | (with_reducible first | refine State.warmReset_kept ?_)
    | dsimp only

theorem execHostLinkLoss_kept {s : State} {t : Training} : OKept s (execHostLinkLoss t s) := by
  unfold execHostLinkLoss
  have kp := Kept.refl s
  repeat' first
    | (with_reducible first | refine OKept.next ?_ | refine okept_ite ?_ ?_ | assumption | refine kept_ite ?_ ?_)
    | (with_reducible first | refine State.warmReset_kept ?_)
    | dsimp only

theorem execVfFunctionLevelReset_kept {s : State} {c : CtxId} : OKept s (execVfFunctionLevelReset c s) := by
  unfold execVfFunctionLevelReset
  have kp := Kept.refl s
  repeat' first
    | (with_reducible first | refine OKept.next ?_ | refine okept_ite ?_ ?_ | assumption | refine kept_ite ?_ ?_)
    | (with_reducible first | refine State.updLbx_kept ?_ | refine State.releaseCtx_kept ?_)
    | (with_reducible first | refine State.lbxReset_kept ?_)
    | dsimp only
    | (with_reducible first | refine Kept.upd ?_)

theorem execHostRstAssert_kept {s : State}  : OKept s (execHostRstAssert s) := by
  unfold execHostRstAssert
  have kp := Kept.refl s
  repeat' first
    | (with_reducible first | refine OKept.next ?_ | refine okept_ite ?_ ?_ | assumption | refine kept_ite ?_ ?_)
    | (with_reducible first | refine State.coldReset_kept ?_)
    | dsimp only
    | (with_reducible first | refine Kept.upd ?_)

theorem execHostRstRelease_kept {s : State} {t : Training} : OKept s (execHostRstRelease t s) := by
  unfold execHostRstRelease
  have kp := Kept.refl s
  repeat' first
    | (with_reducible first | refine OKept.next ?_ | refine okept_ite ?_ ?_ | assumption | refine kept_ite ?_ ?_)
    | (with_reducible first | refine State.romStart_kept ?_)
    | dsimp only
    | (with_reducible first | refine Kept.upd ?_)

theorem execPwrOkAssert_kept {s : State} {t : Training} : OKept s (execPwrOkAssert t s) := by
  unfold execPwrOkAssert
  have kp := Kept.refl s
  repeat' first
    | (with_reducible first | refine OKept.next ?_ | refine okept_ite ?_ ?_ | assumption | refine kept_ite ?_ ?_)
    | (with_reducible first | refine State.romStart_kept ?_)
    | dsimp only
    | (with_reducible first | refine Kept.upd ?_)

theorem execPwrOkDeassert_kept {s : State}  : OKept s (execPwrOkDeassert s) := by
  unfold execPwrOkDeassert
  have kp := Kept.refl s
  repeat' first
    | (with_reducible first | refine OKept.next ?_ | refine okept_ite ?_ ?_ | assumption | refine kept_ite ?_ ?_)
    | (with_reducible first | refine State.coldReset_kept ?_)
    | dsimp only
    | (with_reducible first | refine Kept.upd ?_)

theorem execRefclkLoss_kept {s : State} {ref : BitVec 5} : OKept s (execRefclkLoss ref s) := by
  unfold execRefclkLoss
  have kp := Kept.refl s
  repeat' first
    | (with_reducible first | refine OKept.next ?_ | refine okept_ite ?_ ?_ | assumption | refine kept_ite ?_ ?_)
    | (with_reducible first | refine kept_foldl ?_ ?_ | intro _ _ _ | intro _ | refine State.updPort_kept ?_)
    | (with_reducible first | refine State.raise_kept ?_)
    | dsimp only
    | (with_reducible first | refine Kept.upd ?_)

theorem execReferenceClockRecovered_kept {s : State} {ref : BitVec 5} {t : Training} : OKept s (execReferenceClockRecovered ref t s) := by
  unfold execReferenceClockRecovered
  have kp := Kept.refl s
  repeat' first
    | (with_reducible first | refine OKept.next ?_ | refine okept_ite ?_ ?_ | assumption | refine kept_ite ?_ ?_)
    | (with_reducible first | refine State.romStart_kept ?_)
    | dsimp only
    | (with_reducible first | refine Kept.upd ?_)

theorem State.openAttempt_kept {s₀ s : State}  (kp : Kept s₀ s) :
    Kept s₀ (State.openAttempt s) := by
  unfold State.openAttempt
  repeat' first
    | (with_reducible first | assumption | refine pending_kept_eq (by assumption) ?_)
    | (with_reducible first | refine State.putStartRec_kept ?_)
    | dsimp only
    | (with_reducible first | refine Kept.upd ?_)

theorem execFwVerifyDone_kept {s : State} {failed : Option W64} : OKept s (execFwVerifyDone failed s) := by
  unfold execFwVerifyDone
  have kp := Kept.refl s
  repeat' first
    | (with_reducible first | refine OKept.next ?_ | refine okept_ite ?_ ?_ | assumption | refine kept_ite ?_ ?_)
    | (with_reducible first | intro _ _ _  | refine State.readTv_kept ?_ ?_)
    | (with_reducible first | refine State.readTv_kept_eq (by assumption) ?_ ?_ | refine State.startFail_kept ?_)
    | split
    | dsimp only
    | (with_reducible first | refine Kept.upd ?_)

theorem execVerifyTimeout_kept {s : State}  : OKept s (execVerifyTimeout s) := by
  unfold execVerifyTimeout
  have kp := Kept.refl s
  repeat' first
    | (with_reducible first | refine OKept.next ?_ | refine okept_ite ?_ ?_ | assumption | refine kept_ite ?_ ?_)
    | (with_reducible first | refine State.startFail_kept ?_)
    | dsimp only

theorem execFwServing_kept {s : State}  : OKept s (execFwServing s) := by
  unfold execFwServing
  have kp := Kept.refl s
  repeat' first
    | (with_reducible first | refine OKept.next ?_ | refine okept_ite ?_ ?_ | assumption | refine kept_ite ?_ ?_)
    | dsimp only
    | (with_reducible first | refine Kept.upd ?_)

theorem execFwInitTimeout_kept {s : State} {detail : W64} : OKept s (execFwInitTimeout detail s) := by
  unfold execFwInitTimeout
  have kp := Kept.refl s
  repeat' first
    | (with_reducible first | refine OKept.next ?_ | refine okept_ite ?_ ?_ | assumption | refine kept_ite ?_ ?_)
    | (with_reducible first | refine State.startFail_kept ?_)
    | dsimp only

theorem execEnableTimeout_kept {s : State}  : OKept s (execEnableTimeout s) := by
  unfold execEnableTimeout
  have kp := Kept.refl s
  repeat' first
    | (with_reducible first | refine OKept.next ?_ | refine okept_ite ?_ ?_ | assumption | refine kept_ite ?_ ?_)
    | (with_reducible first | refine State.startFail_kept ?_)
    | dsimp only

theorem execHelloTimeout_kept {s : State}  : OKept s (execHelloTimeout s) := by
  unfold execHelloTimeout
  have kp := Kept.refl s
  repeat' first
    | (with_reducible first | refine OKept.next ?_ | refine okept_ite ?_ ?_ | assumption | refine kept_ite ?_ ?_)
    | (with_reducible first | refine State.startFail_kept ?_)
    | dsimp only

theorem execStartSuccess_kept {s : State} : OKept s (execStartSuccess s) := by
  unfold execStartSuccess
  refine OKept.next (kept_ite (Kept.refl s) ?_)
  extract_lets a b t
  have k : Kept s t := Kept.upd (State.putStartRec_kept (Kept.refl s))
  clear_value t
  split
  · rename_i h
    simp only [Bool.and_eq_true, decide_eq_true_eq] at h
    exact State.raise_kept (Kept.updSvn (fun _ => ⟨Nat.min_le_left _ _, by omega⟩) k)
  · exact k

theorem execStartRecordTimeout_kept {s : State}  : OKept s (execStartRecordTimeout s) := by
  unfold execStartRecordTimeout
  have kp := Kept.refl s
  repeat' first
    | (with_reducible first | refine OKept.next ?_ | refine okept_ite ?_ ?_ | assumption | refine kept_ite ?_ ?_)
    | (with_reducible first | refine State.recordMissing_kept ?_)
    | dsimp only
    | (with_reducible first | refine Kept.upd ?_)

theorem State.recordStored_kept {s₀ s : State}  (kp : Kept s₀ s) :
    Kept s₀ (State.recordStored s) := by
  unfold State.recordStored
  repeat' first
    | (with_reducible first | assumption | refine kept_ite ?_ ?_)
    | dsimp only
    | (with_reducible first | refine Kept.upd ?_)

theorem execBmcRecordWriteTimeout_kept {s : State}  : OKept s (execBmcRecordWriteTimeout s) := by
  unfold execBmcRecordWriteTimeout
  have kp := Kept.refl s
  repeat' first
    | (with_reducible first | refine OKept.next ?_ | refine okept_ite ?_ ?_ | assumption | refine kept_ite ?_ ?_)
    | (with_reducible first | refine State.directRecord_kept ?_ | refine State.recordStored_kept ?_)
    | dsimp only

theorem execWatchdogExpiry_kept {s : State} {core : BitVec 2} : OKept s (execWatchdogExpiry core s) := by
  unfold execWatchdogExpiry
  have kp := Kept.refl s
  repeat' first
    | (with_reducible first | refine OKept.next ?_ | refine okept_ite ?_ ?_ | assumption | refine kept_ite ?_ ?_)
    | (with_reducible first | refine State.raise_kept ?_ | refine State.startFail_kept ?_)
    | dsimp only

end Sys2Proof.Machine
end

