-- ==== Sys2Proof/Laws/KeptRegister.lean ====
section
/-! SUPPORT. Every operation of Machine/Register.lean keeps what every command keeps (`Kept`). -/

namespace Sys2Proof.Machine

theorem State.regValue_kept {s₀ s : State} {r : Reg} (kp : Kept s₀ s) :
    Kept s₀ (State.regValue s r).1 := by
  unfold State.regValue
  repeat' first
    | (with_reducible first | assumption | refine kept_ite ?_ ?_ | intro _ _ _  | refine State.updLbx_kept ?_)
    | (with_reducible first | refine State.updEvr_kept ?_ | refine State.updIdent_kept ?_)
    | (with_reducible first | refine State.readTv_kept ?_ ?_ | refine State.readTv_kept_eq (by assumption) ?_ ?_)
    | split
    | dsimp only
    | (with_reducible first | refine Kept.upd ?_)

theorem State.regValue_kept_eq {s₀ s x₀ : State} {r : Reg} {y1}
    (e₀ : State.regValue s r = (x₀, y1)) (kp : Kept s₀ s) : Kept s₀ x₀ := by
  have k := @State.regValue_kept s₀ s r  kp
  rw [e₀] at k; exact k

theorem State.read4_kept {s₀ s : State} {who : Who} {off : Nat} (kp : Kept s₀ s) :
    Kept s₀ (State.read4 s who off).1 := by
  unfold State.read4
  repeat' first
    | (with_reducible first | assumption | refine kept_ite ?_ ?_ | refine State.violation_kept ?_)
    | (with_reducible first | refine State.regValue_kept ?_ | refine State.regValue_kept_eq (by assumption) ?_)
    | split
    | dsimp only
    | (with_reducible first | refine Kept.upd ?_)

theorem State.read4_kept_eq {s₀ s x₀ : State} {who : Who} {off : Nat} {y1}
    (e₀ : State.read4 s who off = (x₀, y1)) (kp : Kept s₀ s) : Kept s₀ x₀ := by
  have k := @State.read4_kept s₀ s who off  kp
  rw [e₀] at k; exact k

theorem State.regRead_kept {s₀ s : State} {who : Who} {off size : Nat} (kp : Kept s₀ s) :
    Kept s₀ (State.regRead s who off size) := by
  unfold State.regRead
  repeat' first
    | (with_reducible first | assumption | refine kept_ite ?_ ?_ | refine State.violation_kept ?_)
    | (with_reducible first | refine State.regValue_kept ?_ | refine State.regValue_kept_eq (by assumption) ?_)
    | (with_reducible first | refine State.read4_kept ?_ | refine State.read4_kept_eq (by assumption) ?_)
    | split
    | dsimp only
    | (with_reducible first | refine Kept.upd ?_)

theorem State.unlock_kept {s₀ s : State} {who : Who} {v : W64} (kp : Kept s₀ s) :
    Kept s₀ (State.unlock s who v) := by
  unfold State.unlock
  repeat' first
    | (with_reducible first | assumption | refine kept_ite ?_ ?_ | refine State.updLock_kept ?_)
    | (with_reducible first | refine State.raise_kept ?_ | refine State.violation_kept ?_)
    | dsimp only
    | (with_reducible first | refine Kept.upd ?_)

theorem State.checkIndex_kept {s₀ s : State} {l : Nat} (kp : Kept s₀ s) :
    Kept s₀ (State.checkIndex s l) := by
  unfold State.checkIndex
  repeat' first
    | (with_reducible first | assumption | refine kept_ite ?_ ?_ | refine State.lbxFault_kept ?_)
    | dsimp only

theorem State.hostop_kept {s₀ s : State} {who : Who} {l : Nat} {v : W64} (kp : Kept s₀ s) :
    Kept s₀ (State.hostop s who l v) := by
  unfold State.hostop
  repeat' first
    | (with_reducible first | assumption | refine kept_ite ?_ ?_ | refine State.boltAsk_kept ?_)
    | (with_reducible first | refine State.violation_kept ?_ | refine State.arrive_kept ?_)
    | dsimp only

theorem State.regEffect_kept {s₀ s : State} {who : Who} {r : Reg} {v : W64} {t : Training} (kp : Kept s₀ s) :
    Kept s₀ (State.regEffect s who r v t) := by
  unfold State.regEffect
  repeat' first
    | (with_reducible first | assumption | refine kept_ite ?_ ?_ | refine State.updLbx_kept ?_)
    | (with_reducible first | refine State.updEvr_kept ?_ | refine State.updLock_kept ?_)
    | (with_reducible first | refine State.unfreeze_kept ?_ | refine State.lbxReset_kept ?_)
    | (with_reducible first | refine State.putStartRec_kept ?_ | refine State.warmReset_kept ?_)
    | (with_reducible first | refine State.openAttempt_kept ?_ | refine State.unlock_kept ?_)
    | (with_reducible first | refine State.checkIndex_kept ?_ | refine State.hostop_kept ?_)
    | split
    | dsimp only
    | (with_reducible first | refine Kept.upd ?_)

theorem State.writeReg_kept {s₀ s : State} {who : Who} {off : Nat} {r : Reg} {v : W64} {t : Training} (kp : Kept s₀ s) :
    Kept s₀ (State.writeReg s who off r v t) := by
  unfold State.writeReg
  repeat' first
    | (with_reducible first | assumption | refine kept_ite ?_ ?_ | refine State.updLock_kept ?_)
    | (with_reducible first | refine State.violation_kept ?_ | refine State.regEffect_kept ?_)
    | dsimp only
    | (with_reducible first | refine Kept.upd ?_)

theorem State.consume_kept {s₀ s : State} {who : Who} {off : Nat} (kp : Kept s₀ s) :
    Kept s₀ (State.consume s who off) := by
  unfold State.consume
  repeat' first
    | (with_reducible first | assumption | refine kept_ite ?_ ?_ | refine State.updLock_kept ?_)
    | split
    | dsimp only
    | (with_reducible first | refine Kept.upd ?_)

theorem State.write4_kept {s₀ s : State} {who : Who} {off : Nat} {v : W32} {t : Training} (kp : Kept s₀ s) :
    Kept s₀ (State.write4 s who off v t) := by
  unfold State.write4
  repeat' first
    | (with_reducible first | assumption | refine kept_ite ?_ ?_ | refine State.violation_kept ?_)
    | (with_reducible first | refine State.regValue_kept ?_ | refine State.regValue_kept_eq (by assumption) ?_)
    | (with_reducible first | refine State.writeReg_kept ?_ | refine State.consume_kept ?_)
    | split
    | dsimp only
    | (with_reducible first | refine Kept.upd ?_)

theorem State.regWrite_kept {s₀ s : State} {who : Who} {off size : Nat} {v : W64} {t : Training} (kp : Kept s₀ s) :
    Kept s₀ (State.regWrite s who off size v t) := by
  unfold State.regWrite
  repeat' first
    | (with_reducible first | assumption | refine kept_ite ?_ ?_ | refine State.violation_kept ?_)
    | (with_reducible first | refine State.writeReg_kept ?_ | refine State.consume_kept ?_)
    | (with_reducible first | refine State.write4_kept ?_)
    | split
    | dsimp only
    | (with_reducible first | refine Kept.upd ?_)

theorem execKeySetupWrite_kept {s : State} {who : Who} {v : W32} : OKept s (execKeySetupWrite who v s) := by
  unfold execKeySetupWrite
  have kp := Kept.refl s
  repeat' first
    | (with_reducible first | refine OKept.next ?_ | assumption | refine State.regWrite_kept ?_)
    | dsimp only

theorem execKeyUnlockWrite_kept {s : State} {who : Who} {v : W32} : OKept s (execKeyUnlockWrite who v s) := by
  unfold execKeyUnlockWrite
  have kp := Kept.refl s
  repeat' first
    | (with_reducible first | refine OKept.next ?_ | assumption | refine State.regWrite_kept ?_)
    | dsimp only

theorem execDevResetWarm_kept {s : State} {who : Who} {v : W32} {t : Training} : OKept s (execDevResetWarm who v t s) := by
  unfold execDevResetWarm
  have kp := Kept.refl s
  repeat' first
    | (with_reducible first | refine OKept.next ?_ | refine okept_ite ?_ ?_ | assumption | refine kept_ite ?_ ?_)
    | (with_reducible first | refine State.regWrite_kept ?_)
    | dsimp only

theorem execDevResetClrFails_kept {s : State} {who : Who} {v : W32} : OKept s (execDevResetClrFails who v s) := by
  unfold execDevResetClrFails
  have kp := Kept.refl s
  repeat' first
    | (with_reducible first | refine OKept.next ?_ | refine okept_ite ?_ ?_ | assumption | refine kept_ite ?_ ?_)
    | (with_reducible first | refine State.regWrite_kept ?_)
    | dsimp only

theorem execDevFwGo_kept {s : State} {who : Who} {v : W32} : OKept s (execDevFwGo who v s) := by
  unfold execDevFwGo
  have kp := Kept.refl s
  repeat' first
    | (with_reducible first | refine OKept.next ?_ | assumption | refine State.regWrite_kept ?_)
    | dsimp only

theorem execEvrUnfreeze_kept {s : State} {who : Who} {v : W32} : OKept s (execEvrUnfreeze who v s) := by
  unfold execEvrUnfreeze
  have kp := Kept.refl s
  repeat' first
    | (with_reducible first | refine OKept.next ?_ | assumption | refine State.regWrite_kept ?_)
    | dsimp only

theorem execLbxCtrlReset_kept {s : State} {who : Who} {v : W32} : OKept s (execLbxCtrlReset who v s) := by
  unfold execLbxCtrlReset
  have kp := Kept.refl s
  repeat' first
    | (with_reducible first | refine OKept.next ?_ | assumption | refine State.regWrite_kept ?_)
    | dsimp only

theorem execLbxDoorbell_kept {s : State} {who : Who} {v : W32} : OKept s (execLbxDoorbell who v s) := by
  unfold execLbxDoorbell
  have kp := Kept.refl s
  repeat' first
    | (with_reducible first | refine OKept.next ?_ | assumption | refine State.regWrite_kept ?_)
    | dsimp only

theorem execLbxRspConsWrite_kept {s : State} {who : Who} {v : W32} : OKept s (execLbxRspConsWrite who v s) := by
  unfold execLbxRspConsWrite
  have kp := Kept.refl s
  repeat' first
    | (with_reducible first | refine OKept.next ?_ | assumption | refine State.regWrite_kept ?_)
    | dsimp only

theorem execBltHostopAdd_kept {s : State} {c : CtxId} {v : W64} : OKept s (execBltHostopAdd c v s) := by
  unfold execBltHostopAdd
  have kp := Kept.refl s
  repeat' first
    | (with_reducible first | refine OKept.next ?_ | refine okept_ite ?_ ?_ | assumption | refine kept_ite ?_ ?_)
    | (with_reducible first | refine State.regWrite_kept ?_)
    | dsimp only

theorem execBltHostopArrive_kept {s : State} {c : CtxId} {v : W64} : OKept s (execBltHostopArrive c v s) := by
  unfold execBltHostopArrive
  have kp := Kept.refl s
  repeat' first
    | (with_reducible first | refine OKept.next ?_ | refine okept_ite ?_ ?_ | assumption | refine kept_ite ?_ ?_)
    | (with_reducible first | refine State.regWrite_kept ?_)
    | dsimp only

theorem execRegLowWordRead_kept {s : State} {who : Who} {off : BitVec 24} {size : Nat} : OKept s (execRegLowWordRead who off size s) := by
  unfold execRegLowWordRead
  have kp := Kept.refl s
  repeat' first
    | (with_reducible first | refine OKept.next ?_ | assumption | refine State.regRead_kept ?_)
    | dsimp only

theorem execRegLowWordWrite_kept {s : State} {who : Who} {off : BitVec 24} {v : W32} : OKept s (execRegLowWordWrite who off v s) := by
  unfold execRegLowWordWrite
  have kp := Kept.refl s
  repeat' first
    | (with_reducible first | refine OKept.next ?_ | refine okept_ite ?_ ?_ | assumption | refine kept_ite ?_ ?_)
    | (with_reducible first | refine State.regWrite_kept ?_)
    | split
    | dsimp only
    | (with_reducible first | refine Kept.upd ?_)

theorem execRegisterWrite_kept {s : State} {who : Who} {off : BitVec 24} {size : Nat} {v : W64} {t : Training} : OKept s (execRegisterWrite who off size v t s) := by
  unfold execRegisterWrite
  have kp := Kept.refl s
  repeat' first
    | (with_reducible first | refine OKept.next ?_ | assumption | refine State.regWrite_kept ?_)
    | dsimp only

theorem execTvPatrol_kept {s : State}  : OKept s (execTvPatrol s) := by
  unfold execTvPatrol
  have kp := Kept.refl s
  repeat' first
    | (with_reducible first | refine OKept.next ?_ | refine okept_ite ?_ ?_ | assumption | refine kept_ite ?_ ?_)
    | (with_reducible first | refine kept_foldl ?_ ?_ | refine kept_foldl_snd ?_ ?_)
    | (with_reducible first | refine kept_foldl_fst ?_ ?_ | refine kept_foldl_snd_eq (by assumption) ?_ ?_)
    | (with_reducible first | refine kept_foldl_fst_eq (by assumption) ?_ ?_ | intro _ _ _ | intro _)
    | (with_reducible first | refine State.regValue_kept ?_ | refine State.regValue_kept_eq (by assumption) ?_)
    | dsimp only

theorem execViolationQueueDrain_kept {s : State} : OKept s (execViolationQueueDrain s) := by
  unfold execViolationQueueDrain
  exact OKept.next (kept_ite (Kept.refl s) (Kept.updViol (fun _ => Nat.zero_le _) (Kept.refl s)))

end Sys2Proof.Machine
end

