-- ==== Sys2Proof/Laws/KeptRepair.lean ====
section
/-! SUPPORT. Every operation of Machine/Repair.lean keeps what every command keeps (`Kept`). -/

namespace Sys2Proof.Machine

theorem State.evacuate_kept {s₀ s : State} {why : MoveWhy} {hit : Nat × Nat → Bool} {ps : List Placement} (kp : Kept s₀ s) :
    Kept s₀ (State.evacuate s why hit ps) := by
  unfold State.evacuate
  repeat' first
    | (with_reducible first | assumption | refine State.addMove_kept ?_)
    | dsimp only

theorem State.repairRow_kept {s₀ s : State} {tier unit row : Nat} {addr : W64} (kp : Kept s₀ s) :
    Kept s₀ (State.repairRow s tier unit row addr) := by
  unfold State.repairRow
  repeat' first
    | (with_reducible first | assumption | refine kept_ite ?_ ?_ | refine State.memoryEvent_kept ?_)
    | (with_reducible first | refine State.evacuate_kept ?_)
    | dsimp only
    | (with_reducible first | refine Kept.upd ?_)

theorem State.channelDue_kept {s₀ s : State} {unit : Nat} (kp : Kept s₀ s) :
    Kept s₀ (State.channelDue s unit) := by
  unfold State.channelDue
  repeat' first
    | (with_reducible first | assumption | refine kept_ite ?_ ?_ | refine State.raise_kept ?_)
    | dsimp only

theorem State.dramUe_kept {s₀ s : State} {tier unit row : Nat} {e : Err} (kp : Kept s₀ s) :
    Kept s₀ (State.dramUe s tier unit row e) := by
  unfold State.dramUe
  repeat' first
    | (with_reducible first | assumption | refine kept_ite ?_ ?_ | refine State.repairRow_kept ?_)
    | (with_reducible first | refine State.channelDue_kept ?_)
    | dsimp only
    | (with_reducible first | refine Kept.upd ?_)

theorem State.dramCe_kept {s₀ s : State} {tier unit row : Nat} {e : Err} (kp : Kept s₀ s) :
    Kept s₀ (State.dramCe s tier unit row e) := by
  unfold State.dramCe
  repeat' first
    | (with_reducible first | assumption | refine kept_ite ?_ ?_ | refine State.repairRow_kept ?_)
    | (with_reducible first | refine State.channelDue_kept ?_)
    | dsimp only
    | (with_reducible first | refine Kept.upd ?_)

theorem State.retireChannel_kept {s₀ s : State} {unit : Nat} (kp : Kept s₀ s) :
    Kept s₀ (State.retireChannel s unit) := by
  unfold State.retireChannel
  repeat' first
    | (with_reducible first | assumption | refine kept_ite ?_ ?_ | refine State.evacuate_kept ?_)
    | dsimp only

theorem State.holdChannel_kept {s₀ s : State} {unit : Nat} (kp : Kept s₀ s) :
    Kept s₀ (State.holdChannel s unit) := by
  unfold State.holdChannel
  repeat' first
    | (with_reducible first | assumption)
    | dsimp only
    | (with_reducible first | refine Kept.upd ?_)

theorem State.recordSram_kept {s₀ s : State} {kind unit idx row : Nat} {addr : W64} (kp : Kept s₀ s) :
    Kept s₀ (State.recordSram s kind unit idx row addr) := by
  unfold State.recordSram
  repeat' first
    | (with_reducible first | assumption | refine kept_ite ?_ ?_ | refine State.memoryEvent_kept ?_)
    | dsimp only
    | (with_reducible first | refine Kept.upd ?_)

theorem State.sramCe_kept {s₀ s : State} {kind unit idx word row : Nat} {e : Err} (kp : Kept s₀ s) :
    Kept s₀ (State.sramCe s kind unit idx word row e) := by
  unfold State.sramCe
  repeat' first
    | (with_reducible first | assumption | refine kept_ite ?_ ?_ | refine State.recordSram_kept ?_)
    | dsimp only
    | (with_reducible first | refine Kept.upd ?_)

theorem State.memoryRepair_kept {s₀ s : State} {e : Err} {now : Bool} (kp : Kept s₀ s) :
    Kept s₀ (State.memoryRepair s e now) := by
  unfold State.memoryRepair
  repeat' first
    | (with_reducible first | assumption | refine kept_ite ?_ ?_ | refine State.repairRow_kept ?_)
    | (with_reducible first | refine State.dramUe_kept ?_ | refine State.dramCe_kept ?_)
    | (with_reducible first | refine State.retireChannel_kept ?_ | refine State.holdChannel_kept ?_)
    | (with_reducible first | refine State.recordSram_kept ?_ | refine State.sramCe_kept ?_)
    | split
    | dsimp only
    | (with_reducible first | refine Kept.upd ?_)

end Sys2Proof.Machine
end

