-- ==== Sys2Proof/Laws/KeptPower.lean ====
section
/-! SUPPORT. Every operation of Machine/Power.lean keeps what every command keeps (`Kept`). -/

namespace Sys2Proof.Machine

theorem State.updPower_kept {s₀ s : State} {f : Power → Power} (kp : Kept s₀ s) :
    Kept s₀ (State.updPower s f) := by
  unfold State.updPower
  repeat' first
    | (with_reducible first | assumption)
    | dsimp only
    | (with_reducible first | refine Kept.upd ?_)

theorem State.setStage_kept {s₀ s : State} {n : Nat} (kp : Kept s₀ s) :
    Kept s₀ (State.setStage s n) := by
  unfold State.setStage
  repeat' first
    | (with_reducible first | assumption | refine State.raise_kept ?_ | refine State.updPower_kept ?_)
    | dsimp only
    | (with_reducible first | refine Kept.upd ?_)

theorem State.ladder_kept {s₀ s : State}  (kp : Kept s₀ s) :
    Kept s₀ (State.ladder s) := by
  unfold State.ladder
  repeat' first
    | (with_reducible first | assumption | refine kept_ite ?_ ?_ | refine kept_foldl ?_ ?_ | intro _ _ _)
    | (with_reducible first | intro _ | refine State.updPower_kept ?_ | refine State.setStage_kept ?_)
    | dsimp only
    | (with_reducible first | refine Kept.upd ?_)

theorem State.powerEvent_kept {s₀ s : State} {who v tj limit : Nat} {reason : Option Nat} (kp : Kept s₀ s) :
    Kept s₀ (State.powerEvent s who v tj limit reason) := by
  unfold State.powerEvent
  repeat' first
    | (with_reducible first | assumption | refine State.bumpFree_kept ?_ | refine State.devEvent_kept ?_)
    | split
    | dsimp only
    | (with_reducible first | refine Kept.upd ?_)

theorem State.setStep_kept {s₀ s : State} {d v : Nat} {reason : Option Nat} (kp : Kept s₀ s) :
    Kept s₀ (State.setStep s d v reason) := by
  unfold State.setStep
  repeat' first
    | (with_reducible first | assumption | refine kept_ite ?_ ?_ | refine State.updPower_kept ?_)
    | (with_reducible first | refine State.powerEvent_kept ?_)
    | dsimp only
    | (with_reducible first | refine Kept.upd ?_)

theorem State.setK_kept {s₀ s : State} {v : Nat} {reason : Option Nat} (kp : Kept s₀ s) :
    Kept s₀ (State.setK s v reason) := by
  unfold State.setK
  repeat' first
    | (with_reducible first | assumption | refine kept_ite ?_ ?_ | refine State.updPower_kept ?_)
    | (with_reducible first | refine State.powerEvent_kept ?_)
    | dsimp only
    | (with_reducible first | refine Kept.upd ?_)

theorem State.guardSteps_kept {s₀ s : State}  (kp : Kept s₀ s) :
    Kept s₀ (State.guardSteps s) := by
  unfold State.guardSteps
  repeat' first
    | (with_reducible first | assumption | refine kept_foldl ?_ ?_ | intro _ _ _ | intro _)
    | (with_reducible first | refine State.setStep_kept ?_)
    | dsimp only

theorem State.diePass_kept {s₀ s : State} {d : Nat} (kp : Kept s₀ s) :
    Kept s₀ (State.diePass s d) := by
  unfold State.diePass
  repeat' first
    | (with_reducible first | assumption | refine kept_ite ?_ ?_ | refine State.setStep_kept ?_)
    | dsimp only

theorem State.packagePass_kept {s₀ s : State}  (kp : Kept s₀ s) :
    Kept s₀ (State.packagePass s) := by
  unfold State.packagePass
  repeat' first
    | (with_reducible first | assumption | refine kept_ite ?_ ?_ | refine State.setK_kept ?_)
    | dsimp only

theorem State.busRecords_kept {s₀ s : State} {t : Telemetry} (kp : Kept s₀ s) :
    Kept s₀ (State.busRecords s t) := by
  unfold State.busRecords
  repeat' first
    | (with_reducible first | assumption | refine kept_foldl ?_ ?_ | intro _ _ _ | intro _)
    | (with_reducible first | refine State.directRecord_kept ?_ | refine State.updPower_kept ?_)
    | dsimp only
    | (with_reducible first | refine Kept.upd ?_)

theorem execPowerLoopPass_kept {s : State} {t : Telemetry} : OKept s (execPowerLoopPass t s) := by
  unfold execPowerLoopPass
  have kp := Kept.refl s
  repeat' first
    | (with_reducible first | refine OKept.next ?_ | refine okept_ite ?_ ?_ | assumption | refine kept_ite ?_ ?_)
    | (with_reducible first | refine kept_foldl ?_ ?_ | intro _ _ _ | intro _ | refine State.updPower_kept ?_)
    | (with_reducible first | refine State.ladder_kept ?_ | refine State.diePass_kept ?_)
    | (with_reducible first | refine State.packagePass_kept ?_ | refine State.busRecords_kept ?_)
    | dsimp only
    | (with_reducible first | refine Kept.upd ?_)

theorem execPowerSet_kept {s : State} {q : Req} : OKept s (execPowerSet q s) := by
  unfold execPowerSet
  have kp := Kept.refl s
  repeat' first
    | (with_reducible first | intro _ _ | refine OKept.next ?_ | assumption | refine State.reply_kept ?_)
    | (with_reducible first | refine State.commandWith_kept ?_ ?_ | refine State.updPower_kept ?_)
    | dsimp only
    | (with_reducible first | refine Kept.upd ?_)

theorem execPowerRead_kept {s : State} {q : Req} : OKept s (execPowerRead q s) := by
  unfold execPowerRead
  have kp := Kept.refl s
  repeat' first
    | (with_reducible first | intro _ _ | refine OKept.next ?_ | assumption | refine State.reply_kept ?_)
    | (with_reducible first | refine State.commandWith_kept ?_ ?_)
    | dsimp only

theorem State.brakeOn_kept {s₀ s : State}  (kp : Kept s₀ s) :
    Kept s₀ (State.brakeOn s) := by
  unfold State.brakeOn
  repeat' first
    | (with_reducible first | assumption | refine kept_ite ?_ ?_ | refine State.raise_kept ?_)
    | (with_reducible first | refine State.setK_kept ?_ | refine State.guardSteps_kept ?_)
    | dsimp only
    | (with_reducible first | refine Kept.upd ?_)

theorem execPwrBrakeAssert_kept {s : State}  : OKept s (execPwrBrakeAssert s) := by
  unfold execPwrBrakeAssert
  have kp := Kept.refl s
  repeat' first
    | (with_reducible first | refine OKept.next ?_ | refine okept_ite ?_ ?_ | assumption | refine kept_ite ?_ ?_)
    | (with_reducible first | refine State.brakeOn_kept ?_)
    | dsimp only
    | (with_reducible first | refine Kept.upd ?_)

theorem execPwrBrakeRelease_kept {s : State}  : OKept s (execPwrBrakeRelease s) := by
  unfold execPwrBrakeRelease
  have kp := Kept.refl s
  repeat' first
    | (with_reducible first | refine OKept.next ?_ | refine okept_ite ?_ ?_ | assumption | refine kept_ite ?_ ?_)
    | dsimp only
    | (with_reducible first | refine Kept.upd ?_)

theorem State.depart_kept {s₀ s : State}  (kp : Kept s₀ s) :
    Kept s₀ (State.depart s) := by
  unfold State.depart
  repeat' first
    | (with_reducible first | assumption | refine kept_ite ?_ ?_ | refine kept_foldl ?_ ?_ | intro _ _ _)
    | (with_reducible first | intro _ | refine State.updEvr_kept ?_ | refine State.raise_kept ?_)
    | (with_reducible first | refine State.stew_kept ?_)
    | dsimp only
    | (with_reducible first | refine Kept.upd ?_)

theorem execTrayLatchAssert_kept {s : State}  : OKept s (execTrayLatchAssert s) := by
  unfold execTrayLatchAssert
  have kp := Kept.refl s
  repeat' first
    | (with_reducible first | refine OKept.next ?_ | refine okept_ite ?_ ?_ | assumption | refine kept_ite ?_ ?_)
    | (with_reducible first | refine State.depart_kept ?_)
    | dsimp only
    | (with_reducible first | refine Kept.upd ?_)

theorem execTrayLatchRelease_kept {s : State}  : OKept s (execTrayLatchRelease s) := by
  unfold execTrayLatchRelease
  have kp := Kept.refl s
  repeat' first
    | (with_reducible first | refine OKept.next ?_ | refine okept_ite ?_ ?_ | assumption | refine kept_ite ?_ ?_)
    | dsimp only
    | (with_reducible first | refine Kept.upd ?_)

theorem execSidebandChatter_kept {s : State} {pin : BitVec 2} : OKept s (execSidebandChatter pin s) := by
  unfold execSidebandChatter
  have kp := Kept.refl s
  repeat' first
    | (with_reducible first | refine OKept.next ?_ | refine okept_ite ?_ ?_ | assumption | refine kept_ite ?_ ?_)
    | (with_reducible first | refine State.raise_kept ?_ | refine State.coldReset_kept ?_)
    | (with_reducible first | refine State.brakeOn_kept ?_ | refine State.depart_kept ?_)
    | split
    | dsimp only
    | (with_reducible first | refine Kept.upd ?_)

theorem execChatterEnd_kept {s : State} {pin : BitVec 2} : OKept s (execChatterEnd pin s) := by
  unfold execChatterEnd
  have kp := Kept.refl s
  repeat' first
    | (with_reducible first | refine OKept.next ?_ | refine okept_ite ?_ ?_ | assumption | refine kept_ite ?_ ?_)
    | split
    | dsimp only
    | (with_reducible first | refine Kept.upd ?_)

theorem execSidebandHeldReport_kept {s : State} {pin : BitVec 2} : OKept s (execSidebandHeldReport pin s) := by
  unfold execSidebandHeldReport
  have kp := Kept.refl s
  repeat' first
    | (with_reducible first | refine OKept.next ?_ | refine okept_ite ?_ ?_ | assumption | refine kept_ite ?_ ?_)
    | (with_reducible first | refine State.raise_kept ?_)
    | split
    | dsimp only
    | (with_reducible first | refine Kept.upd ?_)

theorem execThermTrip_kept {s : State} {d : DieId} : OKept s (execThermTrip d s) := by
  unfold execThermTrip
  have kp := Kept.refl s
  repeat' first
    | (with_reducible first | refine OKept.next ?_ | refine okept_ite ?_ ?_ | assumption | refine kept_ite ?_ ?_)
    | (with_reducible first | refine State.raise_kept ?_ | refine State.guardSteps_kept ?_)
    | dsimp only
    | (with_reducible first | refine Kept.upd ?_)

end Sys2Proof.Machine
end

