-- ==== Sys2Proof/Laws/KeptBmc.lean ====
section
/-! SUPPORT. Every operation of Machine/Bmc.lean keeps what every command keeps (`Kept`). -/

namespace Sys2Proof.Machine

theorem State.ackPushed_kept {s₀ s : State}  (kp : Kept s₀ s) :
    Kept s₀ (State.ackPushed s) := by
  unfold State.ackPushed
  repeat' first
    | (with_reducible first | assumption | refine kept_ite ?_ ?_ | refine State.updEvr_kept ?_)
    | (with_reducible first | refine State.updI3c_kept ?_)
    | dsimp only
    | (with_reducible first | refine Kept.upd ?_)

theorem State.ackSupplied_kept {s₀ s : State}  (kp : Kept s₀ s) :
    Kept s₀ (State.ackSupplied s) := by
  unfold State.ackSupplied
  repeat' first
    | (with_reducible first | assumption | refine kept_ite ?_ ?_ | refine State.updI3c_kept ?_)
    | (with_reducible first | refine State.recordReady_kept ?_ | refine State.recordMissing_kept ?_)
    | split
    | dsimp only
    | (with_reducible first | refine Kept.upd ?_)

theorem State.ackStored_kept {s₀ s : State}  (kp : Kept s₀ s) :
    Kept s₀ (State.ackStored s) := by
  unfold State.ackStored
  repeat' first
    | (with_reducible first | assumption | refine kept_ite ?_ ?_ | refine State.recordStored_kept ?_)
    | dsimp only

theorem State.coolantWrite_kept {s₀ s : State} {v : W32} (kp : Kept s₀ s) :
    Kept s₀ (State.coolantWrite s v) := by
  unfold State.coolantWrite
  repeat' first
    | (with_reducible first | assumption | refine kept_ite ?_ ?_ | refine State.updI3c_kept ?_)
    | (with_reducible first | refine State.raise_kept ?_)
    | dsimp only
    | (with_reducible first | refine Kept.upd ?_)

theorem State.recordPut_kept {s₀ s : State} {off : Nat} {data : List Byte} (kp : Kept s₀ s) :
    Kept s₀ (State.recordPut s off data) := by
  unfold State.recordPut
  repeat' first
    | (with_reducible first | assumption | refine State.updI3c_kept ?_)
    | dsimp only
    | (with_reducible first | refine Kept.upd ?_)

theorem State.bmcWrite_kept {s₀ s : State} {off : Nat} {data : List Byte} (kp : Kept s₀ s) :
    Kept s₀ (State.bmcWrite s off data) := by
  unfold State.bmcWrite
  repeat' first
    | (with_reducible first | assumption | refine kept_ite ?_ ?_ | refine State.ackPushed_kept ?_)
    | (with_reducible first | refine State.ackSupplied_kept ?_ | refine State.ackStored_kept ?_)
    | (with_reducible first | refine State.coolantWrite_kept ?_ | refine State.recordPut_kept ?_)
    | split
    | dsimp only
    | (with_reducible first | refine Kept.upd ?_)

theorem execI3cPrivateWrite_kept {s : State} {off : BitVec 24} {data : List Byte} : OKept s (execI3cPrivateWrite off data s) := by
  unfold execI3cPrivateWrite
  have kp := Kept.refl s
  repeat' first
    | (with_reducible first | refine OKept.next ?_ | refine okept_ite ?_ ?_ | assumption | refine kept_ite ?_ ?_)
    | (with_reducible first | refine State.updI3c_kept ?_ | refine State.reply_kept ?_)
    | (with_reducible first | refine State.bmcWrite_kept ?_)
    | dsimp only
    | (with_reducible first | refine Kept.upd ?_)

theorem execBmcPushInterrupt_kept {s : State}  : OKept s (execBmcPushInterrupt s) := by
  unfold execBmcPushInterrupt
  have kp := Kept.refl s
  repeat' first
    | (with_reducible first | refine OKept.next ?_ | refine okept_ite ?_ ?_ | assumption | refine kept_ite ?_ ?_)
    | (with_reducible first | refine State.ibi_kept ?_)
    | dsimp only

theorem execBmcAckPushed_kept {s : State}  : OKept s (execBmcAckPushed s) := by
  unfold execBmcAckPushed
  have kp := Kept.refl s
  repeat' first
    | (with_reducible first | refine OKept.next ?_ | assumption | refine State.ackPushed_kept ?_)
    | dsimp only

theorem execBmcAckSupplied_kept {s : State}  : OKept s (execBmcAckSupplied s) := by
  unfold execBmcAckSupplied
  have kp := Kept.refl s
  repeat' first
    | (with_reducible first | refine OKept.next ?_ | assumption | refine State.ackSupplied_kept ?_)
    | dsimp only

theorem execBmcAckStored_kept {s : State}  : OKept s (execBmcAckStored s) := by
  unfold execBmcAckStored
  have kp := Kept.refl s
  repeat' first
    | (with_reducible first | refine OKept.next ?_ | assumption | refine State.ackStored_kept ?_)
    | dsimp only

theorem execBmcCoolantWrite_kept {s : State} {v : W32} : OKept s (execBmcCoolantWrite v s) := by
  unfold execBmcCoolantWrite
  have kp := Kept.refl s
  repeat' first
    | (with_reducible first | refine OKept.next ?_ | refine okept_ite ?_ ?_ | assumption | refine kept_ite ?_ ?_)
    | (with_reducible first | refine State.coolantWrite_kept ?_)
    | dsimp only

theorem execCoolantAbsent_kept {s : State}  : OKept s (execCoolantAbsent s) := by
  unfold execCoolantAbsent
  have kp := Kept.refl s
  repeat' first
    | (with_reducible first | refine OKept.next ?_ | refine okept_ite ?_ ?_ | assumption | refine kept_ite ?_ ?_)
    | (with_reducible first | refine State.raise_kept ?_)
    | dsimp only
    | (with_reducible first | refine Kept.upd ?_)

theorem State.assign_kept {s₀ s : State} {a : BitVec 7} (kp : Kept s₀ s) :
    Kept s₀ (State.assign s a) := by
  unfold State.assign
  repeat' first
    | (with_reducible first | assumption | refine State.updI3c_kept ?_)
    | dsimp only
    | (with_reducible first | refine Kept.upd ?_)

theorem execEntdaa_kept {s : State} {addr : BitVec 7} : OKept s (execEntdaa addr s) := by
  unfold execEntdaa
  have kp := Kept.refl s
  repeat' first
    | (with_reducible first | refine OKept.next ?_ | refine okept_ite ?_ ?_ | assumption | refine kept_ite ?_ ?_)
    | (with_reducible first | refine State.assign_kept ?_)
    | dsimp only

theorem execSetdasa_kept {s : State} {static addr : BitVec 7} : OKept s (execSetdasa static addr s) := by
  unfold execSetdasa
  have kp := Kept.refl s
  repeat' first
    | (with_reducible first | refine OKept.next ?_ | refine okept_ite ?_ ?_ | assumption | refine kept_ite ?_ ?_)
    | (with_reducible first | refine State.assign_kept ?_)
    | dsimp only

theorem execRstdaa_kept {s : State}  : OKept s (execRstdaa s) := by
  unfold execRstdaa
  have kp := Kept.refl s
  repeat' first
    | (with_reducible first | refine OKept.next ?_ | refine okept_ite ?_ ?_ | assumption | refine kept_ite ?_ ?_)
    | (with_reducible first | refine State.updI3c_kept ?_)
    | dsimp only
    | (with_reducible first | refine Kept.upd ?_)

theorem State.setEvents_kept {s₀ s : State} {e : Byte} {on : Bool} (kp : Kept s₀ s) :
    Kept s₀ (State.setEvents s e on) := by
  unfold State.setEvents
  repeat' first
    | (with_reducible first | assumption | refine kept_ite ?_ ?_ | refine State.updI3c_kept ?_)
    | dsimp only
    | (with_reducible first | refine Kept.upd ?_)

theorem execEnec_kept {s : State} {events : Byte} : OKept s (execEnec events s) := by
  unfold execEnec
  have kp := Kept.refl s
  repeat' first
    | (with_reducible first | refine OKept.next ?_ | refine okept_ite ?_ ?_ | assumption | refine kept_ite ?_ ?_)
    | (with_reducible first | refine State.setEvents_kept ?_)
    | dsimp only

theorem execDisec_kept {s : State} {events : Byte} : OKept s (execDisec events s) := by
  unfold execDisec
  have kp := Kept.refl s
  repeat' first
    | (with_reducible first | refine OKept.next ?_ | refine okept_ite ?_ ?_ | assumption | refine kept_ite ?_ ?_)
    | (with_reducible first | refine State.setEvents_kept ?_)
    | dsimp only

theorem State.cccReply_kept {s₀ s : State} {b : List Byte} (kp : Kept s₀ s) :
    Kept s₀ (State.cccReply s b) := by
  unfold State.cccReply
  repeat' first
    | (with_reducible first | assumption | refine kept_ite ?_ ?_ | refine State.updI3c_kept ?_)
    | (with_reducible first | refine State.reply_kept ?_)
    | dsimp only
    | (with_reducible first | refine Kept.upd ?_)

theorem execGetstatus_kept {s : State}  : OKept s (execGetstatus s) := by
  unfold execGetstatus
  have kp := Kept.refl s
  repeat' first
    | (with_reducible first | refine OKept.next ?_ | assumption | refine State.bumpFree_kept ?_)
    | (with_reducible first | refine State.cccReply_kept ?_)
    | dsimp only

theorem execGetpid_kept {s : State}  : OKept s (execGetpid s) := by
  unfold execGetpid
  have kp := Kept.refl s
  repeat' first
    | (with_reducible first | refine OKept.next ?_ | assumption | refine State.cccReply_kept ?_)
    | dsimp only

theorem execGetbcr_kept {s : State}  : OKept s (execGetbcr s) := by
  unfold execGetbcr
  have kp := Kept.refl s
  repeat' first
    | (with_reducible first | refine OKept.next ?_ | assumption | refine State.cccReply_kept ?_)
    | dsimp only

theorem execGetdcr_kept {s : State}  : OKept s (execGetdcr s) := by
  unfold execGetdcr
  have kp := Kept.refl s
  repeat' first
    | (with_reducible first | refine OKept.next ?_ | assumption | refine State.cccReply_kept ?_)
    | dsimp only

theorem execGetmxds_kept {s : State}  : OKept s (execGetmxds s) := by
  unfold execGetmxds
  have kp := Kept.refl s
  repeat' first
    | (with_reducible first | refine OKept.next ?_ | assumption | refine State.cccReply_kept ?_)
    | dsimp only

end Sys2Proof.Machine
end

