-- ==== Sys2Proof/Laws/KeptError.lean ====
section
/-! SUPPORT. Every operation of Machine/Error.lean keeps what every command keeps (`Kept`). -/

namespace Sys2Proof.Machine

theorem State.failFor_kept {s₀ s : State} {e : Err} (kp : Kept s₀ s) :
    Kept s₀ (State.failFor s e) := by
  unfold State.failFor
  repeat' first
    | (with_reducible first | assumption | refine kept_ite ?_ ?_ | refine kept_foldl ?_ ?_ | intro _ _ _)
    | (with_reducible first | intro _ | refine State.updRoom_kept ?_ | refine State.failContext_kept ?_)
    | dsimp only
    | (with_reducible first | refine Kept.upd ?_)

theorem State.failHolders_kept {s₀ s : State} {e : Err} (kp : Kept s₀ s) :
    Kept s₀ (State.failHolders s e) := by
  unfold State.failHolders
  repeat' first
    | (with_reducible first | assumption | refine kept_ite ?_ ?_ | refine kept_foldl ?_ ?_ | intro _ _ _)
    | (with_reducible first | intro _ | refine State.updRoom_kept ?_ | refine State.failContext_kept ?_)
    | dsimp only
    | (with_reducible first | refine Kept.upd ?_)

theorem State.actOn_kept {s₀ s : State} {e : Err} {sev : Nat} (kp : Kept s₀ s) :
    Kept s₀ (State.actOn s e sev) := by
  unfold State.actOn
  repeat' first
    | (with_reducible first | assumption | refine kept_ite ?_ ?_ | refine State.memoryRepair_kept ?_)
    | (with_reducible first | refine State.failFor_kept ?_ | refine State.failHolders_kept ?_)
    | dsimp only

theorem execErrorEpisode_kept {s : State} {took : W64} : OKept s (execErrorEpisode took s) := by
  unfold execErrorEpisode
  extract_lets busy
  clear_value busy
  refine OKept.next ?_
  split
  · exact Kept.refl s
  · rename_i e rest h
    refine kept_ite (Kept.refl s) ?_
    extract_lets a nest ep b act
    have kb : Kept s b := Kept.upd (Kept.updErr (fun k => by rw [h] at k; simp only [List.length_cons] at k; omega) (Kept.refl s))
    have ha (t : State) (sev : Nat) (k : Kept s t) : Kept s (act t sev) := kept_ite k (State.actOn_kept k)
    clear_value act b nest
    refine kept_ite (State.writeRecord_kept kb) ?_
    cases nest
    rotate_left
    · exact kept_ite (Kept.upd kb) (ha _ _ (State.writeRecord_kept kb))
    · exact ha _ _ (State.writeRecord_kept kb)

theorem execErrorArrival_kept {s : State} {e : Err} : OKept s (execErrorArrival e s) := by
  unfold execErrorArrival
  have kp := Kept.refl s
  repeat' first
    | (with_reducible first | refine OKept.next ?_ | refine okept_ite ?_ ?_ | assumption | refine kept_ite ?_ ?_)
    | (with_reducible first | refine State.markPoison_kept ?_ | refine State.updRoom_kept ?_)
    | (with_reducible first | refine State.raise_kept ?_)
    | split
    | dsimp only
    | (with_reducible first | refine Kept.upd ?_)

theorem execOverflowSweep_kept {s : State}  : OKept s (execOverflowSweep s) := by
  unfold execOverflowSweep
  have kp := Kept.refl s
  repeat' first
    | (with_reducible first | refine OKept.next ?_ | refine okept_ite ?_ ?_ | assumption | refine kept_ite ?_ ?_)
    | (with_reducible first | refine kept_foldl ?_ ?_ | intro _ _ _ | intro _ | refine State.raise_kept ?_)
    | (with_reducible first | refine State.writeRecord_kept ?_)
    | dsimp only
    | (with_reducible first | refine Kept.upd ?_)

theorem State.stopUnits_kept {s₀ s : State}  (kp : Kept s₀ s) :
    Kept s₀ (State.stopUnits s) := by
  unfold State.stopUnits
  repeat' first
    | (with_reducible first | assumption)
    | dsimp only
    | (with_reducible first | refine Kept.upd ?_)

theorem State.fatalRecords_kept {s₀ s : State} {e : Err} (kp : Kept s₀ s) : Kept s₀ (State.fatalRecords s e) := by
  unfold State.fatalRecords
  extract_lets same queue a b
  have ka : Kept s₀ a := kept_foldl (fun _ _ h => State.writeRecord_kept h) kp
  have kb : Kept s₀ b := by
    clear_value a
    unfold b
    split <;> exact State.writeRecord_kept ka
  clear_value b
  exact State.updEvr_kept (Kept.updErr (fun _ => Nat.zero_le _) kb)

theorem execFatalLatch_kept {s : State} {hostOk : Bool} : OKept s (execFatalLatch hostOk s) := by
  unfold execFatalLatch
  have kp := Kept.refl s
  repeat' first
    | (with_reducible first | refine OKept.next ?_ | refine okept_ite ?_ ?_ | assumption | refine kept_ite ?_ ?_)
    | (with_reducible first | refine State.updI3c_kept ?_ | refine State.raiseVec_kept ?_)
    | (with_reducible first | refine State.hostPush_kept ?_ | refine State.ibi_kept ?_)
    | (with_reducible first | refine State.startFail_kept ?_ | refine State.stopUnits_kept ?_)
    | (with_reducible first | refine State.fatalRecords_kept ?_)
    | split
    | dsimp only
    | (with_reducible first | refine Kept.upd ?_)

end Sys2Proof.Machine
end

