-- ==== Sys2Proof/Laws/KeptStudy.lean ====
section
/-! SUPPORT. Every operation of Machine/Study.lean keeps what every command keeps (`Kept`). -/

namespace Sys2Proof.Machine

theorem execHello_kept {s : State} {q : Req} : OKept s (execHello q s) := by
  unfold execHello
  have kp := Kept.refl s
  repeat' first
    | (with_reducible first | intro _ _ | refine OKept.next ?_ | refine okept_ite ?_ ?_ | assumption)
    | (with_reducible first | refine kept_ite ?_ ?_ | refine State.updLbx_kept ?_ | refine State.reply_kept ?_)
    | (with_reducible first | refine State.commandWith_kept ?_ ?_ | refine State.ringFlush_kept ?_)
    | (with_reducible first | refine State.startFail_kept ?_)
    | dsimp only
    | (with_reducible first | refine Kept.upd ?_)

theorem State.setParam_kept {s₀ s : State} {pid : Nat} {c : CtxId} {qual v : Nat} (kp : Kept s₀ s) :
    Kept s₀ (State.setParam s pid c qual v) := by
  unfold State.setParam
  repeat' first
    | (with_reducible first | assumption | refine kept_ite ?_ ?_ | refine State.updCtx_kept ?_)
    | split
    | dsimp only
    | (with_reducible first | refine Kept.upd ?_)

theorem State.paramCmd_kept {s₀ s : State} {q : Req} {op : Nat} {set : Bool} (kp : Kept s₀ s) :
    Kept s₀ (State.paramCmd s q op set) := by
  unfold State.paramCmd
  repeat' first
    | (with_reducible first | intro _ _ | assumption | refine kept_ite ?_ ?_ | refine State.reply_kept ?_)
    | (with_reducible first | refine State.badReq_kept ?_ | refine State.commandWith_kept ?_ ?_)
    | (with_reducible first | refine State.setParam_kept ?_)
    | dsimp only

theorem execParamGet_kept {s : State} {q : Req} : OKept s (execParamGet q s) := by
  unfold execParamGet
  have kp := Kept.refl s
  repeat' first
    | (with_reducible first | refine OKept.next ?_ | assumption | refine State.paramCmd_kept ?_)
    | dsimp only

theorem execParamSet_kept {s : State} {q : Req} : OKept s (execParamSet q s) := by
  unfold execParamSet
  have kp := Kept.refl s
  repeat' first
    | (with_reducible first | refine OKept.next ?_ | assumption | refine State.paramCmd_kept ?_)
    | dsimp only

theorem execDiagRead_kept {s : State} {q : Req} : OKept s (execDiagRead q s) := by
  unfold execDiagRead
  have kp := Kept.refl s
  repeat' first
    | (with_reducible first | intro _ _ | refine OKept.next ?_ | assumption | refine State.reply_kept ?_)
    | (with_reducible first | refine State.commandWith_kept ?_ ?_ | refine State.lbxFault_kept ?_)
    | dsimp only

theorem execStartReport_kept {s : State} {q : Req} : OKept s (execStartReport q s) := by
  unfold execStartReport
  have kp := Kept.refl s
  repeat' first
    | (with_reducible first | intro _ _ | refine OKept.next ?_ | assumption | refine State.reply_kept ?_)
    | (with_reducible first | refine State.commandWith_kept ?_ ?_)
    | dsimp only

theorem State.bufCmd_kept {s₀ s : State} {q : Req} {op : Nat} {more : List (Nat × Nat × Nat)} {f : State → State} (hf : ∀ s, Kept s₀ s → Kept s₀ (f s))  (kp : Kept s₀ s) :
    Kept s₀ (State.bufCmd s q op more f) := by
  unfold State.bufCmd
  repeat' first
    | (with_reducible first | intro _ _ | assumption | refine State.commandWith_kept ?_ ?_ | apply hf)
    | (with_reducible first | exact PKept.pure kp | refine PKept.pure ?_ | refine PKept.throw ?_)
    | (with_reducible first | refine PKept.modify ?_ | refine PKept.set ?_ | refine PKept.getBind ?_)
    | (with_reducible first | refine PKept.get ?_ | refine PKept.map ?_ | refine PKept.ite ?_ ?_)
    | (with_reducible first | refine PKept.bind ?_ ?_ | refine PKept.forM ?_ ?_ | intro _ _ _)
    | (with_reducible first | refine PKept.ok (by assumption) ?_ | refine PKept.error (by assumption) ?_)
    | (with_reducible first | intro _)
    | dsimp only

theorem execRepairListGet_kept {s : State} {q : Req} {hostOk : Bool} : OKept s (execRepairListGet q hostOk s) := by
  unfold execRepairListGet
  have kp := Kept.refl s
  repeat' first
    | (with_reducible first | refine OKept.next ?_ | refine okept_ite ?_ ?_ | assumption | refine kept_ite ?_ ?_)
    | (with_reducible first | intro _ _  | refine State.write_kept ?_ | refine State.reply_kept ?_)
    | (with_reducible first | refine State.bufCmd_kept ?_ ?_)
    | dsimp only

theorem State.applyEntry_kept {s₀ s : State} {b : List Byte} (kp : Kept s₀ s) :
    Kept s₀ (State.applyEntry s b).1 := by
  unfold State.applyEntry
  repeat' first
    | (with_reducible first | assumption | refine kept_ite ?_ ?_)
    | split
    | dsimp only
    | (with_reducible first | refine Kept.upd ?_)

theorem State.applyEntry_kept_eq {s₀ s x₀ : State} {b : List Byte} {y1}
    (e₀ : State.applyEntry s b = (x₀, y1)) (kp : Kept s₀ s) : Kept s₀ x₀ := by
  have k := @State.applyEntry_kept s₀ s b  kp
  rw [e₀] at k; exact k

theorem execRepairListPut_kept {s : State} {q : Req} {hostOk : Bool} : OKept s (execRepairListPut q hostOk s) := by
  unfold execRepairListPut
  have kp := Kept.refl s
  repeat' first
    | (with_reducible first | refine OKept.next ?_ | refine okept_ite ?_ ?_ | assumption | refine kept_ite ?_ ?_)
    | (with_reducible first | refine kept_foldl ?_ ?_ | refine kept_foldl_snd ?_ ?_)
    | (with_reducible first | refine kept_foldl_fst ?_ ?_ | refine kept_foldl_snd_eq (by assumption) ?_ ?_)
    | (with_reducible first | refine kept_foldl_fst_eq (by assumption) ?_ ?_ | intro _ _ _ | intro _)
    | (with_reducible first | intro _ _  | refine State.raise_kept ?_ | refine State.reply_kept ?_)
    | (with_reducible first | refine State.badReq_kept ?_ | refine State.applySram_kept ?_)
    | (with_reducible first | refine State.bufCmd_kept ?_ ?_ | refine State.applyEntry_kept ?_)
    | (with_reducible first | refine State.applyEntry_kept_eq (by assumption) ?_)
    | split
    | dsimp only

theorem execAttest_kept {s : State} {q : Req} {hostOk : Bool} : OKept s (execAttest q hostOk s) := by
  unfold execAttest
  have kp := Kept.refl s
  repeat' first
    | (with_reducible first | refine OKept.next ?_ | refine okept_ite ?_ ?_ | assumption | refine kept_ite ?_ ?_)
    | (with_reducible first | intro _ _  | refine State.write_kept ?_ | refine State.reply_kept ?_)
    | (with_reducible first | refine State.bufCmd_kept ?_ ?_)
    | dsimp only

end Sys2Proof.Machine
end

