-- ==== Sys2Proof/Laws/Vec.lean ====
section
/-! SUPPORT. The registers of the vector engine, and what the sequencer leaves alone when it moves on. -/

namespace Sys2Proof.Machine

/-! ## Registers -/

theorem lane_lt (x : Room) (n i : Nat) : x.lane n i < 2 ^ 32 := BitVec.isLt _

theorem lane_setV (x : Room) (n m i : Nat) (ls : List Nat) (hi : i < 64) :
    (x.setV n ls).lane m i = if m = n then ls.getD i 0 % 2 ^ 32 else x.lane m i := by
  simp only [Room.lane, Room.setV, mapGet_mapSet]
  split
  · simp [hi]
  · rfl

@[simp] theorem gReg_setV (x : Room) (n k : Nat) (ls : List Nat) : (x.setV n ls).gReg k = x.gReg k := rfl
@[simp] theorem pReg_setV (x : Room) (n k : Nat) (ls : List Nat) : (x.setV n ls).pReg k = x.pReg k := rfl
@[simp] theorem cnt_setV (x : Room) (n : Nat) (ls : List Nat) : (x.setV n ls).ve.cnt = x.ve.cnt := rfl
@[simp] theorem active_setV (x : Room) (n : Nat) (ls : List Nat) : (x.setV n ls).active? = x.active? := rfl

theorem gReg_setG (x : Room) (n v k : Nat) : (x.setG n v).gReg k = gNew x n v k := by
  unfold Room.setG gNew
  split
  · simp_all
  · simp only [Room.gReg, mapGet_mapSet]
    split
    · split <;> simp_all
    · split
      · simp_all
      · rw [if_neg (by simp_all)]

theorem pReg_setP (x : Room) (n v k : Nat) : (x.setP n v).pReg k = pNew x n v k := by
  unfold Room.setP pNew
  split
  · simp_all
  · simp only [Room.pReg, mapGet_mapSet]
    split
    · split <;> simp_all
    · split
      · simp_all
      · rw [if_neg (by simp_all)]

@[simp] theorem lane_setG (x : Room) (n v m i : Nat) : (x.setG n v).lane m i = x.lane m i := by
  unfold Room.setG; split <;> rfl
@[simp] theorem pReg_setG (x : Room) (n v m : Nat) : (x.setG n v).pReg m = x.pReg m := by
  unfold Room.setG; split <;> rfl
@[simp] theorem cnt_setG (x : Room) (n v : Nat) : (x.setG n v).ve.cnt = x.ve.cnt := by
  unfold Room.setG; split <;> rfl
@[simp] theorem lane_setP (x : Room) (n v m i : Nat) : (x.setP n v).lane m i = x.lane m i := by
  unfold Room.setP; split <;> rfl
@[simp] theorem gReg_setP (x : Room) (n v m : Nat) : (x.setP n v).gReg m = x.gReg m := by
  unfold Room.setP; split <;> rfl
@[simp] theorem cnt_setP (x : Room) (n v : Nat) : (x.setP n v).ve.cnt = x.ve.cnt := by
  unfold Room.setP; split <;> rfl
@[simp] theorem lane_count (x : Room) (a b c d e m i : Nat) : (x.count a b c d e).lane m i = x.lane m i := rfl
@[simp] theorem gReg_count (x : Room) (a b c d e m : Nat) : (x.count a b c d e).gReg m = x.gReg m := rfl
@[simp] theorem pReg_count (x : Room) (a b c d e m : Nat) : (x.count a b c d e).pReg m = x.pReg m := rfl
@[simp] theorem cnt_count (x : Room) (a b c d e : Nat) : (x.count a b c d e).ve.cnt = addCnt x.ve.cnt a b c d e := rfl

@[simp] theorem gNew_self (x : Room) : gNew x 0 0 = x.gReg := by
  funext k; simp [gNew]
@[simp] theorem pNew_self (x : Room) : pNew x 0 0 = x.pReg := by
  funext k; simp [pNew]

/-! ## Moving on -/

theorem SeqRoom.refl (x : Room) : SeqRoom x x := rfl

theorem SeqRoom.trans {x y z : Room} (h : SeqRoom x y) (k : SeqRoom y z) : SeqRoom x z := by
  unfold SeqRoom at *
  rw [k, h]

theorem RoomFrame.refl (s : State) (r : RoomId) : RoomFrame s s r := ⟨fun _ _ => rfl, rfl⟩

theorem RoomFrame.trans {s t u : State} {r : RoomId} (h : RoomFrame s t r) (k : RoomFrame t u r) : RoomFrame s u r := by
  refine ⟨fun q hq => (k.others q hq).trans (h.others q hq), ?_⟩
  rw [k.rest, h.rest]

theorem SeqFrame.refl (s : State) (r : RoomId) : SeqFrame s s r := ⟨rfl, rfl, rfl, rfl, rfl, rfl, rfl, rfl, .refl s r⟩

theorem SeqFrame.trans {s t u : State} {r : RoomId} (h : SeqFrame s t r) (k : SeqFrame t u r) : SeqFrame s u r :=
  ⟨k.lanes.trans h.lanes, k.scalars.trans h.scalars, k.preds.trans h.preds, k.counters.trans h.counters,
    k.memory.trans h.memory, k.poison.trans h.poison, k.free.trans h.free, h.room.trans k.room, h.frame.trans k.frame⟩

theorem roomFrame_updRoom (s : State) (r : RoomId) (f : Room → Room) : RoomFrame s (s.updRoom r f) r :=
  ⟨fun q hq => by rw [room_updRoom, if_neg hq], rfl⟩

theorem seqFrame_updRoom (s : State) (r : RoomId) (f : Room → Room) (hv : (f (s.room r)).ve.v = (s.room r).ve.v)
    (hg : (f (s.room r)).ve.g = (s.room r).ve.g) (hp : (f (s.room r)).ve.p = (s.room r).ve.p)
    (hc : (f (s.room r)).ve.cnt = (s.room r).ve.cnt) (hr : SeqRoom (s.room r) (f (s.room r))) :
    SeqFrame s (s.updRoom r f) r :=
  ⟨by simpa, by simpa, by simpa, by simpa, rfl, rfl, rfl, by simpa, roomFrame_updRoom s r f⟩

/-- An error that is not FATAL changes the error queue and its counts only. -/
theorem raise_frame (s : State) (e : Err) (h : severity e.cls ≠ 4) :
    ∃ q o p, s.raise e = { s with errQ := q, errOvf := o, reported := p } := by
  unfold State.raise
  simp only [h, if_false]
  repeat' split
  all_goals exact ⟨_, _, _, rfl⟩

theorem seqFrame_raise (s : State) (r : RoomId) (e : Err) (h : severity e.cls ≠ 4) : SeqFrame s (s.raise e) r := by
  obtain ⟨q, o, p, e⟩ := raise_frame s e h
  rw [e]
  exact ⟨rfl, rfl, rfl, rfl, rfl, rfl, rfl, rfl, fun _ _ => rfl, rfl⟩

/-- A Room that faults keeps its vector registers. -/
theorem seqFrame_faultRoom (s : State) (r : RoomId) (cls code : Nat) (bit : Option Nat) (addr : W64)
    (h : severity cls ≠ 4) : SeqFrame s (s.faultRoom r cls code bit addr) r := by
  have key : ∀ (f : Room → Room) (e : Err), severity e.cls ≠ 4 → (f (s.room r)).ve.v = (s.room r).ve.v →
      (f (s.room r)).ve.g = (s.room r).ve.g → (f (s.room r)).ve.p = (s.room r).ve.p →
      (f (s.room r)).ve.cnt = (s.room r).ve.cnt → SeqRoom (s.room r) (f (s.room r)) →
      SeqFrame s ((s.updRoom r f).raise e) r := fun f e he hv hg hp hc hr =>
    (seqFrame_updRoom s r f hv hg hp hc hr).trans (seqFrame_raise _ r e he)
  unfold State.faultRoom State.roomError
  exact key _ _ h rfl rfl rfl rfl rfl

theorem seqFrame_settleGo (r : RoomId) (k : Nat) (s : State) : SeqFrame s (settleGo r k s) r := by
  induction k generalizing s with
  | zero => exact .refl s r
  | succ k ih =>
    unfold settleGo
    dsimp only
    split
    · exact .refl s r
    · split
      · exact .refl s r
      · split
        · exact seqFrame_faultRoom _ _ _ _ _ _ (by decide)
        · split
          · split
            · exact (seqFrame_updRoom s r _ rfl rfl rfl rfl (by rfl)).trans (ih _)
            · exact .refl s r
          · split
            · exact seqFrame_faultRoom _ _ _ _ _ _ (by decide)
            · exact .refl s r

theorem seqFrame_settle (s : State) (r : RoomId) : SeqFrame s (s.settle r) r := by
  unfold State.settle State.checkTensorHead
  refine (seqFrame_settleGo r 9 s).trans ?_
  split
  · split
    · exact seqFrame_faultRoom _ _ _ _ _ _ (by decide)
    · exact .refl _ r
  · exact .refl _ r

/-- The sequencer moves on: registers, counters, memory and everything outside the Room stay. -/
theorem seqFrame_goTo (s : State) (r : RoomId) (pc : Nat) : SeqFrame s (s.goTo r pc) r :=
  (seqFrame_updRoom s r _ rfl rfl rfl rfl (by rfl)).trans (seqFrame_settle _ r)

/-- Registers that a lane operation leaves behind, once the sequencer has moved on. -/
theorem vecRegs_goTo {s u t : State} {r : RoomId} {v : Nat → Nat → Nat} {g p : Nat → Nat} {c : VCounters}
    (hu : RoomFrame s u r) (hr : SeqRoom (s.room r) (u.room r)) (h : SeqFrame u t r)
    (hv : ∀ n i, i < 64 → (u.room r).lane n i = v n i) (hg : (u.room r).gReg = g) (hp : (u.room r).pReg = p)
    (hc : (u.room r).ve.cnt = c) : VecRegs s t r v g p c where
  lanes n i hi := by rw [← hv n i hi]; simp only [Room.lane, h.lanes]
  scalars n := by rw [← hg]; simp only [Room.gReg, h.scalars]
  preds n := by rw [← hp]; simp only [Room.pReg, h.preds]
  counters := h.counters.trans hc
  room := hr.trans h.room
  frame := hu.trans h.frame

theorem vecOnly_goTo {s : State} {r : RoomId} {f : Room → Room} {pc : Nat} {v : Nat → Nat → Nat} {g p : Nat → Nat}
    {c : VCounters} (hr : SeqRoom (s.room r) (f (s.room r))) (hv : ∀ n i, i < 64 → (f (s.room r)).lane n i = v n i)
    (hg : (f (s.room r)).gReg = g) (hp : (f (s.room r)).pReg = p) (hc : (f (s.room r)).ve.cnt = c) :
    VecOnly s ((s.updRoom r f).goTo r pc) r v g p c where
  regs := vecRegs_goTo (roomFrame_updRoom s r f) (by simpa) (seqFrame_goTo _ r pc) (by simpa) (by simpa) (by simpa) (by simpa)
  memory := (seqFrame_goTo _ r pc).memory
  poison := (seqFrame_goTo _ r pc).poison
  free := (seqFrame_goTo _ r pc).free

/-- A word that is ready goes to its effect. -/
theorem vecStep_ready {s : State} {r : RoomId} {op w : Nat} {fi : Firing} {f : Nat → Firing → State → VOut}
    (h : VecReady s r op w fi) :
    s.vecStep r op f = match f w fi s with
      | .ok t => t.goTo r ((s.room r).ve.pc + 1)
      | .jump t p => if p < s.nWords r then t.goTo r p else s.faultRoom r 0x04 0x22
      | .hold t => t
      | .encoding => s.faultRoom r 0x04 0x21
      | .bounds => s.faultRoom r 0x04 0x22
      | .mem c d => s.faultRoom r 0x05 c none d
      | .bolt => s.faultRoom r 0x06 0x31 := by
  have hr : ((vecRegs w).any fun n => (s.pendingRegs r).contains n) = false := by
    rw [List.any_eq_false]
    intro n hn
    simpa using h.ready n hn
  unfold State.vecStep
  rw [h.word]
  dsimp only
  rw [hr, h.opcode, h.good]
  simp <;> rfl

/-- A word that is ready and answers a state runs. -/
theorem vecStep_ok {s t : State} {r : RoomId} {op w : Nat} {fi : Firing} {f : Nat → Firing → State → VOut}
    (h : VecReady s r op w fi) (hf : f w fi s = .ok t) : s.vecStep r op f = t.goTo r ((s.room r).ve.pc + 1) := by
  rw [vecStep_ready h, hf]

end Sys2Proof.Machine
end

