-- ==== Sys2Proof/Laws/MemFrame.lean ====
section
/-! SUPPORT. Memory frames: what a write, a clear and a chain of them leave alone. -/

namespace Sys2Proof.Machine

theorem MemFrame.refl (s : State) (p : Nat → Prop) : MemFrame s s p := ⟨fun _ _ => rfl, fun _ _ => Iff.rfl⟩

theorem MemFrame.trans {s t u : State} {p : Nat → Prop} (h : MemFrame s t p) (k : MemFrame t u p) : MemFrame s u p :=
  ⟨fun a ha => (k.bytes a ha).trans (h.bytes a ha), fun a ha => (k.units a ha).trans (h.units a ha)⟩

theorem MemFrame.mono {s t : State} {p q : Nat → Prop} (h : MemFrame s t p) (hpq : ∀ k, p k → q k) : MemFrame s t q :=
  ⟨fun a ha => h.bytes a fun hp => ha (hpq a hp), fun u hu => h.units u fun k hk hp => hu k hk (hpq k hp)⟩

/-- Memory and poison are what they were. -/
theorem MemFrame.same {s t : State} {p : Nat → Prop} (hm : t.mem = s.mem) (hp : t.poison = s.poison) : MemFrame s t p :=
  ⟨fun a _ => by rw [hm], fun u _ => by rw [hp]⟩

theorem memFrame_write {s : State} (h : MemoryCanonical s) (a : Nat) (bs : List Byte) :
    MemFrame s (s.write a bs) fun k => a ≤ k ∧ k < a + bs.length := by
  constructor
  · intro k hk
    show memRead (memWrites s.mem a bs) k = _
    rw [memRead_memWrites _ _ _ h, if_neg (by omega)]
  · intro u hu
    show u ∈ s.poison.filter _ ↔ _
    rw [List.mem_filter]
    constructor
    · exact fun h => h.1
    · intro h
      refine ⟨h, ?_⟩
      have := hu (u * 64) (by omega)
      simp only [Bool.not_eq_true', Bool.and_eq_false_iff, decide_eq_false_iff_not]
      omega

theorem stored_write {s : State} (h : MemoryCanonical s) (a : Nat) (bs : List Byte) : Stored s (s.write a bs) a bs :=
  ⟨memReads_memWrites _ _ h, memFrame_write h a bs⟩

/-- What is stored stays stored while memory stays. -/
theorem Stored.keep {s t u : State} {a : Nat} {bs : List Byte} (h : Stored s t a bs) (hm : u.mem = t.mem) (hp : u.poison = t.poison) :
    Stored s u a bs :=
  ⟨by rw [hm, h.value], h.frame.trans (.same hm hp)⟩

theorem mem_spaceWrite (s : State) (r : RoomId) (set space a : Nat) (bs : List Byte) :
    (s.spaceWrite r set space a bs).mem = memWrites s.mem (spaceKey r set space a) bs := by
  unfold State.spaceWrite
  dsimp only
  split <;> rfl

theorem poison_spaceWrite (s : State) (r : RoomId) (set space a : Nat) (bs : List Byte) :
    (s.spaceWrite r set space a bs).poison = (s.write (spaceKey r set space a) bs).poison := by
  unfold State.spaceWrite
  dsimp only
  split <;> rfl

theorem stored_spaceWrite {s : State} (h : MemoryCanonical s) (r : RoomId) (set space a : Nat) (bs : List Byte) :
    Stored s (s.spaceWrite r set space a bs) (spaceKey r set space a) bs :=
  (stored_write h _ bs).keep (mem_spaceWrite ..) (poison_spaceWrite ..)

/-- A write of a space changes its Room only in what its firings hold. -/
theorem room_spaceWrite (s : State) (r : RoomId) (set space a : Nat) (bs : List Byte) :
    SeqRoom (s.room r) ((s.spaceWrite r set space a bs).room r) ∧
      ((s.spaceWrite r set space a bs).room r).ve = (s.room r).ve ∧ RoomFrame s (s.spaceWrite r set space a bs) r := by
  unfold State.spaceWrite
  dsimp only
  split
  · exact ⟨by rw [room_updRoom, if_pos rfl]; rfl, by rw [room_updRoom, if_pos rfl]; rfl,
      fun q hq => by rw [room_updRoom, if_neg hq]; rfl, rfl⟩
  · exact ⟨rfl, rfl, fun _ _ => rfl, rfl⟩

end Sys2Proof.Machine
end

