-- ==== Sys2Proof/Laws/VecLanes.lean ====
section
/-! SUPPORT. What lane-wise words answer, once for all of them: FP32, INT32 and FP64 lanes, scalars and predicates. -/

namespace Sys2Proof.Machine

/-! ## Sums over lanes -/

theorem sum_boolNat (l : List Nat) (p : Nat → Bool) : (l.map fun i => boolNat (p i)).sum = (l.filter p).length := by
  induction l with
  | nil => rfl
  | cons a l ih => simp only [List.map_cons, List.sum_cons, ih, List.filter_cons]; cases p a <;> simp [boolNat]; omega

/-- A sum over lanes that adds nothing outside the active ones is a sum over the active lanes. -/
theorem sum_filter (l : List Nat) (p : Nat → Bool) (f : Nat → Nat) :
    (l.map fun i => if p i then f i else 0).sum = ((l.filter p).map f).sum := by
  induction l with
  | nil => rfl
  | cons a l ih => simp only [List.map_cons, List.sum_cons, ih, List.filter_cons]; cases p a <;> simp

/-! ## FP32 and INT32 lanes -/

/-- The lane results of a lane-wise word. -/
theorem lanewise_eq (r : RoomId) (w : Nat) (f : Room → Nat → LaneRes) (s : State) :
    lanewise r w f s = .ok (s.updRoom r fun x => countLanes (x.setV (wVD w)
      (((List.range 64).map fun i => if (s.room r).active? w i then f (s.room r) i else { bits := (s.room r).lane (wVD w) i }).map (·.bits)))
      ((List.range 64).map fun i => if (s.room r).active? w i then f (s.room r) i else { bits := (s.room r).lane (wVD w) i })) := rfl

theorem cnt_countLanes (x : Room) (rs : List LaneRes) :
    (countLanes x rs).ve.cnt = addCnt x.ve.cnt (rs.map (·.invalid)).sum (rs.map (·.inf)).sum (rs.map (·.sat)).sum 0 0 := rfl

theorem cntRes_lanes (x : Room) (w : Nat) (f : Nat → LaneRes) (old : Nat → Nat) :
    addCnt x.ve.cnt
      (((List.range 64).map fun i => if x.active? w i then f i else { bits := old i }).map (·.invalid)).sum
      (((List.range 64).map fun i => if x.active? w i then f i else { bits := old i }).map (·.inf)).sum
      (((List.range 64).map fun i => if x.active? w i then f i else { bits := old i }).map (·.sat)).sum 0 0 = cntRes x w f := by
  have key : ∀ g : LaneRes → Nat, (∀ b, g { bits := b } = 0) →
      (((List.range 64).map fun i => if x.active? w i then f i else { bits := old i }).map g).sum =
        ((pick 64 (x.active? w)).map fun i => g (f i)).sum := by
    intro g hg
    rw [List.map_map, pick, ← sum_filter]
    refine congrArg List.sum (List.map_congr_left fun i _ => ?_)
    simp only [Function.comp]
    split <;> simp [hg]
  unfold cntRes
  rw [key (·.invalid) fun _ => rfl, key (·.inf) fun _ => rfl, key (·.sat) fun _ => rfl]

theorem seqRoom_lanes (x : Room) (n : Nat) (ls : List Nat) (rs : List LaneRes) : SeqRoom x (countLanes (x.setV n ls) rs) := rfl

theorem seqRoom_lanes64 (x : Room) (n : Nat) (ls : List Nat) (rs : List LaneRes) : SeqRoom x (countLanes (x.setV64 n ls) rs) := rfl
theorem gReg_lanes (x : Room) (n : Nat) (ls : List Nat) (rs : List LaneRes) : (countLanes (x.setV n ls) rs).gReg = x.gReg := rfl
theorem pReg_lanes (x : Room) (n : Nat) (ls : List Nat) (rs : List LaneRes) : (countLanes (x.setV n ls) rs).pReg = x.pReg := rfl
theorem gReg_lanes64 (x : Room) (n : Nat) (ls : List Nat) (rs : List LaneRes) : (countLanes (x.setV64 n ls) rs).gReg = x.gReg := rfl
theorem pReg_lanes64 (x : Room) (n : Nat) (ls : List Nat) (rs : List LaneRes) : (countLanes (x.setV64 n ls) rs).pReg = x.pReg := rfl
@[simp] theorem lane_countLanes (x : Room) (rs : List LaneRes) (n i : Nat) : (countLanes x rs).lane n i = x.lane n i := rfl

/-- A lane-wise word runs: its active lanes take the results. -/
theorem lanewise_runs {s : State} {r : RoomId} {w op : Nat} {fi : Firing} {c : Instr} {g : Nat → LaneRes}
    {f : Nat → Firing → State → VOut} (h : VecReady s r op w fi) (hc : exec c s = .next (s.vecStep r op f))
    {g' : Room → Nat → LaneRes} (hf : f w fi s = lanewise r w g' s) (hg : ∀ i, g' (s.room r) i = g i) :
    RunsLanes c s r w g := by
  obtain rfl : g' (s.room r) = g := funext hg
  refine ⟨_, hc, ?_⟩
  rw [vecStep_ok h (hf.trans (lanewise_eq _ _ _ _))]
  refine vecOnly_goTo (seqRoom_lanes _ _ _ _) (fun n i hi => ?_) (gReg_lanes _ _ _ _) (pReg_lanes _ _ _ _) ?_
  rotate_left
  · rw [cnt_countLanes]; exact cntRes_lanes _ _ _ _
  rw [lane_countLanes]
  rw [lane_setV _ _ _ _ _ hi]
  unfold vMask
  by_cases hn : n = wVD w
  · subst hn
    by_cases ha : (s.room r).active? w i = true
    · simp [hi, ha]
    · simp [hi, ha, Nat.mod_eq_of_lt (lane_lt _ _ _)] <;> exact lane_lt _ _ _
  · simp [hn]

/-! ## FP64 pairs -/

theorem lane_setV64 (x : Room) (n m i : Nat) (ls : List Nat) (hi : i < 64) :
    (x.setV64 n ls).lane m i = if m = n + 1 then ls.getD i 0 / 2 ^ 32 % 2 ^ 32
      else if m = n then ls.getD i 0 % 2 ^ 32 else x.lane m i := by
  unfold Room.setV64
  rw [lane_setV _ _ _ _ _ hi, lane_setV _ _ _ _ _ hi]
  simp only [List.getD_eq_getElem?_getD, List.getElem?_map]
  cases ls[i]? <;> simp

theorem lanewise64_eq (r : RoomId) (w : Nat) (f : Room → Nat → LaneRes) (s : State) :
    lanewise64 r w f s = .ok (s.updRoom r fun x => countLanes (x.setV64 (wVD w)
      (((List.range 64).map fun i =>
        if (s.room r).active? w i then f (s.room r) i else { bits := ((s.room r).lanes64 (wVD w)).getD i 0 }).map (·.bits)))
      ((List.range 64).map fun i =>
        if (s.room r).active? w i then f (s.room r) i else { bits := ((s.room r).lanes64 (wVD w)).getD i 0 })) := rfl

theorem lanewise64_runs {s : State} {r : RoomId} {w op : Nat} {fi : Firing} {c : Instr} {g : Nat → LaneRes}
    {f : Nat → Firing → State → VOut} (h : VecReady s r op w fi) (hc : exec c s = .next (s.vecStep r op f))
    {g' : Room → Nat → LaneRes} (hf : f w fi s = lanewise64 r w g' s) (hg : ∀ i, g' (s.room r) i = g i) :
    RunsLanes64 c s r w g := by
  obtain rfl : g' (s.room r) = g := funext hg
  refine ⟨_, hc, ?_⟩
  rw [vecStep_ok h (hf.trans (lanewise64_eq _ _ _ _))]
  refine vecOnly_goTo (seqRoom_lanes64 _ _ _ _) (fun n i hi => ?_) (gReg_lanes64 _ _ _ _) (pReg_lanes64 _ _ _ _) ?_
  rotate_left
  · rw [cnt_countLanes]; exact cntRes_lanes _ _ _ _
  rw [lane_countLanes]
  rw [lane_setV64 _ _ _ _ _ hi]
  have h64 : ((s.room r).lanes64 (wVD w))[i]?.getD 0 = (s.room r).lane (wVD w) i + 2 ^ 32 * (s.room r).lane (wVD w + 1) i := by
    simp [Room.lanes64, hi]
  have l0 := lane_lt (s.room r) (wVD w) i
  have l1 := lane_lt (s.room r) (wVD w + 1) i
  unfold vMask64
  by_cases hn : n = wVD w
  · subst hn
    by_cases ha : (s.room r).active? w i = true
    · simp [hi, ha]
    · simp [hi, ha, h64]; omega
  · by_cases hm : n = wVD w + 1
    · subst hm
      by_cases ha : (s.room r).active? w i = true
      · simp [hi, ha]
      · simp [hi, ha, h64]; omega
    · simp [hn, hm]

/-! ## Scalars and predicates -/

theorem scalar_runs {s : State} {r : RoomId} {w op n v : Nat} {fi : Firing} {c : Instr} {f : Nat → Firing → State → VOut}
    (h : VecReady s r op w fi) (hc : exec c s = .next (s.vecStep r op f))
    (hf : f w fi s = .ok (s.updRoom r fun x => x.setG n v)) : RunsScalar c s r n v := by
  refine ⟨_, hc, ?_⟩
  rw [vecStep_ok h hf]
  refine vecOnly_goTo ?_ (fun n i _ => ?_) ?_ ?_ ?_
  · unfold Room.setG; split <;> rfl
  · simp [vOld]
  · funext k; rw [gReg_setG]
  · funext k; simp
  · simp

theorem pred_runs {s : State} {r : RoomId} {w op n v : Nat} {fi : Firing} {c : Instr} {f : Nat → Firing → State → VOut}
    (h : VecReady s r op w fi) (hc : exec c s = .next (s.vecStep r op f))
    (hf : f w fi s = .ok (s.updRoom r fun x => x.setP n v)) : RunsPred c s r n v := by
  refine ⟨_, hc, ?_⟩
  rw [vecStep_ok h hf]
  refine vecOnly_goTo ?_ (fun n i _ => ?_) ?_ ?_ ?_
  · unfold Room.setP; split <;> rfl
  · simp [vOld]
  · funext k; simp
  · funext k; rw [pReg_setP]
  · simp

/-- A word whose effect is on the Room's registers and counters alone runs. -/
theorem regs_runs {s : State} {r : RoomId} {w op : Nat} {fi : Firing} {c : Instr} {f : Nat → Firing → State → VOut}
    {u : Room → Room} {v : Nat → Nat → Nat} {g : Nat → Nat} {k : VCounters} (h : VecReady s r op w fi)
    (hc : exec c s = .next (s.vecStep r op f)) (hf : f w fi s = .ok (s.updRoom r u)) (hr : SeqRoom (s.room r) (u (s.room r)))
    (hv : ∀ n i, i < 64 → (u (s.room r)).lane n i = v n i) (hg : (u (s.room r)).gReg = g)
    (hp : (u (s.room r)).pReg = (s.room r).pReg) (hk : (u (s.room r)).ve.cnt = k) : RunsRegs c s r v g k := by
  refine ⟨_, hc, ?_⟩
  rw [vecStep_ok h hf]
  exact vecOnly_goTo hr hv hg hp hk

end Sys2Proof.Machine
end

