-- ==== Sys2Proof/WellFormed.lean ====
section
/-! DEFINITION. Well-formed commands: operands inside the ranges the spec numbers its units with. A command outside
them names a unit the device does not have. -/

namespace Sys2Proof

/-- Corridor ports 0 to 23 (01 R19), direction codes 0 to 5 (10 R325), Dumbwaiters 0 to 9 and stream IDs 64 × DW + n
(06 R194), Letterboxes 0 (management) and 1 to 64 (12 R408), register access sizes (12 R387), filtered inputs 0 to 2
(15 R486). -/
def portOk (p : BitVec 5) : Bool := decide (p.toNat < 24)
def dirOk (d : BitVec 3) : Bool := decide (d.toNat < 6)
def dwOk (d : BitVec 4) : Bool := decide (d.toNat < 10)
def streamOk (i : StreamId) : Bool := decide (i < 640)
def lbxOk (l : Nat) : Bool := decide (l < 65)
def sizeOk (n : Nat) : Bool := decide (0 < n) && decide (n ≤ 64)
def pinOk (p : BitVec 2) : Bool := decide (p.toNat < 3)
def reqOk (q : Req) : Bool := lbxOk q.lbx

/-- Well-formedness of a command. -/
def Instr.wf : Instr → Bool
  | .queueEntryArrival _ _ _ _ => true
  | .spillMoveBack _ => true
  | .spilledEntryVisible _ _ => true
  | .outputSend _ _ => true
  | .creditReturn _ _ _ _ => true
  | .firingConditionsMet _ => true
  | .firingIssue _ => true
  | .routeForward _ _ => true
  | .gateDiscard _ _ => true
  | .stallReport _ => true
  | .stallClassify _ => true
  | .hangLimitReached _ => true
  | .endTrigger _ => true
  | .slotRetire _ => true
  | .loadWaitResume _ => true
  | .switchComplete _ => true
  | .cfbCtrlHalt _ => true
  | .haltEffect _ => true
  | .cfbCtrlResume _ => true
  | .cfbCtrlStart _ _ => true
  | .cfbCtrlForce _ => true
  | .cfbPortprofWrite _ _ _ => true
  | .slotImageWrite _ _ _ _ => true
  | .loadRequest _ _ _ _ => true
  | .loaderTakeRequest _ => true
  | .loadCommit _ => true
  | .mma _ => true
  | .mmaExact _ => true
  | .mmaSlice _ => true
  | .accDrain _ => true
  | .accLoad _ => true
  | .accZero _ => true
  | .tensorBlockStart _ => true
  | .endFire _ => true
  | .vnop _ => true
  | .vloop _ => true
  | .brZ _ => true
  | .brNz _ => true
  | .fence _ => true
  | .fenceSatisfied _ => true
  | .vstat _ => true
  | .smov _ => true
  | .sadd _ => true
  | .ssub _ => true
  | .sshl _ => true
  | .sand _ => true
  | .sext _ => true
  | .sld _ => true
  | .vld _ => true
  | .vst _ => true
  | .vgather _ => true
  | .vscatter _ => true
  | .vldm _ => true
  | .vstm _ => true
  | .memResponseArrival _ => true
  | .vtoken _ => true
  | .vendm _ => true
  | .trowg _ => true
  | .trows _ => true
  | .vadd _ => true
  | .vsub _ => true
  | .vmul _ => true
  | .vfma _ => true
  | .vmin _ => true
  | .vmax _ => true
  | .vabs _ => true
  | .vneg _ => true
  | .vcmp _ => true
  | .vsel _ => true
  | .vdiv _ => true
  | .vsqrt _ => true
  | .vsfu0 _ => true
  | .vsfu1 _ => true
  | .vcvt _ => true
  | .vbcast _ => true
  | .dadd _ => true
  | .dsub _ => true
  | .dmul _ => true
  | .dfma _ => true
  | .dmin _ => true
  | .dmax _ => true
  | .dcmp _ => true
  | .ddiv _ => true
  | .dsqrt _ => true
  | .dexp _ => true
  | .dln _ => true
  | .dcvt _ => true
  | .iadd _ => true
  | .isub _ => true
  | .imul _ => true
  | .iadds _ => true
  | .imin _ => true
  | .imax _ => true
  | .iand _ => true
  | .ior _ => true
  | .ixor _ => true
  | .shl _ => true
  | .shr _ => true
  | .icmp _ => true
  | .vadd128 _ => true
  | .viota _ => true
  | .pmov _ => true
  | .vred _ => true
  | .vscan _ => true
  | .vcompress _ => true
  | .vexpand _ => true
  | .vperm _ => true
  | .tileop _ => true
  | .tilered _ => true
  | .vtopk _ => true
  | .vhist _ => true
  | .vpermidx _ => true
  | .vexpmax _ => true
  | .vslice _ => true
  | .veRunaway _ => true
  | .memoryAccess _ => true
  | .translationLookup _ => true
  | .walkReadReturn _ _ => true
  | .migRewalk _ _ => true
  | .migTimeout _ => true
  | .patrolScrub _ _ => true
  | .retrainComplete _ ch => portOk ch
  | .repairHoldEnd _ _ _ => true
  | .annexTimeout _ => true
  | .annexLinkDown _ => true
  | .annexLinkUp _ => true
  | .annexExtentOffer _ _ _ => true
  | .annexExtentRelease _ _ _ => true
  | .entryFetch sid => streamOk sid
  | .dwArbitration dw => dwOk dw
  | .dwReadData sid _ => streamOk sid
  | .dwWriteAck sid _ => streamOk sid
  | .xferEntry sid => streamOk sid
  | .chainEntry sid => streamOk sid
  | .layerEnd sid => streamOk sid
  | .stepEnd sid => streamOk sid
  | .listLoop sid => streamOk sid
  | .guardEntry sid => streamOk sid
  | .listBolt sid => streamOk sid
  | .listWait sid => streamOk sid
  | .listNop sid => streamOk sid
  | .stopEntry sid => streamOk sid
  | .chainHeadBlockSend _ => true
  | .chainBlockDelivered _ => true
  | .chainBlockFree _ => true
  | .freedBytesArrival _ => true
  | .chainBlockedReport _ => true
  | .gateArmWrite sid _ _ _ => streamOk sid
  | .gateGo sid => streamOk sid
  | .gateAbort sid => streamOk sid
  | .streamCreate q => reqOk q
  | .streamStart q => reqOk q
  | .streamCancel q => reqOk q
  | .streamSnapshot q => reqOk q
  | .streamFree q => reqOk q
  | .modelLoad q => reqOk q
  | .modelLoadCopiesDone _ => true
  | .modelReplaceInPlace q => reqOk q
  | .replaceHoldReached _ => true
  | .replaceGroupCopied _ => true
  | .modelReplaceShadow q => reqOk q
  | .shadowGatePassed _ => true
  | .modelUnload q => reqOk q
  | .stewardRevision _ _ _ _ => true
  | .porchOpen q => reqOk q
  | .porchDrain q => reqOk q
  | .porchClose q => reqOk q
  | .porchSeqRead q => reqOk q
  | .porchStats q => reqOk q
  | .porchBuild _ => true
  | .porchPoll _ => true
  | .prefixWalk _ _ => true
  | .chunkListFillDone _ => true
  | .prefixCompaction _ => true
  | .handoffCopyDone _ _ => true
  | .handoffTimeout _ => true
  | .ctxCreate q => reqOk q
  | .ctxRelease q => reqOk q
  | .ctxStatus q => reqOk q
  | .ctxPoints q _ => reqOk q
  | .ctxPreempt q => reqOk q
  | .ctxCheckpoint q => reqOk q
  | .ctxRestore q => reqOk q
  | .preemptPointReached _ => true
  | .preemptTimeout _ => true
  | .preemptSaveDone _ _ => true
  | .restoreCopyDone _ _ => true
  | .boltopWait _ => true
  | .boltopArrive _ => true
  | .boltopArriveWait _ => true
  | .boltopAdd _ => true
  | .boltopAcquire _ => true
  | .boltopSet _ => true
  | .boltopRead _ => true
  | .boltopReadPhase _ => true
  | .boltopFault _ => true
  | .boltResponseArrival _ => true
  | .boltTriggerNotice _ => true
  | .boltWaitReport _ _ => true
  | .boltConfig q => reqOk q
  | .boltRead q => reqOk q
  | .boltAbort q => reqOk q
  | .flitReceive p _ => portOk p
  | .portTrainingDone p _ => portOk p
  | .laneRetire p _ => portOk p
  | .portDown p _ => portOk p
  | .portRetrainRetry p => portOk p
  | .slotReturn dir _ => dirOk dir
  | .rdReq p => portOk p
  | .wrReq p => portOk p
  | .rdRsp p => portOk p
  | .wrAck p => portOk p
  | .boltReq p => portOk p
  | .boltRsp p => portOk p
  | .treeArrive p => portOk p
  | .treeRelease p => portOk p
  | .treeAbort p => portOk p
  | .treeRefused p => portOk p
  | .gwrReq p => portOk p
  | .gwrAck p => portOk p
  | .treeSet _ _ _ => true
  | .groupSet _ _ => true
  | .detourSet _ _ => true
  | .heartbeatMsg _ => true
  | .hbAckMsg _ _ => true
  | .suspectMsg _ _ _ => true
  | .lostMsg _ _ => true
  | .placeMsg _ _ _ _ _ _ => true
  | .statsMsg _ _ _ _ _ _ => true
  | .probePkt p => portOk p
  | .replayEnd p => portOk p
  | .replayEndAck p => portOk p
  | .neighbourUnreachable dir => dirOk dir
  | .heartbeatTick _ => true
  | .probeTimeout _ _ => true
  | .managerLost _ => true
  | .remoteTimeout _ _ => true
  | .fabConfig q => reqOk q
  | .fabRole q => reqOk q
  | .portStatus q => reqOk q
  | .portCtlDisable q => reqOk q
  | .portCtlEnable q => reqOk q
  | .hostWindowRead _ => true
  | .hostWindowWrite _ _ _ => true
  | .hwinCreate q => reqOk q
  | .hwinRemove q => reqOk q
  | .vfFunctionLevelReset _ => true
  | .pfFunctionLevelReset _ => true
  | .hotReset _ => true
  | .hostLinkLoss _ => true
  | .numvfsWrite _ => true
  | .msixVectorUnmask _ _ => true
  | .inflowFlit _ f => decide (f.payload.length ≤ 250)
  | .inflowRecordWrite _ => true
  | .inflowConsRead _ => true
  | .inflowAttach q => reqOk q
  | .inflowDetach q => reqOk q
  | .inflowDetachEffect _ => true
  | .keySetupWrite _ _ => true
  | .keyUnlockWrite _ _ => true
  | .devResetWarm _ _ _ => true
  | .devResetClrFails _ _ => true
  | .devFwGo _ _ => true
  | .evrUnfreeze _ _ => true
  | .lbxCtrlReset _ _ => true
  | .lbxDoorbell _ _ => true
  | .lbxRspConsWrite _ _ => true
  | .bltHostopAdd _ _ => true
  | .bltHostopArrive _ _ => true
  | .regLowWordRead _ _ size => sizeOk size
  | .regLowWordWrite _ _ _ => true
  | .registerWrite _ _ size _ _ => sizeOk size
  | .tvPatrol => true
  | .violationQueueDrain => true
  | .letterboxEnableCheck l => lbxOk l
  | .letterboxRequestTake l _ => lbxOk l
  | .responseRingWrite l _ => lbxOk l
  | .vectorHoldoffEnd l _ => lbxOk l
  | .hello q => reqOk q
  | .paramGet q => reqOk q
  | .paramSet q => reqOk q
  | .diagRead q => reqOk q
  | .powerSet q => reqOk q
  | .powerRead q => reqOk q
  | .repairListGet q _ => reqOk q
  | .repairListPut q _ => reqOk q
  | .attest q _ => reqOk q
  | .startReport q => reqOk q
  | .pageMap q => reqOk q
  | .pageUnmap q => reqOk q
  | .pageProt q => reqOk q
  | .pageMove q => reqOk q
  | .tlbInval q => reqOk q
  | .slotLoad q => reqOk q
  | .cfbAccessRead q => reqOk q
  | .cfbAccessWrite q => reqOk q
  | .debugRead q => reqOk q
  | .watchdogExpiry _ => true
  | .powerLoopPass _ => true
  | .hostRstAssert => true
  | .hostRstRelease _ => true
  | .fwVerifyDone _ => true
  | .verifyTimeout => true
  | .fwServing => true
  | .fwInitTimeout _ => true
  | .enableTimeout => true
  | .helloTimeout => true
  | .startSuccess => true
  | .startRecordTimeout => true
  | .bmcRecordWriteTimeout => true
  | .errorArrival _ => true
  | .errorEpisode _ => true
  | .overflowSweep => true
  | .fatalLatch _ => true
  | .bmcPushInterrupt => true
  | .bmcAckPushed => true
  | .bmcAckSupplied => true
  | .bmcAckStored => true
  | .bmcCoolantWrite _ => true
  | .coolantAbsent => true
  | .i3cPrivateWrite _ _ => true
  | .entdaa _ => true
  | .setdasa _ _ => true
  | .rstdaa => true
  | .enec _ => true
  | .disec _ => true
  | .getstatus => true
  | .getpid => true
  | .getbcr => true
  | .getdcr => true
  | .getmxds => true
  | .pwrBrakeAssert => true
  | .pwrBrakeRelease => true
  | .trayLatchAssert => true
  | .sidebandChatter pin => pinOk pin
  | .chatterEnd pin => pinOk pin
  | .sidebandHeldReport pin => pinOk pin
  | .thermTrip _ => true
  | .pwrOkAssert _ => true
  | .pwrOkDeassert => true
  | .refclkLoss _ => true
  | .boltop _ => true
  | .triggerRegistrationServed _ => true
  | .referenceClockRecovered _ _ => true
  | .trayLatchRelease => true

end Sys2Proof
end

