-- ==== Sys2Proof/Tests/Slice0.lean ====
section
/-! SUPPORT. The model's own tests: the checks of WellFormed, states that meet the hypotheses of the statements, and
single steps held against the spec. -/

namespace Sys2Proof.Tests

set_option Elab.async false

/-! Each check of WellFormed refuses an ill-formed command. -/
theorem test_wf_port : (Instr.portRetrainRetry 24).wf = false := by decide
theorem test_wf_dir : (Instr.neighbourUnreachable 6).wf = false := by decide
theorem test_wf_dw : (Instr.dwArbitration 10).wf = false := by decide
theorem test_wf_stream : (Instr.entryFetch 640).wf = false := by decide
theorem test_wf_lbx : (Instr.letterboxEnableCheck 65).wf = false := by decide
theorem test_wf_size : (Instr.registerWrite .pf 0 0 0 {}).wf = false := by decide
theorem test_wf_pin : (Instr.chatterEnd 3).wf = false := by decide
theorem test_wf_req : (Instr.hello ⟨65, 0⟩).wf = false := by decide

open Sys2Proof.Machine

/-! ## A small running device -/

/-- The device in RUNNING with nothing loaded, no clock lost and no reset held. -/
def up : State := { State.reset with devSt := .running, romWait := .none, pwrOk := true, rst := {} }

def fi0 : Firing := { slot := 0, set := 0, index := 0 }

/-- A Room in RUN with a firing in flight. -/
def room0 : Room := { runst := .run, firings := [fi0] }

/-- Slot 0 of Room 0: a header of LENGTH 80 with OUT0 enabled, and one word. -/
def image (w : Nat) : Memory :=
  memWrites (memWrites (memWrites [] (slotKey 0 0 4) (natLe 2 80)) (slotKey 0 0 17) [0x40]) (slotKey 0 0 64) (natLe 16 w)

/-- Room 0 is about to issue word `w`; G1 holds `g`. -/
def vecRun (w : Nat) (g : W32 := 0) : State :=
  { up with mem := image w, rooms := [(0, { room0 with ve := { g := [(1, g)] } })] }

/-- A vector word of opcode, SUB, FMT, SPACE, IMM and shape word. -/
def vword (op : Nat) (sub fmt space imm shape : Nat := 0) : Nat :=
  op + sub * 2 ^ 37 + fmt * 2 ^ 32 + space * 2 ^ 50 + imm * 2 ^ 64 + shape * 2 ^ 96

/-- Shape word: one row of 64 elements, stride 16 units, rows of FP32 to space 0. -/
def shape1 : Nat := 16 * 2 ^ 11

def vecReady (s : State) (r : RoomId) (op w : Nat) (fi : Firing) : Bool :=
  s.seqWord r == some (w, fi) && wOp w == op && (vecRegs w).all (fun n => !(s.pendingRegs r).contains n) && !vecBad w

theorem vecReady_iff {s : State} {r : RoomId} {op w : Nat} {fi : Firing} :
    VecReady s r op w fi ↔ vecReady s r op w fi = true := by
  simp only [vecReady, Bool.and_eq_true, beq_iff_eq, List.all_eq_true, Bool.not_eq_true', List.contains_eq_mem,
    decide_eq_false_iff_not]
  exact ⟨fun h => ⟨⟨⟨h.1, h.2⟩, h.3⟩, h.4⟩, fun h => ⟨h.1.1.1, h.1.1.2, h.1.2, h.2⟩⟩

/-! ## Letterbox commands -/

/-- A request of opcode and context with payload fields (byte, bytes, value) and PLEN 240. -/
def reqOf (lbx op ctx : Nat) (fields : List (Nat × Nat × Nat)) : Req :=
  { lbx, entry := BitVec.ofNat 2048 (leNat (layout 256 ([(0, 2, op), (2, 1, ctx), (4, 1, 240), (8, 8, 77)] ++ fields))) }

/-- The Letterbox of the request is ready, greeted, and has taken it. -/
def asked (s : State) (q : Req) : State := s.updLbx q.lbx fun b => { b with enable := true, ready := true, hello := true, taken := [q] }

theorem accepted_iff {s : State} {q : Req} {op : Nat} {f : List (Nat × Nat × Nat)} {b : List (Nat × Bool)} :
    Accepted s q op f b ↔ ((s.lbxSettle q.lbx).lbx q.lbx).taken.head? = some q ∧ ((s.lbxSettle q.lbx).lbx q.lbx).busy = false ∧
      reqOp q = op ∧ s.serves = true ∧ (s.begun q).frameRefusal q op = none ∧ payloadBad q f b = none :=
  ⟨fun h => ⟨h.1.1, h.1.2, h.1.3, h.1.4, h.2, h.3⟩, fun h => ⟨⟨h.1, h.2.1, h.2.2.1, h.2.2.2.1⟩, h.2.2.2.2.1, h.2.2.2.2.2⟩⟩

/-! ## Vector words: every opcode is ready somewhere, with the conditions its clauses name -/

/-- Words of VecFp32, VecFp64, VecInt32, VecWhole, VecReduce and VecScalarWords, with every SUB their clauses tell apart. -/
def plainWords : List Nat :=
  [vword 0x30, vword 0x31, vword 0x32, vword 0x33, vword 0x34, vword 0x35, vword 0x36, vword 0x37, vword 0x3A, vword 0x3B,
   vword 0x3C, vword 0x3C 7, vword 0x3D, vword 0x3D 2] ++
  [vword 0x40, vword 0x41, vword 0x42, vword 0x43, vword 0x44, vword 0x45, vword 0x47, vword 0x48, vword 0x49, vword 0x4A,
   vword 0x4B 0, vword 0x4B 1] ++
  [vword 0x50, vword 0x51, vword 0x52, vword 0x53, vword 0x54, vword 0x55, vword 0x56, vword 0x57, vword 0x58, vword 0x59,
   vword 0x5A 0, vword 0x5A 1, vword 0x5D, vword 0x64, vword 0x63, vword 0x3F 0, vword 0x3F 1, vword 0x3F 2,
   vword 0x3E 0, vword 0x3E 1, vword 0x3E 2 0x0A, vword 0x3E 2 0x04] ++
  [vword 0x39, vword 0x5C, vword 0x38, vword 0x46, vword 0x5B 4, vword 0x5E 0, vword 0x5E 1, vword 0x5E 2, vword 0x5E 3,
   vword 0x5E 4, vword 0x5E 5, vword 0x5E 6, vword 0x5E 7] ++
  [vword 0x60 3, vword 0x60 0, vword 0x60 4, vword 0x60 5, vword 0x61, vword 0x62 0, vword 0x6C 0 0x0C, vword 0x6C 1 0x0D] ++
  [vword 0x18, vword 0x19, vword 0x1A, vword 0x1B, vword 0x1C, vword 0x1D, vword 0x69 (shape := 0), vword 0x6A (shape := 0)]

theorem witness_plainWords : ∀ w ∈ plainWords, VecReady (vecRun w) 0 (wOp w) w fi0 := by
  simp only [vecReady_iff]
  decide +kernel

/-- The condition of the two clauses of VCVT: an MX format under SUB 2, and none. -/
theorem witness_vcvt : fmtIsMx (wFmt (vword 0x3E 2 0x04)) = true ∧ fmtIsMx (wFmt (vword 0x3E 2 0x0A)) = false := by decide +kernel

/-- SLD: the address 4 bytes below the end of the Shelf. -/
theorem witness_sld :
    let w := vword 0x1E (imm := 2 ^ 20 - 4)
    let s := vecRun w
    VecReady s 0 0x1E w fi0 ∧ ((s.room 0).gReg (wGB w) + wImm w) % 2 ^ 32 % 4 = 0 ∧
      s.spaceBad 0 (wSpace w) (((s.room 0).gReg (wGB w) + wImm w) % 2 ^ 32) 4 = none := by
  simp only [vecReady_iff]
  decide +kernel

/-- Tiles: one row, whole columns or one sum a row. -/
theorem witness_tiles : ∀ w ∈ [vword 0x66 0 0x0C (shape := shape1), vword 0x66 3 0x0A (shape := shape1 + 2 ^ 10),
      vword 0x68 0 0x0C (shape := shape1), vword 0x68 1 0x0A 0 0 (shape1 + 2 ^ 6) + 4 * 2 ^ 23,
      vword 0x65 0 0x0C (shape := shape1 + 0x0C * 2 ^ 23), vword 0x65 6 0x0A (shape := shape1 + 2 ^ 10 + 0x0B * 2 ^ 23)],
    VecReady (vecRun w) 0 (wOp w) w fi0 ∧ ((vecRun w).tileBad 0 w).isNone = true ∧
      ∀ i < shRows w, (writeBad ((vecRun w).header 0 0) (shDspace w) (tileDst ((vecRun w).room 0) w + i * 1024)
        (tileRowBytes (shDfmt w) w)).isNone = true := by
  simp only [vecReady_iff]
  decide +kernel

/-- VLD and VST of FP32, FP64 and an MX format at the end of the Shelf; VGATHER and VSCATTER of an address in the Shelf and of
one outside. -/
theorem witness_loads : ∀ w ∈ [vword 0x20 0 0x0C 0 (2 ^ 20 - 256), vword 0x20 0 0x0D 0 (2 ^ 20 - 512), vword 0x20 1 0x04 0 0,
      vword 0x21 0 0x0C 0 (2 ^ 20 - 256), vword 0x21 0 0x0D 0 (2 ^ 20 - 512), vword 0x21 0 0x04 0 0],
    let s := vecRun w
    let x := s.room 0
    VecReady s 0 (wOp w) w fi0 ∧ vAddr x w % vAlign (fmtBits (wFmt w)) = 0 ∧
      (s.spaceBad 0 (wSpace w) (vAddr x w) (vSize w)).isNone = true ∧ (s.spaceBad 0 (wSpace w) (vScaleAddr x w) 2).isNone = true ∧
      (writeBad (s.header 0 0) (wSpace w) (vAddr x w) (vSize w)).isNone = true ∧
      (writeBad (s.header 0 0) (wSpace w) (vScaleAddr x w) 2).isNone = true := by
  simp only [vecReady_iff]
  decide +kernel

theorem witness_gather : ∀ w ∈ [vword 0x22 + 2 ^ 40, vword 0x23 + 2 ^ 40], ∀ g ∈ [0, 2 ^ 20 - 4, 2 ^ 20],
    let s := vecRun w (BitVec.ofNat 32 g)
    VecReady s 0 (wOp w) w fi0 ∧ ∀ i < 64,
      (indexed 0 ((s.room 0).gReg (wGA w)) ((s.room 0).lane (wVB w) i) 4 4).all
        (fun a => (s.spaceBad 0 0 a 4).isNone && (writeBad (s.header 0 0) 0 a 4).isNone) = true := by
  simp only [vecReady_iff]
  decide +kernel

/-- Memory of these states is canonical, as the statements about stores ask. -/
theorem witness_canonical : memWf (image (vword 0x21)) = true := by decide +kernel

/-- VSTAT in the last 64 bytes of the Shelf, VCOMPRESS to the last bytes, VTOKEN and VENDM of the enabled entry, VSLICE. -/
theorem witness_stores :
    (let w := vword 0x17 (imm := 2 ^ 20 - 64)
     let a := (((vecRun w).room 0).gReg (wGA w) + wImm w) % 2 ^ 32
     VecReady (vecRun w) 0 0x17 w fi0 ∧ a % 64 = 0 ∧ inSpace 0 a 64 = true) ∧
    (let w := vword 0x62 1 + 2 ^ 40
     let a := ((vecRun w (2 ^ 20 - 256)).room 0).gReg (wGA w)
     VecReady (vecRun w (2 ^ 20 - 256)) 0 0x62 w fi0 ∧ a % 4 = 0 ∧
       (writeBad ((vecRun w (2 ^ 20 - 256)).header 0 0) (wSpace w) a (4 * 64)).isNone = true) ∧
    (∀ w ∈ [vword 0x26, vword 0x27], VecReady (vecRun w) 0 (wOp w) w fi0 ∧
      (writeBad ((vecRun w).header 0 0) 3 ((((vecRun w).room 0).gReg (wGB w) + wImm w) % 2 ^ 32) 64).isNone = true) ∧
    (let w := vword 0x6D (imm := 64) + 2 ^ 40
     VecReady (vecRun w) 0 0x6D w fi0 ∧ ∀ p < 7, inSpace 0 ((((vecRun w).room 0).gReg (wGA w) + p * wImm w) % 2 ^ 32) 64 = true) := by
  simp only [vecReady_iff]
  decide +kernel

/-- TROWG and TROWS move a row of 256 bytes; a lane outside the space is skipped. -/
theorem witness_rows : ∀ w ∈ [vword 0x28 (shape := shape1), vword 0x29 (shape := shape1)],
    let s := vecRun w
    let x := s.room 0
    VecReady s 0 (wOp w) w fi0 ∧ ∀ t ∈ tileLanes x w, (s.spaceBad 0 (wSpace w) (tileSrc x w + t * 1024) 256).isNone = true ∧
      (writeBad (s.header 0 0) (shDspace w) (tileDst x w + t * 1024) 256).isNone = true ∧
      indexed (wSpace w) (tileSrc x w) (x.lane (wVA w) t) 1024 256 = some 0 := by
  simp only [vecReady_iff]
  decide +kernel

/-! ## The sequencer, accesses and Bolt operations of a Room -/

/-- LOOP with 1 and 2 passes left, branches taken and not, with the one word 0 as target, and with target 1, past the end. -/
theorem witness_sequencer :
    (∀ g ∈ [0, 1, 2], ∀ op ∈ [0x12, 0x13, 0x14], ∀ imm ∈ [0, 1],
      VecReady (vecRun (vword op (imm := imm) + 2 ^ 40) (BitVec.ofNat 32 g)) 0 op (vword op (imm := imm) + 2 ^ 40) fi0) ∧
    (∀ g ∈ [0, 1, 2], ((vecRun (vword 0x12 + 2 ^ 40) (BitVec.ofNat 32 g)).room 0).gReg (wGA (vword 0x12 + 2 ^ 40)) = g) ∧
    (vecRun (vword 0x12)).nWords 0 = 1 ∧ VecReady (vecRun (vword 0x11)) 0 0x11 (vword 0x11) fi0 ∧
    (VecReady (vecRun (vword 0x15 7)) 0 0x15 (vword 0x15 7) fi0 ∧ (vecRun (vword 0x15 7)).fenceMet 0 7 = true) := by
  simp only [vecReady_iff]
  decide +kernel

/-- A tensor instruction is in flight: FENCE of the tensor engine is not met; it waits; the instruction completes and it is. -/
def fenceRun (te : List TItem) (wait : SeqWait) : State :=
  { up with mem := image (vword 0x15 1), rooms := [(0, { room0 with te := { queue := te }, ve := { wait } })] }

theorem witness_fence :
    (VecReady (fenceRun [{ word := 2, set := 0 }] .none) 0 0x15 (vword 0x15 1) fi0 ∧
      (fenceRun [{ word := 2, set := 0 }] .none).fenceMet 0 1 = false) ∧
    ((fenceRun [] (.fence 1)).room 0).ve.wait = .fence 1 ∧ (fenceRun [] (.fence 1)).fenceMet 0 1 = true ∧ up.live = true := by
  simp only [vecReady_iff]
  decide +kernel

theorem witness_firingEnds :
    VecReady (vecRun (vword 0x10)) 0 0x10 (vword 0x10) fi0 ∧
    (let x : Room := { room0 with ve := { issued := 2 ^ 24 } }
     x.runst = .run ∧ x.running.isSome = true ∧ 2 ^ 24 ≤ x.ve.issued) := by
  simp only [vecReady_iff]
  decide +kernel

/-- VADD with SUB 1, which it does not use, is badly encoded; VADD of V0 waits for a load of V0. -/
theorem witness_badWord :
    let w := vword 0x30 1
    VecCommand 0 0x30 (.vadd 0) ∧ (vecRun w).seqWord 0 = some (w, fi0) ∧ wOp w = 0x30 ∧ vecBad w = true ∧
      ∀ n ∈ vecRegs w, n ∉ (vecRun w).pendingRegs 0 := by
  refine ⟨by simp [VecCommand], ?_⟩
  decide +kernel

def loadOfV0 : Access := { id := 5, who := .vldm 0 0, ctx := 0, write := false, dva := 0, len := 256 }

theorem witness_wordWaits :
    let w := vword 0x30
    let s : State := { vecRun w with accesses := [loadOfV0] }
    s.seqWord 0 = some (w, fi0) ∧ ∃ n ∈ vecRegs w, n ∈ s.pendingRegs 0 := by decide +kernel

/-- Context 1 owns Wing 0 and eight Bolts; a torus of 2 × 2 × 2 in which this device is node 0. -/
def owned (s : State) : State :=
  { s with wings := [(0, { ctx := some 1 })], ctxs := [(1, { st := .active, wings := 1, bolts := 8, job := 3 })]
           fabric := some 0x0101010000, idNode := 0 }

/-- Room 0 issues word `w` with the address in G1 and G2. -/
def issues (w d : Nat) : State :=
  { owned up with mem := image w, rooms := [(0, { room0 with ve := { g := [(1, BitVec.ofNat 32 d), (2, BitVec.ofNat 32 (d / 2 ^ 32))] } })] }

/-- A DVA by NODE, TIER and OFFSET. -/
def dvaAt (node tier off : Nat) : Nat := node * 2 ^ 48 + tier * 2 ^ 45 + off

/-- VLDM and VSTM: every place an access can go, and what is refused at its source. -/
theorem witness_accesses : ∀ op ∈ [0x24, 0x25], ∀ e ∈ [(dvaAt 0xFFFF 0 256, Place.here 0), (dvaAt 0xFFFF 1 0, .here 1),
      (dvaAt 0 3 0, .here 3), (dvaAt 1 1 0, .away), (dvaAt 0xFFFF 5 0, .register), (dvaAt 0xFFFF 6 0, .bad 0x07),
      (dvaAt 0xFFFF 0 (2 ^ 24), .bad 0x06)],
    let w := vword op + 2 ^ 40
    let s := issues w e.1
    VecReady s 0 op w fi0 ∧ s.outstanding 0 < 32 ∧ s.roomCtx 0 = some 1 ∧
      (BitVec.ofNat 64 ((s.room 0).gReg 1 + 2 ^ 32 * (s.room 0).gReg 2) : Dva).toNat % 256 = 0 ∧
      s.place 1 (op == 0x25) (BitVec.ofNat 64 ((s.room 0).gReg 1 + 2 ^ 32 * (s.room 0).gReg 2)) = e.2 := by
  simp only [vecReady_iff]
  decide +kernel

theorem witness_storesAway :
    let w := vword 0x25 + 2 ^ 40
    (∀ d ∈ [dvaAt 0x8001 1 0, dvaAt 0xFFFF 4 0], VecReady (issues w d) 0 0x25 w fi0) ∧
      (issues w 0).place 1 true (BitVec.ofNat 64 (dvaAt 0x8001 1 0)) = .group ∧
      (issues w 0).place 1 true (BitVec.ofNat 64 (dvaAt 0xFFFF 4 0)) = .config := by
  simp only [vecReady_iff]
  decide +kernel

/-- BOLTOP: a posted ARRIVE of one at Bolt 7, an ARRIVE_WAIT, a remote one at a node there is and one there is not. -/
def boltWord (op scope idx operand : Nat) : Nat := vword 0x16 (imm := operand) (shape := idx + scope * 2 ^ 15 + op * 2 ^ 16) + 2 ^ 40

theorem witness_boltop :
    (∀ op ∈ [1, 2], ∀ n ∈ [1, 65535],
      let w := boltWord op 0 7 n
      VecReady (issues w 0) 0 0x16 w fi0 ∧ roomImm2Bad (wImm2 w) = false ∧ (issues w 0).roomCtx 0 = some 1 ∧
        imm2Op (wImm2 w) = op ∧ bitsOf (wImm2 w) 0 15 < ((issues w 0).ctx 1).bolts ∧ bitOf (wImm2 w) 15 = false ∧
        (BitVec.ofNat 32 (wImm w + ((issues w 0).room 0).gReg (wGB w)) : W32).toNat = n) ∧
    (let w := boltWord 8 1 0 0
     VecReady (issues w 0) 0 0x16 w fi0 ∧ roomImm2Bad (wImm2 w) = false ∧ imm2Op (wImm2 w) = 8) ∧
    (let w := boltWord 3 1 0 1
     let s := issues w (2 * 2 ^ 16)
     VecReady s 0 0x16 w fi0 ∧ roomImm2Bad (wImm2 w) = false ∧ bitOf (wImm2 w) 15 = true ∧ imm2Op (wImm2 w) = 3 ∧
       (s.room 0).gReg (wGA w) / 2 ^ 16 = 2 ∧ s.idNode = 0 ∧ s.nodeOk 2 = false) := by
  simp only [vecReady_iff]
  decide +kernel

/-- Responses: a load whole, a store done, a fault, and a load with a poisoned unit. -/
def answered (who : Requester) (code : Byte) (poison : List Nat) : State :=
  { up with rooms := [(0, room0)], accesses := [{ loadOfV0 with who, st := .done code (List.replicate 256 1) poison }] }

theorem witness_response : ∀ c ∈ [0, 6, 15], ∀ p ∈ [[], [3]], ∀ who ∈ [Requester.vldm 0 0, .vstm 0],
    ((answered who (BitVec.ofNat 8 c) p).access 5).any (fun a => decide (a.who = who ∧
      a.st = .done (BitVec.ofNat 8 c) (List.replicate 256 1) p)) = true ∧
    ((answered who (BitVec.ofNat 8 c) p).room 0).runst ≠ .fault := by decide +kernel

/-! ## Queues and slots -/

def dataEntry : Entry := { kind := 0, payload := 7, src := 1, out := false }

/-- Slot 0 of Room 0 with bytes of its header set. -/
def header (fields : List (Nat × List Byte)) : Memory := fields.foldl (fun m e => memWrites m (slotKey 0 0 e.1) e.2) []

/-- Room 0 alone, with a header. -/
def roomUp (x : Room) (h : List (Nat × List Byte) := []) : State := { owned up with mem := header h, rooms := [(0, x)] }

/-- A spill area of two entries at the start of the Shelf (the profile's LIMIT 2, and VALID). -/
def spillTwo : W16 := 65

/-- An arrival: on chip with 15 there, behind an entry moving back, spilled with 16 there, and of the reserved kind. -/
theorem witness_arrival :
    (∀ i ∈ [({ onchip := List.replicate 15 dataEntry, transit := [dataEntry] } : InPort),
        { onchip := [dataEntry], moving := [{ entry := dataEntry, refill := true }], transit := [dataEntry] },
        { onchip := List.replicate 16 dataEntry, transit := [dataEntry], profile := spillTwo },
        { onchip := List.replicate 16 dataEntry, spilled := [(0, 1, false)], transit := [dataEntry], profile := spillTwo }],
      portFull i = false ∧ i.transit.find? (fun e => e.src == 1 && e.out == false) = some dataEntry) ∧
    onChipHeld ({ onchip := List.replicate 15 dataEntry } : InPort) < 16 ∧
    (up.live = true ∧ memWf (roomUp {}).mem = true) ∧
    ({ dataEntry with kind := 3 } : Entry).kind = 3 := by decide +kernel

/-- A refill in its rotation; entries becoming visible, one from a poisoned unit. -/
theorem witness_refill :
    (let x : Room := { room0 with in2 := { spilled := [(0, 1, false)], profile := spillTwo }, rotOut := some 3 }
     nextInRotation x.rotOut (fun p => canRefill (x.inPort p)) = some 2) ∧
    ∀ b ∈ [false, true], let m : Moving := { entry := dataEntry, refill := true, bad := b }
      let x : Room := { room0 with in0 := { moving := [m, { m with refill := false }, m] } }
      ∃ rest, (x.inPort 0).moving = m :: rest ∧ x.runst ≠ .fault ∧ m.bad = b :=
  ⟨by decide +kernel, fun b _ => ⟨_, rfl, by simp [room0], rfl⟩⟩

/-- OUT0 of Room 0 sends to port 1 of Rooms 1 and 2, which have a credit; a credit is on its way back. -/
def outRoom : Room := { room0 with out0 := { leaving := [(dataEntry, true)] }, firings := [{ fi0 with ended := true, left0 := 1 }] }
def outUp : State :=
  { roomUp outRoom [(17, [0x40]), (32, [1, 0x14, 2, 0x14])] with rooms := [(0, outRoom), (1, { in0 := { freed := [(3, 1)] } })] }

theorem witness_output_dests : hDests (outUp.header 0 0) 0 = [(1, 1), (2, 1)] := by decide +kernel

theorem witness_output :
    ((outUp.room 0).outPort false).leaving = [(dataEntry, true)] ∧
      (∀ d ∈ hDests (outUp.header 0 0) 0, (hDests (outUp.header 0 0) 0).count d ≤ outUp.credit d) ∧
      maySend false (outUp.room 0).firings = true ∧ outUp.live = true ∧ (outUp.room 0).runst ≠ .fault ∧
      0 < mapGet 0 ((outUp.room 1).inPort 0).freed ((1 : RoomId).toNat * 2 + boolNat true) := by
  have h : ([(1, 1), (2, 1)] : List (RoomId × PortId)).count (1, 1) ≤ outUp.credit (1, 1) ∧
      ([(1, 1), (2, 1)] : List (RoomId × PortId)).count (2, 1) ≤ outUp.credit (2, 1) := by decide +kernel
  refine ⟨by decide +kernel, ?_, by decide +kernel, by decide +kernel, by decide +kernel, by decide +kernel⟩
  rw [witness_output_dests]
  intro d hd
  simp only [List.mem_cons, List.not_mem_nil, or_false] at hd
  rcases hd with rfl | rfl
  · exact h.1
  · exact h.2

/-- One port in MASK_IN holds its parcel: the slot can fire, alone and beside one firing in flight; two are too many. -/
theorem witness_fires :
    (∀ fs ∈ [[], [fi0]], (roomUp { runst := .run, in0 := { onchip := [dataEntry] }, firings := fs, firePending := true }
      [(17, [0x01])]).canFire 0 = true) ∧
    (roomUp { runst := .run, in0 := { onchip := [dataEntry] }, firings := [fi0, { fi0 with set := 1 }] } [(17, [0x01])]).canFire 0 = false ∧
    (roomUp { runst := .run, firings := [fi0] } [(17, [0x01])]).canFire 0 = false := by decide +kernel

/-- Heads that fault, in RUN or HALT: a token in a port of MASK_IN, and a parcel that is not; and heads that do not. -/
theorem witness_heads :
    headFault { in0 := { onchip := [{ dataEntry with kind := 1 }] } } ((roomUp {} [(17, [0x01])]).header 0 0) = some 0 ∧
    headFault { in0 := { onchip := [dataEntry] } } ((roomUp {} [(17, [0x01])]).header 0 0) = none ∧
    (roomUp { runst := .run, in0 := { onchip := [dataEntry] }, firePending := true } [(17, [0x01])]).canFire 0 = true := by
  decide +kernel

/-- ROUTE of a token 1 forwards by its output, GATE of a token 0 discards. -/
def steerUp (op token : Nat) : State :=
  roomUp { runst := .run, in0 := { onchip := [dataEntry] }, in1 := { onchip := [{ dataEntry with kind := 1, payload := BitVec.ofNat 512 token }] } }
    [(24, natLe 4 (op + 1 * 8 + 0 * 32))]

theorem witness_steered :
    unitAct ((steerUp 2 1).room 0) ((steerUp 2 1).header 0 0) 0 = some (.forward 0) ∧
      unitAct ((steerUp 3 0).room 0) ((steerUp 3 0).header 0 0) 0 = some (.discard 0) ∧
      (∀ op ∈ [2, 3], parcelReady (((steerUp op 1).room 0).inPort 0) (hSteer ((steerUp op 1).header 0 0) 0).plen = true) ∧
      (steerUp 2 1).creditsFor 0 ((hSteer ((steerUp 2 1).header 0 0) 0).fwd == 1) 1 = true := by decide +kernel

/-- A Room that waits for a parcel while its other port holds one is blocked; reports with and without a cycle. -/
def blockedUp : State := roomUp { runst := .run, in0 := { onchip := [dataEntry] }, windows := 3 } [(17, [0x03])]

/-- A report that Room `r` waits for Room `q`. -/
def waits (r q : Nat) : BitVec 128 := BitVec.ofNat 128 (r + 2 ^ 21 + q * 2 ^ 32)

theorem witness_stall :
    (blockedUp.blocked 0 = true ∧ blockedUp.roomCtx 0 = some 1 ∧ blockedUp.live = true) ∧
    cycleOf [waits 1 2] = [] ∧ cycleOf [waits 1 2, waits 2 1] ≠ [] ∧ cycleOf [waits 1 1] ≠ [] ∧
    (let s := blockedUp.updCtx 1 fun c => { c with hangLimit := 3 }
     s.blocked 0 = true ∧ s.roomCtx 0 = some 1 ∧ 0 < (s.ctx 1).hangLimit ∧ (s.ctx 1).hangLimit ≤ (s.room 0).windows.toNat) := by
  decide +kernel

/-- END triggers, retirement to idle, to an EMPTY and to a READY slot, and switches that wait for a load or do not. -/
theorem witness_slotSwitch :
    (let s := roomUp { runst := .run, in3 := { onchip := [{ dataEntry with kind := 2 }] } } [(16, [0x10]), (21, [0x08])]
     hTrigger (s.header 0 0) = 1 ∧ pick 4 (hEndMask (s.header 0 0)) = [3] ∧
       ∀ p ∈ pick 4 (hEndMask (s.header 0 0)), ((s.room 0).inPort (BitVec.ofNat 2 p)).onchip.head?.any isEnd = true) ∧
    hStop ((roomUp { runst := .run, trigMet := true } [(7, [2])]).header 0 0) = true ∧
    (let h := (roomUp {} [(16, [0x01])]).header 0 0
     hStop h = false ∧ hNext h = 1 ∧ ({} : Room).slotSt 1 = .empty ∧
       ({ slots := [(0, .ready), (1, .loading)] } : Room).slotSt 1 ≠ .empty) ∧
    (∀ st ∈ [SlotSt.ready, .empty], let x : Room := { runst := .switch, slots := [(2, st)], switching := some { target := 2, loadWait := true } }
      x.switching = some { target := 2, loadWait := true } ∧ x.slotSt 2 = st) := by decide +kernel

/-- The control space: HALT takes effect, FORCE of a FORCE trigger, START of a READY slot, profiles refused and accepted. -/
theorem witness_control :
    hTrigger ((roomUp {} [(16, [0x40])]).header 0 0) = 4 ∧
    ({ slots := [(7, .ready)] } : Room).slotSt 7 ≠ .empty ∧
    (roomUp { in0 := { onchip := [dataEntry] } }).profRefused 0 0 65 = true ∧
    (roomUp {}).profRefused 0 0 (1 + 1024 * 32) = false ∧ (roomUp {}).profRefused 0 0 (1 + 1025 * 32) = true ∧
    profLimit (1 + 1024 * 32) = 1024 := by decide +kernel

/-- Slot windows and loads: an ACTIVE slot, a READY one, the last image unit, a full load queue, and a load whose image is
good. -/
def goodImage : List Byte :=
  layout 64 [(0, 4, 0x53474643), (4, 2, 64), (6, 1, 1), (8, 4, (crc32c ((layout 64 [(0, 4, 0x53474643), (4, 2, 64), (6, 1, 1)]).drop 12)))]

def loadUp (mem : Memory) : State :=
  { owned up with mem, wings := [(0, { ctx := some 1, loading := some { loff := 0, slot := 2, mask := 1, lbx := some (2, 9) } })]
                  lbxs := [(2, { ready := true, hello := true })] }

theorem witness_images :
    ({ slots := [(2, .active)] } : Room).slotSt 2 = .active ∧ ({ slots := [(2, .ready)] } : Room).slotSt 2 ≠ .active ∧
    (let s := { up with wings := [(0, { loadQ := [{ loff := 0, slot := 2, mask := 0x8001 }] })] }
     (s.wing 0).loadQ = [{ loff := 0, slot := 2, mask := 0x8001 }] ∧ (s.wing 0).loading = none ∧ (s.wing 0).loadQ.length < 8 ∧
       (∀ r ∈ maskRooms 0 0x8001, s.slotBusy r 2 = false) ∧ s.work? 0 = none) ∧
    (let s := loadUp (memWrites [] (larderKey 0 0) goodImage)
     memWf s.mem = true ∧ (s.wing 0).loading = some { loff := 0, slot := 2, mask := 1, lbx := some (2, 9) } ∧ (9 : W64) ∉ (s.lbx 2).mute ∧
       headerOk { bytes := s.read (larderKey 0 0) 64 } = true ∧
       crc32c ((s.read (larderKey 0 0) 64).drop 12) = hNat { bytes := s.read (larderKey 0 0) 64 } 8 4) := by decide +kernel

/-! ## The tensor engine -/

theorem tensorReady_iff {s : State} {r : RoomId} {op w p : Nat} :
    TensorReady s r op w p ↔ w % 256 = op ∧ (s.tensorHead r).any (fun i => i.1 == p && decide (i.2.word.toNat = w)) = true := by
  simp only [TensorReady, Option.any_eq_true, Bool.and_eq_true, beq_iff_eq, decide_eq_true_eq]
  exact and_congr_right fun _ => ⟨fun ⟨i, h, e⟩ => ⟨_, h, rfl, e⟩, fun ⟨⟨_, i⟩, h, e, f⟩ => ⟨i, h.trans (by cases e; rfl), f⟩⟩

def teRun (w : Nat) (te : Tensor := {}) : State :=
  { up with rooms := [(0, { runst := .run, te := { te with queue := [{ word := BitVec.ofNat 128 w, set := 0 }] } })] }

/-- An MMA word: opcode, format of A and B, INIT, strides of one unit. -/
def mmaWord (op fmt : Nat) : Nat := op + fmt * 2 ^ 8 + fmt * 2 ^ 13 + 2 ^ 34 + 2 ^ 54 + 2 ^ 78

/-- INT8 and an 8-bit float; B from memory and from the chain; the last long format; slices. -/
theorem witness_mma : ∀ w ∈ [mmaWord 1 1, mmaWord 1 2, mmaWord 2 2, mmaWord 3 1],
    TensorReady (teRun w) 0 (w % 256) w 0 ∧ ((teRun w).mmaCheck 0 w).isNone = true ∧ tBsrc w = false ∧ memWf (teRun w).mem = true := by
  simp only [tensorReady_iff]
  decide +kernel

theorem witness_mmaChain : ∀ w ∈ [mmaWord 1 1 + 2 ^ 38 - 2 ^ 78, mmaWord 2 2 + 2 ^ 38 - 2 ^ 78],
    TensorReady (teRun w) 0 (w % 256) w 0 ∧ ((teRun w).mmaCheck 0 w).isNone = true ∧ tBsrc w = true := by
  simp only [tensorReady_iff]
  decide +kernel

/-- Checks that fail: a reserved bit, rows past the Shelf, a poisoned operand. -/
def Stops (o : Option TOut) (n : Nat) : Bool :=
  match o, n with
  | some .encoding, 1 => true
  | some .bounds, 2 => true
  | some (.poison _), 3 => true
  | _, _ => false

theorem witness_mmaStops : ∀ op ∈ [1, 2, 3],
    let f := if op = 2 then 2 else 1
    (TensorReady (teRun (mmaWord op f + 2 ^ 37)) 0 op (mmaWord op f + 2 ^ 37) 0 ∧
      Stops ((teRun (mmaWord op f + 2 ^ 37)).mmaCheck 0 (mmaWord op f + 2 ^ 37)) 1 = true) ∧
    Stops ((teRun (mmaWord op f + (2 ^ 14 - 1) * 2 ^ 64)).mmaCheck 0 (mmaWord op f + (2 ^ 14 - 1) * 2 ^ 64)) 2 = true ∧
    Stops (({ teRun (mmaWord op f) with poison := [shelfKey 0 0 / 64] } : State).mmaCheck 0 (mmaWord op f)) 3 = true := by
  simp only [tensorReady_iff]
  decide +kernel

/-- A block whole, poisoned and of the wrong length; the last of an instruction of two, and the first. -/
def blockUp (w n : Nat) : State :=
  { up with rooms := [(0, { runst := .run, te := { queue := [{ word := BitVec.ofNat 128 w, set := 0 }], waiting := true, blockNo := n }
                            chain := [{ stream := 0, mask := 1, len := 4096, data := [] }] })] }

theorem witness_blocks :
    let w := mmaWord 1 1 + 2 ^ 38 + 2 ^ 22 - 2 ^ 78
    (∀ n ∈ [0, 1], ((blockUp w n).room 0).te.waiting = true ∧ ((blockUp w n).room 0).te.blockNo = n ∧
      ((blockUp w n).room 0).chain[((blockUp w n).room 0).chainUsed]? = some { stream := 0, mask := 1, len := 4096, data := [] }) ∧
    blockBytes (tBfmt w) = 4096 ∧ (tKT w + 1) * 2 ^ tNT w = 2 ∧ shapeOk w = true ∧ w % 256 = 1 ∧ (up.live = true) ∧
    blockBytes (tBfmt (mmaWord 2 2)) = 4096 ∧ mmaWord 2 2 % 256 ≠ 1 ∧ 4095 ≠ blockBytes (tBfmt w) := by decide +kernel

/-- A drain of bank 1 behind an MMA of bank 0 that waits for its block; a block whose rows of A hold poison, and one whose do not. -/
theorem witness_behindBlock :
    let w := mmaWord 1 1 + 2 ^ 38 - 2 ^ 78
    let d := 8 + 0x0C * 2 ^ 8 + 16 * 2 ^ 54 + 2 ^ 18 + 1024 * 2 ^ 40
    let s : State := { up with rooms := [(0, { runst := .run, te := { waiting := true, cls1 := .float, queue := [
      { word := BitVec.ofNat 128 w, set := 0 }, { word := BitVec.ofNat 128 d, set := 0 }] } })] }
    TensorReady s 0 8 d 1 ∧ drainBad (s.room 0).te d = false ∧ rangesOut (drainRanges d) = false ∧
      (blockUp w 0).rangesPoison 0 (blockRanges w 0) = none ∧
      ({ blockUp w 0 with poison := [shelfKey 0 0 / 64] } : State).rangesPoison 0 (blockRanges w 0) ≠ none := by
  simp only [tensorReady_iff]
  decide +kernel

/-- ACC_ZERO of a bank and of a long tile; drains of FP32, kept or not, and RAW; loads of FP32, INT32 and RAW. -/
def longTe : Tensor := { cls0 := .long, cls1 := .long, cls2 := .long, cls3 := .long }
def drainWord (op fmt flags : Nat) : Nat := op + fmt * 2 ^ 8 + flags * 2 ^ 24 + 16 * 2 ^ 54

theorem witness_drains :
    (∀ te ∈ [({} : Tensor), longTe], ∀ w ∈ [0x0A, 0x0A + 3 * 2 ^ 18, 0x0A + 2 ^ 20 + 2 ^ 22],
      TensorReady (teRun w te) 0 0x0A w 0 ∧ shapeOk w = true ∧ bitsOf w 8 10 = 0 ∧ bitsOf w 24 104 = 0) ∧
    (∀ e ∈ [(({ cls0 := .float } : Tensor), drainWord 8 0x0C 0), ({ cls0 := .float }, drainWord 8 0x0C 32), (longTe, drainWord 8 0x0C 0),
        (longTe, drainWord 8 0 1 + 1024 * 2 ^ 64)],
      TensorReady (teRun e.2 e.1) 0 8 e.2 0 ∧ drainBad ((teRun e.2 e.1).room 0).te e.2 = false ∧ rangesOut (drainRanges e.2) = false) ∧
    (∀ w ∈ [drainWord 9 0x0C 0, drainWord 9 0x0E 0, drainWord 9 0 1 + 1024 * 2 ^ 64],
      TensorReady (teRun w) 0 9 w 0 ∧ drainResv w = false ∧ shapeOk w = true ∧ rangesOut (drainRanges w) = false ∧
        (teRun w).rangesPoison 0 (drainRanges w) = none) ∧ longShape (drainWord 9 0 1) = true ∧
    (let w := drainWord 8 0x0C 0 + 2 ^ 30
     TensorReady (teRun w) 0 8 w 0 ∧ drainBad ((teRun w).room 0).te w = true) ∧
    (let w := drainWord 8 0x0C 0 + (2 ^ 14 - 1) * 2 ^ 40
     TensorReady (teRun w) 0 8 w 0 ∧ drainBad ((teRun w).room 0).te w = false ∧ rangesOut (drainRanges w) = true) ∧
    (TensorReady (teRun (0x0A + 3 * 2 ^ 20)) 0 0x0A (0x0A + 3 * 2 ^ 20) 0 ∧ shapeOk (0x0A + 3 * 2 ^ 20) = false) := by
  simp only [tensorReady_iff]
  decide +kernel

/-- Rows of such a drain do not overlap. -/
theorem witness_rangesApart : RangesApart (drainRanges (drainWord 8 0x0C 0)) := by
  unfold RangesApart
  decide +kernel

/-! ## Streams -/

theorem entryReady_iff {s : State} {sid : StreamId} {op : Nat} {t : Stream} {w : Nat} :
    EntryReady s sid op t w ↔ s.atEntry sid = some (t, w) ∧ eOp w = op ∧ (t.guardLeft = 0 ∨ (op ≠ 5 ∧ op ≠ 6)) ∧
      skipped? t w = false ∧ s.entryListBad t w = false :=
  ⟨fun h => ⟨h.1, h.2, h.3, h.4, h.5⟩, fun h => ⟨h.1, h.2.1, h.2.2.1, h.2.2.2.1, h.2.2.2.2⟩⟩

/-- A stream in RUN at entry `w`, which is the last of a list of two. -/
def strm (chain : Bool) (w : Nat) : Stream :=
  { chainKind := chain, tclass := false, listBase := dvaOf 1 0, listLen := 2, start := 0, ctx := 1, st := .run
    fetched := [(1, BitVec.ofNat 256 w)], entry := 1 }

def streamUp (t : Stream) : State := { owned up with streams := [(70, t)] }

/-- An entry: OP, LEN, SRC, DST, ARG. -/
def entryOf (op len src dst arg : Nat) : Nat := op + len * 2 ^ 32 + src * 2 ^ 64 + dst * 2 ^ 128 + arg * 2 ^ 192
def at1 (off : Nat) : Nat := dvaAt 0xFFFF 1 off

/-- Every OP with the entry R199 to R203 ask for; XFER of 64 bytes and of 16 MiB, CHAIN of 8,192, LOOP to the last entry, GUARD
of 64 entries, WAIT and BOLT operations. -/
def entries : List (Bool × Nat) :=
  [(false, entryOf 0 0 0 0 0), (false, entryOf 1 64 (at1 64) (at1 0) 0), (false, entryOf 1 (2 ^ 24) (at1 0) (at1 (2 ^ 24)) 0),
   (true, entryOf 2 8192 (at1 0) 0 0 + 0x8001 * 2 ^ 16), (true, entryOf 3 0 0 0 0), (false, entryOf 4 0 0 0 0),
   (false, entryOf 5 0 0 0 1), (false, entryOf 6 0 (at1 8) (1 * 2 ^ 20) 64), (false, entryOf 6 0 (at1 8) (5 * 2 ^ 20) 1),
   (false, entryOf 7 0 0 (3 * 2 ^ 16) 1 + 7 * 2 ^ 16), (false, entryOf 8 0 0 (4 * 2 ^ 16) 1), (false, entryOf 8 0 0 (1 * 2 ^ 20) 1),
   (false, entryOf 0xF 0 0 0 0)]

theorem witness_entries : ∀ e ∈ entries, EntryReady (streamUp (strm e.1 e.2)) 70 (eOp e.2) (strm e.1 e.2) e.2 ∧
    (streamUp (strm e.1 e.2)).listDrained 70 (strm e.1 e.2) = true ∧ (streamUp (strm e.1 e.2)).chainDrained 70 (strm e.1 e.2) = true := by
  simp only [entryReady_iff]
  decide +kernel

/-- The other states of those clauses: a serving stream, an armed gate at its step, a held mask. -/
theorem witness_entriesMore :
    (let t := { strm true (entryOf 3 0 0 0 0) with tclass := true }
     EntryReady (streamUp t) 70 3 t (entryOf 3 0 0 0 0) ∧ t.tclass = true) ∧
    (let t := { strm true (entryOf 4 0 0 0 0) with gateArm := true, gateStep := 9, step := 8 }
     EntryReady (streamUp t) 70 4 t (entryOf 4 0 0 0 0) ∧ t.step + 1 = t.gateStep) ∧
    (let w := entryOf 6 0 (at1 8) (1 * 2 ^ 20) 64
     let t := { strm false w with held := some (eSrc w, eMaskAlt w, BitVec.ofNat 15 (eBolt w), 5) }
     EntryReady (streamUp t) 70 6 t w) := by
  simp only [entryReady_iff]
  decide +kernel

def settled (t : Stream) : Bool :=
  (t.st != .run && t.st != .wait) ||
    (t.pendFault == 0 && !t.cancelReq && t.poisonAt.isNone &&
      match t.fetched with
      | e :: _ => t.st != .run || opDefined (eOp e.2.toNat)
      | [] => decide (t.entry < t.listLen))

theorem settled_iff {t : Stream} : Settled t ↔ settled t = true := by
  unfold Settled settled
  split <;> rename_i h <;> simp [h, and_assoc] <;> grind

/-- What follows from a stream's state by itself: nothing, in the states the statements name. -/
theorem witness_settled : ∀ t ∈ [{ strm false 0 with st := .wait }, { strm false 0 with begun := true }, { strm false 0 with st := .done },
    { advance (strm false 0) with entry := 0 }, advance { strm false 0 with listLen := 3 }], Settled t := by
  simp only [settled_iff]
  decide +kernel

/-- A covered entry whose mask bit is 0, a LIST_BAD XFER of 65 bytes, and a LOOP to the list's end. -/
theorem witness_skipped :
    (let w := entryOf 0 0 0 0 0 + 2 ^ 4 + 63 * 2 ^ 8
     let t := { strm false w with guardLeft := 1, guardMask := 2 ^ 62 }
     (streamUp t).atEntry 70 = some (t, w) ∧ skipped? t w = true) ∧
    (∀ w ∈ [entryOf 1 65 (at1 0) (at1 64) 0, entryOf 5 0 0 0 2],
      (streamUp (strm false w)).atEntry 70 = some (strm false w, w) ∧ skipped? (strm false w) w = false ∧
        (streamUp (strm false w)).entryListBad (strm false w) w = true) ∧
    (let w := entryOf 5 0 0 0 1
     let t := { strm false w with guardLeft := 1 }
     (streamUp t).atEntry 70 = some (t, w) ∧ 0 < t.guardLeft ∧ eOp w = 5 ∧ t.grants = [] ∧ t.study = false) := by decide +kernel

/-- A fetch from the Larder that is asked for, one that the last GUARD skips, one that has come back or failed; arbitration. -/
def larderList : Stream := { strm false 0 with listBase := dvaOf 0 0, fetched := [], entry := 0 }

theorem witness_fetch :
    (nextFetch larderList = some 0 ∧ larderList.st = .run ∧ streamFree larderList = true ∧ larderList.fetched.length ≤ 128 ∧
      0 < larderList.listLen.toNat ∧ larderList.fetching = none ∧ (streamUp larderList).skippedAhead larderList 0 = none) ∧
    (let t := { larderList with guardLeft := 1, guardMask := 0 }
     let s : State := { streamUp t with mem := memWrites [] (larderKey 0 0) [0x10] }
     nextFetch t = some 0 ∧ streamFree t = true ∧ (s.skippedAhead t 0).isSome = true) ∧
    (let t := { larderList with fetching := some 5 }
     ∀ code ∈ [0, 7], let s : State := { streamUp t with
        accesses := [{ loadOfV0 with who := .dw 70, ctx := 1, st := .done (BitVec.ofNat 8 code) (List.replicate 32 0) [] }] }
     nextFetch t = some 0 ∧ (s.access 5).any (fun a => decide (a.st = .done (BitVec.ofNat 8 code) (List.replicate 32 0) [])) = true ∧
       t.grants = [] ∧ t.study = false) ∧
    Settled { larderList with fetched := [(0, BitVec.ofNat 256 (leNat (List.replicate 32 0)))] } ∧
    (9 : BitVec 4).toNat < 10 ∧ mapGet 0 ({ up with stackCh := [(0, 32)] } : State).stackCh 0 ≠ 0 := by
  simp only [settled_iff]
  decide +kernel

/-- A mask access that has come back. -/
theorem witness_maskRead :
    let t := { strm false (entryOf 6 0 (at1 8) (1 * 2 ^ 20) 64) with begun := true, guardLeft := 0, listLen := 3 }
    streamFree t = true ∧ Settled { takeMask t (entryOf 6 0 (at1 8) (1 * 2 ^ 20) 64) 5 with grants := [] } := by
  simp only [settled_iff]
  decide +kernel

def granted (chain mask sent : Bool) (code : Byte) (poison : List Nat) : State :=
  let g : Grant := { exec := 1, word := BitVec.ofNat 256 (entryOf 1 64 (at1 0) (at1 64) 0), off := 0, len := 64, read := 5
                     writes := if sent then [5] else [], sent, mask }
  { streamUp { strm chain 0 with begun := true, grants := [g] } with
    accesses := [{ loadOfV0 with who := .dw 70, ctx := 1, st := .done code (List.replicate 64 0) poison }] }

theorem witness_grants : ∀ chain ∈ [false, true], ∀ mask ∈ [false, true], ∀ sent ∈ [false, true], ∀ code ∈ [0, 7],
    let s := granted chain mask sent (BitVec.ofNat 8 code) []
    (s.stream 70).any (fun t => t.grants.length == 1 && t.chainKind == chain && t.pendFault == 0 && streamFree t &&
      (t.grants.all fun g => g.mask == mask && g.sent == sent && (s.access g.read).any fun a =>
        decide (a.st = .done (BitVec.ofNat 8 code) (List.replicate 64 0) []))) = true := by decide +kernel

/-- The weight chain: a block to send, to deliver, to free, whose bytes have come back, and one that waits. -/
def blk (arrived freed : W16) : ChainBlock := { stream := 70, mask := 1, len := 64, data := [], arrived, freed }

theorem witness_chain :
    (let s := { streamUp (strm true 0) with wings := [(0, { ingress := [{ block := blk 0 0, exec := 1, asked := 64, missing := 0 }] })] }
     s.live = true ∧ (s.wing 0).ingress.length = 1 ∧ s.lacking 0 (blk 0 0) = []) ∧
    (let s := { streamUp (strm true 0) with wings := [(0, { sent := [blk 0 0] })] }
     (s.wing (wingOf 0)).sent.find? (fun b => bitOf b.mask.toNat 0 && !bitOf b.arrived.toNat 0) = some (blk 0 0)) ∧
    chainPassed (blk 0 0) 0 = true ∧ chainPassed { blk 0 0 with mask := 3 } 1 = false ∧
    0 < ({ chain := [blk 1 0], chainUsed := 1 } : Room).chainUsed ∧
    ([blk 1 1].find? fun b => b.freed == b.mask) = some (blk 1 1) ∧
    (let s := { streamUp (strm true 0) with
                rooms := [(0, { chain := List.replicate 4 { blk 1 0 with len := 8192 } })]
                wings := [(0, { ingress := [{ block := blk 0 0, exec := 1, asked := 64, missing := 0 }] })] }
     s.lacking 0 (blk 0 0) = [0] ∧ (s.stream 70).isSome = true) := by decide +kernel

/-- The step gate: armed one step ahead, and at the present step; waiting at the gate. -/
theorem witness_gate :
    ({ strm true 0 with step := 8 } : Stream).step < 9 ∧ ¬({ strm true 0 with step := 9 } : Stream).step < 9 ∧
    ({ strm true 0 with st := .wait, waiting := .gate } : Stream).waiting = .gate ∧
    (∀ st ∈ [StreamSt.run, .wait], Settled { clearGate (advance { strm true 0 with listLen := 3 }) with st }) ∧
    (let t := { strm true 0 with st := .wait, waiting := .gate, pendValid := true, pendLen := 2 }
     let moved := { t with listBase := t.pendBase, listLen := t.pendLen, entry := 0, fetched := [], guardLeft := 0, begun := false }
     t.gateAbort = false ∧ t.holdEn = false ∧ Settled { clearGate moved with st := .run, waiting := .none } ∧
       Settled { moved with gateGo := true, st := .wait, waiting := .hold }) := by
  simp only [settled_iff]
  decide +kernel

/-- Nothing waits for the end of a step or for a stream. -/
theorem witness_quiet : Quiet up := by simp [Quiet, NoRelease, up, State.reset]

/-- STREAM_CREATE of a copy stream and of a CHAIN stream at the Dumbwaiter's full rate; the other commands of a stream. -/
def descFields (chain : Bool) (rate : Nat) : List (Nat × Nat × Nat) :=
  [(16, 1, boolNat chain), (20, 2, if chain then rate else 0), (22, 2, if chain then 0 else 10), (24, 8, (dvaOf 1 0).toNat), (32, 3, 2),
   (64, 8, (dvaOf 1 64).toNat)]
def createReq (chain : Bool) (rate : Nat) : Req := reqOf 2 0x0401 1 (descFields chain rate)

theorem witness_create : ∀ chain ∈ [false, true],
    let q := createReq chain 1
    let s := asked { owned up with stackCh := [(0, 32)] } q
    Accepted s q 0x0401 [(16, 0, 512)] [] ∧ (s.ctx (reqCtx q)).st = .active ∧ descReserved (reqNat q 16 64) = false ∧
      s.descStatus (reqCtx q) (bitsOf (reqNat q 16 64) 8 4) { streamOf (reqCtx q) (reqNat q 16 64) with hostMade := true } s.heldStreams = 0 ∧
      freeStream s.heldStreams (bitsOf (reqNat q 16 64) 8 4) = some 0 := by
  simp only [accepted_iff]
  decide +kernel

theorem witness_streamCommands : ∀ op ∈ [0x0402, 0x0403, 0x0404, 0x0405], ∀ st ∈ [StreamSt.created, .run, .wait, .done],
    let q := reqOf 2 op 1 [(16, 2, 70)]
    let s := asked (streamUp { strm false 0 with st }) q
    Accepted s q op [(16, 0, 16)] [] ∧ reqNat q 16 2 = 70 ∧
      (s.stream 70).any (fun t => t.ctx == reqCtx q && t.st == st && t.model.isNone && t.grants.isEmpty && t.pendFault == 0) = true := by
  simp only [accepted_iff]
  decide +kernel

/-! ## Bolts -/

/-- Bolt 5 of context 1, whose Bolts begin at 0, and the operation at the head of its die's engine. -/
def boltUp (x : Bolt) (op : Nat) (operand : W32) (cond : Nat := 0) : State × BoltReq :=
  let q : BoltReq := { who := .room 0, ctx := 1, bolt := 5, op := BitVec.ofNat 4 op, cond := BitVec.ofNat 3 cond, operand }
  ({ owned up with bolts := [(5, x)], boltQ := [(0, [q])], rooms := [(0, room0)] }, q)

theorem engineHead (x : Bolt) (op : Nat) (operand : W32) (cond : Nat) :
    EngineHead (boltUp x op operand cond).1 0 (BitVec.ofNat 4 op) (boltUp x op operand cond).2
      { (boltUp x op operand cond).1 with boltQ := mapSet [(0, [(boltUp x op operand cond).2])] 0 [] } :=
  ⟨⟨[], rfl, rfl⟩, rfl, rfl⟩

/-- WAIT on PHASE of a barrier and on VALUE of a counter, holding and not; operations refused nothing, on a Bolt in error. -/
theorem witness_boltReads :
    (∀ barrier ∈ [false, true], ∀ cond ∈ [1, 2, 3, 4, 5],
      (∃ v ∈ [0, 1], condHolds { barrier, value := BitVec.ofNat 32 v, phase := BitVec.ofNat 32 v } (BitVec.ofNat 3 cond) 0 = true) ∨
      (∃ v ∈ [0, 1], condHolds { barrier, value := BitVec.ofNat 32 v, phase := BitVec.ofNat 32 v } (BitVec.ofNat 3 cond) 1 = true)) ∧
    condHolds {} 1 0 = false ∧
    (boltUp { barrier := true } 0 1 1).1.tableFull 5 = false ∧
    opRefused {} (boltUp {} 0 1).2 = false ∧ opRefused { barrier := true, error := true } (boltUp {} 1 1).2 = false ∧
    opRefused { error := true } (boltUp {} 3 1).2 = false := by decide +kernel

/-- Arrivals at a root barrier of COUNT 2: one below it, one that reaches it, 65,535 at once; at a barrier that is no root. -/
theorem witness_arrivals : ∀ root ∈ [false, true], ∀ n ∈ [1, 2, 65535], ∀ v ∈ [0, 1],
    let x : Bolt := { barrier := true, root, count := 2, value := BitVec.ofNat 32 v }
    let e := boltUp x 1 (BitVec.ofNat 32 n)
    opRefused x e.2 = false ∧ x.error = false ∧ x.waiters = [] ∧ x.value.toNat + e.2.operand.toNat < 2 ^ 32 ∧ 0 < x.count.toNat ∧
      (e.1.boltCtx 5).isSome = true ∧ ((e.1.ctx 1).pre.isNone) = true ∧ (e.1.bolt 5) = x := by decide +kernel

/-- ADD, SET and ACQUIRE of a counter, of its whole VALUE and of one more. -/
theorem witness_counters : ∀ op ∈ [3, 4, 5], ∀ n ∈ [7, 8],
    let x : Bolt := { value := 7, count := 9 }
    let e := boltUp x op (BitVec.ofNat 32 n)
    opRefused x e.2 = false ∧ x.error = false ∧ x.waiters = [] ∧ e.1.tableFull 5 = false ∧ e.1.bolt 5 = x := by decide +kernel

/-- Results for a Room that waits with and without a register, for a stream, and for the Porch. -/
theorem witness_results :
    (∀ ret ∈ [none, some (0 : BitVec 4), some 15], ∀ error ∈ [false, true],
      let s : State := { up with rooms := [(0, { room0 with ve := { wait := .bolt ret } })], boltRsp := [{ who := .room 0, error, result := 9 }] }
      s.boltRsp[0]?.isSome = true ∧ (s.room 0).ve.wait = .bolt ret ∧ (s.room 0).runst ≠ .fault) ∧
    (∀ w ∈ [StreamWait.boltEntry, .layerBolt, .hold],
      let t := { strm true 0 with st := .wait, waiting := w, listLen := 3 }
      t.fetched ≠ [] ∧ Settled { advance t with st := .run } ∧ Settled { clearGate t with st := .run, waiting := .none }) ∧
    (let s : State := { up with boltRsp := [{ who := .porch 2, error := false, result := 0 }] }
     s.boltRsp[0]?.isSome = true ∧ (s.boltRsp.take 0).all (fun r => !isPorch r.who) = true) ∧
    ({ strm true 0 with st := .wait, waiting := .guard } : Stream).fetched ≠ [] := by
  simp only [settled_iff]
  decide +kernel

/-- A slot trigger registered, met, and aborted. -/
theorem witness_triggers :
    (let q : BoltReq := { who := .trigger 0, ctx := 1, bolt := 5, op := opTrigger, cond := 0, operand := 0 }
     let s := { owned up with boltQ := [(0, [q])] }
     (List.range 4).find? (fun d => (mapGet [] s.boltQ d).head?.any fun q => q.op == opTrigger && q.who == .trigger 0) = some 0 ∧
       mapGet [] s.boltQ 0 = [q] ∧ (s.bolt 5).error = false ∧ s.tableFull 5 = false ∧ s.live = true) ∧
    (∀ error ∈ [false, true], let s : State := { up with rooms := [(0, { room0 with trig := .sent })]
                                                         boltRsp := [{ who := .trigger 0, error, result := 0 }] }
      (s.boltRsp.find? (fun q : BoltRsp => q.who == .trigger 0)).isSome = true ∧ (s.room 0).trig ≠ .none ∧ (s.room 0).runst = .run) ∧
    (let s := { owned up with bolts := [(5, { waiters := [{ who := .room 0, op := 0, cond := 1, operand := 1 }] })] }
     (s.bolt 5).waiters[0]?.isSome = true ∧ s.boltCtx 5 = some 1 ∧ (s.bolt 5).held = false) := by decide +kernel

/-- BOLT_CONFIG of a free Bolt, of one with an error, BOLT_READ and BOLT_ABORT of the last Bolt of the context. -/
def configFields : List (Nat × Nat × Nat) := [(16, 0, 15), (18, 0, 3), (20, 0, 32), (24, 0, 32)]

theorem witness_boltCommands :
    (∀ barrier ∈ [0, 1], let q := reqOf 2 0x0304 1 [(16, 2, 7), (18, 1, barrier), (20, 4, 1)]
      Accepted (asked (owned up) q) q 0x0304 configFields [(20, reqBit q 18 0 && reqNat q 20 4 == 0)] ∧
        reqNat q 16 2 < ((asked (owned up) q).ctx (reqCtx q)).bolts ∧ isTree ({} : Bolt) = false) ∧
    (∀ op ∈ [0x0305, 0x0306], let q := reqOf 2 op 1 [(16, 2, 7)]
      Accepted (asked (owned up) q) q op [(16, 0, 15)] [] ∧ ((asked (owned up) q).bolt 7).error = false) ∧
    isTree ({ root := false } : Bolt) = true := by
  simp only [accepted_iff]
  decide +kernel

/-! ## Home controllers and translation -/

/-- An access of a Room in context 1, at a state of its way. -/
def acc (write : Bool) (d : Dva) (st : AccState) : Access :=
  { id := 5, who := if write then .vstm 0 else .vldm 0 0, ctx := 1, write, dva := d, len := 256, st
    data := if write then List.replicate 256 1 else [] }
def accUp (a : Access) : State := { owned up with accesses := [a], stackCh := [(0, 32)], annexUp := [(1, true)] }

theorem accessReady_iff {s : State} {id : Nat} {a : Access} {e : W64} {sub : Bool} : AccessReady s id a e sub ↔
    s.access id = some a ∧ a.st = .translated e sub ∧ Internal a.who ∧ s.behindOlder a = false ∧
      s.keyHeld (accessKey a e sub) = false ∧ NoRelease s :=
  ⟨fun h => ⟨h.1, h.2, h.3, h.4, h.5, h.6⟩, fun h => ⟨h.1, h.2.1, h.2.2.1, h.2.2.2.1, h.2.2.2.2.1, h.2.2.2.2.2⟩⟩

theorem internal_acc (write : Bool) (d : Dva) (st : AccState) : Internal (acc write d st).who := by cases write <;> trivial

/-- Reads and stores in Pantry and in the Shelf, a store without WRITE, an Annex port that is down. -/
theorem witness_accessReady : ∀ write ∈ [false, true], ∀ e ∈ [(1, leafOf 7 1 false 1024), (0, 0), (1, leafOf 0 1 false 1024), (3, leafOf 7 3 false 0)],
    let a := acc write (dvaOf e.1 512) (.translated e.2 false)
    (accUp a).access 5 = some a ∧ (accUp a).behindOlder a = false ∧ (accUp a).keyHeld (accessKey a e.2 false) = false ∧ NoRelease (accUp a) ∧
      memWf (accUp a).mem = true ∧
      (accessStop (accUp a) a e.2 false = 0 ↔ e.1 = 0 ∨ (e.1 = 1 ∧ (write = false ∨ eWrite e.2 = true))) := by
  unfold NoRelease
  decide +kernel

/-- Lookups: a hit, a miss beside a walk of the page, a miss alone, a miss with 32 walks in flight, and one at the head of those
that wait. -/
def walk (k level : Nat) : Walk :=
  { ctx := 1, ns := 1, vpn := BitVec.ofNat 24 k, sub := 0, level, waiters := [9], table := 192, subtab := 193 * 128 }
def missUp (ws : List Walk) (es : List TpmEntry) (q : List Nat := []) : State :=
  { accUp (acc false (dvaOf 1 256) .issued) with slices := [(0, { entries := es, walks := ws, waitq := q })] }

theorem witness_lookups :
    (let s := missUp [] [{ ctx := 1, ns := 1, vpn := 0, sub := 32, entry := leafOf 7 1 false 1024 }]
     (s.access 5).isSome = true ∧ s.isLocal (dvaOf 1 256) = true ∧ dvaTier (dvaOf 1 256) = 1 ∧ (s.sliceHit 1 1 256).isSome = true) ∧
    (∀ ws ∈ [[walk 0 1], [walk 4 1], (List.range 32).map fun k => walk (4 * k + 4) 1],
      ((missUp ws []).sliceHit 1 1 256).isNone = true ∧ ∀ w ∈ ws, 5 ∉ w.waiters) ∧
    (let s := missUp [] [] [5]
     (s.waitingIn (mapGet {} s.slices 0)).head? = some 5 ∧ (s.sliceHit 1 1 256).isNone = true) := by decide +kernel

/-- Walks: every level, entries good and bad, MIG = 1, and subpages of a Larder. -/
def walkUp (level : Nat) (dir leaf sub : W64) : State :=
  { missUp [walk 0 level] [] with
    roots := [(nsKey 1 1, nsKey 1 1)], tables := [(dirWord (nsKey 1 1) 0, dir), (leafWord 192 0, leaf), (subWord (193 * 128) 0, sub)] }

/-- A directory entry that names leaf table 192. -/
def dir192 : W64 := 1 + 192 * 2 ^ 16

theorem witness_walks :
    (∀ level ∈ [0, 1, 2], let s := walkUp level dir192 (leafOf 7 1 false 1024) (subOf 7 0 255)
      (mapGet {} s.slices 0).walks[0]? = some (walk 0 level) ∧ NoRelease s ∧ (∀ a ∈ s.accesses, a.who = .vldm 0 0) ∧
        dirCode (s.dirEntry 1 1 0) = 0 ∧ s.leafCode (s.tableWord (leafWord 192 0)) = 0 ∧
        s.subCode 1 (s.tableWord (subWord (193 * 128) 0)) = 0 ∧ eSub (s.tableWord (leafWord 192 0)) = false) ∧
    dirCode ((walkUp 0 0 0 0).dirEntry 1 1 0) ≠ 0 ∧ (eValid (0x21 : W64) && eMig (0x21 : W64)) = true ∧
    (eSub (leafSubEntry 5) = true ∧ leafSubCode (leafSubEntry 5) = 0 ∧ leafSubCode (0x13 : W64) ≠ 0 ∧ eSub (0x13 : W64) = true) ∧
    (walkUp 1 1 0 0).leafCode (leafOf 7 2 false 0) ≠ 0 ∧ (walkUp 2 1 0 0).subCode 1 (subOf 7 0 256) ≠ 0 := by
  unfold NoRelease
  decide +kernel

/-- A walk that waits on MIG = 1, and an access that does. -/
theorem witness_mig :
    (let s := missUp [{ walk 0 1 with mig := true, waiters := [5] }] []
     (mapGet {} s.slices 0).walks[0]?.any (fun w => w.mig) = true ∧ sliceOf (dvaOff (dvaOf 1 256)) = 0 ∧
       (s.access 5).any (fun a => decide (a.dva = dvaOf 1 256)) = true ∧ NoRelease s) ∧
    (accUp (acc true (dvaOf 2 0) .mig)).access 5 = some (acc true (dvaOf 2 0) .mig) := by
  unfold NoRelease
  decide +kernel

/-- Annex: an access under way to a port; extents at the end of the port's window, one frame past it, and of no frame. -/
theorem witness_annex :
    annexPort (leafOf 7 3 false (2 ^ 23)) false = some 1 ∧ dvaTier (acc true (dvaOf 3 0) (.translated (leafOf 7 3 false (2 ^ 23)) false)).dva ≠ 0 ∧
    (∀ n ∈ [1, 2], let base : W64 := BitVec.ofNat 64 ((annexWindow / 2 ^ 21 - 1) * 2 ^ 21)
      let len : W64 := BitVec.ofNat 64 (n * 2 ^ 21)
      (base.toNat % 2 ^ 21 = 0 ∧ len.toNat % 2 ^ 21 = 0 ∧ 0 < len.toNat ∧ base.toNat + len.toNat ≤ annexWindow) ↔ n = 1) ∧
    (let s := { up with extents := [(1, 0, 2)] }
     s.extentNamed 1 0 2 = false ∧ ({ s with
       roots := [(0, 0)], tables := [(0, dir192), (leafWord 192 0, leafOf 7 3 false (2 ^ 23 + 1))] } : State).extentNamed 1 0 2 = true) := by
  decide +kernel

/-- Units of the four memories that the patrol reads. -/
theorem witness_patrol : keyKind (pantryKey 7 (22888 * 2 ^ 21 - 64) / 64 * 64) = 10 ∧ keyKind (cellarKey 0 0 / 64 * 64) = 11 ∧
    keyKind (shelfKey 1023 0 / 64 * 64) = 1 ∧ keyKind (larderKey 63 0 / 64 * 64) = 2 := by decide +kernel

/-! ## Page-map and Room commands -/

/-- A page-map request: opcode, MAP byte 16, PLACE byte 17, WING, VPN and COUNT. -/
def pageReq (op m place wing vpn count : Nat) : Req :=
  reqOf 2 op 1 [(16, 1, m), (17, 1, place), (18, 1, wing), (20, 3, vpn), (24, 4, count)]
def pageUp (q : Req) : State :=
  asked { (owned up).makeRoots 1 with
    stackCh := [(0, 32), (1, 32)], groupFrames := [(3, 2)], annexUp := [(1, true)], extents := [(1, 0, 1)] } q

/-- PAGE_MAP of whole pages on stack 1, and of subpages in the Larder of the context's Wing, at the last page of TIER 1; none
are mapped there. A tier without memory gives no frame. -/
theorem witness_pageMap :
    (∀ e ∈ [(1 + 7 * 4, 1 + 1 * 8), (1 + 7 * 4 + 32, 0), (2, 2 + 15 * 8), (3, 3 + 1 * 8), (1, 1 + 7 * 8)],
      let q := pageReq 0x0201 e.1 e.2 0 (2 ^ 24 - 1) 1
      Accepted (pageUp q) q 0x0201 [(16, 0, 6), (17, 0, 7), (18, 0, 6), (20, 0, 24), (24, 0, 25)]
        (pmBad q ++ [(17, placeBad q (reqBit q 16 5))]) ∧
      ¬(reqBits q 17 0 2 = 0 ∧ ((pageUp q).ctx (reqCtx q)).wings ≤ reqNat q 18 1) ∧
      ((pageUp q).begun q).mappedIn (reqCtx q) (pmNs q) (pmVpn q) (pmCount q) = []) ∧
    (let q := pageReq 0x0201 (1 + 7 * 4) (1 + 1 * 8) 0 (2 ^ 24 - 1) 1
     (((pageUp q).begun q).mapPages 1 1 7 false (pmPlace ((pageUp q).begun q) q) (2 ^ 24 - 1) 1).isSome = true) ∧
    (let q := pageReq 0x0201 1 (1 + 7 * 8) 0 (2 ^ 24 - 1) 1
     (((pageUp q).begun q).mapPages 1 1 0 false (pmPlace ((pageUp q).begun q) q) (2 ^ 24 - 1) 1).isNone = true) := by
  simp only [accepted_iff]
  decide +kernel

/-- TablesFit, read off the lists. -/
def tablesOk (rs : Map Nat) (ws : Map W64) (lt st : List Nat) : Bool :=
  let root (k : Nat) := (mapFind rs (k / 4096)).isSome
  let leaf (k : Nat) := lt.contains (k / 4096)
  let big (w : W64) := eValid w && eSub w
  rs.all (fun e => decide (e.1 < 192) && e.2 == e.1) && lt.all (fun t => decide (192 ≤ t) && decide (t < 2 ^ 16)) &&
    st.all (fun t => decide (192 ≤ t / 128) && decide (t < 2 ^ 23) && !lt.contains (t / 128)) &&
    ws.all (fun w => root w.1 || leaf w.1 || st.contains (w.1 / 32)) &&
    ws.all (fun w => !root w.1 || (eValid w.2 && lt.contains (eTable w.2))) &&
    ws.all (fun v => ws.all fun w => !root v.1 || !root w.1 || eTable v.2 != eTable w.2 || v.1 == w.1) &&
    ws.all (fun w => !leaf w.1 || !big w.2 || st.contains (eSubtab w.2)) &&
    ws.all (fun v => ws.all fun w => !leaf v.1 || !leaf w.1 || !big v.2 || !big w.2 || eSubtab v.2 != eSubtab w.2 || v.1 == w.1)

theorem tablesFit_of_ok {rs : Map Nat} {ws : Map W64} {lt st : List Nat} (h : tablesOk rs ws lt st = true) : TablesFit rs ws lt st := by
  simp only [tablesOk, Bool.and_eq_true, List.all_eq_true, Bool.or_eq_true, Bool.not_eq_true', decide_eq_true_eq, beq_iff_eq, bne_iff_ne,
    List.contains_eq_mem, decide_eq_false_iff_not] at h
  obtain ⟨⟨⟨⟨⟨⟨⟨h1, h2⟩, h3⟩, h4⟩, h5⟩, h6⟩, h7⟩, h8⟩ := h
  have live {k : Nat} (e : eValid (mapGet 0 ws k) = true) : mapGet 0 ws k ≠ 0 := fun z => by rw [z] at e; revert e; decide
  refine ⟨fun n r e => h1 _ (mem_of_mapFind e), h2, fun t e => ⟨(h3 t e).1.1, (h3 t e).1.2, (h3 t e).2⟩, fun k e => ?_, fun k r e => ?_,
    fun k l r q e f t => ?_, fun k r e f => ?_, fun k l r q e f e' f' t => ?_⟩
  · have := h4 _ (mem_of_mapGet e)
    grind
  · have := h5 _ (mem_of_mapGet e)
    grind
  · have := h6 _ (mem_of_mapGet e) _ (mem_of_mapGet f)
    grind
  · have := h7 _ (mem_of_mapGet (live e))
    grind
  · have := h8 _ (mem_of_mapGet (live e)) _ (mem_of_mapGet (live e'))
    grind

/-- No page moves, and the tables lie apart. -/
theorem witness_pagesFree (q : Req) : PagesFree (pageUp q) q :=
  ⟨rfl, fun _ h => (by cases h), State.makeRoots_apart (s := owned up) (tablesFit_of_ok (by decide))⟩

/-- One mapped page of TIER 1, and one with subpages. -/
def mappedWords : Map W64 :=
  [(dirWord (nsKey 1 1) 3, dir192), (leafWord 192 3, leafOf 7 1 false 1024), (leafWord 192 4, leafSubEntry (193 * 128)),
    (subWord (193 * 128) 31, subOf 1 0 255)]
def mappedUp (q : Req) : State :=
  { pageUp q with
    tables := mappedWords, leafTabs := [192], subTabs := [193 * 128], used := [255, frameTag 1 1024]
    localGroups := [128] }

theorem witness_mappedFree (q : Req) : PagesFree (mappedUp q) q :=
  ⟨rfl, fun _ h => (by cases h),
    tablesFit_of_ok (rs := ((owned up).makeRoots 1).roots) (ws := mappedWords) (lt := [192]) (st := [193 * 128]) (by decide +kernel)⟩

/-- A loaded model whose ranges begin at page 4 of TIER 1. -/
def aModel : Model :=
  { manifest := dvaOf 1 (5 * 2 ^ 21), wmask := 1, boltBase := 0, boltCnt := 2, pantryVa := dvaOf 1 (4 * 2 ^ 21), pantryBytes := 2 ^ 21
    wings := 1, layers := 1, larderBytes := 0, modelId := 7, version := 1 }

theorem witness_pageChanges :
    (∀ e ∈ [(0x0202, 1, [(16, 0, 2), (20, 0, 24), (24, 0, 25)]), (0x0203, 1 + 4 * 2, [(16, 0, 5), (20, 0, 24), (24, 0, 25)])],
      let q := pageReq e.1 e.2.1 0 0 3 2
      Accepted (mappedUp q) q e.1 e.2.2 (pmBad q) ∧ ((mappedUp q).begun q).pagePinned 1 1 3 2 = false ∧
        (mappedUp q).mappedIn 1 1 3 2 = [3, 4]) ∧
    (let q := pageReq 0x0202 1 0 0 3 2
     let s := (mappedUp q).updCtx 1 fun c => { c with models := [(0, aModel)] }
     Accepted s q 0x0202 [(16, 0, 2), (20, 0, 24), (24, 0, 25)] (pmBad q) ∧ (s.begun q).pagePinned 1 1 3 2 = true) ∧
    (∀ scope ∈ [0, 1, 2, 3], let q := pageReq 0x0205 1 0 scope 3 2
      Accepted (mappedUp q) q 0x0205 [(16, 0, 2), (18, 0, 2), (20, 0, 24), (24, 0, 25)]
        [(16, reqBits q 18 0 2 != 3 && pmNs q == 0),
         (24, reqBits q 18 0 2 == 1 && (pmCount q == 0 || decide (2 ^ 24 < pmVpn q + pmCount q)))]) := by
  simp only [accepted_iff]
  decide +kernel

/-- PAGE_MOVE of the mapped page to stack 1, of none, and to a stack with no frames. -/
theorem witness_pageMove :
    (∀ e ∈ [(3, 1 + 1 * 8), (9, 1 + 1 * 8), (3, 1 + 7 * 8)], let q := pageReq 0x0204 1 e.2 0 e.1 1
      Accepted (mappedUp q) q 0x0204 [(16, 0, 2), (17, 0, 7), (18, 0, 6), (20, 0, 24), (24, 0, 25)]
          (pmBad q ++ [(17, placeBad q (reqBits q 17 0 2 == 0))]) ∧ NoneTranslated (mappedUp q) ∧ memWf (mappedUp q).mem = true ∧
        (mappedUp q).mappedIn 1 1 e.1 1 = if e.1 = 3 then [3] else []) ∧
    (mappedUp (pageReq 0x0204 1 9 0 3 1)).pickFrame 1 false 1 = some 1025 ∧ (mappedUp (pageReq 0x0204 1 9 0 3 1)).pickFrame 1 false 7 = none ∧
    eSub ((mappedUp (pageReq 0x0204 1 9 0 3 1)).leaf 1 1 3) = false := by
  simp only [accepted_iff]
  unfold NoneTranslated
  simp only [show ∀ q, (mappedUp q).accesses = [] from fun _ => rfl, List.not_mem_nil, false_implies, implies_true, true_and]
  decide +kernel

/-- A page-map command of a context whose page moves; no stream context left; the copy of the mapped page ends, or its read fails. -/
def moveQ : Req := pageReq 0x0204 1 (1 + 1 * 8) 0 3 1
def copying : Stream := { copyStream 1 false [] with fetched := [(0, 0xF)], listLen := 1, bulkSlack := 10 }
def movingUp (code : Nat) (t : Stream) : State :=
  { mappedUp moveQ with
    tables := mappedWords.map fun w => if w.1 = leafWord 192 3 then (w.1, w.2 ||| 0x20) else w
    moves := [{ why := .command moveQ, todo := [(1, 1, 3)], places := [], sid := some 512,
                parts := [(32, leafOf 7 1 false 1024, leafOf 7 1 false 1025)] }]
    streams := [(512, t)]
    accesses := [{ loadOfV0 with who := .dw 512, ctx := 1, st := .done (BitVec.ofNat 8 code) (List.replicate 64 0) [] }] }

theorem witness_pageMoving :
    (movingUp 0 copying).pageHeld 1 = true ∧ EntryReady (movingUp 0 copying) 512 0xF copying 0xF ∧
    (movingUp 0 copying).listDrained 512 copying = true ∧ copying.study = true ∧
    (movingUp 0 copying).leaf 1 1 3 = leafOf 7 1 false 1024 ||| 0x20 ∧
    (movingUp 0 copying).ringPart [(32, leafOf 7 1 false 1024, leafOf 7 1 false 1025)] = false ∧
    (let g : Grant := { exec := 1, word := 0, off := 0, len := 64, read := 5, writes := [], sent := false, mask := false }
     let s := movingUp 7 { copying with grants := [g] }
     (s.access 5).any (fun a => decide (a.st = .done 7 (List.replicate 64 0) [])) = true ∧ copying.pendFault = 0 ∧ copying.st = .run) ∧
    ({ mappedUp moveQ with streams := (List.range 128).map fun i => (512 + i, copying) } : State).studyStream = none ∧
    (mappedUp moveQ).studyStream = some 512 ∧
    ((mappedUp moveQ).moveParts 1 1 3 { ptier := 1, spread := false, unit := 7, wing := 0 }).isNone = true := by
  simp only [entryReady_iff]
  decide +kernel

theorem witness_movingTables (t : Stream) : TablesApart (movingUp 0 t) :=
  tablesFit_of_ok (rs := ((owned up).makeRoots 1).roots)
    (ws := mappedWords.map fun w => if w.1 = leafWord 192 3 then (w.1, w.2 ||| 0x20) else w) (lt := [192]) (st := [193 * 128]) (by decide +kernel)

/-- The pages of stack 0 and of stack 1 share no byte. -/
theorem witness_framesApart (a b : Nat) (ha : a < 2 ^ 21) : frameKey 1 false 1024 a ≠ frameKey 1 false 1025 b := by
  unfold frameKey pantryKey keySpace
  simp only [Bool.false_eq_true, if_false]
  omega

/-- SLOT_LOAD, CFB_ACCESS of a readable and of each writable register, DEBUG_READ of 4 and 224 bytes. -/
theorem witness_roomCommands :
    (let q := reqOf 2 0x0301 1 [(16, 1, 0), (17, 1, 7), (18, 2, 0xFFFF), (20, 3, 2 ^ 24 - 64)]
     Accepted (asked (owned up) q) q 0x0301 [(16, 0, 6), (17, 0, 3), (18, 0, 16), (20, 0, 24)] [(20, reqNat q 20 3 % 64 != 0)] ∧
       reqNat q 16 1 < ((asked (owned up) q).ctx (reqCtx q)).wings ∧ ((asked (owned up) q).wing 0).loadQ.length < 8) ∧
    (∀ e ∈ [(false, 0x58), (false, 0), (true, 4), (true, 0x10), (true, 0x28), (true, 0x50), (true, 0x68)],
      let q := reqOf 2 0x0302 1 [(16, 2, 15), (18, 1, boolNat e.1), (20, 2, e.2), (24, 8, 1)]
      let s := asked (owned up) q
      Accepted s q 0x0302 [(16, 0, 10), (18, 0, 1), (20, 0, 16), (24, 0, 64)]
        [(20, (s.cfbReg 0 (reqNat q 20 2)).isNone || (e.1 && !cfbWritable (reqNat q 20 2)))] ∧ s.roomCtx 15 = some (reqCtx q) ∧
        reqBit q 18 0 = e.1) ∧
    (∀ e ∈ [(0, 4), (0, 224), (4, 224)], let q := reqOf 0 0x0303 0 [(16, 8, dvaAt 0xFFFF e.1 64), (24, 1, e.2)]
      let d : Dva := BitVec.ofNat 64 (reqNat q 16 8)
      Accepted (asked (owned up) q) q 0x0303 [(16, 0, 64), (24, 0, 8)]
        [(16, d.toNat % 4 != 0 || (dvaTier d != 0 && dvaTier d != 4) || dvaNode d != 0xFFFF),
         (24, reqNat q 24 1 < 4 || 224 < reqNat q 24 1 || reqNat q 24 1 % 4 != 0)] ∧ bitsOf (dvaOff d) 30 15 = 0) := by
  simp only [accepted_iff]
  decide +kernel

/-! ## The host port and Inflow -/

/-- A window of 2 MiB at the end of the aperture, onto page 4 of TIER 1 of context 1. -/
def win : HostWin := { aperture := 2 ^ 42 - 2 ^ 21, length := 2 ^ 21, ctx := 1, ns := 1, vaBase := 4 * 2 ^ 21, write := true }
def hostUp (a : List Access) : State := { accUp (acc false 0 .issued) with hostUp := true, windows := [(0, win)], accesses := a, nextAcc := 6 }

/-- A read of the window's last unit and a request below the window; a translated read of it at its home controller. -/
theorem witness_host :
    ((hostUp []).windowAt ((2 ^ 36 - 1) * 64)).any (fun e => decide (e.1 = 0 ∧ e.2 = win)) = true ∧ win.ns ≠ 0 ∧
    (hostUp []).windowAt ((2 ^ 36 - 2 ^ 15 - 1) * 64) = none ∧ (∀ a ∈ (hostUp []).accesses, a.id < (hostUp []).nextAcc) ∧
    (let e := leafOf 7 1 false 1024
     let a : Access := { acc false (dvaOf 1 (4 * 2 ^ 21)) (.translated e false) with who := .hostWin 0, len := 64 }
     let s := hostUp [a]
     s.access 5 = some a ∧ (mapFind s.windows 0).any (fun w => w.removing.isNone) = true ∧ NoRelease s ∧
       s.behindOlder a = false ∧ s.keyHeld (accessKey a e false) = false ∧ accessStop s a e false = 0 ∧ dvaTier a.dva ≠ 0) := by
  unfold NoRelease
  decide +kernel

/-- HWIN_CREATE beside the window and over it; HWIN_REMOVE with and without a request under way; NumVFs; a pending vector. -/
def hwinReq (a n : Nat) : Req := reqOf 0 0x0206 1 [(16, 8, a), (24, 8, n), (32, 1, 1), (33, 1, 1), (40, 8, 0)]

theorem witness_windows :
    (∀ e ∈ [(2 ^ 42 - 2 * 2 ^ 21, 2 ^ 21, true), (0, 2 ^ 42, false)], let q := hwinReq e.1 e.2.1
      let s := asked (hostUp []) q
      Accepted s q 0x0206 [(16, 0, 42), (24, 0, 43), (32, 0, 6), (33, 0, 3), (40, 0, 45)]
        [(16, reqNat q 16 8 % 2 ^ 21 != 0),
         (24, reqNat q 24 8 % 2 ^ 21 != 0 || reqNat q 24 8 == 0 || decide (2 ^ 42 < reqNat q 16 8 + reqNat q 24 8)),
         (33, reqBits q 33 0 2 == 0 || reqBits q 33 0 2 == 3), (40, reqNat q 40 8 % 2 ^ 21 != 0)] ∧
      (s.ctx (BitVec.ofNat 6 (reqNat q 32 1))).st ≠ .free ∧
      ((∀ w ∈ s.windows, w.2.aperture + w.2.length ≤ reqNat q 16 8 ∨ reqNat q 16 8 + reqNat q 24 8 ≤ w.2.aperture) ↔ e.2.2 = true) ∧
      (mapFind s.windows 1).isNone = true ∧ (mapFind s.windows 0).isSome = true) ∧
    (∀ l ∈ [[], [{ acc false (dvaOf 1 0) .issued with who := .hostWin 0 }]], let q := reqOf 0 0x0207 0 [(16, 1, 0)]
      Accepted (asked (hostUp l) q) q 0x0207 [(16, 0, 8)] [] ∧ ((∀ a ∈ (hostUp l).accesses, a.who ≠ .hostWin 0) ↔ l = [])) ∧
    (let s : State := { owned up with numVfs := 2, msixPend := [19] }
     ((s.ctx 1).st ≠ .free ∧ (0 : W16).toNat < (1 : CtxId).toNat) ∧ (19 = (1 : BitVec 7).toNat * 16 + (3 : BitVec 3).toNat)) := by
  simp only [accepted_iff]
  decide +kernel

/-- An Inflow port in service, with a ring of 2 MiB whose header lies in page 0 and whose data in page 1 of stack 0. -/
def ad : BitVec 512 := BitVec.ofNat 512 (1 * 2 ^ 8 + 4096 * 2 ^ 32 + (dvaOf 1 0).toNat * 2 ^ 64 + (dvaOf 1 (2 ^ 21)).toNat * 2 ^ 128 + 21 * 2 ^ 192)
def inflowUp (x : Inflow) : State :=
  { owned up with ports := [(11, { resRole := 2, st := .up })], stackCh := [(0, 32)]
                  inflow0 := { x with desc := some ad, pages := [frameTag 1 1024, frameTag 1 1032] } }

/-- A record header of a length. -/
def recHeader (len : Nat) : List Byte := layout 32 [(0, 2, 0x4649), (2, 1, 1), (4, 4, len), (8, 4, 1)]

/-- A flit whose CRC holds, over the low 32 bits of its header. -/
def sealFlit (low : BitVec 32) (pay : List Byte) : RxFlit := { header := Config.flitCrc low pay ++ low, payload := pay }

theorem sealFlit_bit (low : BitVec 32) (pay : List Byte) (i : Nat) (h : i < 32) :
    (sealFlit low pay).header.getLsbD i = low.getLsbD i := by
  rw [sealFlit, BitVec.getLsbD_append, if_pos h]

theorem sealFlit_field (low : BitVec 32) (pay : List Byte) (a w : Nat) (h : a + w ≤ 32) :
    (sealFlit low pay).header.extractLsb' a w = low.extractLsb' a w := by
  apply BitVec.eq_of_getLsbD_eq
  intro i hi
  rw [BitVec.getLsbD_extractLsb', BitVec.getLsbD_extractLsb', sealFlit_bit _ _ _ (by omega)]

theorem sealFlit_crc (low : BitVec 32) (pay : List Byte) : (sealFlit low pay).crcOk = true ∧ (sealFlit low pay).decodes = true := by
  have h : (sealFlit low pay).header.extractLsb' 32 16 = Config.flitCrc low pay := by
    apply BitVec.eq_of_getLsbD_eq
    intro i hi
    rw [BitVec.getLsbD_extractLsb', sealFlit, BitVec.getLsbD_append, if_neg (by omega), Nat.add_sub_cancel_left]
    simp [hi]
  have l : low.extractLsb' 0 32 = low := by
    apply BitVec.eq_of_getLsbD_eq
    intro i hi
    simp [hi]
  refine ⟨?_, rfl⟩
  rw [RxFlit.crcOk, h, sealFlit_field _ _ 0 32 (by omega), l]
  exact beq_self_eq_true _

/-- FSEQ 5, FIRST and not IDLE. -/
def flit (first : Nat) (pay : List Byte) : RxFlit := sealFlit (BitVec.ofNat 32 (5 + first * 1024)) pay

theorem witness_flitFields : ∀ pay, (flit 0 pay).decodes = true ∧ (flit 0 pay).crcOk = true ∧ (flit 0 pay).fseq = 5 ∧
    (flit 0 pay).idle = false ∧ (flit 0 pay).first = 0 ∧ 250 ≤ (flit 250 pay).first ∧ (flit 0 pay).stream.length = 250 := by
  intro pay
  simp only [flit, RxFlit.fseq, RxFlit.first, RxFlit.idle, sealFlit_crc, sealFlit_field _ _ 0 10 (by decide), sealFlit_field _ _ 10 10 (by decide),
    sealFlit_bit _ _ 31 (by decide)]
  refine ⟨trivial, trivial, ?_⟩
  simp only [RxFlit.stream]
  refine ⟨by decide, by decide, by decide, by decide, ?_⟩
  rw [List.length_take, List.length_append, List.length_replicate]
  omega

theorem witness_flits :
    (inflowUp {}).live = true ∧ (inflowUp {}).inflowLive false = true ∧
    (let f := flit 0 (recHeader 500 ++ List.replicate 218 0)
     headerBad (f.stream.take 32) = false ∧ leNat ((f.stream.drop 4).take 4) ≤ adMax ad ∧
       State.staging {} + recordBytes 500 ≤ 2 ^ 22 ∧ 250 < recordBytes 500) ∧
    headerBad ((flit 0 []).stream.take 32) = true ∧
    ((some (4 : BitVec 10) : Option (BitVec 10)) = some ((5 : BitVec 10) - 1)) ∧
    (let whole := patchBytes (recHeader 1) 28 (natLe 4 (crc32c ((recHeader 1).take 28 ++ [7]))) ++ [7] ++ List.replicate 31 0
     let b := whole.take 33
     32 ≤ b.length ∧ b.length < 64 ∧ 64 ≤ b.length + 250 ∧
       (let bs := b ++ ((whole.drop 33) ++ List.replicate 219 0).take (64 - b.length)
        crc32c (bs.take 28 ++ (bs.drop 32).take (leNat ((bs.drop 4).take 4))) = leNat ((bs.drop 28).take 4))) := by decide +kernel

/-- The writer: a record of one data unit into an empty ring, and into one that is full; CONS as the host wrote it. -/
def inRec : InRec := { len := 64, rseq := 1, chan := 0, stamp := 0, arrival := 0, payload := List.replicate 64 9 }

theorem witness_writer :
    (let s := inflowUp { staged := [inRec] }
     let x := s.inflow false
     s.live = true ∧ memWf s.mem = true ∧ s.inflowHeld false = false ∧ x.desc = some ad ∧ x.prod.toNat % adUnits ad + 2 ≤ adUnits ad ∧ roomFor x ad 2 = true ∧
       s.unitKey x ad 0 = some (frameKey 1 false 1032 0) ∧ s.unitKey x ad 1 = some (frameKey 1 false 1032 64) ∧
       s.hdrKey x ad 0 = some (frameKey 1 false 1024 0)) ∧
    (let s := inflowUp { staged := [inRec], prod := 32766 }
     let x := s.inflow false
     x.prod.toNat % adUnits ad + 2 ≤ adUnits ad ∧ roomFor { x with cons := 4294967294 } ad 2 = false ∧
       roomFor { x with cons := 0 } ad 2 = true) ∧
    (let s := inflowUp { staged := [inRec], prod := 32768 }
     let x := s.inflow false
     roomFor x ad 2 = false ∧ s.hdrKey x ad 64 = some (frameKey 1 false 1024 64) ∧ x.prod.toNat % adUnits ad + 2 ≤ adUnits ad ∧
       roomFor { x with cons := BitVec.ofNat 32 (s.readNat (frameKey 1 false 1024 64) 4) } ad 2 = false ∧
       (x.prod - BitVec.ofNat 32 (s.readNat (frameKey 1 false 1024 64) 4)).toNat ≤ adUnits ad) := by decide +kernel

/-- INFLOW_ATTACH of the ring; INFLOW_DETACH of one attached and one not; the detach at a record boundary. -/
def attachReq : Req := reqOf 0 0x0611 0 [(16, 64, ad.toNat)]
def attachUp : State :=
  { inflowUp {} with
    inflow0 := {}, roots := ((owned up).makeRoots 1).roots
    tables := [(dirWord (nsKey 1 1) 0, dir192), (leafWord 192 0, leafOf 7 1 false 1024), (leafWord 192 1, leafOf 7 1 false 1032)] }

theorem witness_attach :
    (let s := asked attachUp attachReq
     BitVec.ofNat 512 (reqNat attachReq 16 64) = ad ∧
     Accepted s attachReq 0x0611 [(16, 0, 1), (17, 0, 7), (18, 0, 15), (20, 0, 32), (24, 0, 64), (32, 0, 64), (40, 0, 6)] (s.attachBad ad) ∧
       (s.port (inflowPort false)).resRole = 2 ∧ (s.inflow false).desc = none ∧ (s.ctx (adCtx ad)).st ≠ .free ∧
       s.ringPages (adCtx ad) ad = .inl [frameTag 1 1024, frameTag 1 1032]) ∧
    (let q := reqOf 0 0x0612 0 [(16, 1, 0)]
     let s := asked (inflowUp {}) q
     Accepted s q 0x0612 [(16, 0, 1)] [] ∧ (s.inflow (reqBit q 16 0)).desc ≠ none ∧ (s.inflow (reqBit q 16 0)).detaching = none ∧
       (s.inflow true).desc = none) ∧
    (let s := inflowUp { detaching := some (some attachReq) }
     NoRelease s ∧ s.inflowHeld false = false ∧ s.moves = [] ∧ (s.inflow false).detaching = some (some attachReq) ∧ (s.inflow false).staged = [] ∧ (s.inflow false).part = none) := by
  simp only [accepted_iff]
  unfold NoRelease
  decide +kernel

/-! ## Contexts -/

/-- CTX_CREATE of `n` Wings and `nb` Bolts, at a Wing if one is named. -/
def ctxReq (n nb : Nat) (first : Option Nat) : Req :=
  reqOf 0 0x0101 0 [(16, 1, n), (17, 1, boolNat first.isSome), (18, 1, first.getD 0), (20, 2, nb), (24, 4, 9), (28, 4, 100),
    (32, 8, (dvaOf 1 0).toNat), (40, 8, 2 ^ 22)]
def ctxUp (numVfs : Nat) (q : Req) : State := asked { owned up with numVfs } q

theorem witness_ctxCreate :
    (∀ e ∈ [(63, 32760, none), (63, 8, some 1), (64, 8, none), (1, 32761, none)], let q := ctxReq e.1 e.2.1 e.2.2
      Accepted (ctxUp 2 q) q 0x0101 [(16, 0, 7), (17, 0, 1), (18, 0, 6), (20, 0, 16), (24, 0, 32), (28, 0, 14), (32, 0, 64), (40, 0, 64)]
        [(16, reqNat q 16 1 == 0 || decide (64 < reqNat q 16 1)), (20, reqNat q 20 2 == 0 || decide (32768 < reqNat q 20 2)),
         (24, reqNat q 24 4 == 0), (28, reqNat q 28 4 == 0 || decide (10000 < reqNat q 28 4)),
         (32, !([1, 2].contains (dvaTier (BitVec.ofNat 64 (reqNat q 32 8)))) || dvaNode (BitVec.ofNat 64 (reqNat q 32 8)) != 0xFFFF ||
           (BitVec.ofNat 64 (reqNat q 32 8) : Dva).toNat % 2 ^ 21 != 0),
         (40, reqNat q 40 8 == 0 || reqNat q 40 8 % 2 ^ 22 != 0)]) ∧
    (let s := ctxUp 2 (ctxReq 63 32760 none)
     (s.ctx 0).st = .free ∧ s.wingRun 63 none = some 1 ∧ s.wingRun 63 (some 1) = some 1 ∧ s.boltRun 32760 = some 8 ∧
       s.wingRun 64 none = none ∧ s.boltRun 32761 = none ∧ s.wingRun 1 none = some 1) ∧
    (({ owned up with ctxs := [(0, { st := .failed }), (1, { st := .active })] } : State).ctx 0).st ≠ .free := by
  simp only [accepted_iff]
  decide +kernel

/-- CTX_STATUS; CTX_POINTS of one point of the last Bolt. -/
theorem witness_ctxReports :
    Accepted (asked (owned up) (reqOf 2 0x0103 1 [])) (reqOf 2 0x0103 1 []) 0x0103 [] [] ∧
    (let q := reqOf 2 0x0104 1 [(16, 8, 4096), (24, 4, 16), (28, 1, 1)]
     let s := { asked (owned up) q with mem := memWrites [] (hostKey 4096) (natLe 16 7) }
     Accepted s q 0x0104 [(16, 0, 64), (24, 0, 32), (28, 0, 8)]
        [(16, reqNat q 16 8 % 4096 != 0), (24, decide (reqNat q 24 4 < 16 * reqNat q 28 1)), (28, reqNat q 28 1 == 0 || decide (64 < reqNat q 28 1))] ∧
       (s.ctx (reqCtx q)).st = .active ∧ (s.ctx (reqCtx q)).pre = none ∧
       ∀ v ∈ (List.range (reqNat q 28 1)).map (fun i => s.readNat (hostKey (reqNat q 16 8 + 16 * i)) 16), pointBad 8 v = none) := by
  simp only [accepted_iff]
  decide +kernel

theorem witness_ctxRelease : let q := reqOf 2 0x0102 1 []
    let s := asked (streamUp (strm true 0)) q
    Accepted s q 0x0102 [] [] ∧ (s.ctx (reqCtx q)).releasing = none ∧ s.windows = [] ∧ s.inflow0.desc = none ∧ s.inflow1.desc = none ∧
      s.services = [] := by
  simp only [accepted_iff]
  decide +kernel

/-- CTX_PREEMPT and CTX_CHECKPOINT at the point of Bolt 3, at any, at a Bolt that is no point, past its phase, and without room. -/
def preemptUp (op bolt phase saveBytes : Nat) : Req × State :=
  let q := reqOf 2 op 1 [(16, 2, bolt), (20, 4, phase)]
  (q, asked { (owned up).updCtx 1 fun c => { c with saveVa := dvaOf 1 0, saveBytes } with
              bolts := [(3, { barrier := true, ppoint := true, count := 1, phase := 5 })] } q)

theorem witness_preempt : ∀ op ∈ [0x0105, 0x0106],
    (∀ e ∈ [(3, 5), (3, 4), (3, 6), (3, 0x80000005), (0, 0xFFFFFFFF), (2, 5), (8, 5)],
      Accepted (preemptUp op e.1 e.2 0).2 (preemptUp op e.1 e.2 0).1 op [(16, 0, 15), (20, 0, 32)] []) ∧
    (let s := (preemptUp op 3 5 0).2
     (s.ctx 1).st = .active ∧ 3 < (s.ctx 1).bolts ∧ (s.bolt (s.boltAbs 1 3)).barrier = true ∧ (s.bolt (s.boltAbs 1 3)).ppoint = true ∧
       (s.bolt (s.boltAbs 1 2)).barrier = false ∧
       ((s.bolt (s.boltAbs 1 3)).phase - 4).toNat = 1 ∧ 2 ^ 31 ≤ ((s.bolt (s.boltAbs 1 3)).phase - 6).toNat ∧
       ¬2 * s.copyBytes 1 (s.saveL 1 (some 3)) ≤ (s.ctx 1).saveBytes) ∧
    (let s := (preemptUp op 3 5 (2 ^ 22)).2
     2 * s.copyBytes 1 (s.saveL 1 (some 3)) ≤ (s.ctx 1).saveBytes) := by
  simp only [accepted_iff]
  decide +kernel

/-- Context 1 with its tables, and the pages of TIER 1 at 0 and 2 MiB mapped to frames 1024 and 1032. -/
def paged (x : Ctx → Ctx) : State :=
  let s := (owned up).makeRoots 1
  { s.updCtx 1 x with
    tables := [(dirWord (nsKey 1 1) 0, dir192), (leafWord 192 0, leafOf 7 1 false 1024), (leafWord 192 1, leafOf 7 1 false 1032)]
    leafTabs := [192], used := [frameTag 1 1024, frameTag 1 1032], stackCh := [(0, 32)] }

/-- A pre-emption and a checkpoint in progress: before their point, at it, and with the copy being written. -/
def saving (checkpoint copying : Bool) (err : Byte) : State :=
  let p : Preempt := { checkpoint, bolt := 3, phase := 5, req := (preemptUp 0x0105 3 5 0).1, saving := copying, err }
  { paged fun c => { c with saveVa := dvaOf 1 0, saveBytes := 2 ^ 22, st := .preempting, pre := some p } with
    bolts := [(3, { barrier := true, ppoint := true, count := 1, phase := 5, held := !copying })] }

theorem quiet_iff {s : State} {c : CtxId} :
    (∀ b ∈ s.ctxBolts c, (s.bolt b).held = false) ↔ (s.ctxBolts c).all (fun b => !(s.bolt b).held) = true := by
  simp only [List.all_eq_true, Bool.not_eq_true']

theorem witness_preemptEnds :
    (∀ ck ∈ [false, true], ∀ err ∈ [0, 7], let s := saving ck true (BitVec.ofNat 8 err)
      (s.ctx 1).pre.any (fun p => p.saving && p.checkpoint == ck && p.err == BitVec.ofNat 8 err) = true ∧
        (∀ b ∈ s.ctxBolts 1, (s.bolt b).held = false) ∧ s.modelWork = []) ∧
    (let s := { saving false false 0 with bolts := [] }
     (s.ctx 1).pre.any (fun p => !p.saving) = true ∧ ∀ b ∈ s.ctxBolts 1, (s.bolt b).held = false) ∧
    (let s := saving false false 0
     s.live = true ∧ s.atPoint 1 = some 3 ∧ (s.boltRel 1 3 = 3) ∧ s.streams = [] ∧
       (match s.rangesOf 1 3 with | .inl l => l.isEmpty | .inr _ => false) = true) := by
  simp only [quiet_iff]
  decide +kernel

/-- A read whose first byte cannot be read ends with its code. -/
theorem dvaRead_first {s : State} {c : CtxId} {d : Dva} {e : Nat} (h : s.dvaKey c false (d + BitVec.ofNat 64 0) = .inr e) {n : Nat}
    (hn : 0 < n) : s.dvaRead c d n = .inr e := by
  obtain ⟨n, rfl⟩ : ∃ k, n = k + 1 := ⟨n - 1, by omega⟩
  have g : s.dvaReadGo c d (n + 1) = .inr e := by
    clear hn
    induction n with
    | zero => simp only [State.dvaReadGo, h]
    | succ n ih => rw [State.dvaReadGo, ih]
  simp only [State.dvaRead, g]

theorem newestCopy_none {s : State} {c : CtxId} {e : Nat}
    (h : ∀ k, s.dvaKey c false (copyVa (s.ctx c) k + BitVec.ofNat 64 0) = .inr e) : s.newestCopy c = none := by
  have g (k : Bool) : s.copyGen c k = none := by
    rw [State.copyGen, State.copyHead, dvaRead_first (h k) (n := 4096) (by omega)]
    rfl
  rw [State.newestCopy, g, g]
  rfl

/-- CTX_RESTORE of a context without a copy, of one that runs, and of one that has failed. -/
theorem witness_restoreRefused : ∀ st ∈ [CtxSt.preempted, .failed, .active], let q := reqOf 2 0x0107 1 []
    let s := asked ((owned up).updCtx 1 fun c => { c with st, saveVa := dvaOf 1 0, saveBytes := 2 ^ 22, fresh := false }) q
    Accepted s q 0x0107 [] [] ∧ (s.ctx (reqCtx q)).st = st ∧ s.newestCopy (reqCtx q) = none := by
  simp only [accepted_iff]
  intro st h
  refine ⟨?_, ?_, newestCopy_none (e := 0x01) ?_⟩ <;> revert st <;> decide +kernel
/-- Reading bytes of a DVA that lie one after another is reading them at their key. -/
theorem dvaRead_run {s : State} {c : CtxId} {d : Dva} {key n : Nat} (hp : s.poison = [])
    (h : ∀ k, k < n → s.dvaKey c false (d + BitVec.ofNat 64 k) = .inl (key + k)) : s.dvaRead c d n = .inl (memReads s.mem key n) := by
  have g : s.dvaReadGo c d n = .inl (memReads s.mem key n, false) := by
    induction n with
    | zero => rfl
    | succ n ih =>
      simp [State.dvaReadGo, ih fun k hk => h k (by omega), h n (by omega), hp, memReads, List.range_succ]
  simp [State.dvaRead, g]

/-- The first page of TIER 1 lies in frame 1024. -/
theorem pageZero {s : State} {k : Nat} (hd : s.dirEntry 1 1 0 = dir192) (hl : s.leaf 1 1 0 = leafOf 7 1 false 1024)
    (hc : s.leafCode (leafOf 7 1 false 1024) = 0) (hk : k < 2 ^ 21) :
    s.dvaKey 1 false (dvaOf 1 k) = .inl (entryKey (leafOf 7 1 false 1024) false 0 + k) := by
  have n : (dvaOf 1 k).toNat = 0xFFFF * 2 ^ 48 + 2 ^ 45 + k := by
    simp only [dvaOf, BitVec.toNat_ofNat]; omega
  have o : dvaOff (dvaOf 1 k) = k := by simp only [dvaOff, bitsOf, n]; omega
  have t : dvaTier (dvaOf 1 k) = 1 := by simp only [dvaTier, bitsOf, n]; omega
  have l : s.isLocal (dvaOf 1 k) = true := by
    have : dvaNode (dvaOf 1 k) = 0xFFFF := by
      apply BitVec.eq_of_toNat_eq
      simp only [dvaNode, BitVec.extractLsb'_toNat, n, Nat.shiftRight_eq_div_pow, show (BitVec.toNat (65535 : BitVec 16)) = 65535 from rfl]
      omega
    simp [State.isLocal, this]
  have v : offVpn k = 0 := by simp only [offVpn, bitsOf]; omega
  have w : s.walkNow 1 1 k = .ok (leafOf 7 1 false 1024) false := by
    simp only [State.walkNow, v, hd, hl, hc, show dirCode dir192 = 0 by decide, show eMig (leafOf 7 1 false 1024) = false by decide,
      show eSub (leafOf 7 1 false 1024) = false by decide]
    simp
  have e : entryKey (leafOf 7 1 false 1024) false k = entryKey (leafOf 7 1 false 1024) false 0 + k := by
    rw [entryKey, entryKey, show ePtier (leafOf 7 1 false 1024) = 1 by decide, show eSpread (leafOf 7 1 false 1024) = false by decide,
      show ePpn (leafOf 7 1 false 1024) = 1024 by decide, Nat.mod_eq_of_lt hk]
    generalize 1024 = f
    simp [frameKey, pantryKey, Nat.add_assoc]
  simp only [State.dvaKey, State.dvaKeys, l, o, t, w, e, Bool.not_true, Bool.false_and, Bool.false_eq_true, if_false]

/-- The CRC of zeros after other bytes, a byte at a time. -/
def crcZeros : Nat → Nat → Nat
  | 0, c => c
  | n + 1, c => if c = 0 then crcZeros n (crcBit 8 c) else crcZeros n (crcBit 8 c)

theorem crc32c_zeros (bs : List Byte) (n : Nat) :
    crc32c (bs ++ List.replicate n 0) = crcZeros n (bs.foldl (fun c b => crcBit 8 (c ^^^ b.toNat)) 0xFFFFFFFF) ^^^ 0xFFFFFFFF := by
  have (c : Nat) : (List.replicate n (0 : Byte)).foldl (fun c b => crcBit 8 (c ^^^ b.toNat)) c = crcZeros n c := by
    induction n generalizing c with
    | zero => rfl
    | succ n ih => simpa [List.replicate_succ, crcZeros] using ih _
  rw [crc32c, List.foldl_append, this]

theorem patchBytes_append (a z xs : List Byte) {off : Nat} (h : off + xs.length ≤ a.length) :
    patchBytes (a ++ z) off xs = patchBytes a off xs ++ z := by
  simp only [patchBytes, List.take_append_of_le_length (show off ≤ a.length by omega), List.drop_append_of_le_length h, List.append_assoc,
    List.take_of_length_le (show xs.length ≤ a.length - off by omega),
    List.take_of_length_le (show xs.length ≤ (a ++ z).length - off by rw [List.length_append]; omega)]


/-- Bytes 0 to 63 of a copy of one Wing, eight Bolts and no streams, of GEN 3. -/
def head64 (crc : Nat) : List Byte :=
  layout 64 ([(0, 4, 0x47535643), (4, 1, 1), (8, 4, 3), (20, 1, 1), (24, 4, 8)] ++ if crc = 0 then [] else [(5, 1, 1), (40, 4, crc)])
def headCrc : Nat := 530908991

/-- A context of one Wing that holds no models, with a complete copy at the start of TIER 1 and none behind it: pre-empted, and with
its restore in progress. -/
def restoringUp (go : Bool) : State :=
  let q := reqOf 2 0x0107 1 []
  { asked (paged fun c => { c with
      saveVa := dvaOf 1 0, saveBytes := 2 ^ 22, st := if go then .restoring else .preempted
      restore := if go then some (q, .preempted) else none }) q with
    tables := [(dirWord (nsKey 1 1) 0, dir192), (leafWord 192 0, leafOf 7 1 false 1024)], used := [frameTag 1 1024]
    mem := memWrites [] (entryKey (leafOf 7 1 false 1024) false 0) (head64 headCrc)
    wings := [(0, { ctx := some 1, lastCtx := some 1 })] }

theorem restoring_key {go : Bool} {k : Nat} (hk : k < 2 ^ 21) :
    (restoringUp go).dvaKey 1 false (dvaOf 1 k) = .inl (entryKey (leafOf 7 1 false 1024) false 0 + k) :=
  pageZero (by cases go <;> decide +kernel) (by cases go <;> decide +kernel) (by cases go <;> decide +kernel) hk

theorem restoring_read {go : Bool} {o n : Nat} (h : o + n < 2 ^ 21) {d : Dva} (hd : d = dvaOf 1 0 + BitVec.ofNat 64 o) :
    (restoringUp go).dvaRead 1 d n = .inl (memReads (restoringUp go).mem (entryKey (leafOf 7 1 false 1024) false 0 + o) n) := by
  refine dvaRead_run rfl fun k hk => ?_
  have e : d + BitVec.ofNat 64 k = dvaOf 1 (o + k) := by
    apply BitVec.eq_of_toNat_eq
    simp only [hd, dvaOf, BitVec.toNat_add, BitVec.toNat_ofNat]
    omega
  rw [e, restoring_key (by omega), Nat.add_assoc]

theorem reads_empty (a n : Nat) : memReads [] a n = List.replicate n 0 := by
  rw [List.eq_replicate_iff]
  exact ⟨memReads_length .., fun b hb => by obtain ⟨i, -, rfl⟩ := List.mem_map.1 hb; rfl⟩

theorem restoring_zero {go : Bool} {o n : Nat} (ho : 64 ≤ o) (h : o + n < 2 ^ 21) {d : Dva} (hd : d = dvaOf 1 0 + BitVec.ofNat 64 o) :
    (restoringUp go).dvaRead 1 d n = .inl (List.replicate n 0) := by
  rw [restoring_read h hd, ← reads_empty (entryKey (leafOf 7 1 false 1024) false 0 + o) n]
  exact congrArg Sum.inl (memReads_memWrites_outside rfl (Or.inr (by rw [show (head64 headCrc).length = 64 from by decide +kernel]; omega)))

theorem restoring_va {go : Bool} : copyVa ((restoringUp go).ctx 1) false = dvaOf 1 0 := by cases go <;> decide +kernel

theorem restoring_head {go : Bool} :
    (restoringUp go).dvaRead 1 (copyVa ((restoringUp go).ctx 1) false) 4096 = .inl (head64 headCrc ++ List.replicate 4032 0) := by
  rw [restoring_read (o := 0) (by decide) (by rw [restoring_va]; rfl)]
  have (a : Nat) (m : Memory) : memReads m a 4096 = memReads m a 64 ++ memReads m (a + 64) 4032 := by
    rw [memReads, show (4096 : Nat) = 64 + 4032 from rfl, List.range_add]
    simp [memReads, Nat.add_assoc]
  rw [this, Nat.add_zero, ← reads_empty (entryKey (leafOf 7 1 false 1024) false 0 + 64) 4032]
  have l : (head64 headCrc).length = 64 := by decide +kernel
  have one : memReads (restoringUp go).mem (entryKey (leafOf 7 1 false 1024) false 0) 64 = head64 headCrc := by
    rw [← l]; exact memReads_memWrites _ _ rfl
  rw [one]
  exact congrArg (fun x => Sum.inl (head64 headCrc ++ x)) (memReads_memWrites_outside rfl (Or.inr (Nat.le_of_eq (by rw [l]))))

theorem headFields_of {h h0 : List Byte} {n x : Nat} (hb : patchBytes (patchBytes h 5 [0]) 40 [0, 0, 0, 0] = h0) (hl : h.length = 64)
    (hc : crc32c (h0 ++ List.replicate n 0) = x)
    (hf : (leNat ((h.drop 0).take 4) = 0x47535643 && bitOf (leNat ((h.drop 5).take 1)) 0 && x = leNat ((h.drop 40).take 4)) = true) :
    headFields (.inl (h ++ List.replicate n 0)) = some fun o k => leNat (((h ++ List.replicate n 0).drop o).take k) := by
  have d (o k : Nat) (hk : o + k ≤ 64) : ((h ++ List.replicate n 0).drop o).take k = (h.drop o).take k := by
    rw [List.drop_append_of_le_length (by omega), List.take_append_of_le_length (by rw [List.length_drop]; omega)]
  have p : patchBytes (patchBytes (h ++ List.replicate n 0) 5 [0]) 40 [0, 0, 0, 0] = h0 ++ List.replicate n 0 := by
    rw [patchBytes_append _ _ _ (by rw [hl]; decide), patchBytes_append _ _ _ (by simp [patchBytes, hl]), hb]
  simp only [headFields, p, hc, d 0 4 (by decide), d 5 1 (by decide), d 40 4 (by decide), hf, if_true]

theorem restoring_fields {go : Bool} : (restoringUp go).copyHead 1 false =
    some fun o n => leNat (((head64 headCrc ++ List.replicate 4032 0).drop o).take n) := by
  rw [State.copyHead, restoring_head]
  refine headFields_of (h0 := head64 0) (x := headCrc) (by decide +kernel) (by decide +kernel) ?_ (by decide +kernel)
  rw [crc32c_zeros]
  decide +kernel

theorem records_of {s : State} {c : CtxId} {k : Bool} {off len n : Nat} {bs : List Byte}
    (h : ∀ i, i < n → s.dvaRead c (copyVa (s.ctx c) k + BitVec.ofNat 64 (off + len * i)) len = .inl bs) :
    s.copyRecords c k off len n = .inl (List.replicate n bs) := by
  rw [State.copyRecords]
  induction n with
  | zero => rfl
  | succ n ih =>
    rw [List.range_succ, List.foldl_append, ih fun i hi => h i (by omega)]
    simp [h n (by omega), List.replicate_succ']

theorem thenRead_inl {α β : Type} (a : α) (f : α → β ⊕ Nat) : thenRead (.inl a) f = f a := rfl

theorem readCopy_of {s : State} {c : CtxId} {k : Bool} {f : Nat → Nat → Nat} {rooms : List (List Byte)} {sts : List (StreamId × Stream)}
    {bolts : List Bolt} {ranges : List (Nat × Nat)} {names : List (StreamId × StreamId)} (h : s.copyHead c k = some f)
    (hr : s.copyRecords c k 4096 5376 (16 * (s.ctx c).wings) = .inl rooms) (hs : s.copyStreams c k (s.ctx c).wings (f 22 2) = .inl sts)
    (hb : s.copyBolts c k (s.ctx c).wings (f 22 2) (s.ctx c).bolts = .inl bolts)
    (hg : s.rangesAt c (f 48 4) (BitVec.ofNat 64 (f 56 8)) = .inl ranges)
    (hn : streamPlaces (s.heldStreams.filter fun e => e.2.ctx != c) sts = some names) :
    s.readCopy c k = .inl { field := f, rooms, streams := (sts.zip names).map fun e => (e.2.2, e.1.2), bolts, ranges } := by
  rw [State.readCopy, h, Option.elim_some, thenRead_inl, hr, thenRead_inl, hs, thenRead_inl, hb, thenRead_inl, hg, thenRead_inl, hn]

/-- What that copy holds: 16 Room records and eight Bolts of zeros. -/
def restoringCopy : Copy :=
  { field := fun o n => leNat (((head64 headCrc ++ List.replicate 4032 0).drop o).take n), rooms := List.replicate 16 (List.replicate 5376 0)
    streams := [], bolts := List.replicate 8 (boltOf (List.replicate 32 0)), ranges := [] }

theorem field_streams : leNat (((head64 headCrc ++ List.replicate 4032 0).drop 22).take 2) = 0 := by decide +kernel
theorem field_ranges : leNat (((head64 headCrc ++ List.replicate 4032 0).drop 48).take 4) = 0 := by decide +kernel

theorem restoring_bolts {go : Bool} :
    (restoringUp go).copyBolts 1 false 1 0 8 = .inl (List.replicate 8 (boltOf (List.replicate 32 0))) := by
  have bolts : (restoringUp go).copyRecords 1 false (4096 + 86016) 32 8 = .inl (List.replicate 8 (List.replicate 32 0)) :=
    records_of fun i hi => restoring_zero (o := 4096 + 86016 + 32 * i) (by omega) (by omega) (by rw [restoring_va])
  rw [State.copyBolts, Nat.mul_zero, Nat.mul_one, Nat.add_zero, bolts]
  rfl

theorem restoring_copy {go : Bool} : (restoringUp go).readCopy 1 false = .inl restoringCopy := by
  have rooms : (restoringUp go).copyRecords 1 false 4096 5376 16 = .inl (List.replicate 16 (List.replicate 5376 0)) :=
    records_of fun i hi => restoring_zero (o := 4096 + 5376 * i) (by omega) (by omega) (by rw [restoring_va])
  have w : ((restoringUp go).ctx 1).wings = 1 := rfl
  have nb : ((restoringUp go).ctx 1).bolts = 8 := rfl
  exact readCopy_of (sts := []) (bolts := List.replicate 8 (boltOf (List.replicate 32 0))) restoring_fields rooms
    (by rw [show leNat _ = 0 from field_streams]; rfl) (by rw [show leNat _ = 0 from field_streams, w, nb, restoring_bolts]) (by rw [show leNat _ = 0 from field_ranges]; rfl) rfl

theorem witness_restoreDone :
    ((restoringUp true).ctx 1).restore = some (reqOf 2 0x0107 1 [], .preempted) ∧ (restoringUp true).readCopy 1 false = .inl restoringCopy ∧
    ((restoringUp true).ctx 1).genCopy = false ∧ ((restoringUp true).ctx 1).wings = 1 ∧ ((restoringUp true).ctx 1).models = [] ∧
    restoringCopy.rooms.length = 16 * ((restoringUp true).ctx 1).wings ∧ restoringCopy.ranges = [] ∧
    spillRangesOf (((ctxRooms ((restoringUp true).ctx 1)).zip restoringCopy.rooms).map fun e => (e.1, roomOf ((restoringUp true).room e.1) e.2)) = [] ∧
    (restoringUp true).kvRanges 1 = [] ∧ restoringCopy.field 32 8 = 0 ∧ (restoringUp true).staleWings 1 (ctxWings ((restoringUp true).ctx 1)) = [] ∧
    (restoringUp true).services = [] ∧ (restoringUp true).modelWork = [] ∧ (∀ b ∈ (restoringUp true).ctxBolts 1, ((restoringUp true).bolt b).held = false) := by
  simp only [quiet_iff]
  refine ⟨rfl, restoring_copy, ?_⟩
  decide +kernel

theorem restoring_newest {go : Bool} : (restoringUp go).newestCopy 1 = some (false, 3) := by
  have one : (restoringUp go).copyGen 1 true = none := by
    rw [State.copyGen, State.copyHead, dvaRead_first (e := 0x01) (by cases go <;> decide +kernel) (n := 4096) (by omega)]
    rfl
  have zero : (restoringUp go).copyGen 1 false = some 3 := by
    rw [State.copyGen, restoring_fields]
    decide +kernel
  rw [State.newestCopy, one, zero]
  rfl

/-- CTX_RESTORE of that context. -/
theorem witness_restores : let q := reqOf 2 0x0107 1 []
    Accepted (restoringUp false) q 0x0107 [] [] ∧ reqCtx q = 1 ∧ (restoringUp false).newestCopy 1 = some (false, 3) ∧
    (restoringUp false).copyHead 1 false = some (fun o n => leNat (((head64 headCrc ++ List.replicate 4032 0).drop o).take n)) ∧
    (restoringUp false).copyStreams 1 false 1 0 = .inl [] ∧
    (restoringUp false).copyBolts 1 false 1 0 8 = .inl (List.replicate 8 (boltOf (List.replicate 32 0))) ∧
    leNat (((head64 headCrc ++ List.replicate 4032 0).drop 20).take 1) = ((restoringUp false).ctx 1).wings ∧
    leNat (((head64 headCrc ++ List.replicate 4032 0).drop 24).take 4) = ((restoringUp false).ctx 1).bolts ∧
    ((restoringUp false).ctx 1).st = .preempted ∧ (∀ w ∈ ctxWings ((restoringUp false).ctx 1),
      (restoringUp false).wing w = { ctx := some 1, lastCtx := some 1 } ∧ ∀ r ∈ wingRooms w, ((restoringUp false).room r).hwFailed = false) ∧
    streamPlaces ((restoringUp false).heldStreams.filter fun e => e.2.ctx != 1) [] = some [] := by
  simp only [accepted_iff]
  refine ⟨by decide +kernel, by decide +kernel, restoring_newest, restoring_fields, rfl, restoring_bolts, ?_⟩
  decide +kernel

/-! ## Resting models -/

/-- A manifest of one Wing and one layer: header, three section entries, layer table at 192, weights at 256, a configuration set at
320. Its layer covers 64 bytes of weights. -/
def sectionAt (kind off len dst : Nat) : List (Nat × Nat × Nat) → Nat → List (Nat × Nat × Nat) := fun l o =>
  l ++ [(o, 1, kind), (o + 8, 8, off), (o + 16, 8, len), (o + 24, 8, dst)]
def manifestTail (modelId : Nat) : List Byte :=
  layout 212 (sectionAt 2 320 1 0 (sectionAt 1 256 64 0 (sectionAt 5 192 16 0
    [(0, 2, 3), (2, 2, 1), (4, 8, modelId), (12, 4, 7), (20, 8, (dvaOf 1 (2 ^ 22)).toNat), (28, 8, 2 ^ 21), (36, 4, 64), (40, 2, 2),
     (180, 8, 0), (188, 8, 64)] 52) 84) 116)
def manifestBytes (modelId : Nat) : List Byte :=
  natLe 4 0x474D4446 ++ [1, 0] ++ natLe 2 1 ++ natLe 4 (crc32c ((manifestTail modelId).take 148)) ++ manifestTail modelId

def dir193 : W64 := 1 + 193 * 65536
def cellar0 : W64 := leafOf 7 2 false 4

/-- The manifest of model 7 in its frame, as the bytes that are not zero. -/
def manifestMem : Memory :=
  [(0, 70), (1, 68), (2, 77), (3, 71), (4, 1), (6, 1), (8, 85), (9, 43), (10, 162), (11, 52), (12, 3), (14, 1), (16, 7), (24, 7), (34, 64),
   (37, 32), (38, 255), (39, 255), (42, 32), (48, 64), (52, 2), (64, 5), (72, 192), (80, 16), (96, 1), (105, 1), (112, 64), (128, 2),
   (136, 64), (137, 1), (144, 1), (200, 64)].map fun e => (51946031311566099447808 + e.1, e.2)

theorem manifestMem_eq : manifestMem = memWrites [] (entryKey cellar0 false 0) (manifestBytes 7) := by decide +kernel

/-- Context 1 with a page of TIER 2 that holds the manifest, and TIER 1 pages 0 and 1. -/
def resting (x : Ctx → Ctx) : State :=
  let s := paged x
  { s with
    tables := s.tables ++ [(dirWord (nsKey 1 2) 0, dir193), (leafWord 193 0, cellar0)]
    leafTabs := [192, 193], used := s.used ++ [frameTag 2 4], groupFrames := [(0, 2)], stackCh := (List.range 8).map fun k => (k, 32)
    mem := manifestMem }

theorem resting_apart (x : Ctx → Ctx) : TablesApart (resting x) :=
  tablesFit_of_ok (rs := ((owned up).makeRoots 1).roots)
    (ws := (paged id).tables ++ [(dirWord (nsKey 1 2) 0, dir193), (leafWord 193 0, cellar0)]) (lt := [192, 193]) (st := []) (by decide +kernel)

def oldModel : Model :=
  { manifest := dvaOf 2 0, wmask := 1, boltBase := 4, boltCnt := 2, pantryVa := dvaOf 1 0, pantryBytes := 2 ^ 21
    wings := 1, layers := 1, larderBytes := 64, modelId := 6, version := 1, streams := [70]
    image := [(5, 0, 16, List.replicate 8 0 ++ natLe 8 64), (1, 0, 64, []), (2, 0, 1, [0])] }
def aChain : Stream := { strm true 0 with model := some 0, holdBolt := 2, layerBolt := 1, step := 5 }

def loadReq (mask base cnt : Nat) : Req :=
  reqOf 2 0x0411 1 [(16, 8, (dvaOf 2 0).toNat), (24, 8, mask), (32, 2, base), (34, 2, cnt)]
def unloadReq : Req := reqOf 2 0x0413 1 [(16, 1, 0)]
def replaceReq (shadow : Bool) (group : Nat) : Req :=
  reqOf 2 0x0412 1 [(16, 1, 0), (17, 1, boolNat shadow), (18, 2, group), (24, 8, (dvaOf 2 0).toNat),
    (32, 8, if shadow then (dvaOf 1 (2 ^ 22)).toNat else 0)]

/-- A manifest that is taken, and its load; a load that names no Wing is NO_WINGS. -/
def loads (q : Req) (s : State) : Option Nat :=
  let w : ModelWork := { id := s.nextWork + 1, ctx := reqCtx q, req := q }
  let u := s.begun q
  match { { u with nextWork := s.nextWork + 1 } with modelWork := s.modelWork ++ [w] }.beginLoad w with
  | .inl _ => none
  | .inr e => some e

theorem witness_load : ∀ e ∈ [(1, none), (2, some 3)],
    let q := loadReq e.1 4 2
    let s := asked (resting id) q
    Accepted s q 0x0411 [(16, 0, 64), (24, 0, 64), (32, 0, 15), (34, 0, 16)] [(16, manifestBad q 16)] ∧ loads q s = e.2 ∧
      (s.ctx (reqCtx q)).st = .active ∧ s.modelWork = [] ∧ s.moves = [] := by
  simp only [accepted_iff]
  decide +kernel

/-- The context holds a model whose CHAIN stream is `t`. -/
def modelUp (t : Stream) (m : Model := oldModel) : State :=
  { resting fun c => { c with models := [(0, m)] } with streams := [(70, t)] }
def refusal {α : Type} : α ⊕ Nat → Option Nat
  | .inl _ => none
  | .inr e => some e

theorem witness_unload : ∀ st ∈ [StreamSt.created, .done, .cancelled, .run], ∀ e ∈ [(0, true), (1, false)],
    let q := reqOf 2 0x0413 1 [(16, 1, e.1)]
    let s := asked (modelUp { aChain with st }) q
    Accepted s q 0x0413 [(16, 0, 8)] [] ∧ (mapFind (s.ctx (reqCtx q)).models (reqNat q 16 1)).isSome = e.2 ∧
      (s.stream 70).any (fun t => t.st == st) = true ∧ dvaOff oldModel.pantryVa + oldModel.pantryBytes ≤ 2 ^ 45 := by
  simp only [accepted_iff]
  decide +kernel

/-- A replacement of the model, of none, and by an image of another structure. -/
theorem witness_replace : ∀ shadow ∈ [false, true],
    (let q := replaceReq shadow (if shadow then 0 else 1)
      let s := asked (modelUp aChain) q
      let w : ModelWork := { id := 1, ctx := 1, req := q }
      let u := { s.begun q with nextWork := 1, modelWork := [w] }
      Accepted s q 0x0412 [(16, 0, 8), (17, 0, 1), (18, 0, 13), (24, 0, 64), (32, 0, 64)]
        [(18, !(reqBit q 17 0) && reqBits q 18 0 13 == 0), (24, manifestBad q 24),
         (32, reqBit q 17 0 && ((BitVec.ofNat 64 (reqNat q 32 8) : Dva).toNat % 2 ^ 21 != 0 ||
          dvaTier (BitVec.ofNat 64 (reqNat q 32 8)) != 1 || dvaNode (BitVec.ofNat 64 (reqNat q 32 8)) != 0xFFFF))] ∧
      reqBit q 17 0 = shadow ∧ refusal (u.replacePair w) = none ∧ (shadow = true → refusal (u.beginShadow w) = none)) ∧
    (let q := replaceReq shadow 1
     let s := asked (modelUp aChain { oldModel with image := [] }) q
     let w : ModelWork := { id := 1, ctx := 1, req := q }
     refusal ({ s.begun q with nextWork := 1, modelWork := [w] }.replacePair w) = some 0x0D) := by
  simp only [accepted_iff]
  decide +kernel

/-- The gates of that model: clear and below the arming step, and one that stands armed. -/
theorem witness_gates :
    gatesClear ((modelUp aChain).chainsOf oldModel) = true ∧
    (∀ e ∈ (modelUp aChain).chainsOf oldModel, e.2.step < (modelUp aChain).gateAt oldModel ∧ ¬(e.2.st = .wait ∧ e.2.waiting = .gate)) ∧
    (modelUp aChain).chainsOf oldModel ≠ [] ∧
    gatesClear ((modelUp { aChain with gateArm := true }).chainsOf oldModel) = false := by decide +kernel

/-- A request that waits: behind one that runs, as the fourth, as the fifth, while the context is pre-empted, and in a FAILED one. -/
theorem witness_requestsQueue : ∀ q ∈ [loadReq 1 4 2, replaceReq false 1, unloadReq], ∀ n ∈ [0, 3, 4],
    ∀ st ∈ [CtxSt.active, .preempting, .failed],
    let work : List ModelWork := { id := 9, ctx := 1, req := q, phase := .copying } :: List.replicate n { id := 10, ctx := 1, req := q }
    let s := asked { modelUp aChain with modelWork := work, ctxs := [(1, { st, wings := 1, bolts := 8 })] } q
    ((s.lbxSettle q.lbx).lbx q.lbx).taken.head? = some q ∧ ((s.lbxSettle q.lbx).lbx q.lbx).busy = false ∧ s.serves = true ∧
      (s.begun q).frameRefusal q (reqOp q) = none ∧ (s.ctx (reqCtx q)).st = st ∧
      (s.modelWork.filter fun w => w.ctx == reqCtx q && w.phase == .queued).length = n := by
  decide +kernel

/-- A request in a phase, with the state of its copy and of the model's CHAIN stream. -/
def newModel : Model :=
  { oldModel with manifest := dvaOf 2 0, modelId := 7, version := 7, pantryVa := dvaOf 1 (2 ^ 22), larder := [(0, 0, 1)] }
def going (phase : ModelPhase) (copy : StreamSt) (t : Stream) (layers : Nat := 1) : State :=
  let w : ModelWork := { id := 5, ctx := 1, req := replaceReq false 1, phase, midx := 0, model := some newModel, copies := [513] }
  { modelUp t { oldModel with layers } with
    modelWork := [w], streams := [(70, t), (513, { strm false 0 with study := true, st := copy, fault := 7 })] }
def atHold : Stream := { aChain with st := .wait, waiting := .hold }

theorem witness_goesOn : ∀ phase ∈ [ModelPhase.copying, .holding 0, .groupCopy 0, .shadowCopy, .shadowGate 5], ∀ copy ∈ [StreamSt.run, .done, .fault],
    ∀ t ∈ [aChain, atHold], ∀ layers ∈ [1, 2],
    let s := going phase copy t layers
    (∀ x ∈ s.modelWork, x.ctx = 1 ∨ x.id = 5 → x.model = some newModel ∧ x.phase = phase) ∧ s.modelWork.length = 1 ∧ s.moves = [] ∧
      dvaOff newModel.pantryVa + newModel.pantryBytes ≤ 2 ^ 45 ∧ dvaOff oldModel.pantryVa + oldModel.pantryBytes ≤ 2 ^ 45 ∧
      (s.stream 513).any (fun y => y.st == copy) = true ∧ mapFind (s.ctx 1).models 0 = some { oldModel with layers } ∧
      (s.chainsOf { oldModel with layers }).map (·.1) = [70] ∧
      (s.copiesEnd [513] = match copy with | .run => none | .done => some none | _ => some (some (7, 0))) := by decide +kernel

theorem going_apart (phase : ModelPhase) (copy : StreamSt) (t : Stream) (layers : Nat) : TablesApart (going phase copy t layers) := by
  have h := resting_apart id
  unfold TablesApart at h ⊢
  exact h

theorem witness_goesOnReads :
    (let s := going (.holding 0) .done atHold
     (∀ e ∈ s.chainsOf oldModel, e.2.st = .wait ∧ e.2.waiting = .hold ∧ e.2.occ = 0) ∧
       (match s.readManifest 1 newModel.manifest with
        | .inl b => match s.layerRanges 1 b oldModel.pantryVa 0 1 with
          | some l => (s.startCopies 1 l []).isSome
          | none => false
        | .inr _ => false) = true) ∧
    (let s := going .shadowCopy .done aChain
     let w : ModelWork := { id := 5, ctx := 1, req := replaceReq false 1, phase := .shadowCopy, midx := 0, model := some newModel, copies := [513] }
     (match s.readManifest 1 newModel.manifest with
      | .inl b =>
        let r := (s.dropCopies w).shadowLists 1 b oldModel.pantryVa newModel.pantryVa
        r.2.isNone && gatesClear (r.1.chainsOf oldModel) && (r.1.chainsOf oldModel).all fun e => decide (e.2.step < r.1.gateAt oldModel) && e.2.st != .wait
      | .inr _ => false) = true) ∧
    (∀ e ∈ (going (.shadowGate 5) .done aChain).chainsOf oldModel, (5 : W32) ≤ e.2.step) ∧
    reqBits (replaceReq false 1) 18 0 13 = 1 := by decide +kernel

/-! ## Placement revisions -/

/-- A route record at the start of TIER 1: two experts, one source; its placement at 0x10000 with one instance each, its counters at
0x1000 and its status record at 0x2000. -/
def routeMem : Memory :=
  let b := entryKey (leafOf 7 1 false 1024) false 0
  memWrites (memWrites (memWrites [] b (layout 64 [(2, 1, 2), (8, 2, 64), (12, 2, 1), (16, 8, (dvaOf 1 0x10000).toNat),
    (48, 8, (dvaOf 1 0x2000).toNat), (56, 8, (dvaOf 1 0x1000).toNat)])) (b + 0x1000) (natLe 4 300 ++ natLe 4 100)) (b + 0x10000)
    (layout 129 [(0, 1, 1), (4, 1, 1), (12, 1, 2), (64, 1, 1), (128, 1, 1)])

def routed (manager : Bool) (m : Model) : State :=
  let s := paged fun c => { c with models := [(0, m)] }
  { s with mem := routeMem, streams := [(70, { aChain with step := 2048 })]
           jobs := [{ tag := 3, origin := [0, 0, 0], size := [1, 1, 1], manager := 0, isManager := manager, detours := [] }] }
def routedModel (minGain : Nat) : Model := { oldModel with instanceBudget := some 2, minGain }

/-- A revision that is due and gains enough, one that gains too little, one with no Wing to place on, and one that is not due. -/
theorem witness_revises : ∀ e ∈ [(0, 1024, [((0 : NodeId), (0 : WingId))]), (10, 1024, [(0, 0)]), (10, 1024, []), (10, 4096, [])],
    let m := { routedModel e.1 with reviseSteps := e.2.1 }
    let s := routed true m
    (match s.routeOf 1 (dvaOf 1 0) with
     | none => false
     | some r =>
       s.chainSteps m == [2048] &&
       (match s.activeCopy 1 r 2048, s.readLoads 1 r with
        | some act, some (cnt, d, i) =>
          let loads := intervalLoads r cnt [] []
          let old := (List.range r.e).map fun e => match s.dvaNat 1 (act.1 + BitVec.ofNat 64 (64 + 64 * e)) 1 with
            | .inl v => v % 16
            | .inr _ => 1
          d == 0 && i == 0 && loads == [300, 100] && old == [1, 1] &&
          (match placement r (wingsInOrder e.2.2) loads 17 (replicas loads 2) with
           | some (reps, ps) =>
             let was := predicted loads old m.reviseSteps
             let will := predicted loads reps m.reviseSteps
             e.2.2 != [] && decide (was * 100 < will * 100 + e.1 * was) == decide (e.1 = 10) &&
               (s.writeRuns 1 [(r.placeVa + 0x10000, placeCopy r.e ps)]).2 == 0 &&
               ((s.writeRuns 1 [(r.placeVa + 0x10000, placeCopy r.e ps)]).1.writeRuns 1 (validRuns (r.placeVa + 0x10000) 2 2050)).2 == 0
           | none => e.2.2 == [])
        | _, _ => false)) = true := by decide +kernel

theorem witness_reviser : ∀ manager ∈ [true, false], let s := routed manager (routedModel 0)
    mapFind (s.ctx 1).models 0 = some (routedModel 0) ∧ (s.job? (s.ctx 1).job).any (fun j => j.isManager == manager && j.lost == [] && !j.mgrLost && s.peers j == []) = true ∧
      s.live = true ∧ (s.ctx 1).st = .active ∧ s.modelWork = [] ∧ s.rev? 1 0 = none ∧ s.revs = [] ∧
      gatesClear (s.chainsOf (routedModel 0)) = true ∧
      (∀ e ∈ s.chainsOf (routedModel 0), ¬(e.2.st = .wait ∧ e.2.waiting = .gate) ∧ e.2.step < 2050) := by decide +kernel

/-- Three instances of two experts on two Wings. -/
theorem witness_placement :
    (placement { capacity := false, e := 2, tmax := 64, frows := 64, sources := 1, cap := 0, placeVa := 0, statusVa := 0, loadVa := 0 }
      [(0, 0), (1, 0)] [3, 1] 17 [2, 1]).isSome = true := by decide +kernel

/-! ## The Porch -/

/-- A service descriptor: bytes 0 to 31, its DVAs (rings at 0, 8 KiB and 16 KiB of TIER 1, the wait queue at 32 KiB, the step buffer
on page 1), its Bolts and its stop tokens. -/
def porchDesc (pool : Nat) (pre : Bool) (vocab : Nat := 1000) : List Byte :=
  layout 256 ([(0, 1, pool + boolNat pre * 4), (1, 1, 10), (2, 2, 16), (4, 2, 64), (6, 2, 32), (8, 2, 0), (10, 2, 1), (12, 4, 64),
    (16, 4, vocab), (20, 4, 16), (24, 3, 4), (28, 1, 6), (29, 1, 4), (30, 1, 8), (31, 1, 6), (128, 2, 2), (130, 2, 3), (132, 1, 2)] ++
    ([0, 0x2000, 0x4000, 0x8000, 2 ^ 21, 0x10000, 0x20000, 0x30000, 0x40000, 0x80000, 0x90000, 0xA0000].zipIdx.map fun e =>
      (32 + 8 * e.2, 8, (dvaOf 1 e.1).toNat)) ++
    (List.range 16).map fun i => (136 + 4 * i, 4, if i = 0 then 7 else 0xFFFFFFFF))
def porchSvc (pool : Nat := 0) (pre : Bool := false) : Service := { ctx := 1, desc := BitVec.ofNat 2048 (leNat (porchDesc pool pre)) }

/-- A device whose service 3 is `v`, with bytes at offsets of TIER 1. -/
def porchUp (v : Service) (cells : List (Nat × List Byte) := []) : State :=
  { paged id with
    services := [(3, v)]
    mem := cells.foldl (fun m e => memWrites m (entryKey (leafOf 7 1 false 1024) false 0 + e.1) e.2) [] }

def openReq : Req := reqOf 2 0x0501 1 [(16, 8, (dvaOf 1 0xB0000).toNat)]
def openUp (bs : List Byte) (services : Map Service) : State :=
  { asked (porchUp porchSvc) openReq with
    services, mem := memWrites [] (entryKey (leafOf 7 1 false 1024) false 0 + 0xB0000) bs }

/-- What is read on page 0 of TIER 1 is what lies in its frame. -/
theorem page_read {s : State} {o n : Nat} {bs : List Byte} (hd : s.dirEntry 1 1 0 = dir192) (hl : s.leaf 1 1 0 = leafOf 7 1 false 1024)
    (hc : s.leafCode (leafOf 7 1 false 1024) = 0) (hp : s.poison = []) (h : o + n < 2 ^ 21)
    (hm : memReads s.mem (entryKey (leafOf 7 1 false 1024) false 0 + o) n = bs) : s.dvaRead 1 (dvaOf 1 o) n = .inl bs := by
  rw [← hm]
  refine dvaRead_run hp fun k hk => ?_
  have e : dvaOf 1 o + BitVec.ofNat 64 k = dvaOf 1 (o + k) := by
    apply BitVec.eq_of_toNat_eq
    simp only [dvaOf, BitVec.toNat_add, BitVec.toNat_ofNat]
    omega
  rw [e, pageZero hd hl hc (by omega), Nat.add_assoc]

theorem open_read (bs : List Byte) (sv : Map Service) (h : bs.length = 256) :
    (openUp bs sv).dvaRead 1 (dvaOf 1 0xB0000) 256 = .inl bs := by
  let u := asked (porchUp porchSvc) openReq
  refine page_read (.trans (b := u.dirEntry 1 1 0) rfl (by decide +kernel)) (.trans (b := u.leaf 1 1 0) rfl (by decide +kernel))
    (.trans (b := u.leafCode (leafOf 7 1 false 1024)) rfl (by decide +kernel)) rfl (by decide) ?_
  rw [← h]
  exact memReads_memWrites _ _ rfl

theorem witness_porchOpen : BitVec.ofNat 64 (reqNat openReq 16 8) = dvaOf 1 0xB0000 ∧
    (∀ sv ∈ [[(0, porchSvc)], []], ∀ vocab ∈ [1000, 1],
      Accepted (openUp (porchDesc 0 false vocab) sv) openReq 0x0501 [(16, 0, 64)] [(16, dvaTier (BitVec.ofNat 64 (reqNat openReq 16 8)) != 1)] ∧
        ((openUp (porchDesc 0 false vocab) sv).ctx (reqCtx openReq)).st = .active) ∧
    (∀ e ∈ [(1000, none), (1, some 16)], (porchDesc 0 false e.1).length = 256 ∧
      descBad ((openUp (porchDesc 0 false e.1) []).ctx 1).bolts (leNat (porchDesc 0 false e.1)) = e.2) ∧
    (openUp (porchDesc 0 false) [(0, porchSvc)]).service 1 = none ∧
    ((openUp (porchDesc 0 false) [(0, porchSvc)]).service 0).any (fun v => v.st != .closed) = true := by
  simp only [accepted_iff]
  decide +kernel

/-- Services at all of some indices, none closed; so at all 512. -/
theorem open_full (bs : List Byte) (l : List Nat) (n : Nat) (hn : n ∈ l) :
    (openUp bs (l.map fun n => (n, porchSvc))).service n = some porchSvc := by
  have h : (openUp bs (l.map fun n => (n, porchSvc))).service n = mapFind (l.map fun n => (n, porchSvc)) n := rfl
  rw [h]
  clear h
  induction l with
  | nil => simp at hn
  | cons k l ih =>
    simp only [List.map_cons, mapFind]
    split
    · rfl
    · exact ih (by grind)

theorem witness_porchFull (n : Nat) (hn : n < 512) :
    (openUp (porchDesc 0 false) ((List.range 512).map fun n => (n, porchSvc))).service n = some porchSvc :=
  open_full _ _ n (List.mem_range.2 hn)

/-- A sequence of service 3 in decode or prefill with nothing pending. -/
def aSeq (st : BitVec 3 := 2) : Seq := { st, service := 3, promptLen := 40, pos := 32, new := 1, maxNew := 4, chunks := [0, 1], held := 2 }
def svcReq (op : Nat) : Req := reqOf 2 op 1 [(16, 2, 3)]

/-- PORCH_DRAIN and PORCH_CLOSE of a service in each state, with and without a step and a sequence. -/
theorem witness_porchEnd : ∀ op ∈ [0x0502, 0x0503], ∀ st ∈ [SvcSt.opened, .draining, .suspended, .closed], ∀ step ∈ [none, some []],
    ∀ closing ∈ [false, true], ∀ seqs ∈ [[], [(0, aSeq)], [(0, { aSeq with st := 3 })]],
    let v := { porchSvc with st, step, closing }
    let s := asked { porchUp v with seqs } (svcReq op)
    Accepted s (svcReq op) op [(16, 0, 16)] [(16, decide (512 ≤ reqNat (svcReq op) 16 2))] ∧ s.service (reqNat (svcReq op) 16 2) = some v ∧
      v.ctx = reqCtx (svcReq op) ∧ (st = .opened → stepRuns v = step.isSome) ∧ v.waitq = [] ∧ v.pendOut = [] ∧ v.closeTag = none := by
  simp only [accepted_iff]
  decide +kernel

/-- PORCH_SEQ_READ of an entry of the context's own service, of another's, and of none; PORCH_STATS. -/
theorem witness_porchReports :
    (∀ c ∈ [1, 2], let q := reqOf 2 0x0504 1 [(16, 2, 5)]
      let s := asked { porchUp { porchSvc with ctx := BitVec.ofNat 6 c } with seqs := [(5, aSeq)] } q
      Accepted s q 0x0504 [(16, 0, 14)] [] ∧ s.seq (reqNat q 16 2) = some aSeq ∧
        (s.service 3).any (fun v => decide (v.ctx = reqCtx q) == (c == 1)) = true) ∧
    (let q := reqOf 2 0x0504 1 [(16, 2, 5)]
     Accepted (asked (porchUp porchSvc) q) q 0x0504 [(16, 0, 14)] [] ∧ (asked (porchUp porchSvc) q).seq (reqNat q 16 2) = none) ∧
    (let s := asked (porchUp porchSvc) (svcReq 0x0505)
     Accepted s (svcReq 0x0505) 0x0505 [(16, 0, 16)] [(16, decide (512 ≤ reqNat (svcReq 0x0505) 16 2))] ∧
       s.service (reqNat (svcReq 0x0505) 16 2) = some porchSvc) := by
  simp only [accepted_iff]
  decide +kernel

/-- Service 3 with its rings: the request ring from `k` to `p`, and a request at place 0 of the ring; the others are empty. -/
def aRequest : Nat := leNat (layout 64 [(0, 8, 9), (12, 4, 40), (16, 8, (dvaOf 1 0xC0000).toNat), (24, 4, 4)])
def ringUp (v : Service) (p k : Nat) (seqs : Map Seq) : State :=
  { porchUp v [(0, ringBytes p k), (64, natLe 64 aRequest)] with seqs }

def ringHolds (s : State) (c : CtxId) (d : Dva) (len p k : Nat) : Bool :=
  decide (p < 2 ^ 32) && decide (k < 2 ^ 32) && !s.inRegisters d && decide (s.dvaRead c d 8 = .inl (ringBytes p k)) && decide (ringUsed (p, k) ≤ len)
theorem ringHolds_iff {s : State} {c : CtxId} {d : Dva} {len p k : Nat} : RingHolds s c d len p k ↔ ringHolds s c d len p k = true := by
  have : (ringBytes p k).length = 8 := rfl
  simp only [RingHolds, PorchSees, this, ringHolds, Bool.and_eq_true, decide_eq_true_eq, Bool.not_eq_true']
  grind

theorem tidy_of {s : State} {i : Nat} {v : Service} (h : s.service i = some v ∧ s.svcRuns v = true ∧ v.st = .opened ∧ v.closing = false ∧
    svPool v = 0 ∧ v.pendOut = [] ∧ v.reading = [] ∧ v.waitq = [] ∧
    (∀ e ∈ s.seqs, e.2.pendToken = false ∧ e.2.pendEnd = false ∧ e.2.endDue = 0 ∧ e.2.joined = false ∧ e.2.st ≠ 4) ∧
    ringHolds s v.ctx (svVa v 1) (svCtlLen v) 0 0 = true ∧ ringHolds s v.ctx (svVa v 2) (svOutLen v) 0 0 = true ∧ 2 ≤ svOutLen v ∧
    (∀ e ∈ s.ctxs, e.2.releasing = none)) : Tidy s i v := by
  obtain ⟨h1, h2, h3, h4, h5, h6, h7, h8, h9, h10, h11, h12, h13⟩ := h
  exact ⟨h1, h2, h3, h4, h5, h6, h7, h8, h9, ⟨0, ringHolds_iff.2 h10⟩, ⟨0, 0, ringHolds_iff.2 h11, h12⟩, h13⟩

/-- A step whose prefill is done: the sequence goes on, or stands paused, so that the next step has an entry, or none. -/
def built (pause : BitVec 2) : Service × State :=
  let v := { porchSvc with step := some [{ seq := 0, kind := 1, pos := 0, ntok := 32 }], doneSeen := true }
  (v, ringUp v 0 0 [(0, { aSeq 1 with pos := 0, pause })])

theorem witness_builds : ∀ pause ∈ [0, 1], let v := (built pause).1
    let s := (built pause).2
    Tidy s 3 v ∧ stepRuns v = true ∧ s.firstDone v = true ∧ svPrefix v = false ∧ s.seq 0 = some { aSeq 1 with pos := 0, pause } ∧
      RingHolds s v.ctx (svVa v 0) (svReqLen v) 0 0 ∧
      (let u := ((s.updService 3 fun v => { v with records := 0 }).updSeq 0 fun q => { q with pos := 32 }).updService 3 fun v =>
         { v with step := none, doneSeen := false }
       (u.compose 3 v = [] ↔ pause = 1) ∧ (match composeStep 3 u with | .ok _ _ => true | .error .. => false) = true) ∧
      svPrefillMin v ≤ svStepTokens v := by
  intro pause hp
  refine ⟨tidy_of ?_, ?_⟩
  · revert pause; decide +kernel
  · simp only [ringHolds_iff]
    revert pause; decide +kernel

/-- Tokens that do not end a sequence by themselves, that do, and that are outside the vocabulary. -/
theorem witness_tokens :
    (∀ t ∈ [999, 7, 1000], decide (t < svVocab porchSvc) = (t != 1000)) ∧ (judge porchSvc aSeq 7 2 []).stopToken = true ∧
    (judge porchSvc aSeq 999 2 []).stopToken = false ∧ aSeq.hostStop = false ∧ (judge porchSvc aSeq 999 4 []).code = 3 ∧
    (judge porchSvc { aSeq with maxNew := 30 } 999 24 []).code = 4 := by decide +kernel

/-- A poll of an idle service: an empty ring, and one request. -/
theorem witness_polls : (∀ p ∈ [0, 1], let s := ringUp porchSvc p 0 []
      Tidy s 3 porchSvc ∧ porchSvc.step = none ∧ s.svSeqs 3 = [] ∧
        RingHolds s porchSvc.ctx (svVa porchSvc 0) (svReqLen porchSvc) p 0) ∧
    aRequest < 2 ^ 512 ∧ 0 < svWaitLen porchSvc ∧ (ringUp porchSvc 1 0 []).walksInFlight < 64 ∧
    PorchSees (ringUp porchSvc 1 0 []) 1 (ringEntry (svVa porchSvc 0) (svReqLen porchSvc) 64 0) (natLe 64 aRequest) ∧
    requestBad porchSvc aRequest = false ∧ rqLen aRequest < svMaxCtx porchSvc ∧ rqChunks porchSvc aRequest ≤ svKvChunks porchSvc := by
  refine ⟨fun p hp => ⟨tidy_of ?_, ?_⟩, ?_⟩
  · revert p; decide +kernel
  · simp only [ringHolds_iff]
    revert p; decide +kernel
  · unfold PorchSees
    decide +kernel

/-- While a step runs, a request whose walk has returned is taken. -/
def walkedReq : WaitReq := { desc := BitVec.ofNat 512 aRequest, walked := true }
def takingSvc : Service := { porchSvc with step := some [], reading := [walkedReq] }

theorem witness_takes :
    let s := ringUp takingSvc 1 0 []
    let v := takingSvc
    let at_ := waitVa v v.waitNo
    let w1 := s.dvaWrite v.ctx at_ (natLe 64 walkedReq.desc.toNat ++ natLe 64 (walkedReq.node.getD 0xFFFFFF).toNat)
    let w2 := w1.1.dvaWrite v.ctx (dvaAdd (svVa v 0) 4) (natLe 4 1)
    s.service 3 = some v ∧ s.svcRuns v = true ∧ (∀ e ∈ s.ctxs, e.2.releasing = none) ∧ v.waitq.length < svWaitLen v ∧
      RingHolds s v.ctx (svVa v 0) (svReqLen v) 1 0 ∧ RingHolds s v.ctx (svVa v 2) (svOutLen v) 0 0 ∧ 2 ≤ svOutLen v ∧
      s.inRegisters at_ = false ∧ s.inRegisters (dvaAdd (svVa v 0) 4) = false ∧ w1.2 = 0 ∧ w2.2 = 0 ∧
      RingHolds w2.1 v.ctx (svVa v 0) (svReqLen v) 1 1 ∧ RingHolds w2.1 v.ctx (svVa v 2) (svOutLen v) 0 0 := by
  simp only [ringHolds_iff]
  decide +kernel

/-- A walk whose prompt holds a token outside the vocabulary, one with none, and one that may not use the index or that finds no
node; `porchSvc` with an index has its buckets at 256 KiB of TIER 1. -/
def walking (pre : Bool) (token : Nat) (noPrefix : Nat) (len : Nat := 1) : State :=
  let r := leNat (layout 64 [(8, 1, noPrefix), (12, 4, len), (16, 8, (dvaOf 1 0xC0000).toNat), (24, 4, 4)])
  porchUp { porchSvc 0 pre with reading := [{ desc := BitVec.ofNat 512 r }] } [(0xC0000, natLe (4 * len) token)]

theorem witness_prompts : ∀ e ∈ [(true, 1000, 0), (true, 5, 2), (false, 5, 0), (true, 5, 0)], let s := walking e.1 e.2.1 e.2.2
    s.live = true ∧ (s.service 3).any (fun v => v.reading.any fun w =>
      !w.walked && rqStrings w.desc.toNat == 0 && rqLen w.desc.toNat == 1 && rqNoPrefix w.desc.toNat == (e.2.2 == 2) && svPrefix v == e.1 &&
        (let d : Dva := BitVec.ofNat 64 (rqPrompt w.desc.toNat)
         !s.inRegisters d && decide (s.dvaRead 1 d 4 = .inl (natLe 4 e.2.1))) &&
        decide (svVocab v ≤ leNat ((natLe 4 e.2.1).take 4)) == (e.2.1 == 1000)) = true := by decide +kernel

/-- The walker finds no node for the chunk, and changes nothing. -/
theorem witness_walkFinds : let s := walking true 5 0 33
    (match walkGo (porchSvc 0 true) (natLe 132 5) 1 0 noNode s with
     | .ok n _ => n == noNode
     | .error .. => false) = true := by decide +kernel

/-- The chunk list of a sequence that begins on no node is written; a service whose index has more DEAD entries than one in sixteen. -/
theorem witness_fills :
    (let s := { porchUp porchSvc with seqs := [(0, { aSeq with chlPending := true, indexed := 0 })] }
     (match pathGo porchSvc 0 noNode [] s with
      | .ok cs _ => cs.isEmpty
      | .error .. => false) = true ∧ s.inRegisters (listVa porchSvc 0) = false ∧
       (s.dvaWrite 1 (listVa porchSvc 0) []).2 = 0 ∧ aSeq.deep.toNat = noNode) ∧
    (∀ dead ∈ [0, 1], let v := { porchSvc 0 true with dead, inUse := 15 }
     let s := porchUp v
     s.walkBusy = false ∧ (v.inUse < 16 * v.dead ↔ dead = 1) ∧ svPrefix v = true ∧ v.st = .opened) ∧
    (walking true 5 0 33).walkBusy = true := by decide +kernel

/-- An index of one bucket is rewritten. -/
theorem witness_compaction :
    let v := { porchSvc with desc := BitVec.ofNat 2048 (leNat (patchBytes (porchDesc 0 true) 1 [0])), dead := 1, inUse := 15 }
    svPrefix v = true ∧ svBuckets v = 1 ∧
      (match ((List.range (svBuckets v)).forM (compactBucket v) : Pm PUnit) (porchUp v) with
       | .ok _ _ => true
       | .error .. => false) = true := by decide +kernel

/-- A handoff whose copy is done, has failed, or goes on; one that waits for an answer with a peer left and with none; one that waits
for DONE's answer; and a sequence that is being received. -/
def handing (st : StreamSt) (q : Seq) : State :=
  { porchUp porchSvc [(0xA0000, natLe 8 5)] with
    streams := [(513, { strm false 0 with study := true, st, fault := 2 })], seqs := [(0, q)] }

theorem witness_handoffs :
    (∀ st ∈ [StreamSt.done, .fault, .run], let q := { aSeq 4 with hoPhase := 2, hoCopy := some 513 }
      let s := handing st q
      s.live = true ∧ s.seq 0 = some q ∧ s.service q.service = some porchSvc ∧ q.pendEnd = false ∧ q.endDue = 0 ∧
        (s.stream 513).any (fun y => y.st == st && y.fault != 0x0C) = true ∧ s.porchOut = []) ∧
    (∀ n ∈ [1, 2], let q := { aSeq 4 with hoPhase := 1, hoAsked := n, hoPeer := 1 }
      let s := handing .done q
      s.seq 0 = some q ∧ s.service q.service = some porchSvc ∧ (svPeers porchSvc ≤ n ↔ n = 2) ∧
        s.inRegisters (dvaAdd (svVa porchSvc 11) (8 * ((1 + 1) % svPeers porchSvc))) = false ∧
        s.dvaRead 1 (dvaAdd (svVa porchSvc 11) (8 * ((1 + 1) % svPeers porchSvc))) 8 = .inl (natLe 8 5)) ∧
    (∀ q ∈ [{ aSeq 4 with hoPhase := 3 }, aSeq 5], (handing .done q).seq 0 = some q ∧ q.pendEnd = false ∧ q.endDue = 0) := by
  decide +kernel

/-! The examples of chapter 8 that need no memory. -/

/-- A stop token ends a sequence and is delivered; the MAX_NEW-th token ends it. -/
theorem test_stopToken : judge porchSvc aSeq 7 2 [] = { stopToken := true, code := 1, tail := [] } := by decide +kernel
theorem test_outside : (judge porchSvc aSeq 1000 2 []).deliver = false := by decide +kernel

/-! ## Corridor links -/

/-- Port 0 is UP towards +X, on an 8-wide torus of which this device is node 0. -/
def livePort : Port := { portReset 0 with st := .up, width := 8, nbrNode := 1, nbrPort := 12, shared := 2944 }
def linkUp (x : Port) (fabric : BitVec 512 := 0x0101070000) : State :=
  { up with fabric := some fabric, idNode := 0, ports := [(0, x)], slotTab := [(0, List.replicate 64 0)] }

/-- Header bits of a Corridor flit: FSEQ, ACK or NAK of ASEQ 0x3FF, IDLE. -/
def cflit (fseq : Nat) (nak idle : Bool) (pay : List Byte) : RxFlit :=
  sealFlit (BitVec.ofNat 32 (fseq + 0x3FF * 2 ^ 10 + boolNat (!nak) * 2 ^ 20 + boolNat nak * 2 ^ 21 + boolNat idle * 2 ^ 31)) pay

theorem cflit_fields (pay : List Byte) : ∀ fseq ∈ [0, 1], ∀ nak ∈ [false, true], ∀ idle ∈ [false, true], let f := cflit fseq nak idle pay
    f.decodes = true ∧ f.crcOk = true ∧ f.fseq = BitVec.ofNat 10 fseq ∧ f.aseq = 0x3FF ∧ f.ack = !nak ∧ f.nak = nak ∧ f.crq = 0 ∧
      f.crp = false ∧ f.crcnt = 0 ∧ f.idle = idle ∧ f.payload = pay := by
  intro fseq h nak hn idle hi f
  simp only [f, cflit, RxFlit.fseq, RxFlit.aseq, RxFlit.ack, RxFlit.nak, RxFlit.crq, RxFlit.crp, RxFlit.crcnt, RxFlit.idle, sealFlit_crc,
    sealFlit_field _ _ 0 10 (by decide), sealFlit_field _ _ 10 10 (by decide), sealFlit_field _ _ 22 4 (by decide),
    sealFlit_field _ _ 27 4 (by decide), sealFlit_bit _ _ 20 (by decide), sealFlit_bit _ _ 21 (by decide), sealFlit_bit _ _ 26 (by decide),
    sealFlit_bit _ _ 31 (by decide), show ∀ l, (sealFlit l pay).payload = pay from fun _ => rfl, and_true]
  refine ⟨trivial, trivial, ?_⟩
  revert fseq nak idle
  decide

/-- Flits in each of the cases: 13 errors, a wrong sequence number, a NAK, an IDLE flit, packet bytes in part. -/
theorem witness_flitCases :
    (∀ open_ ∈ [false, true], Receives (linkUp { livePort with nakOpen := open_ }) 0) ∧ ({ header := 0, errors0 := 7 } : RxFlit).decodes = false ∧
    (∀ pay, (cflit 1 false false pay).fseq ≠ livePort.rxNext ∧ (cflit 1 false false pay).idle = false) ∧
    (∀ naks ∈ [0, 15], (flitHeader { livePort with naks } (cflit 0 true true [])).naks = naks + 1) ∧
    (let y := flitHeader livePort (cflit 0 false false (List.replicate 16 0))
     (streamIn y (cflit 0 false false (List.replicate 16 0))).1 = []) := by
  refine ⟨by unfold Receives; decide +kernel, by decide, fun pay => ?_, ?_, ?_⟩
  · obtain ⟨-, -, h, -, -, -, -, -, -, hi, -⟩ := cflit_fields pay 1 (by decide) false (by decide) false (by decide)
    exact ⟨by rw [h]; decide, hi⟩
  · obtain ⟨-, -, -, ha, hk, hn, hq, hp, hc, -, -⟩ := cflit_fields [] 0 (by decide) true (by decide) true (by decide)
    simp only [flitHeader, takeCredits, ha, hk, hn, hq, hp, hc]
    decide +kernel
  · obtain ⟨-, -, h, ha, hk, hn, hq, hp, hc, -, hd⟩ := cflit_fields (List.replicate 16 0) 0 (by decide) false (by decide) false (by decide)
    simp only [streamIn, flitHeader, takeCredits, h, ha, hk, hn, hq, hp, hc, hd]
    decide +kernel

/-- A packet completed by a flit: good, of 64 hops, and with a reserved bit. -/
def wirePacket (hops last : Nat) : List Byte := layout 32 [(4, 1, 1), (15, 1, hops), (31, 1, last)]
theorem witness_packets : ∀ e ∈ [(3, 0), (64, 0), (3, 0x20)], let pay := wirePacket e.1 e.2
    let y := flitHeader livePort (cflit 0 false false pay)
    (streamIn y (cflit 0 false false pay)).1 = [(packetOf pay, 0, 0)] ∧ (packetBad (packetOf pay) = true ∨ (packetOf pay).hops = 64 ↔ e ≠ (3, 0)) ∧
      (packetOf pay).dt = false ∧ (packetOf pay).replay = false ∧ (packetOf pay).dst = (linkUp livePort).idNode ∧ (packetOf pay).kind ≠ 0xA := by
  intro e he
  obtain ⟨-, -, h, ha, hk, hn, hq, hp, hc, -, hd⟩ := cflit_fields (wirePacket e.1 e.2) 0 (by decide) false (by decide) false (by decide)
  simp only [streamIn, flitHeader, takeCredits, h, ha, hk, hn, hq, hp, hc, hd]
  clear h ha hk hn hq hp hc hd
  revert e
  decide +kernel

/-- Training on eight lanes, on four, on too few, and with a wrong neighbour; a lane retired on a good port and on one with three
lanes bad; a port that may train again, and one whose replay goes on. -/
def trained (good : BitVec 9) (node : NodeId) : TrainResult := { good, nbrNode := node, nbrPort := 12, nbrDir := 1, rttNs := 80, cable := true }

theorem witness_ports :
    (let s := linkUp { portReset 0 with st := .training }
     (s.port 0).st = .training ∧ (s.port 0).resRole ≠ 2 ∧ s.trainReason 0 (trained 0xFF 1) = 0 ∧ s.trainReason 0 (trained 0x0F 1) = 0 ∧
       s.trainReason 0 (trained 7 1) = 4 ∧ s.trainReason 0 (trained 0xFF 2) = 5 ∧ (laneMap 0x17F).1 = 8 ∧ (laneMap 0x17F).2 = true) ∧
    portLive livePort = true ∧ livePort.resRole ≠ 2 ∧
    (∀ bad ∈ [0, 0xF8], let x := { livePort with lanesBad := BitVec.ofNat 9 bad }
      bitOf x.lanesBad.toNat 0 = false ∧ ((laneMap (~~~(x.lanesBad ||| BitVec.ofNat 9 1))).1 = 0 ↔ bad = 0xF8)) ∧
    mayRetrain { livePort with st := .down } = true ∧ ({ livePort with st := .down } : Port).reason ≠ 8 ∧ up.devSt ≠ .fatal ∧
    mayRetrain livePort = false ∧ mayRetrain { livePort with st := .down, replayWait := true } = false := by decide +kernel

/-- A slot on its way back; LINK packets that have arrived on port 0; a direction whose last port is DOWN. -/
def arrivedUp (pk : Packet) (x : Port := livePort) : State := { linkUp x with arrived := [(0, pk)] }
def linkPk (ty rport : Nat) : Packet := { dst := 0, src := 1, kind := 0xB, vc := 2, arg := BitVec.ofNat 64 (ty + rport * 256) }

theorem witness_links :
    (let s := { linkUp livePort with slotBack := [(slotKeyOf 0 5, 1)] }
     mapFind s.slotBack (slotKeyOf 0 5) = some 1 ∧ s.slotPort 0 5 = some 0 ∧ holdsSlot (s.port 0) 5 = false ∧ (s.port 1).st ≠ .down ∧
       ({ s with ports := [(0, livePort), (1, { livePort with st := .down })] } : State).slotPort 0 5 = some 0) ∧
    (∀ ty ∈ [1, 2, 3], ∀ x ∈ [livePort, { livePort with st := .down, replayWait := true }],
      ((arrivedUp (linkPk ty 0) x).takeArrived 0 0xB (some ty)).any (fun e =>
        e.1 == linkPk ty 0 && portLive (e.2.port (bitsOf e.1.arg.toNat 8 5)) == (x.st == .up) &&
          (e.2.port (bitsOf e.1.arg.toNat 8 5)).nbrNode == e.1.src) = true) ∧
    (let s := linkUp { livePort with st := .down, replayWait := true }
     s.live = true ∧ s.dirUnusable 0 = true ∧ s.unreachable = [] ∧ (∃ p ∈ s.dirPorts 0, (s.port p).replayWait = true) ∧ s.jobs = []) ∧
    (let j : Job := { tag := 3, origin := [0, 0, 0], size := [2, 2, 2], manager := 1, isManager := false, detours := [] }
     ({ linkUp { livePort with st := .down, replayWait := true } with jobs := [j] } : State).jobs.length = 1) := by decide +kernel

/-! ## Remote requests, Bolts, groups and jobs -/

/-- Context 1 runs job 3 on this device, node 0 of an 8 × 2 × 2 torus; a packet from node 1 waits on port 0. -/
def aJob (manager : Bool) : Job :=
  { tag := 3, origin := [0, 0, 0], size := [2, 1, 1], manager := if manager then 0 else 1, isManager := manager, detours := [] }
def jobUp (manager : Bool := false) : State :=
  { owned up with fabric := some 0x0101070000, idNode := 0, ports := [(0, livePort)], jobs := [aJob manager] }
def got (s : State) (pk : Packet) : State := { s with arrived := [(0, pk)] }
/-- The packet is the oldest of its kind, and what holds of the state without it. -/
def taken (s : State) (kind : Nat) (pk : Packet) (f : State → Bool) (sub : Option Nat := none) : Bool :=
  (s.takeArrived 0 kind sub).any fun e => e.1 == pk && f e.2
def reqPk (write : Bool) (job tier off : Nat) : Packet :=
  { dst := 0, src := 1, kind := if write then 2 else 1, vc := 0, len := 1, job := BitVec.ofNat 32 job
    arg := BitVec.ofNat 64 (tier * 2 ^ 45 + off), data := if write then List.replicate 64 1 else [] }
def tagOf (perm : Nat) : TpmEntry := { ctx := 1, ns := 1, vpn := 0, sub := 32, entry := leafOf perm 1 false 1024 }

/-- Reads and writes: of another job, of TIER 0 and 5, of a page not mapped, and of one in the port's buffer with REM_RD and REM_WR or
without. -/
theorem witness_served : ∀ write ∈ [false, true],
    (∀ e ∈ [(9, 1), (3, 0), (3, 5), (3, 1)], let pk := reqPk write e.1 e.2 256
      (jobUp).live = true ∧ taken (got jobUp pk) (if write then 2 else 1) pk (fun u =>
        (u.jobCtx pk.job).isSome == (e.1 == 3) && dvaTier (requestDva pk) == e.2 &&
          (u.bufHit 75 1 (dvaTier (requestDva pk)) (dvaOff (requestDva pk))).isNone &&
          (u.sliceHit 1 (dvaTier (requestDva pk)) (dvaOff (requestDva pk))).isNone &&
          !sliceBusy (mapGet {} u.slices (sliceOf (dvaOff (requestDva pk)))) &&
          (match u.walkNow 1 1 256 with
           | .bad _ => true
           | _ => false)) = true) ∧
    (∀ perm ∈ [1, 7], let pk := reqPk write 3 1 256
      let s := got { jobUp with tbufs := [(75, [tagOf perm])], stackCh := [(0, 32)] } pk
      s.accesses = [] ∧ taken s (if write then 2 else 1) pk (fun u =>
        u.jobCtx pk.job == some 1 && u.bufHit 75 1 1 256 == some (tagOf perm) && !u.keyHeld (entryKey (leafOf perm 1 false 1024) false 256) &&
          (annexPort (leafOf perm 1 false 1024) false).isNone &&
          (if write then eRemWr (leafOf perm 1 false 1024) else eRemRd (leafOf perm 1 false 1024)) == (perm == 7)) = true) := by
  decide +kernel

/-- Responses that match no request, one of an access, one of a Bolt operation posted and waited for, one of a copy of a group write. -/
def rspPk (kind code : Nat) (seq : W16 := 4) (err : Nat := 0) : Packet :=
  { dst := 0, src := 1, kind := BitVec.ofNat 4 kind, vc := 1, rtag := 2, seq, code := BitVec.ofNat 8 code, arg := BitVec.ofNat 64 (err * 2 ^ 32) }
def remoteOf (kind : Nat) : Remote := { rtag := 2, seq := 4, south := false, node := 1, job := 3, kind, what := if kind = 0 then 5 else 0 }
def waitsRemote (kind : Nat) (ret : Option (BitVec 4)) : State :=
  { jobUp with
    remotes := [remoteOf kind], accesses := [{ acc false (dvaOf 1 0) (.remoteOut 2) with who := .vldm 0 0 }]
    rooms := [(0, { room0 with ve := { wait := .bolt ret } })]
    gwrites := [{ id := 0, job := 3, group := 1, south := false, parent := none, access := none, ownCode := none, kids := [(1, none)] }] }

theorem witness_responses : ∀ kind ∈ [3, 4, 6, 9],
    (let pk := rspPk kind 0 5
     taken (got (waitsRemote 0 none) pk) kind pk (fun u => (u.remoteOf pk).isNone) = true) ∧
    (∀ k ∈ [0, 1, 2, 3], ∀ e ∈ [(0, 0), (0x0A, 0), (0x0C, 0), (0, 2)], ∀ ret ∈ [none, some 3], let pk := rspPk kind e.1 4 e.2
     taken (got (waitsRemote k ret) pk) kind pk (fun u =>
       u.remoteOf pk == some (remoteOf k) && (u.access 5).any (fun a => a.who == .vldm 0 0) && (u.room 0).ve.wait == .bolt ret &&
         (u.room 0).runst == .run && (u.gwrites.find? fun g => g.id == 0).any (fun g => g.ownCode == none) && bitsOf pk.arg.toNat 32 8 == e.2) = true) := by
  decide +kernel

/-- A request that is out, whose RTAG no other has. -/
theorem witness_timeout : let s := waitsRemote 0 none
    s.remotes.find? (fun m => m.south == false && m.rtag == 2) = some (remoteOf 0) ∧
    (s.access 5).any (fun a => a.who == .vldm 0 0) = true ∧ (s.dropRemote (remoteOf 0)).remotes = [] ∧
    (∀ kind ∈ [3, 4], let v := { got s (rspPk kind 0) with remotes := [] }
      taken v kind (rspPk kind 0) (fun u => (u.remoteOf (rspPk kind 0)).isNone) = true ∧ (rspPk kind 0).seq = (remoteOf 0).seq) := by
  decide +kernel

/-- Bolt 5 of the job, asked for by BOLT_REQ of an OP, and tree messages for it; Bolt 9 is none of the context's. -/
def boltPk (job i op : Nat) : Packet :=
  { dst := 0, src := 1, kind := 5, vc := 0, job := BitVec.ofNat 32 job, arg := BitVec.ofNat 64 ((i + op * 2 ^ 16) * 2 ^ 32 + 1) }
def treePk (ty i code : Nat) : Packet :=
  { dst := 0, src := 1, kind := 7, vc := 2, job := 3, arg := BitVec.ofNat 64 (i + ty * 2 ^ 16 + code * 2 ^ 24) }
def boltsUp (b : Bolt) : State := { jobUp with bolts := [(5, b)] }

theorem witness_remoteBolts :
    (∀ e ∈ [(9, 5, 1), (3, 9, 1), (3, 5, 1), (3, 5, 9)], ∀ ok ∈ [false, true], let pk := boltPk e.1 e.2.1 e.2.2
      taken (got (boltsUp { remoteOk := ok }) pk) 5 pk (fun u => (u.jobCtx pk.job).isSome == (e.1 == 3) &&
        (u.remoteBolt pk.job (bitsOf (bitsOf pk.arg.toNat 32 32) 0 15)).isSome == (e.1 == 3 && e.2.1 == 5) && (u.bolt 5).remoteOk == ok &&
        decide (imm2Op (bitsOf pk.arg.toNat 32 32) ≤ 8) == (e.2.2 == 1)) = true) ∧
    (∀ ty ∈ [1, 2, 3, 4],
      (let pk := treePk ty 9 3
       taken (got (boltsUp {}) pk) 7 pk (fun u => (u.remoteBolt pk.job (bitsOf pk.arg.toNat 0 15)).isNone) (some ty) = true) ∧
      ∀ error ∈ [false, true], ∀ reported ∈ [false, true], ∀ hold ∈ [false, true],
        let x : Bolt := { barrier := true, count := 2, value := if ty = 1 then 0 else 2, error, reported, ppoint := true }
        let pk := treePk ty 5 3
        let s := { boltsUp x with ctxs := [(1, { st := if hold then .preempting else .active, wings := 1, bolts := 8, job := 3,
                                                  pre := if hold then some { checkpoint := false, bolt := 5, phase := 0, req := reqOf 0 0 0 [] } else none })] }
        taken (got s pk) 7 pk (fun u => u.remoteBolt pk.job 5 == some (1, 5) && u.bolt 5 == x && u.holdsRelease 5 == hold) (some ty) = true) := by
  decide +kernel

/-- Group writes to a group of none, of a child, and of this device alone; while no tag is free; tree, group and other settings. -/
def gwrPk : Packet :=
  { dst := 0x8001, src := 1, kind := 8, vc := 0, len := 1, job := 3, arg := BitVec.ofNat 64 (2 ^ 45 + 256), data := List.replicate 64 1 }
def groupUp (isLocal : Bool) (children : List NodeId) : State :=
  { jobUp with groups := [{ job := 3, group := 1, root := false, isLocal, parent := 1, children }], tbufs := [(75, [tagOf 7])]
               stackCh := [(0, 32)] }

def aWrite (id : Nat) : GroupWrite :=
  { id, job := 3, group := 1, south := false, parent := none, access := none, ownCode := none, kids := [] }

theorem witness_groups :
    taken (got jobUp gwrPk) 8 gwrPk (fun u => (u.groupOf 3 1).isNone) = true ∧
    (∀ e ∈ [(false, []), (false, [2]), (true, [])], taken (got (groupUp e.1 e.2) gwrPk) 8 gwrPk (fun u =>
      (u.groupOf 3 1).any (fun g => g.isLocal == e.1 && g.children == e.2) && u.groupReady false && u.gwrites.isEmpty && u.accesses.isEmpty &&
        u.jobCtx 3 == some 1 && u.bufHit 75 1 (dvaTier (requestDva gwrPk)) (dvaOff (requestDva gwrPk)) == some (tagOf 7) &&
        !u.keyHeld (entryKey (leafOf 7 1 false 1024) false 256) && eRemWr (leafOf 7 1 false 1024)) = true) ∧
    (let w : GroupWrite := { id := 0, job := 3, group := 1, south := false, parent := some gwrPk, access := none, ownCode := some 0, kids := [(2, none)] }
     let x : Packet := { dst := 0x8001, src := 0, kind := 8, vc := 0, len := 1, job := 3, arg := BitVec.ofNat 64 ((requestDva gwrPk).toNat % 2 ^ 48),
                         key := dvaSlotKey (requestDva gwrPk), data := gwrPk.data }
     ({ groupUp false [2] with gwrites := [w], nextGw := 1 }.sendRequest 2 x 2 0).isSome = true) ∧
    (let s := { groupUp false [] with gwrites := (List.range 1024).map aWrite }
     s.groupReady false = false) := by decide +kernel

/-- The fields of a tree of two devices that fit the manager and the worker, and do not with the other's or a COUNT of 0. -/
def treeOf (root : Bool) (count : W32) : TreeFields := { root, parent := 1, children := if root then [1] else [], count }

theorem witness_treeFits : (∀ manager ∈ [false, true], (jobUp manager).treeFits (aJob manager) (treeOf manager 2) = true) ∧
    (∀ manager ∈ [false, true], (jobUp manager).treeFits (aJob manager) (treeOf manager 0) = false) ∧
    (∀ manager ∈ [false, true], (jobUp manager).treeFits (aJob manager) (treeOf (!manager) 2) = false) := by decide +kernel

theorem witness_settings : ∀ manager ∈ [false, true], let s := jobUp manager
    s.live = true ∧ s.job? 3 = some (aJob manager) ∧ (aJob manager).isManager = manager ∧ s.remoteBolt 3 5 = some (1, 5) ∧
    s.groups = [] ∧ s.jobCtx 3 = some 1 ∧ s.revs = [] ∧ s.peers (aJob manager) = [1] ∧ s.remotes = [] ∧ s.inBlock (aJob manager) 1 = true := by
  decide +kernel

/-! PLACE: a worker that prepares, is asked to arm in time and late, writes, and goes; a Steward whose two workers answer. -/

def revOf (phase : RevPhase) (manager : Bool) (waits : List NodeId := []) : Revision :=
  { ctx := 1, midx := 0, route := dvaOf 1 0, copy := dvaOf 1 0x20000, version := 2, active := 0, manager, plan := {}, table := []
    phase, step := 2050, waits }
def placing (manager : Bool) (revs : List Revision) (st : CtxSt := .active) : State :=
  { (routed manager (routedModel 0)).updCtx 1 fun c => { c with st } with revs }

theorem witness_place : ∀ manager ∈ [false, true], let s := placing manager []
    s.live = true ∧ (s.job? 3).any (fun j => j.isManager == manager) = true ∧ s.jobCtx 3 = some 1 ∧
      mapFind (s.ctx 1).models 0 = some (routedModel 0) ∧ s.chainSteps (routedModel 0) = [2048] ∧
      gatesClear (s.chainsOf (routedModel 0)) = true ∧
      (∀ e ∈ s.chainsOf (routedModel 0), e.2.step < 2050 ∧ ¬(e.2.step < 2048) ∧ ¬(e.2.st = .wait ∧ e.2.waiting = .gate)) := by decide +kernel

theorem witness_prepare : ∀ st ∈ [CtxSt.active, .preempted], let s := placing false [] st
    s.revs = [] ∧ (s.ctx 1).st = st ∧ (s.writeRuns 1 [(dvaOf 1 0x20000, [1])]).2 = 0 ∧
      (s.writeRuns 1 (validRuns (dvaOf 1 0x20000) 2 2050)).2 = 0 ∧
      (match s.routeOf 1 (dvaOf 1 0) with
       | some r => (s.activeCopy 1 r (s.leastStep (routedModel 0))).any fun act => (s.chainSteps (routedModel 0)).all fun n => decide (act.2.2.2.toNat ≤ n)
       | none => false) = true := by decide +kernel

theorem witness_rounds : ∀ phase ∈ [RevPhase.ready, .arming, .writing], ∀ manager ∈ [false, true],
    let v := revOf phase manager (if manager then [1, 2] else [])
    let s := placing manager [v]
    s.revs = [v] ∧ v.ctx = 1 ∧ v.midx = 0 ∧ v.manager = manager ∧ v.phase = phase ∧ v.plan.lists = [] ∧ v.copies = [] ∧ v.plan.pages = [] ∧
      (∃ n ∈ s.chainSteps (routedModel 0), n ≤ v.step.toNat) := by decide +kernel

/-! Lost devices. -/

def lossUp (manager : Bool) (missed : Nat) (probing lost : List NodeId) : Job × State :=
  let j := { aJob manager with missed := [(1, missed)], mgrMissed := missed, probing, lost, size := [3, 1, 1] }
  (j, { jobUp manager with jobs := [j] })

theorem witness_lost :
    (∀ manager ∈ [false, true], ∀ n ∈ [3, 4], ∀ probing ∈ [[], [1]], let e := lossUp manager n probing []
      e.2.live = true ∧ e.2.job? 3 = some e.1 ∧ e.2.revs = [] ∧ e.2.remotes = [] ∧ e.1.isManager = manager ∧ e.1.mgrLost = false ∧
        mapGet 0 e.1.missed 1 = n ∧ e.1.mgrMissed = n ∧ e.2.inBlock e.1 1 = true ∧ e.2.inBlock e.1 2 = true ∧ e.2.idNode = 0 ∧
        (2 : NodeId) ≠ e.1.manager ∧ ((1 : NodeId) ∈ e.1.probing ↔ probing = [1]) ∧ (1 : NodeId) ∉ e.1.lost) ∧
    (let j := { aJob true with missed := [(1, 4)] }
     let s := { jobUp true with jobs := [j] }
     s.job? 3 = some j ∧ s.peers j = [1] ∧ 4 ≤ mapGet 0 j.missed 1) := by decide +kernel

/-! FAB_CONFIG, FAB_ROLE, PORT_STATUS, PORT_CTL. -/

def fabReq : Req := reqOf 0 0x0601 0 [(18, 1, 7), (19, 1, 1), (20, 1, 1), (21, 1, 7 + 7 * 16), (22, 1, 7 + 7 * 16)]
def roleReq (tag org flags : Nat) : Req := reqOf 0 0x0602 0 [(16, 4, tag), (20, 1, org), (23, 1, 1), (26, 1, flags), (28, 2, 1)]
def portReq (op p : Nat) (disable : Bool) : Req := reqOf 0 op 0 [(16, 1, p), (17, 1, boolNat disable)]

theorem witness_fabric : ∀ fabric ∈ [none, some 0x0101070000],
    let f := bitsOf fabReq.entry.toNat 128 512
    let ext (a : Nat) := bitsOf f (8 * (2 + a)) 5 + 1
    let s := asked { jobUp with fabric } fabReq
    Accepted s fabReq 0x0601 [(16, 0, 16), (18, 0, 5), (19, 0, 5), (20, 0, 5), (21, 0, 3), (21, 4, 3), (22, 0, 3), (22, 4, 3), (23, 0, 4),
        (24, 0, 10), (32, 0, 288)]
      ([(16, bitOf f 15 || (List.range 3).any fun a => decide (ext a ≤ coord (BitVec.ofNat 16 f) a)),
        (21, bitsOf f 40 3 == 6 || bitsOf f 44 3 == 6), (22, bitsOf f 48 3 == 6 || bitsOf f 52 3 == 6),
        (23, bitsOf f 56 2 == 3 || bitsOf f 58 2 == 3), (24, decide (1000 < bitsOf f 64 10))] ++
        (List.range 12).map fun i => (32 + 3 * i, detourBad (bitsOf f (8 * (16 + 3 * i)) 24))) ∧ s.fabric = fabric := by
  simp only [accepted_iff, List.forall_mem_cons, List.not_mem_nil, false_implies, implies_true, and_true]
  decide +kernel

theorem witness_roles : ∀ e ∈ [(3, 0, 2), (4, 0, 2), (4, 0, 0), (4, 3, 0), (3, 0, 0)],
    let q := roleReq e.1 e.2.1 e.2.2
    let org := (List.range 3).map fun a => reqNat q (20 + a) 1
    let size := (List.range 3).map fun a => reqNat q (23 + a) 1 + 1
    let remove := reqBit q 26 1
    let s := asked jobUp q
    Accepted s q 0x0602 ([(16, 0, 32), (26, 0, 2), (28, 0, 16)] ++ (List.range 6).map fun i => (20 + i, 0, 5))
      ((List.range 3).flatMap fun a =>
        [(20 + a, !remove && decide (s.extent a ≤ org.getD a 0)), (23 + a, !remove && decide (s.extent a < size.getD a 1))]) ∧
    remove = (e.2.2 == 2) ∧ (s.job? (BitVec.ofNat 32 (reqNat q 16 4))).isSome = (e.1 == 3) ∧
    (s.jobCtx (BitVec.ofNat 32 (reqNat q 16 4))).isSome = (e.1 == 3) ∧
    s.inBlock { aJob false with origin := org, size } s.idNode = (e.2.1 == 0) ∧ s.jobs.length < 64 := by
  simp only [accepted_iff]
  decide +kernel

/-- A job of which no context runs. -/
theorem witness_roleFree : let s := { jobUp with ctxs := [] }
    (s.job? 3).isSome = true ∧ s.jobCtx 3 = none := by decide +kernel

theorem witness_portCommands : ∀ e ∈ [(0x0603, false), (0x0604, false), (0x0604, true)], ∀ st ∈ [PortSt.up, .down], ∀ replay ∈ [false, true],
    let q := portReq e.1 0 e.2
    let s := asked { jobUp with ports := [(0, { livePort with st, replayWait := replay })] } q
    Accepted s q e.1 (if e.1 = 0x0603 then [(16, 0, 8)] else [(16, 0, 8), (17, 0, 1)]) [(16, decide (24 ≤ reqNat q 16 1))] ∧
      isReserved (reqNat q 16 1) = false ∧ (s.port (reqNat q 16 1)).st = st ∧ reqBit q 17 0 = e.2 ∧
      mayRetrain (s.port (reqNat q 16 1)) = (st == .down && !replay) := by
  simp only [accepted_iff]
  decide +kernel

/-! ## Registers, the Letterboxes and the Study's commands -/

/-- Both functions reach the block, a function that is absent does not. -/
def regUp : State := { up with hostUp := true, numVfs := 2 }

theorem witness_reaches : Reaches regUp .pf ∧ Reaches regUp .study ∧ Reaches regUp (.vf 2) ∧ regUp.reaches (.vf 3) = false ∧
    OfDevice .pf ∧ OfDevice .study :=
  ⟨⟨by decide, by decide, by decide⟩, ⟨by decide, by decide, by decide⟩, ⟨by decide, by decide, by decide⟩, by decide, .inl rfl, .inr rfl⟩

/-- Accesses of another requester, of a wrong size and misaligned; words of the map: absent, narrow, wide and its high half, read
only, key-locked, and dead in minimal mode. -/
theorem witness_registers :
    accessBad .other 0x2000 4 = some 7 ∧ accessBad .pf 0x2000 2 = some 2 ∧ accessBad .pf 0x2004 8 = some 2 ∧
    accessBad .pf 0x2000 4 = none ∧ accessBad .pf 0x2010 8 = none ∧
    (let w (o : Nat) := (match regUp.wordAt .pf o with | .inl c => some c | .inr _ => none : Option Nat)
     let r (o : Nat) (f : RegAt → Bool) := (match regUp.wordAt .pf o with | .inl _ => false | .inr r => f r : Bool)
     w 0x0F00 = some 1 ∧ r 0x2000 (fun x => !x.wide && !x.high && regRo x.reg) = true ∧
     r 0x2010 (fun x => x.wide && !x.high && regRo x.reg) = true ∧ r 0x2014 (fun x => x.wide && x.high && regRo x.reg) = true ∧
     r 0x2004 (fun x => !x.wide && !regRo x.reg && regKl x.reg && !regUp.writeState x.reg 0 && regUp.writeState x.reg 2) = true ∧
     r 0x2018 (fun x => x.wide && !x.high && !regRo x.reg && regUp.writeState x.reg 0) = true ∧
     r 0x3010 (fun x => x.wide && !x.high && !regRo x.reg && !regUp.writeState x.reg 0) = true ∧
     r 0x1000 (fun x => !x.wide && !regRo x.reg && !regKl x.reg && regUp.writeState x.reg 0) = true) ∧
    (match { regUp with devSt := .minimal }.wordAt .pf 0x2018 with | .inl c => c == 8 | .inr _ => false) = true ∧
    Agree regUp.fwAddr ∧
    (regUp.lbx (pageOf (.vf 2))).enable = false ∧ regUp.evr.frozen = false := by
  unfold Agree
  decide +kernel

/-- Key lock: no key, a key and the right and the wrong value, the 16th failure, and locked out. -/
theorem witness_key : ∀ e ∈ [(false, 0, false), (true, 3, false), (true, 15, false), (true, 16, true)],
    let s : State := { regUp with lock := { set := e.1, key := 7, fails := e.2.1, lockout := e.2.2 } }
    s.reaches .pf = true ∧ s.devSt ≠ .minimal ∧ s.lock.lockout = e.2.2 ∧ s.lock.fails = e.2.1 := by
  decide +kernel

/-- A KL register armed and not armed, in RUNNING and before it, with a good length of image, the first and the last. -/
theorem witness_device : (∀ st ∈ [DevSt.running, .awaitFw, .handshake], ∀ armed ∈ [true, false], ∀ n ∈ [0x1000, 0x4000000, 0, 0x4001000],
    let s : State := { regUp with devSt := st, lock := { armed }, fwLen := BitVec.ofNat 27 n }
    s.reaches .pf = true ∧ s.devSt ≠ .minimal ∧ s.lock.armed = armed ∧
      ((s.fwLen.toNat % 4096 = 0 ∧ 0 < s.fwLen.toNat ∧ s.fwLen.toNat ≤ 67108864) ↔ n ∈ [0x1000, 0x4000000])) ∧
    pulse 0x20002 1 = true ∧ pulse 0 1 = false ∧ bitOf (1 : W32).toNat 0 = true ∧ bitOf (2 : W32).toNat 1 = true := by
  decide +kernel

/-- A Letterbox at the edges of its rings: the last free slot of each, and one past. -/
def box : Lbx := { enable := true, ready := true, reqBase := pageTv 0x10000, rspBase := pageTv 0x20000, size := 0x404 }
def boxUp (b : Lbx) : State := { owned regUp with lbxs := [(0, b), (2, b)] }

theorem witness_letterbox :
    (let b : Lbx := { box with reqProd := 16 }
     (boxUp b).reaches (.vf 2) = true ∧ ((boxUp b).lbx 2).ready = true ∧ indexBad b = false ∧ indexBad { b with reqProd := 17 } = true ∧
       indexBad { b with rspCons := 1 } = true ∧ (boxUp b).servesLbx 2 = true ∧ b.reqCons ≠ b.reqProd ∧ owed b = 0 ∧
       owed { b with long := List.replicate 64 5 } = 64) ∧
    ringsBad box = false ∧ ringsBad { box with size := 0x403 } = true ∧ ringsBad { box with size := 0xD04 } = true ∧
    Agree box.reqBase ∧ Agree box.rspBase ∧
    (box.rspProd - box.rspCons).toNat < rspSlots box ∧ rspSlots box ≤ (({ box with rspProd := 16 } : Lbx).rspProd - box.rspCons).toNat := by
  unfold Agree
  decide +kernel

/-- The host's Bolt operations of a context with one Bolt: a COUNTER, a BARRIER and none of them. -/
theorem witness_hostBolts : ∀ b ∈ [true, false],
    let s : State := { (paged fun x => { x with bolts := 1 }) with hostUp := true, numVfs := 2, bolts := [(0, { barrier := b })] }
    s.reaches (.vf ((1 : CtxId).toNat + 1)) = true ∧ (s.ctx 1).st ≠ .free ∧ bitsOf (0 : W64).toNat 0 15 < (s.ctx 1).bolts ∧
      (s.bolt (s.ctx 1).boltBase).barrier = b ∧ (s.ctx 1).bolts ≤ bitsOf (1 : W64).toNat 0 15 := by
  decide +kernel

/-- A Letterbox command refused before its work: minimal mode, no HELLO, a reserved bit of the header, another's context. -/
theorem witness_refused :
    LetterboxCommand (reqOf 2 0x0103 1 []) false (.ctxStatus (reqOf 2 0x0103 1 [])) 0x0103 ∧
    (let q := reqOf 0 0x0004 0 []
     let s := asked regUp q
     Next s q 0x0004 ∧ Next { s with devSt := .minimal } q 0x0004 ∧ entryBad q = none) ∧
    (let q := reqOf 2 0x0103 1 []
     Next (asked (owned regUp) q) q 0x0103 ∧ ((asked (owned regUp) q).begun q |>.lbx 2).hello = true ∧
       mgmtOnly 0x0103 = false ∧ (reqCtx q).toNat + 1 = q.lbx ∧ ctxCommand 0x0103 = true ∧
       ((asked (owned regUp) q).ctx 1).st ≠ .free ∧ ((asked regUp q).ctx 1).st = .free ∧
       entryBad { q with entry := q.entry ||| 2 ^ 24 } = some 3 ∧ (reqCtx (reqOf 1 0x0103 1 [])).toNat + 1 ≠ 1) := by
  have n : ∀ {s : State} {q : Req} {op : Nat}, (((s.lbxSettle q.lbx).lbx q.lbx).taken.head? = some q ∧
      ((s.lbxSettle q.lbx).lbx q.lbx).busy = false ∧ reqOp q = op ∧ s.serves = true) → Next s q op :=
    fun h => ⟨h.1, h.2.1, h.2.2.1, h.2.2.2⟩
  refine ⟨?_, ⟨n ?_, n ?_, ?_⟩, n ?_, ?_⟩
  · simp [LetterboxCommand]
  all_goals decide +kernel

/-- HELLO of the version that runs, and of a later one; before and after it; the parameters at the ends of their ranges. -/
def helloReq (major : Nat) : Req := reqOf 0 0x0001 0 [(16, 1, 0), (17, 1, major), (18, 2, 5)]

theorem witness_hello : (∀ st ∈ [DevSt.running, .handshake], ∀ major ∈ [1, 2], ∀ hello ∈ [true, false], let q := helloReq major
      let s := (asked { regUp with devSt := st, fw := { up.fw with major := 1 } } q).updLbx 0 fun b => { b with hello }
      Accepted s q 0x0001 [(16, 0, 8), (17, 0, 8), (18, 0, 16)] [] ∧ ((s.begun q).lbx 0).hello = hello ∧
        ((reqNat q 17 1 = s.fw.major.toNat ∧ reqNat q 16 1 ≤ s.fw.minor.toNat) ↔ major = 1)) := by
  simp only [accepted_iff]
  decide +kernel

def paramReq (op pid qual v : Nat) : Req := reqOf 0 op 1 [(16, 2, pid), (20, 4, qual), (24, 8, v)]
def paramUp (q : Req) : State := asked (routed true (routedModel 0)) q

theorem witness_params : (∀ e ∈ [(0x10, 0, 1), (0x10, 0, 49), (0x12, 1, 64), (0x13, 0, 1000), (0x14, 0, 70), (0x01, 0, 12),
      (0x02, 0, 255), (0x03, 0, 10000), (0x20, 0, 16), (0x21, 0, 0), (0x22, 0, 100), (0x20, 1, 15)],
      let pid := e.1
      let g := paramReq 0x0002 pid e.2.1 0
      let p := paramReq 0x0003 pid e.2.1 e.2.2
      let names := [(16, !(pidDevice pid || pidCtx pid || pidModel pid)),
        (20, if pid = 0x12 then decide (1 < e.2.1) else !pidModel pid && e.2.1 != 0)]
      Accepted (paramUp g) g 0x0002 [(16, 0, 16), (20, 0, 32)] names ∧
      Accepted (paramUp p) p 0x0003 [(16, 0, 16), (20, 0, 32), (24, 0, 64)] names ∧
      ((paramUp p).ctx (reqCtx p)).st ≠ .free ∧ ((asked regUp p).ctx (reqCtx p)).st = .free ∧
      (((paramUp p).begun p).paramModel (reqCtx p) 1).isNone = true) := by
  simp only [accepted_iff]
  decide +kernel

/-- The context's model has routed layers, where the configuration's image lists their record. -/
theorem witness_routedModel :
    Config.routeRecords 6 1 = [dvaOf 1 0] → ((paramUp (paramReq 0x0003 0x20 0 16)).begun (paramReq 0x0003 0x20 0 16)).paramModel 1 0 =
      some (routedModel 0) := by
  intro h
  have f : mapFind (((paramUp (paramReq 0x0003 0x20 0 16)).begun (paramReq 0x0003 0x20 0 16)).ctx 1).models 0 = some (routedModel 0) := by decide +kernel
  have e : (((paramUp (paramReq 0x0003 0x20 0 16)).begun (paramReq 0x0003 0x20 0 16)).routeOf 1 (dvaOf 1 0)).map (·.e) = some 2 := by decide +kernel
  have r : ((paramUp (paramReq 0x0003 0x20 0 16)).begun (paramReq 0x0003 0x20 0 16)).routedE 1 (routedModel 0) = 2 := by
    show (Config.routeRecords 6 1).foldl _ 0 = 2
    rw [h, List.foldl_cons, List.foldl_nil, e]
    rfl
  rw [State.paramModel, f, Option.bind_some, r]
  rfl

/-- The Study's reports: buffers of 640 bytes and below, and a repair list of one retired frame. -/
def listReq (op len : Nat) : Req := reqOf 0 op 0 [(16, 8, 0x1000), (24, 4, len)]
def oneFrame : List Byte := layout 28 [(0, 4, 1), (4, 1, 3), (5, 1, 2), (8, 4, 77)]

theorem witness_reports : (∀ op ∈ [0x0004, 0x000A], let q := reqOf 0 op 0 []
      Accepted (asked regUp q) q op [] []) ∧
    (∀ op ∈ [0x0007, 0x0008], ∀ len ∈ [0, 8, 31, 32, 640], let q := listReq op len
      Accepted (asked regUp q) q op [(16, 0, 64), (24, 0, 32)] [(16, reqNat q 16 8 % 4096 != 0)] ∧ reqNat q 24 4 = len) ∧
    (∀ len ∈ [639, 640], let q := reqOf 0 0x0009 0 [(16, 8, 0x1000), (24, 4, len)]
      Accepted (asked regUp q) q 0x0009 [(16, 0, 64), (24, 0, 32), (32, 0, 256)] [(16, reqNat q 16 8 % 4096 != 0)]) ∧
    regUp.repairBytes.length = 8 ∧ regUp.devWarm = false ∧ regUp.createdCtx = false := by
  simp only [accepted_iff]
  decide +kernel

theorem witness_putList : ∃ c, let s : State := { asked regUp (listReq 0x0008 640) with
        mem := memWrites (memWrites [] (hostKey 0x1000) oneFrame) (hostKey (0x1000 + 28)) (natLe 4 c) }
    (s.readNat (hostKey 0x1000) 4 = 1 ∧ crc32c (s.read (hostKey 0x1000) 28) = s.readNat (hostKey (0x1000 + 28)) 4 ∧
      leNat (((s.read (hostKey 0x1000) 28).drop 4).take 1) = 3) := by
  refine ⟨crc32c oneFrame, ?_⟩
  decide +kernel

/-- The patrol and the queue of violations: a value with one copy wrong, two violations of one requester. -/
theorem witness_patrols : (let s : State := { regUp with violQ := [{ who := .pf, offset := 0x2000, write := true, code := 3 }, { who := .vf 1, offset := 0, write := false, code := 1 }] }
     s.live = true ∧ s.violQ ≠ []) ∧ Agree (pageTv 0x5000) ∧ ¬Agree { pageTv 0x5000 with b := 0 } ∧
    Agree regUp.ident.variant ∧ Agree regUp.evr.hostbuf ∧
    (regUp.lbxs = []) ∧ (Agree (regUp.lbx 3).reqBase ∧ Agree (regUp.lbx 3).rspBase) ∧ State.reset.live = false := by
  unfold Agree
  decide +kernel

/-- ID_VENDOR (12 R400), KEY_STATUS after one wrong key, and DEV_STATE in RUNNING (12 R403). -/
theorem test_vendor : (regUp.regRead .pf 0 4).readData = 0x494D4658 := by decide +kernel
theorem test_wrongKey :
    (match exec (.keyUnlockWrite .pf 5) { regUp with lock := { set := true, key := 7, armed := true } } with
      | .next t => t.lock == { set := true, key := 7, armed := false, fails := 1 } && t.violQ.length == 1
      | _ => false) = true := by decide +kernel

/-! ## Resets, starts, errors -/

/-- The pins before a start: under cold reset, with the power gone, with a lost clock, and held by a chattering input. -/
theorem witness_cold : State.reset.pwrOk = false ∧ State.reset.rst.level = true ∧ State.reset.clockLost = [] ∧ State.reset.devWarm = false ∧
    up.pwrOk = true ∧ up.rst.level = false ∧
    (let s : State := { State.reset with pwrOk := true, clockLost := [3], romWait := .clock, rst := { level := true } }
     s.rst.chatter = false ∧ s.clockLost ≠ [] ∧ s.romWait = .clock ∧ (∀ n ∈ s.clockLost, n = (3 : BitVec 5).toNat) ∧
       ∃ n ∈ s.clockLost, n ≠ (4 : BitVec 5).toNat) ∧
    ({ up with rst := { asserts := 2, level := true } } : State).rst.asserts ≠ 0 := by decide +kernel

/-- A running device whose link is up, with an attempt to start in progress and not. -/
theorem witness_warm : ∀ o ∈ [true, false],
    let s : State := { regUp with startRec := { opened := o } }
    s.romWait ≠ .reset ∧ s.hostUp = true ∧ s.clockLost = [] ∧ s.startRec.opened = o ∧ NoneTranslated s ∧ s.live = true ∧
      (s.ctx 5).st = .free ∧ ((owned regUp).ctx 1).releasing = none := by
  unfold NoneTranslated
  decide +kernel

/-- The device in a state of the start. -/
def starting (st : DevSt) (serving : Bool) (b : Lbx) : State := { regUp with devSt := st, serving, lbxs := [(0, b)], early := true }

/-- The bounds of a start, each with what it waits for and without. -/
theorem witness_bounds :
    (starting .verify false {}).devSt = .verify ∧ (starting .verify false {}).romWait = .none ∧ Agree (starting .verify false {}).fwAddr ∧
    (starting .handshake false {}).serving = false ∧ ((starting .handshake true {}).lbx 0).enable = false ∧
    ((starting .handshake true { enable := true, ready := true }).lbx 0).ready = true ∧
    (starting .running true {}).early = true ∧ (starting .running true {}).fatalLatch = false ∧
    ({ State.reset with romWait := .record } : State).romWait = .record ∧
    ({ regUp with i3c := { recUpd := true } } : State).i3c.recUpd = true ∧ regUp.evr.frozen = false := by
  unfold Agree
  decide +kernel

/-- An image of no bytes fails with a reason other than 0x0B. -/
theorem witness_image : (match checkImage [] 0 0 with | .inl e => e.1 != 0x0B | .inr _ => false) = true := by decide +kernel

/-- A reference clock that is lost: of a serial link, of the North I/O die and another. -/
theorem witness_clocks : ∀ n ∈ [0, 3, 4, 7, 8, 15, 16, 17], let ref : BitVec 5 := BitVec.ofNat 5 n
    ref.toNat < 18 ∧ ref.toNat ∉ up.clockLost ∧ up.romWait ≠ .reset ∧ up.devSt ≠ .rom ∧
      ({ State.reset with romWait := .record } : State).devSt = .rom := by decide +kernel

/-- An error like the queue's tail, another, and a queue that is full. -/
def anErr (cls unit : Nat) (ctx : Option CtxId := none) : Err := { cls, src := 2, unit, code := 1, ctx }
def queued (es : List Err) : State := { owned up with errQ := es }

theorem witness_errors :
    (let e := anErr 0x30 2
     let t : Err := { e with count := 3, stamp := 9 }
     severity e.cls ≤ 1 ∧ e.cls ∉ [0x07, 0x19, 0x1B, 0x1F] ∧ t.cls = e.cls ∧ t.unit = e.unit ∧ t.code = e.code ∧ t.addr = e.addr ∧
       (queued [t]).errQ = [] ++ [t]) ∧
    (queued []).errQ.length < 16 ∧ 16 ≤ (queued (List.replicate 16 (anErr 0x30 0))).errQ.length ∧
    (queued (List.replicate 16 (anErr 0x30 0))).errQ.getLast? = some (anErr 0x30 0) ∧ (anErr 0x30 0).cls ≠ (anErr 0x3A 0).cls ∧
    severity 0x3A = 4 ∧ up.romWait ≠ .reset := by decide +kernel

/-- Heads of the queue: one that is only recorded, one of the context, one absorbed by the context's failure, and ones of an
episode that runs. -/
theorem witness_episodes : (∀ s ∈ [queued [anErr 0x30 2], queued [anErr 0x0E 1 (some 1)]],
      s.romWait ≠ .reset ∧ s.fatalLatch = false ∧ s.episodes = []) ∧
    (let e := anErr 0x30 2
     (queued [e]).absorbs e = false ∧ (queued [e]).nestedIn e = none ∧ severity e.cls ≠ 3) ∧
    (let e := anErr 0x0E 2 (some 1)
     let s := queued [e]
     s.absorbs e = false ∧ s.nestedIn e = none ∧ severity e.cls = 3 ∧ e.src ≠ 8 ∧ (s.ctx 1).st ≠ .free ∧ (s.ctx 1).st ≠ .failed ∧
       (s.updCtx 1 fun x => { x with st := .failed }).absorbs e = true) ∧
    (∀ c ∈ [0x0E, 0x30], let e : Err := { anErr c 2 (some 1) with stamp := 10 }
     let p : Episode := { cls := c, unit := 2, start := 5, stop := 10, seq := 0 }
     let s : State := { queued [e] with episodes := [p], hc := 20 }
     s.absorbs e = false ∧ (s.nestedIn e).isSome = true ∧ p.stop ≤ s.hc) := by
  decide +kernel

/-- A class that overflowed with nothing lasting, and a fatal error with the Recorder free and frozen. -/
theorem witness_sweep :
    (let s : State := { up with sweepDue := true, errOvf := [(0x30, 5)] }
     s.fatalLatch = false ∧ s.romWait ≠ .reset ∧ s.evr.frozen = false ∧ s.lastingErrors = []) ∧
    (∀ f ∈ [true, false], ∀ early ∈ [true, false],
     let s : State := { regUp with fatalErr := some (anErr 0x3A 0), fatalLatch := true, early, evr := { regUp.evr with frozen := f } }
     s.fatalLatch = true ∧ s.romWait ≠ .reset ∧ s.early = early ∧ s.devSt ≠ .fatal ∧ Agree s.evr.hostbuf ∧ s.errQ = []) ∧
    severity (anErr 0x3A 0).cls = 4 := by
  unfold Agree
  decide +kernel

/-- SHA-384 of "abc" as FIPS 180-4 gives it, and the generator of P-384 lies on the curve (14 R458). -/
theorem test_sha384 : sha384 [0x61, 0x62, 0x63] =
    0xcb00753f45a35e8bb5a03d699ac65007272c32ab0eded1631a8b605a43ff5bed8086072ba1e7cc2358baeca134c825a7 := by decide +kernel
theorem test_generator : (pubPoint (4 :: ((natLe 48 p384Gx).reverse ++ (natLe 48 p384Gy).reverse))).isSome = true := by decide +kernel

/-- A watchdog before RUNNING fails the start: one failure, reason 8, step 8 of HANDSHAKE (14 R459). -/
theorem test_watchdog :
    (match exec (.watchdogExpiry 2) (starting .handshake false {}) with
      | .next t => t.devReason == 8 && t.startRec.fails == 1 && t.devSt == .awaitFw &&
        t.startRec.e2.stage == BitVec.ofNat 16 (devStNum .handshake + 128)
      | _ => false) = true := by decide +kernel

/-! ## Power, pins and the tray -/

/-- A pass with one bus silent, with none; the ladder in its stage `st` with `calm` passes behind it, at a coolant temperature. -/
def tel (silent tj p : Nat) : Telemetry :=
  { die := [p, 100, 100, 100], tj := [tj, 60, 60, 60], pantry := 100, io := 50, sram := 10, silent := BitVec.ofNat 6 silent }
def ladderUp (st calm cool tj : Nat) : State :=
  { up with coolantAbsent := false, i3c := { up.i3c with coolant := BitVec.ofNat 32 (2 ^ 16 + cool) }
            power := { limit := 2000, stage := st, calm, last := tel 0 tj 100 } }

theorem witness_power : up.live = true ∧ State.reset.live = false ∧
    (∀ k, k < 6 → (bitOf (tel 4 60 100).silent.toNat k = true ∧ k ∉ up.power.silent ↔ k = 2)) ∧ up.evr.frozen = false ∧
    (∀ i, i < 6 → bitOf (tel 0 60 100).silent.toNat i = true → i ∈ up.power.silent) := by decide +kernel

/-- Each stage is entered at its temperature and by no higher one; stands while it holds; is calm for one pass and for the last;
falls 2 °C below. -/
theorem witness_ladder : ∀ e ∈ [(1, 450), (2, 550), (3, 620), (4, 670)],
    (ladderUp 0 0 e.2 60).stageHolds e.1 = true ∧ (∀ k, k ≤ 4 → e.1 < k → (ladderUp 0 0 e.2 60).stageHolds k = false) ∧
    (∀ k, k ≤ 4 → e.1 ≤ k → (ladderUp e.1 0 (e.2 - 20) 60).stageHolds k = false) ∧ (ladderUp e.1 0 (e.2 - 20) 60).coolFalls = true ∧
    (ladderUp e.1 0 (e.2 - 19) 60).coolFalls = false ∧ (ladderUp 0 0 (e.2 - 1) 60).stageHolds e.1 = false := by decide +kernel

/-- A die below, at and above its limit and its target, and one that is held. -/
theorem witness_dieSteps : ∀ e ∈ [(100, 60, 0), (600, 60, 0), (440, 60, 0), (100, 96, 0), (100, 60, 4)],
    let s : State := { up with power := { limit := 2000, stage := e.2.2, last := tel 0 e.2.1 e.1 } }
    0 < s.dieLimit4 ∧ (s.dieLimit4 < 4 * e.1 ↔ e.1 = 600) ∧ (s.tjTarget < e.2.1 ↔ e.2.1 = 96) ∧ s.brake.level = false := by decide +kernel

def powerReq (w : Nat) : Req := reqOf 0 0x0005 0 [(16, 2, w)]

theorem witness_powerCommands :
    (let q := powerReq 999
     Next (asked regUp q) q 0x0005 ∧ ((asked regUp q).begun q).frameRefusal q 0x0005 = none ∧ reqNat q 16 2 < 1000 ∧
       payloadBad q [(16, 0, 16)] [] = none) ∧
    (let q := reqOf 0 0x0006 0 []
     Accepted (asked regUp q) q 0x0006 [] []) ∧
    (let q := powerReq 1000
     Accepted (asked regUp q) q 0x0005 [(16, 0, 16)] [(16, decide (reqNat q 16 2 < 1000) || decide (Config.gradeLimit < reqNat q 16 2))]) := by
  have n (s : State) (q : Req) (op : Nat) : (((s.lbxSettle q.lbx).lbx q.lbx).taken.head? = some q ∧
      ((s.lbxSettle q.lbx).lbx q.lbx).busy = false ∧ reqOp q = op ∧ s.serves = true) → Next s q op :=
    fun h => ⟨h.1, h.2.1, h.2.2.1, h.2.2.2⟩
  refine ⟨⟨n _ _ _ ?_, ?_⟩, ?_, ?_⟩
  · decide +kernel
  · decide +kernel
  · simp only [accepted_iff]
    decide +kernel
  · have h : decide (Config.gradeLimit < reqNat (powerReq 1000) 16 2) = false := by
      rw [show reqNat (powerReq 1000) 16 2 = 1000 by decide +kernel, Config.gradeLimit]
      cases Config.partG17 <;> decide
    simp only [accepted_iff, h]
    decide +kernel

/-- The pins released and held, in chatter and not; a member of a job with a manager. -/
theorem witness_pins : up.brake.level = false ∧ up.latch.level = false ∧ up.romWait ≠ .reset ∧ up.devSt ≠ .fatal ∧
    State.reset.romWait = .reset ∧ up.brake.chatter = false ∧ up.latch.chatter = false ∧ up.rst.chatter = false ∧
    (∃ j, jobUp.jobs = [j] ∧ j.isManager = false) := by
  refine ⟨by decide, by decide, by decide, by decide, by decide, by decide, by decide, by decide, _, rfl, by decide⟩

/-- The start record that the BMC supplies: no failure, one more, its last, and one of another part. -/
def bmcUp (serial : W64) (r : StartRec) : State :=
  { State.reset with romWait := .record, ident := { State.reset.ident with serial }, i3c := { recReq := true, record := startRecBytes r } }

theorem witness_record : (∀ e ∈ [(0, false), (2, false), (0, true), (2, true), (3, false)],
      let r : StartRec := { fails := e.1, opened := e.2, serial := 7 }
      startRecOf (bmcUp 7 r).ident.serial (bmcUp 7 r).i3c.record = some r ∧ startRecOf (bmcUp 8 r).ident.serial (bmcUp 8 r).i3c.record = none) ∧
    (bmcUp 7 {}).romWait = .record ∧ (bmcUp 7 {}).i3c.recReq = true ∧ ({ up with i3c := { recReq := true } } : State).romWait ≠ .record ∧
    up.coolantAbsent = true ∧ bitOf (0x10100 : W32).toNat 16 = true ∧ bitOf (0x100 : W32).toNat 16 = false := by decide +kernel

/-- The I3C target before and after it has its address, a write of BMC_ACK, and its record of 128 bytes. -/
theorem witness_i3c : up.i3c.addr = none ∧ ({ up with i3c := { addr := some 9, pushReady := true } } : State).i3c.addr ≠ none ∧
    (bitOf (1 : Byte).toNat 0 = true ∧ bitOf (1 : Byte).toNat 1 = false ∧ bitOf (1 : Byte).toNat 2 = false) ∧
    (startRecBytes {}).length = 128 ∧ (0x4C : BitVec 7) ≠ 0x4D := by decide +kernel

/-- A ring of BMC_ACK.PUSHED: PUSH_READY clears, and BMC_DONE is set (12 R404; 15 R484). -/
theorem test_pushed :
    (match exec (.i3cPrivateWrite 4 [1]) { up with i3c := { addr := some 9, pushReady := true } } with
      | .next t => t.evr.bmcDone && !t.i3c.pushReady
      | _ => false) = true := by decide +kernel

/-- An assertion of PWR_BRAKE# puts every die at step 15 and k at 4 (15 R492). -/
theorem test_brake :
    (match exec .pwrBrakeAssert up with
      | .next t => (List.range 4).all (fun d => t.dieStep d == 15) && t.power.k == 4
      | _ => false) = true := by decide +kernel

/-- Lands L47.20 and L5.41 are VHBM_Q of stack 1 and CEL0_A_DQS5_C (16 R511, the worked example). -/
theorem test_lands : landOf true 47 20 = .rail .vhbmQ 1 ∧ landOf true 5 41 = .cel 0 false (.dqsC 5) := by decide +kernel

/-- The lands of a die's rails and of a stack's, as the rail table counts them (16 R506, R514). -/
theorem test_rail_lands :
    let lands (r0 r1 c0 c1 : Nat) : List Land := (List.range (r1 - r0)).flatMap fun i =>
      (List.range (c1 - c0)).map fun j => landOf true (r0 + i) (c0 + j)
    (lands 27 53 25 55).countP (· == .rail .vddC 0) = 375 ∧ (lands 27 53 25 55).countP (· == .rail .vddSr 0) = 15 ∧
    ([Rail.vhbmC, .vhbmQ, .vhbmPp, .vbase].all fun r =>
      (lands 66 79 85 97).countP (· == .rail r 7) == (Rail.row false false r).lands) = true := by decide +kernel

/-! ## Invariants -/

/-- States that meet the invariants with something in them: memory, full queues, and page tables with subpages. -/
theorem witness_invariants : MemoryCanonical { up with mem := [(3, 5), (9, 1)] } ∧
    QueuesBounded (queued (List.replicate 16 (anErr 0x30 0))) ∧ TablesApart (mappedUp moveQ) ∧
    ({ up with fuseSvn := 64 } : State).fuseSvn ≤ 64 :=
  ⟨by unfold MemoryCanonical; decide +kernel, by unfold QueuesBounded; decide +kernel, (witness_mappedFree moveQ).2.2, Nat.le_refl _⟩

end Sys2Proof.Tests
end

/-! # Remote accesses without a response, and responses that come too late (10 R337, R351) -/

section

namespace Sys2Proof.Machine

/-! ## Accesses -/

theorem State.id_of_access {s : State} {id : Nat} {a : Access} (h : s.access id = some a) : a.id = id := by
  simpa using List.find?_some h

@[simp] theorem State.dropRemote_access (s : State) (m : Remote) (id : Nat) : (s.dropRemote m).access id = s.access id := rfl

/-- The outcome of an access of this device's own units waits at the access for its requester (05 R191). -/
theorem State.finish_of_internal {s : State} {a : Access} (code : Nat) (data : List Byte) (poison : List Nat)
    (ha : Internal a.who) : s.finish a code data poison = s.setDone a.id code data poison := by
  unfold State.finish
  cases hw : a.who with
  | vldm _ _ | vstm _ | dw _ | porch _ => rfl
  | hostWin _ | remote _ _ | group _ => simp [Internal, hw] at ha

/-! ## Outstanding requests -/

/-- What is taken is a packet that had arrived, and only the list of them and its port's free units change (R330, R335). -/
theorem State.eq_of_takeArrived {s u : State} {p : BitVec 5} {kind : Nat} {sub : Option Nat} {pk : Packet}
    (h : s.takeArrived p kind sub = some (pk, u)) : ∃ e ∈ s.arrived, e.2 = pk ∧
      u = { s with arrived := s.arrived.erase e }.updPort p.toNat fun x => freeUnits x pk := by
  unfold State.takeArrived at h
  dsimp only at h
  generalize hfound : s.arrived.find? _ = found at h
  cases found with
  | none => cases h
  | some e =>
    obtain ⟨-, heq⟩ := Option.ite_none_left_eq_some.1 h
    cases heq
    exact ⟨e, List.mem_of_find?_eq_some hfound, rfl, rfl⟩

theorem Oldest.remotes_eq {s u : State} {p : BitVec 5} {kind : Nat} {pk : Packet} (h : Oldest s u p kind pk) :
    u.remotes = s.remotes := by
  obtain ⟨e, -, -, rfl⟩ := State.eq_of_takeArrived h
  rfl

theorem State.remoteOf_eq_none_iff {s : State} {pk : Packet} :
    s.remoteOf pk = none ↔ ∀ x ∈ s.remotes, x.south = pk.siod → x.rtag = pk.rtag → x.seq ≠ pk.seq := by
  simp [State.remoteOf, List.find?_eq_none]

/-- Once the one request with a packet's SIOD, RTAG and E2E_SEQ has been dropped, the packet answers none. -/
theorem State.remoteOf_dropRemote_eq_none {s : State} {m : Remote} {pk : Packet}
    (only : ∀ x ∈ s.remotes, x.south = pk.siod → x.rtag = pk.rtag → x.seq = pk.seq → x = m) :
    (s.dropRemote m).remoteOf pk = none := by
  refine State.remoteOf_eq_none_iff.2 fun x hx hsouth hrtag hseq => ?_
  obtain ⟨hmem, hne⟩ : x ∈ s.remotes ∧ x ≠ m := by simpa [State.dropRemote] using hx
  exact hne (only x hmem hsouth hrtag hseq)

theorem State.remoteOf_congr {s t : State} (h : s.remotes = t.remotes) (pk : Packet) : s.remoteOf pk = t.remoteOf pk := by
  simp only [State.remoteOf, h]

/-! ## Completions -/

/-- The outcome of a remote access (kind 0) ends its request and waits at the access. -/
theorem State.remoteDone_of_access {s : State} {m : Remote} {a : Access} (code : Byte) (arg : Nat) (data : List Byte)
    (hkind : m.kind = 0) (hacc : s.access m.what = some a) (ha : Internal a.who) :
    s.remoteDone m code arg data = (s.dropRemote m).setDone m.what code.toNat (if code = 0 && !a.write then data else [])
      ((List.range 8).filter fun i => bitOf arg i) := by
  simp only [State.remoteDone, hkind, State.dropRemote_access, hacc, State.finish_of_internal _ _ _ ha, State.id_of_access hacc]

/-- A response that answers no outstanding request is discarded and counted (R337). -/
theorem State.responseIn_of_unmatched {s u : State} {p : BitVec 5} {kind : Nat} {pk : Packet}
    (hold : Oldest s u p kind pk) (hnone : u.remoteOf pk = none) : s.responseIn p kind = u.discardPacket p.toNat := by
  unfold Oldest at hold
  simp only [State.responseIn, hold, hnone]

theorem exec_rdRsp (p : BitVec 5) (s : State) : exec (.rdRsp p) s = .next (s.responseIn p 3) := rfl

theorem exec_wrAck (p : BitVec 5) (s : State) : exec (.wrAck p) s = .next (s.responseIn p 4) := rfl

/-- The timeout of an outstanding request counts it and gives it the outcome REMOTE_LOST. -/
theorem exec_remoteTimeout_of_outstanding {s : State} {south : Bool} {rtag : BitVec 12} {m : Remote}
    (hout : s.remotes.find? (fun m => m.south == south && m.rtag == rtag) = some m) :
    exec (.remoteTimeout south rtag) s = .next ({ s with remoteTimeouts := s.remoteTimeouts + 1 }.remoteDone m 0x0C 0 []) := by
  change execRemoteTimeout south rtag s = _
  simp only [execRemoteTimeout, hout]

/-- Settles O38: the timeout drops the request, so that a later response with its RTAG and E2E_SEQ matches none. -/
theorem remoteTimeouts : Obligations.RemoteTimeouts := by
  unfold Obligations.RemoteTimeouts
  intro s south rtag m a hout hkind hacc ha
  refine ⟨?_, fun v u p pk hv hsiod hrtag hseq only => ?_⟩
  · have noPoison : ((List.range 8).filter fun i => bitOf 0 i) = [] := by decide
    rw [exec_remoteTimeout_of_outstanding hout,
      State.remoteDone_of_access (s := { s with remoteTimeouts := s.remoteTimeouts + 1 }) 0x0C 0 [] hkind hacc ha, noPoison]
    rfl
  · have unmatched {kind : Nat} (hold : Oldest v u p kind pk) : u.remoteOf pk = none := by
      rw [State.remoteOf_congr (hold.remotes_eq.trans hv)]
      exact State.remoteOf_dropRemote_eq_none (by rwa [hsiod, hrtag, hseq])
    exact ⟨fun hold => by rw [exec_rdRsp, State.responseIn_of_unmatched hold (unmatched hold)],
      fun hold => by rw [exec_wrAck, State.responseIn_of_unmatched hold (unmatched hold)]⟩

end Sys2Proof.Machine

end

/-! # The key lock (12 R393 to R395) -/

section

namespace Sys2Proof.Machine

/-! ## A 4-byte write of a narrow register by a requester of the whole register space -/

theorem accessBad_word_of_device {who : Who} {off : Nat} (hdev : OfDevice who) (hoff : off % 4 = 0) :
    accessBad who off 4 = none := by
  obtain rfl | rfl := hdev <;> simp [accessBad, hoff]

theorem State.wordAt_of_device {s : State} {who : Who} {off : Nat} {r : RegAt} (hdev : OfDevice who)
    (hfull : s.devSt ≠ .minimal) (hreg : pfAt off = some r) : s.wordAt who off = .inr r := by
  have hat : regAt who off = some r := by obtain rfl | rfl := hdev <;> exact hreg
  simp [State.wordAt, hfull, hat]

/-- Such a write changes the register itself: no shadow takes part (R389, R390). -/
theorem State.regWrite_of_narrow {s : State} {who : Who} {off : Nat} {r : RegAt} {v : W32} {t : Training}
    (hdev : OfDevice who) (hreach : Reaches s who) (hoff : off % 4 = 0) (hreg : pfAt off = some r)
    (hnarrow : r.wide = false) :
    s.regWrite who off 4 (v.setWidth 64) t = s.writeReg who off r.reg (v.setWidth 64) t := by
  have hv : (v.setWidth 64).setWidth 32 = v := by simp
  simp only [State.regWrite, hreach.reaches, accessBad_word_of_device hdev hoff, State.write4,
    State.wordAt_of_device hdev hreach.full hreg, hnarrow, hv, Bool.not_true, Bool.not_false, Bool.false_eq_true, if_true, if_false]

/-- A register that is neither read-only nor key-locked takes a write unless the state forbids it. -/
theorem State.writeReg_of_open {s : State} {who : Who} {off : Nat} {r : Reg} {v : W64} {t : Training}
    (hro : regRo r = false) (hkl : regKl r = false) : s.writeReg who off r v t =
      if s.writeState r v then s.violation who off true 6 else s.regEffect who r v t := by
  simp [State.writeReg, hro, hkl]

/-! ## Violations -/

theorem State.violation_lock (s : State) (who : Who) (off : Nat) (write : Bool) (code : Nat) :
    (s.violation who off write code).lock = s.lock := by
  unfold State.violation
  split <;> rfl

theorem State.violation_errQ (s : State) (who : Who) (off : Nat) (write : Bool) (code : Nat) :
    (s.violation who off write code).errQ = s.errQ := by
  unfold State.violation
  split <;> rfl

/-! ## Errors that are not FATAL -/

theorem raise_lock {s : State} {e : Err} (h : severity e.cls ≠ 4) : (s.raise e).lock = s.lock := by
  obtain ⟨q, o, p, hraise⟩ := raise_frame s e h
  rw [hraise]

theorem noted_raise {s : State} {e : Err} (h : severity e.cls ≠ 4) : Noted s (s.raise e) := by
  obtain ⟨q, o, p, hraise⟩ := raise_frame s e h
  rw [hraise, Noted]

/-- With a place in the queue an error waits there: in the tail entry it merges with, which has its class and unit, or in one of
its own (15 R474). -/
theorem errorNoted_raise {s : State} {e : Err} (h : severity e.cls ≠ 4) : ErrorNoted s (s.raise e) e.cls e.unit := by
  intro hroom
  have hown : ∃ x ∈ s.errQ ++ [{ e with stamp := s.hc }], x.cls = e.cls ∧ x.unit = e.unit :=
    ⟨{ e with stamp := s.hc }, by simp, rfl, rfl⟩
  cases hlast : s.errQ.getLast? with
  | none => simpa only [State.raise, h, if_false, hroom, if_true, hlast, Bool.false_eq_true] using hown
  | some tail =>
    simp only [State.raise, h, if_false, hroom, if_true, hlast]
    split
    case isTrue hmerges =>
      simp only [Bool.and_eq_true, beq_iff_eq] at hmerges
      obtain ⟨⟨⟨⟨-, hcls⟩, hunit⟩, -⟩, -⟩ := hmerges
      exact ⟨{ tail with count := tail.count + e.count }, by simp, hcls, hunit⟩
    case isFalse => exact hown

/-! ## KEY_SETUP -/

theorem exec_keySetupWrite {s : State} {who : Who} {v : W32} (hdev : OfDevice who) (hreach : Reaches s who) :
    exec (.keySetupWrite who v) s = .next
      (if s.lock.set = true ∨ v = 0 then s.violation who 0x1000 true 6
        else { s with lock := { s.lock with key := v, set := true } }) := by
  have hzero : v.setWidth 64 = (0 : W64) ↔ v = 0 := by bv_omega
  have hkey : (v.setWidth 64).setWidth 32 = v := by simp
  change execKeySetupWrite who v s = _
  rw [execKeySetupWrite, State.regWrite_of_narrow hdev hreach rfl rfl rfl, State.writeReg_of_open rfl rfl]
  simp only [State.writeState, State.regEffect, State.updLock, hkey, Bool.or_eq_true, beq_iff_eq, hzero]

/-! ## KEY_UNLOCK -/

theorem exec_keyUnlockWrite {s : State} {who : Who} {v : W32} (hdev : OfDevice who) (hreach : Reaches s who) :
    exec (.keyUnlockWrite who v) s = .next (s.unlock who (v.setWidth 64)) := by
  change execKeyUnlockWrite who v s = _
  rw [execKeyUnlockWrite, State.regWrite_of_narrow hdev hreach rfl rfl rfl, State.writeReg_of_open rfl rfl]
  rfl

theorem State.unlock_of_lockout {s : State} (who : Who) (v : W64) (hlock : s.lock.lockout = true) :
    s.unlock who v = s.violation who 0x1004 true 5 := by
  simp [State.unlock, hlock]

/-- The key as the write of a register's value carries it. -/
theorem setWidth_eq_key_iff {v key : W32} : v.setWidth 64 = w32 key.toNat ↔ v = key := by
  unfold w32
  bv_omega

/-- The right key arms the host; it does nothing for the Study, whose writes need no arming (R394; assumption 94). -/
theorem State.unlock_of_key {s : State} (who : Who) (hlock : s.lock.lockout = false) (hset : s.lock.set = true) :
    s.unlock who (s.lock.key.setWidth 64) = if who = .pf then { s with lock := { s.lock with armed := true } } else s := by
  simp [State.unlock, hlock, hset, setWidth_eq_key_iff, State.updLock]

/-- What every wrong key does before the count is looked at: it disarms, is counted and is captured as KEY_WRONG (R394). -/
def State.wrongKey (s : State) (who : Who) : State :=
  { s with lock := { s.lock with armed := false, fails := s.lock.fails + 1 } }.violation who 0x1004 true 5

theorem State.wrongKey_lock (s : State) (who : Who) :
    (s.wrongKey who).lock = { s.lock with armed := false, fails := s.lock.fails + 1 } := State.violation_lock ..

theorem State.wrongKey_errQ (s : State) (who : Who) : (s.wrongKey who).errQ = s.errQ := State.violation_errQ ..

/-- The lockout that the 16th wrong key enters, with the error that reports it (R395). -/
def State.locked (s : State) : State :=
  (s.updLock fun x => { x with lockout := true }).raise { cls := 0x30, src := 10, unit := 0 }

/-- A wrong key, or any value before a key is set (assumption 94). -/
theorem State.unlock_of_wrong {s : State} (who : Who) {v : W32} (hlock : s.lock.lockout = false)
    (hwrong : s.lock.set = false ∨ v ≠ s.lock.key) (hfails : s.lock.fails ≤ 15) :
    s.unlock who (v.setWidth 64) = if s.lock.fails = 15 then (s.wrongKey who).locked else s.wrongKey who := by
  have hguard : (s.lock.set && v.setWidth 64 == w32 s.lock.key.toNat) = false := by
    obtain hset | hkey := hwrong
    · simp [hset]
    · simp [setWidth_eq_key_iff, hkey]
  have hcount : min 16 (s.lock.fails + 1) = s.lock.fails + 1 := by omega
  have hw : (s.updLock fun x => { x with armed := false, fails := min 16 (x.fails + 1) }).violation who 0x1004 true 5 =
      s.wrongKey who := by
    simp only [State.updLock, hcount, State.wrongKey]
  have hlast : (s.wrongKey who).lock.fails = 16 ↔ s.lock.fails = 15 := by simp [State.wrongKey_lock]
  simp only [State.unlock, hlock, hguard, Bool.false_eq_true, if_false, hw, hlast, State.locked]

/-- Class 0x30 is not FATAL (15 R472). -/
theorem severity_lockout : severity 0x30 ≠ 4 := by decide

theorem State.locked_lock (s : State) : s.locked.lock = { s.lock with lockout := true } := raise_lock severity_lockout

theorem State.errorNoted_locked (s : State) : ErrorNoted s s.locked 0x30 0 :=
  errorNoted_raise (s := s.updLock fun x => { x with lockout := true }) severity_lockout

theorem State.noted_locked (s : State) : Noted { s with lock := s.locked.lock } s.locked := by
  rw [State.locked_lock]
  exact noted_raise severity_lockout

/-- Settles O44: each write reaches its register, whose effect is one case of the key lock. -/
theorem keyLockout : Obligations.KeyLockout := by
  unfold Obligations.KeyLockout
  intro s who v hdev hreach
  rw [exec_keySetupWrite hdev hreach, exec_keyUnlockWrite hdev hreach]
  refine ⟨fun hset hv => ?firstKey, fun hrefused => by rw [if_pos hrefused],
    fun hlock => by rw [State.unlock_of_lockout who _ hlock], fun hlock hset hkey => ?rightKey,
    fun hlock hwrong => ⟨fun hfails => ?below, fun hfails => ?sixteenth⟩⟩
  case firstKey => rw [if_neg (not_or.2 ⟨Bool.eq_false_iff.1 hset, hv⟩)]
  case rightKey => rw [hkey, State.unlock_of_key who hlock hset]
  case below => rw [State.unlock_of_wrong who hlock hwrong (Nat.le_of_lt hfails), if_neg (Nat.ne_of_lt hfails), State.wrongKey]
  case sixteenth =>
    rw [State.unlock_of_wrong who hlock hwrong (Nat.le_of_eq hfails), if_pos hfails]
    have hnoted : ErrorNoted s (s.wrongKey who).locked 0x30 0 := by
      have := (s.wrongKey who).errorNoted_locked
      rwa [ErrorNoted, State.wrongKey_errQ] at this
    exact ⟨_, rfl, State.locked_lock _, hnoted, State.noted_locked _⟩

end Sys2Proof.Machine

end

/-! # Errors of a failed context (15 R473) -/

section

namespace Sys2Proof.Machine

/-! ## Records -/

/-- Writing a record changes the Recorder only. -/
theorem State.writeRecord_eq (s : State) (e : Err) (sev : Nat) (esc absorbed : Bool) (episode : Option W64) :
    s.writeRecord e sev esc absorbed episode = { s with evr := (s.writeRecord e sev esc absorbed episode).evr } := by
  unfold State.writeRecord
  split <;> rfl

/-- A record that is written stands in the window, or is counted while the Recorder is frozen (12 R405; 15 R480). -/
theorem recorded_writeRecord (s : State) (e : Err) (sev : Nat) (esc absorbed : Bool) (episode : Option W64) :
    Recorded s (s.writeRecord e sev esc absorbed episode) e sev esc absorbed := by
  refine ⟨fun hfrozen => ?counted, fun hfree => ?written⟩
  case counted => simp only [State.writeRecord, hfrozen, if_true, State.updEvr_evr]
  case written =>
    simp only [State.writeRecord, hfree, Bool.false_eq_true, if_false, State.updEvr_evr]
    exact ⟨trivial, _, mapFind_mapSet_self .., rfl, rfl, rfl, rfl, rfl, rfl, rfl, rfl, rfl, rfl, rfl, rfl, rfl⟩

/-! ## The head of the error queue -/

/-- The episode that begins now, with the number of the record that is written next. -/
def State.episodeOf (s : State) (e : Err) (took : W64) : Episode :=
  { cls := e.cls, unit := e.unit, start := s.hc, stop := s.hc + took, seq := s.evr.next }

/-- The Study has taken the head of the queue: its episode has begun, a lasting state counts as reported, and a sweep is due if
a class has overflowed (15 R474, R475). -/
def State.takeHead (s : State) (took : W64) (e : Err) (rest : List Err) : State :=
  { s with
    errQ := rest
    sweepDue := s.sweepDue || s.errOvf.any fun o => decide (0 < o.2.toNat)
    episodes := (s.episodes ++ [s.episodeOf e took]).drop ((s.episodes.length + 1) - 64)
    reported := if lasting e.cls then unitAdd s.reported (reportKey e.cls e.unit) else s.reported }

theorem State.takeHead_absorbs (s : State) (took : W64) (e : Err) (rest : List Err) :
    (s.takeHead took e rest).absorbs e = s.absorbs e := rfl

/-- With an absorbed error at the head of the queue the Study takes it and writes its record; it starts no action, at whatever
severity. -/
theorem exec_errorEpisode_of_absorbs {s : State} {e : Err} {rest : List Err} (took : W64) (hq : s.errQ = e :: rest)
    (hserved : QueueServed s) (habsorbs : s.absorbs e = true) :
    exec (.errorEpisode took) s = .next ((s.takeHead took e rest).writeRecord e (severity e.cls) false true) := by
  obtain ⟨hreset, hlatch, hidle⟩ := hserved
  change execErrorEpisode took s = _
  simp only [execErrorEpisode, hq]
  refine congrArg Host.Outcome.next ((if_neg ?notHeld).trans (if_pos ((s.takeHead_absorbs took e rest).trans habsorbs)))
  cases hlast : s.episodes.getLast? with
  | none => simp [hreset, hlatch]
  | some p => simp [hreset, hlatch, BitVec.not_lt.2 (hidle p hlast)]

theorem State.absorbs_of_failed {s : State} {e : Err} {c : CtxId} (hctx : e.ctx = some c) (hfailed : (s.ctx c).st = .failed) :
    s.absorbs e = true := by
  simp only [State.absorbs, hctx, hfailed, beq_self_eq_true]

/-- Settles O52: the Study takes the error and writes its record, and nothing else changes. -/
theorem absorbedErrors : Obligations.AbsorbedErrors := by
  unfold Obligations.AbsorbedErrors
  intro s took e rest c hq hserved hctx hfailed
  refine ⟨_, exec_errorEpisode_of_absorbs took hq hserved (State.absorbs_of_failed hctx hfailed),
    recorded_writeRecord (s.takeHead took e rest) .., ?_⟩
  rw [State.writeRecord_eq]
  rfl

end Sys2Proof.Machine

end
